-- ==== Sys2Proof/Word.lean ====
section
/-! DEFINITION. The word types of the ZH8 and the sizes of its parts (spec 00 R4, R5, R7, R8). -/

namespace Sys2Proof

/-- A 32-bit control-register word (R12). -/
abbrev W32 := BitVec 32
/-- One byte. -/
abbrev Byte := BitVec 8
/-- A 48-bit row count (R27). -/
abbrev Row := BitVec 48
/-- A 16-bit layer, operator or pass number (R159). -/
abbrev Id16 := BitVec 16

/-- A plot by its module-wide index 80 s + 8 t + p (R5). -/
abbrev PlotIx := Fin 640
/-- A strip by its module-wide index 10 s + t (R5). -/
abbrev StripIx := Fin 80
/-- A stack, with its field die and its base die (R4). -/
abbrev DieIx := Fin 8
/-- A Kufort port (R236). -/
abbrev KPort := Fin 8
/-- A DRAM package (R189). -/
abbrev PkgIx := Fin 24

/-- A half of the module: stacks 0-3 form half A, stacks 4-7 half B (R4). -/
inductive Half where
  | a | b
  deriving DecidableEq, Repr

/-- A host port: A on base die 0, B on base die 4 (R17). -/
inductive HostPort where
  | a | b
  deriving DecidableEq, Repr

/-- The other host port. -/
def HostPort.other : HostPort → HostPort
  | .a => .b
  | .b => .a

/-- The stack that holds a plot. -/
def dieOfPlot (p : PlotIx) : DieIx := ⟨p.val / 80, by omega⟩
/-- The strip that holds a plot. -/
def stripOfPlot (p : PlotIx) : StripIx := ⟨p.val / 8, by omega⟩
/-- The stack that holds a strip. -/
def dieOfStrip (i : StripIx) : DieIx := ⟨i.val / 10, by omega⟩
/-- The half that holds a stack. -/
def halfOfDie (d : DieIx) : Half := if d.val < 4 then .a else .b
/-- The base die that attaches a package (R189). -/
def dieOfPkg (p : PkgIx) : DieIx := ⟨p.val / 3, by omega⟩

/-- The order code (R2): it fixes the DRAM capacity. -/
inductive OrderCode where
  | m1152 | m576
  deriving DecidableEq, Repr

end Sys2Proof
end

