-- ==== Sys2Proof/Syntax.lean ====
section
/-! DEFINITION. The commands and events of the ZH8: one constructor for each row of spec/opcode_table.json, in the
table's order, with the operands that the row's rule names (a plot, a port, a reading, a written word).
A plan command names only its plot: the words of the command are those that the plot's sequencer
fetches from the plan image (R159, R161). -/

namespace Sys2Proof

/-- Who waits for the acknowledgement of a write at its home (R188). -/
inductive AckSrc where
  /-- a mover of a plot -/
  | mover (p : PlotIx) (m : Fin 2)
  /-- a host port (R417) -/
  | host (h : HostPort)
  /-- the receive pair of a source node and a channel (R247) -/
  | pair (node : BitVec 12) (ch : BitVec 8)
  deriving DecidableEq, Repr

/-- A unit of a plot whose access or fetch can be held (R172, R297). -/
inductive HeldUnit where
  | fetch | pass | stream | mover0 | mover1
  deriving DecidableEq, Repr

/-- One period's readings of the power controller (R335): input power in W, strip temperatures in 0.1 C. -/
structure PowerReadings where
  inputW : Nat
  strips : List (Nat × Int)
  deriving DecidableEq, Repr

/-- A PCIe configuration request (R404). -/
inductive CfgReq where
  | read (off : Nat)
  | write (off : Nat) (v : W32)
  deriving DecidableEq, Repr

/-- The commands and events of the module (spec/opcode_table.json). -/
inductive Instr where
  -- plan commands (R160)
  | nop (p : PlotIx)
  | pass (p : PlotIx)
  | stream (p : PlotIx)
  | dma (p : PlotIx)
  | wait (p : PlotIx)
  | signal (p : PlotIx)
  | fence (p : PlotIx)
  | check (p : PlotIx)
  | vote (p : PlotIx)
  | rclear (p : PlotIx)
  | rread (p : PlotIx)
  | rsave (p : PlotIx)
  | radd (p : PlotIx)
  | rcombine (p : PlotIx)
  | resumep (p : PlotIx)
  | resumes (p : PlotIx)
  | brflt (p : PlotIx)
  | jump (p : PlotIx)
  | endrow (p : PlotIx)
  | endplan (p : PlotIx)
  | mark (p : PlotIx)
  -- Harrow events
  | passEntry (p : PlotIx)
  | groupCommit (p : PlotIx)
  | tileWriteoutDone (p : PlotIx) (bank : Fin 2)
  | tileReductionDone (p : PlotIx)
  | passStop (p : PlotIx)
  | operandParityError (p : PlotIx) (g : Nat)
  | passReentry (p : PlotIx)
  | reductionParityError (p : PlotIx)
  | checkCompare (p : PlotIx)
  | heldAccessRelease (p : PlotIx) (u : HeldUnit)
  -- Drill events
  | streamStart (p : PlotIx)
  | streamEnd (p : PlotIx)
  | streamStop (p : PlotIx) (epos : Nat)
  | drillParityError (p : PlotIx) (epos : Nat)
  | tillingParityError (p : PlotIx)
  | tillingIntensityStep (p : PlotIx)
  -- Rake network, fallback, collective steps
  | combineDelivery (id : Fin 4096)
  | fallbackAllocation
  | send (id : Fin 4096)
  | recvadd (id : Fin 4096)
  | recvset (id : Fin 4096)
  -- movers
  | transferDone (p : PlotIx) (m : Fin 2)
  | trailingToken (p : PlotIx) (m : Fin 2)
  -- memory
  | homeAccess (p : PlotIx) (m : Fin 2) (wrongBytes : Nat)
  | writeAck (src : AckSrc)
  | ringTransfer (link : Fin 8) (ascending : Bool) (crcOk : Bool)
  | scrubRead (addr : Nat) (wrongBytes : Nat)
  | mr4Read (pkg : PkgIx) (demand : BitVec 2)
  | packageSensorReading (pkg : PkgIx) (tenths : Int)
  | refreshStepFall (pkg : PkgIx)
  | packageSensorTimeout (pkg : PkgIx)
  | layoutInitDone
  | sliceModeChangeDone (d : DieIx)
  -- tokens and watches
  | tokenArrival (i : Nat)
  | remoteTokenArrival (i : Nat)
  | announcedWriteAck
  | syncCycle (elapsed : Nat)
  | watchExpiry (d : DieIx) (slot : Nat)
  | earlyTokenExpiry (d : DieIx) (slot : Nat)
  | dumpWritten
  -- Kufort
  | enable (h : HostPort) (k : KPort) (on : Bool)
  | portTrainingStateDone (k : KPort)
  | portStateBoundExceeded (k : KPort)
  | codewordLockLost (k : KPort)
  | retraining (k : KPort)
  | portDeclaredDown (k : KPort)
  | flitSend (k : KPort)
  | flitReceive (k : KPort) (bytes : List Byte) (corrected : Bool) (uncorrectable : Bool)
  | replayRequest (k : KPort)
  | identityFlit (k : KPort)
  | identityAnswerTimeout (k : KPort)
  | downFlit (k : KPort)
  | dataWrite (k : KPort)
  | token (k : KPort)
  | collectiveStep (k : KPort)
  | openMsg (k : KPort)
  | grant (k : KPort)
  | ack (k : KPort)
  | refuse (k : KPort)
  | ackSend (node : BitVec 12) (ch : BitVec 8)
  | messageResend (node : BitVec 12) (ch : BitVec 8) (mseq : BitVec 24)
  | openResend (node : BitVec 12) (ch : BitVec 8)
  -- jobs
  | rowCompletion
  | stepUp
  | advance
  | haltToken
  | jobAbort
  | stepTimeout
  | sowingSlot (i : StripIx)
  -- surviving failure
  | buddyCopy
  | buddyCopyHeader
  | feedquery
  | feedreply
  | feedCheckTimeout
  | returndone
  | returnProgress
  -- errors and recorder
  | errorRecord (h : Half)
  | pendingError (h : Half)
  | moduleFatal
  | flushDone
  | flushPathError
  | blackBoxEraseStep
  -- clocks and power
  | powerControlPeriod (r : PowerReadings)
  | modelDeviationCheck
  | frequencyChangeStart (i : StripIx)
  | railSlewDone (d : DieIx)
  | stripRestart (i : StripIx)
  | supplyDroop (i : StripIx) (cycles : Nat)
  | coreRailLow (d : DieIx)
  | thermalTrip (i : StripIx) (tenths : Int)
  | envelopeReading (millivolts : List Nat)
  | envelopeInvalidTimeout
  | feedIdChange (v : BitVec 4)
  | pwrFailN (high : Bool)
  | supplyFailureThreshold
  | holdUpEnd
  | supplyRise
  -- start-up
  | perstBoth
  | perstOne (h : HostPort) (high : Bool)
  | moduleReset
  | startupStepDone
  | startupStepOverrun
  | halfArbitration (timeout : Bool)
  | thermTripRelease
  | watchdogExpiry (h : Half)
  | leadChange
  | flashOperationDone (ok : Bool)
  -- registers
  | registerWrite (h : HostPort) (off : Nat) (width : Nat) (v : BitVec 64)
  | stopreqHar (h : HostPort) (p : PlotIx)
  | stopreqDrl (h : HostPort) (p : PlotIx)
  | stop (h : HostPort) (p : PlotIx)
  | step (h : HostPort) (p : PlotIx)
  | run (h : HostPort) (p : PlotIx)
  | plotStopComplete (p : PlotIx)
  | start (h : HostPort)
  | abort (h : HostPort)
  | harFbresWrite (h : HostPort) (extra : BitVec 16)
  | apply (h : HostPort) (v : W32)
  | bstSlicemodeWrite (h : HostPort) (d : DieIx) (modes : BitVec 12)
  | qread (h : HostPort) (d : DieIx) (queue : BitVec 12)
  | qpush (h : HostPort) (d : DieIx) (queue : BitVec 12)
  | qpop (h : HostPort) (d : DieIx) (queue : BitVec 12)
  | qclear (h : HostPort) (d : DieIx) (queue : BitVec 12)
  | qrelease (h : HostPort) (d : DieIx) (queue : BitVec 12)
  | req (h : HostPort)
  | rearm (h : HostPort)
  | kufNodeWrite (h : HostPort) (node : BitVec 12)
  | restore (h : HostPort) (k : KPort)
  | haltnow (h : HostPort)
  | resume (h : HostPort)
  | haltat (h : HostPort)
  | haltnext (h : HostPort)
  | go (h : HostPort) (restore : Bool)
  | set (h : HostPort)
  | return_ (h : HostPort) (owner target : BitVec 12)
  | flush (h : HostPort)
  | clearhist (h : HostPort)
  | bberase (h : HostPort)
  | evrQcfgWrite (h : HostPort) (q : Fin 8) (v : W32)
  | flashImageProgram (h : HostPort)
  | calibrationWrite (h : HostPort)
  | calibrationRead (h : HostPort)
  | sbdRecovGo (h : HostPort) (program : Bool)
  | reset (h : HostPort)
  | tokenWrite (h : HostPort) (off : Nat) (width : Nat) (v : BitVec 64)
  | bar2Read (h : HostPort) (off : Nat) (len : Nat)
  | bar2Write (h : HostPort) (off : Nat) (data : List Byte)
  | memErrlogRead (h : HostPort) (d : DieIx)
  | pciBar2errRead (h : HostPort) (blk : HostPort)
  | msixMessage (h : HostPort) (v : Fin 4)
  | cntctlClear (h : HostPort) (v : W32)
  | fire (h : HostPort) (spread : Bool)
  | arm (h : HostPort) (d : DieIx) (v : W32)
  | reg (h : HostPort) (d : DieIx) (n : Fin 4) (count : BitVec 7) (queue : BitVec 12)
  | wdraw (h : HostPort) (d : DieIx) (n : Fin 4)
  | dbgPsdataRead (h : HostPort) (p : PlotIx)
  | dbgPsdataWrite (h : HostPort) (p : PlotIx) (v : W32)
  -- management
  | getHealth (h : HostPort) (seq : Byte)
  | readBb (h : HostPort) (seq : Byte) (off : W32)
  | resetModule (h : HostPort) (seq : Byte)
  | fuseKey (h : HostPort) (seq : Byte) (slot : Byte) (digest : List Byte)
  | disableKey (h : HostPort) (seq : Byte) (slot : Byte)
  | setEndpointId (h : HostPort) (op : BitVec 2) (eid : Byte)
  | getEndpointId (h : HostPort)
  | getEndpointUuid (h : HostPort)
  | getMctpVersionSupport (h : HostPort) (msgType : Byte)
  | getMessageTypeSupport (h : HostPort)
  | getVendorMessageSupport (h : HostPort) (selector : Byte)
  | unsupportedRequest (h : HostPort) (spdm : Bool) (code : Byte)
  | getVersion (h : HostPort)
  | getCapabilities (h : HostPort) (request : List Byte)
  | negotiateAlgorithms (h : HostPort) (request : List Byte)
  | getDigests (h : HostPort)
  | getCertificate (h : HostPort) (slot : Byte) (offset length : BitVec 16)
  | challenge (h : HostPort) (slot : Byte) (hashType : Byte) (nonce : List Byte)
  | getMeasurements (h : HostPort) (signed : Bool) (operation : Byte) (nonce : List Byte) (slot : Byte)
  -- sideband
  | setdasa (address : BitVec 7)
  | sidebandPointerWrite (data : List Byte)
  | sidebandWordRead
  | sbSclStuckTimeout
  -- reads, configuration and links
  | registerRead (h : HostPort) (off : Nat) (width : Nat)
  | configurationRequest (h : HostPort) (r : CfgReq)
  | linkUp (h : HostPort) (speed : BitVec 4) (width : BitVec 4) (flit : Bool)
  | surpriseLinkDown (h : HostPort)
  deriving DecidableEq, Repr

end Sys2Proof
end

