-- ==== Sys2Proof/Config.lean ====
section
/-! DEFINITION. The free values: what the spec leaves open. Each is a constant without a body, so nothing can be proved
of its value (log entries 1 and 7). -/

namespace Sys2Proof.Config

/-- A value that the spec leaves open, as a number: use `n` of the model's counter. -/
opaque freeNat : Nat → Nat

/-- The index of the cache set that holds a granule (R198 states no set mapping). -/
opaque cacheSet : Nat → Nat

/-- The signature that the device's private key gives over a SHA-384 digest (R424). The key never leaves the service
controllers, and the spec states no value. -/
opaque deviceSign : BitVec 384 → Nat → BitVec 768

/-- The bytes of the identity chain of certificate slot 0 (R424). -/
opaque identityChain : List Byte

/-- The MCTP endpoint UUID (R420 states no value). -/
opaque endpointUuid : BitVec 128

/-- SHA-384 of the service controllers' boot ROM (R425). -/
opaque bootRomDigest : BitVec 384

/-- The bytes that measurement 5 digests: an order code's bit with each key slot's enable and digest (R425 states no layout). -/
opaque fuseBytes : Nat → List (Bool × BitVec 384) → List Byte

/-- A measurement whose bytes the spec does not state: 2 before an image leads, 3 before the configuration block is loaded, 4
before the calibration table is loaded or when it is not used (R425). -/
opaque unstatedDigest : Nat → BitVec 384

/-- 2^16 times 2^(x / D): the leakage factor at x tenths of a degree above 85 C with a doubling interval of D tenths (R342).
Its rounding is not stated. -/
opaque leakFactor : Int → Nat → Nat

end Sys2Proof.Config
end

