-- ==== Sys2Proof/Machine/Types.lean ====
section
/-! DEFINITION. The plain data types that the state is made of: positions, decoded descriptors, records and tables,
each with the fields of its table in the spec. -/

namespace Sys2Proof.Machine

/-- A command's position and tags (R6, R159). -/
structure Pos where
  row : Row
  layer : Id16
  oper : Id16
  passno : Id16
  deriving DecidableEq, Repr

/-- The position of an error that no command raised: layer and operator 0xFFFF (R366). -/
def Pos.none (row : Row) : Pos := { row := row, layer := 0xFFFF#16, oper := 0xFFFF#16, passno := 0#16 }

/-! ### Harrow (chapter 04) -/

/-- A decoded Harrow pass descriptor (R78). -/
structure HarDesc where
  dkind : BitVec 4
  arrays : BitVec 4
  cfmt : BitVec 4
  rfmt : BitVec 4
  numctl : BitVec 16
  bubble : BitVec 8
  accinit : BitVec 2
  accout : BitVec 2
  bank : Fin 2
  seq : Bool
  axis : BitVec 2
  k : Nat
  rowaddr : Nat
  coladdr : Vector Nat 4
  rowstride : Nat
  colstride : Nat
  scaleoff : Nat
  accsrc : Nat
  accdst : Nat
  outstride : Nat
  /-- every reserved field of the descriptor is 0 -/
  reservedZero : Bool
  deriving DecidableEq, Repr

/-- A pass that has been issued (R78) and has not ended. -/
structure ActivePass where
  addr : Nat
  desc : HarDesc
  pos : Pos
  /-- the K group at which the pass entered array row 0: 0, or that of a spill record (R91) -/
  start : Nat
  /-- the next K group to commit (R74) -/
  next : Nat
  /-- a group whose results were discarded by a parity error and is re-entered after the commits before it (R88) -/
  redo : Option Nat
  /-- the group that has been re-entered once (R88); for a tile reduction, `some 0` after its rerun (R89) -/
  retried : Option Nat
  /-- the reference pass of a check (R107) -/
  isRef : Bool
  /-- the pass continues from a spill record: its bank already holds its tile (R91) -/
  resumed : Bool
  deriving DecidableEq, Repr

/-- A tile write-out in progress (R75). -/
structure WriteOut where
  bank : Fin 2
  arrays : BitVec 4
  dst : Nat
  isRef : Bool
  deriving DecidableEq, Repr

/-! ### Drill and Rake (chapter 06) -/

/-- A decoded Drill stream descriptor (R119). -/
structure DrlDesc where
  op : BitVec 8
  rakeop : BitVec 4
  rakerow : Bool
  rakeclr : Bool
  nostore : Bool
  seq : Bool
  numctl : BitVec 16
  /-- format codes of streams A to E -/
  fmt : Vector (BitVec 4) 5
  count : Nat
  rowlen : Nat
  addr : Vector Nat 5
  pitch : Vector Nat 5
  immlo : W32
  immhi : W32
  flagwr : Bool
  flagaddr : Nat
  rakedst : Nat
  reservedZero : Bool
  deriving DecidableEq, Repr

/-- A stream that has been issued and has not ended. -/
structure ActiveStream where
  addr : Nat
  desc : DrlDesc
  pos : Pos
  /-- element at which the current stop unit begins -/
  epos : Nat
  /-- stream flags so far: [7:0] as PLT_FPFLAGS, [8] IDXERR (R130) -/
  sflags : BitVec 9
  firstInv : W32
  /-- the first stop unit has begun -/
  started : Bool
  /-- the accumulator of a sequential sum, as stored in the computing format (R139) -/
  acc : BitVec 64
  /-- the unit that has been read again once (R147) -/
  retried : Option Nat
  deriving DecidableEq, Repr

/-- The operation kind of a Rake register (R134, R136, R140). -/
inductive RakeKind where
  | empty | additive | max | min | or
  deriving DecidableEq, Repr

/-- A Rake register with its status (R134). -/
structure RakeReg where
  value : BitVec 640
  nan : Bool
  pinf : Bool
  ninf : Bool
  negzero : Bool
  kind : RakeKind
  terms : BitVec 64
  /-- a finite term has entered a register of MAX or MIN kind -/
  fin : Bool
  deriving DecidableEq, Repr

/-- The cleared register (R134). -/
def RakeReg.cleared : RakeReg :=
  { value := 0, nan := false, pinf := false, ninf := false, negzero := false, kind := .empty, terms := 0, fin := false }

/-! ### Movers (chapter 07) -/

/-- A decoded DMA descriptor (R165). -/
structure DmaDesc where
  kind : BitVec 4
  srcsp : BitVec 2
  dstsp : BitVec 2
  amode : BitVec 2
  sampled : Bool
  token : Bool
  layout : Bool
  numctl : BitVec 16
  sfmt : BitVec 4
  dfmt : BitVec 4
  fltidx : Nat
  rowlen : Nat
  nrows : Nat
  cpassno : Id16
  src : Nat
  dst : Nat
  srcpitch : Nat
  dstpitch : Nat
  rowstep : Nat
  rowwrap : Nat
  tokqueue : BitVec 15
  node : BitVec 12
  channel : BitVec 8
  peer : Nat
  tokpay : W32
  scale : Nat
  tensorid : W32
  elembase : W32
  reservedZero : Bool
  deriving DecidableEq, Repr

/-- One access of a transfer to device memory: at most one granule (R190, R252). -/
structure Access where
  addr : Nat
  len : Nat
  /-- the bytes of a write; `none` for a read -/
  data : Option (List Byte)
  deriving DecidableEq, Repr

/-- How far a transfer has come. -/
inductive XferPhase where
  /-- accepted, not begun -/
  | queued
  /-- its accesses are being made -/
  | active
  /-- its trailing token is due: every byte of a local transfer is written and acknowledged, every message of a remote
  one is with the transport -/
  | tokenDue
  deriving DecidableEq, Repr

/-- A DMA descriptor that a mover has accepted (R166). -/
structure Transfer where
  /-- the order in which the plot's movers accepted it (R172) -/
  seqno : Nat
  addr : Nat
  desc : DmaDesc
  pos : Pos
  phase : XferPhase
  /-- false when SAMPLED suppresses it (R105, R165) -/
  performed : Bool
  /-- the device address of its device end after AMODE, and of its scale plane (R167) -/
  base : Nat
  scaleBase : Nat
  /-- accesses not yet at their home -/
  todo : List Access
  /-- bytes read so far, by device address -/
  got : List (Nat × Byte)
  /-- addresses of writes performed at their home and not yet acknowledged, oldest first -/
  unacked : List Nat
  /-- messages of a remote transfer not yet acknowledged, as MSEQ values -/
  msgs : List (BitVec 24)
  /-- TSEQ of the trailing token of a remote transfer, and the bytes that the transfer writes there (R170, R221) -/
  tseq : BitVec 16
  sent : Nat
  deriving DecidableEq, Repr

/-! ### Plan sequencer (chapter 07) -/

/-- The sequencer STATE of R183. -/
inductive SeqState where
  | idle | prologue | body | epilogue | atEndrow | stopped | ended | failed
  deriving DecidableEq, Repr

/-- A sampled-tile check in progress (R107). -/
structure CheckRun where
  array : Fin 4
  fltidx : Nat
  layer : Id16
  outtile : Nat
  reftile : Nat
  threshold : BitVec 16
  /-- the reference pass while it has not entered array row 0 -/
  ref : Option ActivePass
  /-- the reference tile has been written out -/
  refDone : Bool
  deriving DecidableEq, Repr

/-- What the command at SEQPC has begun and waits for (R160, R161). -/
inductive SeqBusy where
  /-- no command is in progress -/
  | ready
  /-- a PASS, or a check's reference pass, that has not entered array row 0 -/
  | passIssue (a : ActivePass)
  /-- a STREAM whose first stop unit has not begun -/
  | streamIssue (a : ActiveStream)
  /-- a DMA command with descriptors still to hand over -/
  | dmaHand (m : Fin 2) (addr : Nat) (left : Nat)
  /-- a WAIT whose watch is registered -/
  | watching
  /-- a FENCE over the named units -/
  | fencing (mask : BitVec 5)
  /-- an RCOMBINE or (4,095) a VOTE that waits for its combination -/
  | collective (id : Fin 4096)
  /-- a sampled check -/
  | checking (c : CheckRun)
  deriving DecidableEq, Repr

/-- The plan sequencer of a plot (R183). -/
structure Seq where
  state : SeqState
  waiting : Bool
  pc : W32
  passno : Id16
  row : Row
  layer : Id16
  oper : Id16
  busy : SeqBusy
  /-- the part the plot was in when it stopped -/
  part : SeqState
  /-- PROLOGUE, BODY and EPILOGUE of the plot's entry in the plot table (R158) -/
  prologue : Nat
  body : Nat
  epilogue : Nat
  /-- REASON of a stop that has been registered and is not complete (R178) -/
  stopping : Option (BitVec 4)
  /-- stopped by DBG_PCTL.STOP or a STOPREQ (R440) -/
  byStop : Bool
  /-- DBG_PCTL.STEP runs one more command (R440) -/
  stepping : Bool
  /-- the plot has reported its row complete (R177) -/
  rowDone : Bool
  /-- a vote command has been executed in this row (R111) -/
  voted : Bool
  /-- STATE values that BRFLT has read in this row (R163) -/
  fltRead : List (Nat × BitVec 2)
  /-- strips hold their first command after a sowing barrier until their slot (R341) -/
  sowing : Bool
  deriving DecidableEq, Repr

/-- One event counter of a plot with its selection and tag (R428, R448). -/
structure Counter where
  sel : W32
  tag : W32
  value : BitVec 48
  deriving DecidableEq, Repr

/-! ### Tokens and watches (chapter 09) -/

/-- A token record (R211). -/
structure TokenRec where
  payload : W32
  payloadC : W32
  bytes : BitVec 40
  tseq : BitVec 16
  kind : BitVec 3
  src : BitVec 12
  channel : BitVec 8
  queue : BitVec 15
  queueC : W32
  deriving DecidableEq, Repr

/-- The kind of a watch (R229). -/
inductive WatchKind where
  | wait | rcombine | vote | debugger
  deriving DecidableEq, Repr

/-- A registered watch (R215, R220, R442). -/
structure Watch where
  slot : Nat
  kind : WatchKind
  plot : PlotIx
  dbg : Fin 4
  object : BitVec 12
  n : Nat
  consume : Nat
  /-- sync cycles since registration or the last restart -/
  elapsed : Nat
  /-- T in microseconds -/
  timeout : Nat
  pos : Pos
  deriving DecidableEq, Repr

/-- A tally entry, with its early token if it holds one (R222). -/
structure Tally where
  slot : Nat
  node : BitVec 12
  channel : BitVec 8
  tseq : BitVec 16
  tally : Nat
  tok : Option TokenRec
  /-- sync cycles since its token arrived -/
  age : Nat
  deriving DecidableEq, Repr

/-- An inbound entry (R223). -/
structure Inbound where
  slot : Nat
  node : BitVec 12
  channel : BitVec 8
  next : BitVec 16
  dups : BitVec 16
  deriving DecidableEq, Repr

/-- An announced write that its home has acknowledged and whose bytes are to be tallied (R222). -/
structure TallyAdd where
  die : DieIx
  node : BitVec 12
  channel : BitVec 8
  tseq : BitVec 16
  bytes : Nat
  deriving DecidableEq, Repr

/-- The error that an expiry still owes once its dump is written (R226). -/
inductive OwedErr where
  | watch (d : DieIx) (slot : Nat)
  | early (d : DieIx) (slot : Nat)
  /-- the step engine's wait (R288) -/
  | step
  deriving DecidableEq, Repr

/-- A hand operation of SYN_QCMD (R230). -/
inductive HandOp where
  | read | push | pop | clear | release
  deriving DecidableEq, Repr

/-- A token waiting in a step queue or the buddy queue, with its source node (R272, R315). -/
structure EngineTok where
  queue : BitVec 15
  payload : W32
  src : BitVec 12
  deriving DecidableEq, Repr

/-! ### Kufort (chapter 10) -/

/-- Port training states (R238). -/
inductive PortState where
  | down | signal | equalise | align | ident | active | failed | mismatch
  deriving DecidableEq, Repr

/-- A message kept until it is acknowledged (R247). -/
structure SentMsg where
  mseq : BitVec 24
  bytes : List Byte
  sends : Nat
  /-- the port by which it last left, `none` before its first sending -/
  port : Option KPort
  deriving DecidableEq, Repr

/-- A pair in the send table (R246). -/
structure TxPair where
  node : BitVec 12
  channel : BitVec 8
  granted : Bool
  refused : Bool
  mseq : BitVec 24
  acked : BitVec 24
  buffer : List SentMsg
  /-- the OPEN has been sent this many times -/
  opens : Nat
  deriving DecidableEq, Repr

/-- A received data write or token awaiting application (R247). -/
structure RxMsg where
  mseq : BitVec 24
  applied : Bool
  /-- bytes to tally when its home acknowledges it (R222) -/
  ann : Option TallyAdd
  /-- the address that a data write has written; none for a token -/
  wrote : Option Nat
  deriving DecidableEq, Repr

/-- A pair in the receive table (R246). -/
structure RxPair where
  node : BitVec 12
  channel : BitVec 8
  acked : BitVec 24
  /-- messages at or above ACKED that have been received -/
  got : List RxMsg
  /-- applications since the last ACK -/
  since : Nat
  deriving DecidableEq, Repr

/-- One step of a collective schedule (R262). -/
structure CollStep where
  op : BitVec 4
  peerstep : BitVec 8
  node : BitVec 12
  deriving DecidableEq, Repr

/-- A collective image held in the inbox (R263). -/
structure InboxImage where
  collid : BitVec 12
  row : Row
  step : BitVec 8
  node : BitVec 12
  image : List Byte
  deriving DecidableEq, Repr

/-- A port entry of the route table (R257). -/
structure RoutePort where
  used : Bool
  nbrPort : BitVec 3
  nbrNode : BitVec 12
  deriving DecidableEq, Repr

/-- A destination entry of the route table with the port in use (R257, R260). -/
structure RouteDest where
  node : Nat
  primary : KPort
  altValid : Bool
  alt : KPort
  useAlt : Bool
  deriving DecidableEq, Repr

/-- The route table that the plan runs with (R257). -/
structure RouteTable where
  node : BitVec 12
  maxHops : BitVec 6
  ports : Vector RoutePort 8
  dests : List RouteDest
  colls : List (Nat × List CollStep)
  deriving DecidableEq, Repr

/-- A combination that its participants have joined (R142), with its cross-module schedule (R262). -/
structure Collective where
  id : Fin 4096
  count : Nat
  members : List PlotIx
  images : List RakeReg
  /-- the combined register once every participant has joined -/
  reg : Option RakeReg
  /-- the schedule step to take next -/
  step : Nat
  deriving DecidableEq, Repr

/-- One Kufort port with its link layer (R238, R241-R244, R266). -/
structure KufPort where
  enable : Bool
  state : PortState
  altuse : Bool
  nbrPort : BitVec 3
  nbrNode : BitVec 12
  corr : W32
  uncorr : W32
  crcfail : BitVec 16
  replays : BitVec 16
  retrains : BitVec 16
  /-- a first training (from SIGNAL) rather than a retraining -/
  first : Bool
  /-- retrainings in a row that have failed -/
  fails : Nat
  /-- the port must leave ACTIVE (R240, R244, R256) -/
  retrainDue : Bool
  /-- FSEQ of the next message flit -/
  fseq : BitVec 12
  /-- FSEQ expected from the other side -/
  expect : BitVec 12
  /-- flits kept for replay, oldest first (R243) -/
  replay : List (BitVec 12 × List Byte)
  /-- flits of the replay buffer still to be sent again -/
  resend : List (BitVec 12 × List Byte)
  /-- FSEQ of the last replay request and how often it was named in a row -/
  lastReq : Option (BitVec 12 × Nat)
  /-- a replay request is to be sent -/
  sendReq : Bool
  /-- identity flits to be sent, each with its REQ -/
  sendIdent : List Bool
  /-- a DOWN flit is to be sent -/
  sendDown : Bool
  /-- a request with REQ = 1 has not been answered -/
  identWait : Bool
  /-- an identity received since START has passed (R240) -/
  identOk : Bool
  /-- credits held for each class -/
  credit : Vector Nat 3
  /-- credits to give back for each class -/
  giveBack : Vector Nat 3
  /-- messages to send, class by class, oldest first -/
  txq : Vector (List (List Byte)) 3
  /-- bytes of the message being sent, class by class -/
  txrest : Vector (List Byte) 3
  /-- bytes of messages received in order, class by class -/
  rx : Vector (List Byte) 3
  /-- message bytes of each buffered flit that no message taken has covered, class by class, oldest flit first -/
  rxFlits : Vector (List Nat) 3
  /-- received flits of types 2, 3 and 4, oldest first -/
  ctrl : List (List Byte)
  /-- the flit sent last (an output) -/
  lane : List Byte
  deriving DecidableEq, Repr

/-! ### Errors and the recorder (chapter 15) -/

/-- Severities (R358). -/
inductive Severity where
  | notice | recoverable | jobFatal | moduleFatal
  deriving DecidableEq, Repr

/-- A registered error: what its record will hold (R366, R464). -/
structure ErrRep where
  code : BitVec 16
  sev : Severity
  source : BitVec 4
  pos : Pos
  plot : Option PlotIx
  object : BitVec 64
  detail : Vector W32 6
  /-- NEED that its path sets (R307); 0 for none -/
  need : BitVec 4
  deriving DecidableEq, Repr

/-- An event record (R366). -/
structure EvRec where
  rep : ErrRep
  preempted : Bool
  rseq : W32
  repeats : BitVec 16
  last : Row
  deriving DecidableEq, Repr

/-- A histogram slot in use (R370). -/
structure Hist where
  quant : Fin 8
  mode : BitVec 2
  layer : Id16
  oper : Id16
  first : Row
  last : Row
  min : W32
  max : W32
  minrow : Row
  maxrow : Row
  count : W32
  bins : Vector W32 16
  deriving DecidableEq, Repr

/-- An error in handling (R360). -/
structure Handling where
  code : BitVec 16
  sev : Severity
  /-- RSEQ of its record in this half, `none` when the record was dropped -/
  rseq : Option W32
  /-- the flush it waits for is the one that follows the one in progress (R371) -/
  follow : Bool
  deriving DecidableEq, Repr

/-- A change to a recorder buffer that waits for a flush (R371). -/
inductive Staged where
  | record (h : Half) (r : EvRec)
  | mark (h : Half) (rseq : W32)
  | again (h : Half) (rseq : W32) (row : Row)
  deriving DecidableEq, Repr

/-- The recorder buffer of one half, with the errors that its service controller handles (R361, R365). -/
structure RecHalf where
  hist : Vector (Option Hist) 64
  /-- event records by ring slot: a record that overwrites a notice takes its slot (R368) -/
  ring : List EvRec
  rseq : W32
  /-- registered errors that have not been taken up -/
  registered : List ErrRep
  handling : Option Handling
  pending : List ErrRep
  deriving DecidableEq, Repr

/-- What started a flush (R373). -/
inductive FlushTrigger where
  | error | fallow | write
  deriving DecidableEq, Repr

/-- A flush in progress: its snapshot (R371). -/
structure Flush where
  trigger : FlushTrigger
  tsev : Severity
  tcode : BitVec 16
  bufA : RecHalf
  bufB : RecHalf
  row : Row
  lost : W32
  deriving DecidableEq, Repr

/-- Steps of a black-box erase (R377). -/
inductive EraseStep where
  | waitFlush | headers | superblock | slots
  deriving DecidableEq, Repr

/-! ### Host ports (chapter 17) -/

/-- A request of a host port that waits: for memory that is being initialised or changes its mode, or behind such a write
(R414). -/
inductive HeldReq where
  | regWrite (off : Nat) (width : Nat) (v : BitVec 64)
  | regRead (off : Nat) (width : Nat)
  | write (off : Nat) (data : List Byte)
  | read (off : Nat) (len : Nat)
  /-- a write whose port was reset after its receipt, at its device address -/
  | store (a : Nat) (data : List Byte)
  deriving DecidableEq, Repr

/-! ### Debug (chapter 18) -/

/-- A trace record (R432). -/
structure TraceRec where
  kind : BitVec 5
  trig : Bool
  plot : BitVec 10
  oper : Id16
  layer : Id16
  passno : Id16
  row : Row
  ts : BitVec 40
  data0 : W32
  data1 : W32
  tseq : W32
  deriving DecidableEq, Repr

/-- Trace capture state (R447). -/
inductive TraceState where
  | off | armed | triggered | ended
  deriving DecidableEq, Repr

/-- The outcome of a debugger watch (R447). -/
inductive DbgOutcome where
  | none | released | timedOut | withdrawn | refused
  deriving DecidableEq, Repr

end Sys2Proof.Machine
end

