-- ==== Sys2Proof/Machine/State.lean ====
section
/-! DEFINITION. The state of the ZH8 module as plain data, its reset value, and the ways a step can stop.
Each field names the rule of spec/ that gives it; values that the spec does not state for reset carry the number of
their log entry (notes/assumptions). -/

namespace Sys2Proof.Machine

/-! ### A plot -/

/-- One of the two accumulator banks of a Harrow array: element (i, j) at index 32 i + j (R69). -/
abbrev Tile := Vector W32 1024

/-- The state of one plot (R20). -/
structure Plot where
  /-- PLT_NUMCTL (R39) -/
  numctl : BitVec 16
  /-- PLT_FPFLAGS [7:0] (R47) -/
  fpflags : BitVec 8
  /-- plot store: bytes that differ from 0 (R184) -/
  store : List Host.Cell
  /-- accumulator banks: bank 2 a + b is bank b of array a (R69) -/
  banks : Vector Tile 8
  /-- HAR_STATUS.KEPT (R93) -/
  kept : BitVec 8
  /-- passes in the array rows, oldest first (R72) -/
  passes : List ActivePass
  /-- tile write-outs in progress (R75) -/
  writeouts : List WriteOut
  /-- HAR_STATUS.SPILLED, DRL_STATUS.SPILLED (R93, R151) -/
  harSpilled : Bool
  drlSpilled : Bool
  /-- HAR_STATUS.STOPPED, DRL_STATUS.STOPPED -/
  harStopped : Bool
  drlStopped : Bool
  /-- HAR_PARRETRY (R94) -/
  harParretry : BitVec 16
  /-- HAR_CTL.STOPREQ, DRL_CTL.STOPREQ (R95, R153) -/
  harStopreq : Bool
  drlStopreq : Bool
  /-- HAR_SPILLBASE, DRL_SPILLBASE (R96, R154) -/
  harSpillbase : BitVec 21
  drlSpillbase : BitVec 21
  /-- a stop-record base written during a stop, which takes effect after it (R154) -/
  drlSpillnext : Option (BitVec 21)
  /-- HAR_CHKLAST, HAR_CHKCNT (R109) -/
  chklast : W32
  chkcnt : W32
  /-- the fail vector (R108) -/
  failvec : BitVec 512
  /-- the stream being run (R118) -/
  stream : Option ActiveStream
  /-- the Rake register (R134) and whether it is held (R143) -/
  rake : RakeReg
  rakeHeld : Bool
  /-- DRL_SFLAGS, DRL_FIRSTINV, DRL_PARRETRY, DRL_TILLPAR (R152) -/
  sflags : BitVec 9
  firstinv : W32
  drlParretry : BitVec 16
  drlTillpar : BitVec 16
  /-- tilling-load intensity in sixteenths (R340) -/
  tilling : Nat
  /-- the two movers: accepted descriptors, oldest first (R166) -/
  movers : Vector (List Transfer) 2
  /-- number of the next descriptor that a mover accepts -/
  nextXfer : Nat
  /-- accesses and fetches that are held (R172, R297) -/
  held : List HeldUnit
  /-- the plan sequencer (R183) -/
  seq : Seq
  /-- PLT_WAITPAY, PLT_WAITINFO (R235) -/
  waitpay : W32
  waitinfo : W32
  /-- DBG_PSADDR (R448) -/
  psaddr : BitVec 21
  /-- counters 0-7 (R428) -/
  counters : Vector Counter 8
  deriving DecidableEq, Repr

/-! ### Sync units -/

/-- The sync unit of a field die (R208-R234). -/
structure SyncDie where
  /-- queues 0-4,095: payloads, oldest first (R208) -/
  queues : Vector (List W32) 4096
  watches : List Watch
  /-- registrations and withdrawals that the next sync cycle takes (R217) -/
  regs : List Watch
  withdraws : List PlotIx
  /-- debugger withdrawals that the next sync cycle takes (R442) -/
  dbgWithdraws : List (Fin 4)
  /-- tokens that the next sync cycle enters (R217) -/
  inbox : List TokenRec
  tally : List Tally
  inbound : List Inbound
  /-- SYN_QCMD.OP and QUEUE, SYN_QDATA (R234) -/
  qop : BitVec 4
  qqueue : BitVec 12
  qdata : W32
  /-- SYN_QRES.BUSY, RESULT, EARLY, COUNT; SYN_QREAD -/
  qbusy : Bool
  qresult : BitVec 3
  qearly : BitVec 8
  qcount : BitVec 7
  qread : W32
  /-- SYN_DUPCNT, SYN_OVFLOG -/
  dupcnt : W32
  ovfKind : BitVec 3
  ovfQueue : BitVec 12
  deriving DecidableEq, Repr

/-- What a dump holds: the sync units in the cycle of the freeze, and the header's items (R228, R229). -/
structure Frozen where
  units : Vector SyncDie 8
  row : Row
  node : BitVec 12
  trigger : BitVec 3
  object : BitVec 15
  waiter : Option PlotIx
  deriving DecidableEq, Repr

/-- The trace unit of a field die (R432-R437, R447). -/
structure TraceDie where
  en : Bool
  arm : Bool
  mode : BitVec 2
  pos : BitVec 4
  spill : Bool
  slice : BitVec 4
  kinds : W32
  src : BitVec 4
  trigval : W32
  state : TraceState
  wrapped : Bool
  trigvalid : Bool
  /-- next ring slot -/
  wridx : Nat
  /-- records still to capture after the trigger under CENTRE (R434) -/
  left : Nat
  full : BitVec 16
  throttled : BitVec 16
  page : BitVec 5
  tseq : W32
  /-- records written in the current microsecond, and those dropped since the last record (R437) -/
  rate : Nat
  dropped : Nat
  /-- ring records by slot, and the trigger record (R432) -/
  ring : List (Nat × TraceRec)
  trigrec : Option TraceRec
  deriving DecidableEq, Repr

/-- A debugger watch register (R447). -/
structure DbgWatch where
  reg : Bool
  n : BitVec 7
  queue : BitVec 12
  outcome : DbgOutcome
  count : BitVec 7
  deriving DecidableEq, Repr

/-! ### Memory -/

/-- A dirty line of the memory-side cache with the DRAM data under it (R198, R203). -/
structure CacheLine where
  granule : Nat
  dirty : Bool
  under : List Byte
  deriving DecidableEq, Repr

/-- The memory registers of a base die (R207). -/
structure BaseDie where
  cecnt : W32
  uecnt : BitVec 16
  decnt : BitVec 16
  /-- MEM_ERRLOG: CLASS, SOURCE, CHANNEL and the address; CLASS 0 when none is held -/
  errClass : BitVec 2
  errSource : BitVec 3
  errChannel : BitVec 11
  errAddr : BitVec 48
  /-- an error is held until ADDRLO is read -/
  errHeld : Bool
  scrubq : W32
  slicemode : BitVec 12
  /-- modes that a change in progress leads to (R199) -/
  slicenext : Option (BitVec 12)
  /-- the memory-side cache, most recently used first (R198) -/
  cache : List CacheLine
  deriving DecidableEq, Repr

/-- One DRAM package's sensor and refresh state (R200, R201). -/
structure Package where
  /-- last valid reading in 0.1 C -/
  reading : Option Int
  /-- the sensor has timed out and counts as above 95 C -/
  invalid : Bool
  /-- the module's own step: 0 1x, 1 2x, 2 4x -/
  step : BitVec 2
  /-- the step that MR4 demands: 0 1x, 1 2x, 2 4x, 3 higher -/
  demand : BitVec 2
  deriving DecidableEq, Repr

/-- A memory layout: the word of MEM_LAYOUT, MEM_RGN0-15 and the masks (R196, R197). -/
structure Layout where
  masks : Bool
  mode : Bool
  guardu : Nat
  rgn : Vector W32 16
  hash : Vector (BitVec 25) 6
  deriving DecidableEq, Repr

/-- Memory, module-wide. -/
structure Mem where
  /-- MEM_LAYOUT, MEM_RGN, MEM_HASHMASK as registers (R206) -/
  regs : Layout
  /-- the layout in force (R197) -/
  inForce : Layout
  layState : BitVec 4
  layReason : BitVec 4
  scrubPeriod : BitVec 8
  /-- device memory: bytes that differ from 0, by device address (R185) -/
  cells : List Host.Cell
  /-- stored errors: a 64 B block or an 8 B base-store word by its address, with its wrong bytes or bits (R203) -/
  bad : List (Nat × Nat)
  dies : Vector BaseDie 8
  pkgs : Vector Package 24
  /-- consecutive CRC failures of ring link l: 2 l descending, 2 l + 1 ascending (R187) -/
  ringFails : Vector Nat 16
  /-- writes of a host port and announced Kufort writes that await their acknowledgement (R188) -/
  ackA : Nat
  ackB : Nat
  deriving DecidableEq, Repr

/-! ### The plan and the job -/

/-- The plan header in force (R157). -/
structure PlanHdr where
  planid : BitVec 64
  modules : Nat
  node : BitVec 12
  rowfirst : Row
  rowlast : Row
  flt : Nat
  route : Nat
  buddyint : Nat
  stepqueue : BitVec 15
  deriving DecidableEq, Repr

/-- PLT_PLANSTAT.STATE (R182). -/
inductive PlanState where
  | idle | checking | running | halted | ended | failed
  deriving DecidableEq, Repr

/-- PLT_STEPSTAT.HALT (R292). -/
inductive HaltState where
  | none | boundary | now | aborted
  deriving DecidableEq, Repr

/-- The module-wide plan, job and step-engine state (chapters 07, 11). -/
structure Job where
  /-- PLT_PLANBASE (R180) -/
  planbase : BitVec 48
  state : PlanState
  loaderr : BitVec 4
  hdr : Option PlanHdr
  /-- plots whose entry has ACTIVE = 1 and that have not executed ENDPLAN -/
  active : List PlotIx
  ended : List PlotIx
  /-- PLT_JOBROW (R293) -/
  row : Row
  /-- PLT_JOBCFG (R290) -/
  waitslow : Bool
  steptous : BitVec 26
  /-- PLT_JOBCFG as the current round took it: a write takes effect from the next round (R290) -/
  slowNow : Bool
  tousNow : BitVec 26
  /-- PLT_JOBCTL.HALTAT, HALTNEXT (R291), PLT_HALTROW (R293) -/
  haltat : Bool
  haltnext : Bool
  haltrow : Row
  halt : HaltState
  lastnode : BitVec 12
  /-- completion of the row has been reached (R271) -/
  complete : Bool
  /-- children whose up token of this round has been consumed, and a HALTREQ among them (R272, R280) -/
  ups : List (BitVec 12)
  haltreq : Bool
  upSent : Bool
  /-- sync cycles of the step engine's timer (R288) -/
  stepAge : Nat
  /-- sync cycles since completion of the row (R278) -/
  waitAge : Nat
  /-- tokens in the step queues with their sources, in arrival order (R272) -/
  tokens : List EngineTok
  /-- a job-fatal error waits for JOB_ABORT, with the node it came from (R286) -/
  abortDue : Option (BitVec 12)
  /-- a halt now whose recorder entry waits for the plots' stops (R284) -/
  haltNote : Bool
  /-- snapshot ring rows begin at the next row (R446) -/
  snapRow : Option Row
  /-- sender token sequence counts: (node, channel, die) and the next TSEQ (R221) -/
  tseqs : List (BitVec 12 × BitVec 8 × DieIx × BitVec 16)
  deriving DecidableEq, Repr

/-- The module-wide four-bit state (chapter 05). -/
structure FourBit where
  /-- HAR_FBCFG (R110) -/
  fbcfg : W32
  /-- HAR_FBRES.EXTRA (R115) -/
  extra : BitVec 16
  /-- reserve units allocated (R113) -/
  used : Nat
  /-- HAR_FBSTAT RESFREE, PENDING, SWITCHED (R116) -/
  resfree : BitVec 16
  pendingN : BitVec 10
  switchedN : BitVec 10
  fbrow : Row
  fblast : BitVec 512
  /-- the combined vote of the row that awaits allocation (R112) -/
  voteReady : Option RakeReg
  /-- the allocation of the current row has completed -/
  allocDone : Bool
  deriving DecidableEq, Repr

/-! ### Recovery -/

/-- The pairing of a buddy list (R311, R313). -/
structure Pairing where
  holder : BitVec 12
  channel : BitVec 8
  replica : Option (BitVec 12)
  bqueue : BitVec 15
  dst : Nat
  slotbytes : Nat
  extents : List (Nat × Nat)
  deriving DecidableEq, Repr

/-- A buddy copy in progress (R316). -/
structure CopyRun where
  row : Row
  slot : Nat
  digest : BitVec 384
  bytes : Nat
  /-- the header has been sent -/
  hdrSent : Bool
  deriving DecidableEq, Repr

/-- A return in progress at the holder (R318). -/
structure ReturnRun where
  target : BitVec 12
  channel : BitVec 8
  slotAddr : Nat
  /-- every write and RETURNDONE are with the transport -/
  sent : Bool
  deriving DecidableEq, Repr

/-- A feed check that waits for its FEEDREPLY (R314): the pairing it sets, at an accepted SET or at a start, and there the
row at which the plan begins and whether it first waits for a return (R310). -/
structure FeedCheck where
  pairing : Pairing
  bySet : Bool
  restart : Bool
  row : Row
  restore : Bool
  deriving DecidableEq, Repr

/-- Recovery (chapter 13). -/
structure Recovery where
  restore : Bool
  restartrow : Row
  buddylist : BitVec 48
  target : BitVec 12
  owner : BitVec 12
  retbase : BitVec 48
  feed : BitVec 2
  mode : BitVec 2
  copy : Option CopyRun
  ret : Option ReturnRun
  verify : BitVec 2
  result : BitVec 2
  policy : BitVec 2
  ownfeed : BitVec 4
  holdfeed : BitVec 4
  need : BitVec 4
  lastguard : Row
  copyrow : Option Row
  statedig : BitVec 384
  pairing : Option Pairing
  feedWait : Option FeedCheck
  /-- sync cycles since the FEEDQUERY -/
  feedAge : Nat
  /-- a restart that waits for its return, with the row at which it begins (R310 step 5) -/
  waitReturn : Option Row
  /-- the copy due at the current row has been taken (R271, R316) -/
  copied : Bool
  /-- tokens in the buddy queue, in arrival order (R315) -/
  tokens : List EngineTok
  /-- the row of the complete copy in each slot of the holder (R316) -/
  slots : Vector (Option Row) 2
  /-- the holder and the holding area that these slots belong to -/
  slotKey : Option (BitVec 12 × Nat)
  /-- a host checkpoint asks for a halt at the boundary after the row (R317) -/
  checkpoint : Bool
  deriving DecidableEq, Repr

/-! ### Links, module-wide -/

/-- Kufort, module-wide (R246, R257, R262, R265). -/
structure Kuf where
  node : BitVec 12
  dupmsg : W32
  resent : W32
  ports : Vector KufPort 8
  tx : List TxPair
  rx : List RxPair
  route : Option RouteTable
  inbox : List InboxImage
  colls : List Collective
  /-- tokens on their way to a sync unit from plots, movers, hosts and hand operations (R212) -/
  transit : List TokenRec
  /-- remote tokens on their way from a channel home to their sync unit (R247, R253), with their MSEQ -/
  remote : List (BitVec 24 × TokenRec)
  /-- acknowledged announced writes to be tallied (R222) -/
  adds : List TallyAdd
  deriving DecidableEq, Repr

/-- Sync, module-wide (R233). -/
structure SyncMod where
  action : BitVec 2
  defaultus : BitVec 26
  dumpbase : BitVec 48
  held : Bool
  trigger : BitVec 3
  writing : Bool
  suppressed : BitVec 16
  /-- the dump being written (R228) -/
  frozen : Option Frozen
  /-- the expiry that took the dump and still owes its error (R226) -/
  errAfter : Option OwedErr
  /-- sync cycles since module reset (R432) -/
  cycles : Nat
  deriving DecidableEq, Repr

/-! ### Clocks and power -/

/-- A strip (R332-R348). -/
structure Strip where
  capfreq : BitVec 7
  freq : BitVec 7
  eff : BitVec 7
  duty : BitVec 5
  limit : BitVec 3
  /-- junction temperature in 0.1 C -/
  temp : Int
  thermal : BitVec 7
  /-- control periods since the thermal level last moved -/
  thermAge : Nat
  /-- the code that a decided change leads to -/
  decided : BitVec 7
  /-- a change in progress: the new code -/
  changing : Option (BitVec 7)
  /-- the strip is stopped for its change -/
  stopped : Bool
  /-- control periods since the last code change -/
  changeAge : Nat
  deriving DecidableEq, Repr

/-- Clocks and power (chapter 14). -/
structure Pwr where
  /-- CLK_TARGET -/
  tmode : Bool
  tfreq : BitVec 7
  strips : Vector Strip 80
  /-- die rail voltages in 5 mV, and package levels -/
  rails : Vector (BitVec 8) 8
  pkglevel : Vector (BitVec 7) 8
  pkgAge : Vector Nat 8
  /-- the power level L (R332) -/
  level : BitVec 7
  powerDuty : BitVec 5
  cap : W32
  cfg : W32
  till : W32
  sow : W32
  envunmet : Bool
  envfail : Bool
  peaklim : Bool
  sustlim : Bool
  /-- last valid reading of POWER_ENVELOPE in W, and whether it is valid now (R336, R455) -/
  env : Option (BitVec 12)
  envvalid : Bool
  sust : BitVec 16
  win : BitVec 16
  maxwin : BitVec 16
  modelw : BitVec 16
  sensew : BitVec 16
  /-- input-power readings of the last periods, newest first (R335) -/
  history : List Nat
  /-- the energy model's inputs: events of the interval by plot, layer, operator and kind, with their count (R342) -/
  events : List (PlotIx × Id16 × Id16 × Nat × Nat)
  /-- model energy and sensor energy accumulated since the last comparison, in 0.25 pJ and in W readings (R344) -/
  modelSum : Nat
  sensorSum : Nat
  periods : Nat
  /-- module power-down: every rail is off -/
  railsOn : Bool
  deriving DecidableEq, Repr

/-! ### Recorder -/

/-- The event recorder (chapter 15). -/
structure Evr where
  halfA : RecHalf
  halfB : RecHalf
  pairmis : W32
  rulebrk : W32
  datahost : W32
  dropped : BitVec 16
  nestovf : BitVec 8
  histspill : BitVec 8
  qen : BitVec 8
  qcfg : Vector W32 8
  flushing : Option Flush
  follow : Option (FlushTrigger × Severity × BitVec 16)
  staged : List Staged
  erase : Option EraseStep
  flushfail : Bool
  fallow : Bool
  /-- a module-fatal error waits for MODULE_FATAL (R363) -/
  fatalDue : Option (BitVec 16)
  /-- NEXTSEQ of the current superblock (R373) -/
  nextseq : W32
  /-- what the row has gathered for the per-row samples (R369): quantity, strip or half, and amount -/
  rowAcc : List (Nat × Nat × Nat)
  /-- energy of the row by half, layer and operator, in 0.25 pJ (R343, R369) -/
  rowEnergy : List (Half × Id16 × Id16 × Nat)
  /-- black box: MRAM bytes that differ from 0 (R372) -/
  blackbox : List Host.Cell
  deriving DecidableEq, Repr

/-! ### Start-up and seedbed -/

/-- SBD_STATUS.STATE (R401). -/
inductive SbdState where
  | starting | recovery | checking | ready | fallow
  deriving DecidableEq, Repr

/-- A key slot of the fused key store (R385, R422). -/
structure KeySlot where
  fused : Bool
  enabled : Bool
  digest : BitVec 384
  deriving DecidableEq, Repr

/-- An operation of SBD_FLASHCTL in progress (R394, R398). -/
inductive FlashOp where
  | image (addr : Nat)
  | calWrite (addr : Nat)
  | calRead (addr : Nat)
  /-- programming of a pushed image through a port's recovery window (R393) -/
  | pushed (h : HostPort) (program : Bool)
  deriving DecidableEq, Repr

/-- A calibration table in force, field by field (R395). -/
structure Calib where
  /-- used points (F, V in 5 mV) of each die's curve -/
  curves : Vector (List (Nat × Nat)) 8
  /-- c_d,k of die d and kind k, in 0.25 pJ -/
  coef : Vector (Vector Nat 15) 8
  ddouble : Vector Nat 8
  i85 : Vector Nat 80
  toff : Vector Int 80
  poff : Vector Int 24
  eta : Nat
  pfix : Nat
  sgain : Int
  soff : Int
  deriving DecidableEq, Repr

/-- Start-up, the seedbed image and the fuses (chapter 16). -/
structure Sbd where
  state : SbdState
  step : BitVec 4
  recreason : BitVec 4
  caldef : Bool
  cfgdef : Bool
  seqmix : Bool
  /-- the control host's port: true is port B -/
  ctlhost : HostPort
  seq : W32
  /-- SBD_ARBA, SBD_ARBB: claim and its stored complement -/
  claimA : W32
  claimAC : W32
  claimB : W32
  claimBC : W32
  winner : Option Half
  latched : Bool
  pending : Option Half
  flashop : BitVec 4
  flashaddr : BitVec 48
  busy : Option FlashOp
  result : BitVec 3
  program : Bool
  /-- flash: bytes that differ from 0xFF (R383) -/
  flash : List Host.Cell
  /-- the SEQ of each controller's valid copy, and the digest that its signature signs (R385, R425) -/
  copyA : Option (W32 × BitVec 384)
  copyB : Option (W32 × BitVec 384)
  /-- an image pushed through a port's recovery window and accepted (R393) -/
  pushed : Option HostPort
  /-- DRAM training has been retried (R382) -/
  retrained : Bool
  /-- the memory timings in force, in 0.25 ns (R388) -/
  timings : Vector Nat 7
  calib : Calib
  /-- digests of the configuration and timing blocks, and of the calibration table, as loaded: measurements 3 and 4 (R425);
  none where the spec states no bytes -/
  cfgDigest : Option (BitVec 384)
  calDigest : Option (BitVec 384)
  /-- fuses (R380, R385, R403) -/
  order : OrderCode
  serial : BitVec 64
  keys : Vector KeySlot 4
  /-- digest of the image the lead half runs (R425) -/
  imageDigest : BitVec 384
  /-- digest of the header of the plan started last (R425) -/
  planDigest : BitVec 384
  deriving DecidableEq, Repr

/-! ### Host ports, management, pins -/

/-- What a port last answered to its host (an output). -/
structure Completion where
  data : List Byte
  /-- completed as Unsupported Request (R404) -/
  ur : Bool
  /-- the EP bit (R414) -/
  ep : Bool
  deriving DecidableEq, Repr

/-- A host port (R402-R426). -/
structure Pci where
  speed : BitVec 4
  width : BitVec 4
  flit : Bool
  eid : Byte
  irqen : BitVec 4
  irqcause : BitVec 4
  errClass : BitVec 2
  errAddr : BitVec 48
  errHeld : Bool
  wins : Vector W32 8
  /-- MSI-X table: 16 words, and the pending bits (R418) -/
  msix : Vector W32 16
  pba : BitVec 4
  /-- vectors whose message is due (R419) -/
  due : BitVec 4
  /-- configuration space: command, BAR0, BAR2, power state, MSI-X control (R403, R404) -/
  command : BitVec 16
  bar0 : BitVec 64
  bar2 : BitVec 64
  d3hot : Bool
  msixEnable : Bool
  msixMask : Bool
  /-- requests inside no BAR, logged under AER (R404) -/
  aer : Bool
  /-- token writes that wait for earlier writes: the count of writes still ahead, and the token (R417) -/
  tokens : List (Nat × TokenRec)
  /-- requests that wait, oldest first (R414) -/
  stalled : List HeldReq
  reply : Option Completion
  /-- the MSI-X message sent last: address and data (an output) -/
  sent : Option (BitVec 64 × W32)
  /-- the MCTP message sent last (an output) -/
  mctp : List Byte
  /-- SPDM connection state: 0 none, 1 version, 2 capabilities, 3 algorithms (R423) -/
  spdm : Nat
  /-- SPDM requests and responses that a signature covers: of the connection, of certificates, and of measurements since the
  last signature over them -/
  transcript : List Byte
  certLog : List Byte
  measLog : List Byte
  /-- a reset that RESET_MODULE has promised (R421) -/
  resetDue : Bool
  /-- words at an RWP register's +0x0 that wait for their complement: the BAR0 offset, the value, and whether another access
  to the register through this port has come since (R14) -/
  pairs : List (Nat × W32 × Bool)
  deriving DecidableEq, Repr

/-- Pins and the sideband target (chapter 19). -/
structure Pins where
  perstA : Bool
  perstB : Bool
  feedid : BitVec 4
  feedKept : Bool
  thermTripN : Bool
  pwrFailN : Bool
  recoveryN : Bool
  halfStrap : Bool
  /-- samples of step 2 of start-up (R380) -/
  recoverySampled : Bool
  ownerB : Bool
  /-- the module drives PWR_FAIL_N low (R458) -/
  driveFail : Bool
  /-- input above the start threshold (R457) -/
  supply : Bool
  sbAddr : Option (BitVec 7)
  sbPtr : Nat
  sbOut : W32
  deriving DecidableEq, Repr

/-- Debug, module-wide (R446). -/
structure Dbg where
  count : Bool
  snap : Bool
  rows : BitVec 16
  snapbase : BitVec 48
  stopmapEn : Bool
  stopmap : BitVec 48
  spread : Bool
  /-- a stop map is due: its REASON (R445) -/
  mapDue : Option (BitVec 4)
  traces : Vector TraceDie 8
  watches : Vector (Vector DbgWatch 4) 8
  deriving DecidableEq, Repr

/-! ### The module -/

/-- The state of the module. -/
structure State where
  /-- commands that wait, first in first out -/
  pending : List Instr
  plots : Vector Plot 640
  sync : Vector SyncDie 8
  smod : SyncMod
  mem : Mem
  job : Job
  fb : FourBit
  rcv : Recovery
  kuf : Kuf
  pwr : Pwr
  evr : Evr
  sbd : Sbd
  pciA : Pci
  pciB : Pci
  pins : Pins
  dbg : Dbg
  /-- the model's own counter: each use of a free value reads and advances it (log entry 1) -/
  freeCtr : Nat
  deriving DecidableEq, Repr

/-! ### Reset -/

/-- The sequencer at reset (R183). -/
def Seq.reset : Seq :=
  { state := .idle, waiting := false, pc := 0, passno := 0, row := 0, layer := 0, oper := 0, busy := .ready,
    part := .idle, prologue := 0, body := 0, epilogue := 0, stopping := none, byStop := false, stepping := false,
    rowDone := false, voted := false, fltRead := [], sowing := false }

/-- A plot at reset: the register resets of R39 to R448. Banks and the fail vector are zero by choice (log entry 3). -/
def Plot.reset : Plot :=
  { numctl := 0, fpflags := 0, store := [], banks := Vector.replicate 8 (Vector.replicate 1024 0), kept := 0,
    passes := [], writeouts := [], harSpilled := false, drlSpilled := false, harStopped := false, drlStopped := false,
    harParretry := 0, harStopreq := false, drlStopreq := false, harSpillbase := 0x1F7FC0, drlSpillbase := 0x1F7F00,
    drlSpillnext := none, chklast := 0, chkcnt := 0, failvec := 0, stream := none,
    rake := .cleared, rakeHeld := false, sflags := 0, firstinv := 0xFFFFFFFF, drlParretry := 0, drlTillpar := 0,
    tilling := 0, movers := Vector.replicate 2 [], nextXfer := 0, held := [], seq := .reset, waitpay := 0, waitinfo := 0, psaddr := 0,
    counters := Vector.replicate 8 { sel := 0, tag := 0, value := 0 } }

/-- A sync unit at reset (R210, R234). -/
def SyncDie.reset : SyncDie :=
  { queues := Vector.replicate 4096 [], watches := [], regs := [], withdraws := [], dbgWithdraws := [], inbox := [],
    tally := [], inbound := [], qop := 0, qqueue := 0, qdata := 0, qbusy := false, qresult := 0, qearly := 0,
    qcount := 0, qread := 0, dupcnt := 0, ovfKind := 0, ovfQueue := 0 }

/-- A trace unit at reset (R427, R447). -/
def TraceDie.reset : TraceDie :=
  { en := false, arm := false, mode := 0, pos := 8, spill := false, slice := 0, kinds := 0, src := 0, trigval := 0,
    state := .off, wrapped := false, trigvalid := false, wridx := 0, left := 0, full := 0, throttled := 0, page := 0,
    tseq := 0, rate := 0, dropped := 0, ring := [], trigrec := none }

/-- The default hash masks (R192). -/
def defaultMasks : Vector (BitVec 25) 6 :=
  #v[0x01041041#25, 0x00082082#25, 0x00104104#25, 0x00208208#25, 0x00410410#25, 0x00820820#25]

/-- The seedbed default layout: automatic, 512 or 256 guarded units (R206, R386). -/
def Layout.seedbed (o : OrderCode) : Layout :=
  { masks := false, mode := false, guardu := match o with | .m1152 => 512 | .m576 => 256,
    rgn := Vector.replicate 16 0, hash := defaultMasks }

/-- A base die at reset (R207); BST_SLICEMODE has its seedbed default (log entry 2). -/
def BaseDie.reset : BaseDie :=
  { cecnt := 0, uecnt := 0, decnt := 0, errClass := 0, errSource := 0, errChannel := 0, errAddr := 0, errHeld := false,
    scrubq := 0, slicemode := 0xFC0, slicenext := none, cache := [] }

/-- Memory at reset. -/
def Mem.reset (o : OrderCode) : Mem :=
  { regs := .seedbed o, inForce := .seedbed o, layState := 0, layReason := 0, scrubPeriod := 24, cells := [], bad := [],
    dies := Vector.replicate 8 .reset,
    pkgs := Vector.replicate 24 { reading := none, invalid := false, step := 0, demand := 0 },
    ringFails := Vector.replicate 16 0, ackA := 0, ackB := 0 }

/-- The plan and the job at reset (R182, R290-R293). -/
def Job.reset : Job :=
  { planbase := 0, state := .idle, loaderr := 0, hdr := none, active := [], ended := [], row := 0, waitslow := false,
    steptous := 60000000, slowNow := false, tousNow := 60000000, haltat := false, haltnext := false, haltrow := 0, halt := .none, lastnode := 0,
    complete := false, ups := [], haltreq := false, upSent := false, stepAge := 0, waitAge := 0, tokens := [],
    abortDue := none, haltNote := false, snapRow := none, tseqs := [] }

/-- The four-bit state at reset: HAR_FBCFG has its seedbed default, CHKEN 1, CHKINT 512, THRESH 0x0290
(R110, R386; log entry 2). -/
def FourBit.reset : FourBit :=
  { fbcfg := 0x82000290, extra := 0, used := 0, resfree := 0, pendingN := 0, switchedN := 0, fbrow := 0, fblast := 0,
    voteReady := none, allocDone := false }

/-- Recovery at reset (R323, R324). -/
def Recovery.reset : Recovery :=
  { restore := false, restartrow := 0, buddylist := 0, target := 0, owner := 0, retbase := 0, feed := 0, mode := 0,
    copy := none, ret := none, verify := 0, result := 0, policy := 0, ownfeed := 0, holdfeed := 0, need := 0,
    lastguard := 0, copyrow := none, statedig := 0, pairing := none, feedWait := none, feedAge := 0,
    waitReturn := none, copied := false, tokens := [], slots := Vector.replicate 2 none, slotKey := none,
    checkpoint := false }

/-- A Kufort port at reset (R266). ENABLE has its seedbed default; the link layer starts at FSEQ 0 with the 64
credits that R242's buffers stand for (log entry 4). -/
def KufPort.reset : KufPort :=
  { enable := true, state := .down, altuse := false, nbrPort := 0, nbrNode := 0, corr := 0, uncorr := 0, crcfail := 0,
    replays := 0, retrains := 0, first := true, fails := 0, retrainDue := false, fseq := 0, expect := 0, replay := [],
    resend := [], lastReq := none, sendReq := false, sendIdent := [], sendDown := false, identWait := false,
    identOk := false, credit := Vector.replicate 3 64, giveBack := Vector.replicate 3 0, txq := Vector.replicate 3 [],
    txrest := Vector.replicate 3 [], rx := Vector.replicate 3 [], rxFlits := Vector.replicate 3 [], ctrl := [], lane := [] }

/-- Kufort at reset (R265). -/
def Kuf.reset : Kuf :=
  { node := 0, dupmsg := 0, resent := 0, ports := Vector.replicate 8 .reset, tx := [], rx := [], route := none,
    inbox := [], colls := [], transit := [], remote := [], adds := [] }

/-- Sync, module-wide, at reset: SYN_TOCFG and SYN_DUMPBASE have their seedbed defaults (R233, R386; log entry 2). -/
def SyncMod.reset (o : OrderCode) : SyncMod :=
  { action := 0b11, defaultus := 10000000,
    dumpbase := match o with | .m1152 => 0x0053FEE00000 | .m576 => 0x0029FEE00000,
    held := false, trigger := 0, writing := false, suppressed := 0, frozen := none, errAfter := none, cycles := 0 }

/-- A strip at reset (R347, R348). -/
def Strip.reset : Strip :=
  { capfreq := 120, freq := 80, eff := 80, duty := 16, limit := 0, temp := 0, thermal := 120, thermAge := 0,
    decided := 80, changing := none, stopped := false, changeAge := 2 }

/-- Clocks and power at reset: SBD registers have their seedbed defaults (R346-R352; log entry 2). -/
def Pwr.reset : Pwr :=
  { tmode := false, tfreq := 80, strips := Vector.replicate 80 .reset, rails := Vector.replicate 8 0,
    pkglevel := Vector.replicate 8 120, pkgAge := Vector.replicate 8 0, level := 120, powerDuty := 16,
    cap := 0x09600AF0, cfg := 0xDF0A04B0, till := 0xA0643214, sow := 0x80000032, envunmet := false, envfail := false,
    peaklim := false, sustlim := false, env := none, envvalid := false, sust := 0, win := 0, maxwin := 0, modelw := 0,
    sensew := 0, history := [], events := [], modelSum := 0, sensorSum := 0, periods := 0, railsOn := true }

/-- One half's recorder at reset (R365). -/
def RecHalf.reset : RecHalf :=
  { hist := Vector.replicate 64 none, ring := [], rseq := 0, registered := [], handling := none, pending := [] }

/-- The recorder at reset; the black box holds no valid superblock (log entry 5). -/
def Evr.reset : Evr :=
  { halfA := .reset, halfB := .reset, pairmis := 0, rulebrk := 0, datahost := 0, dropped := 0, nestovf := 0,
    histspill := 0, qen := 0x13, qcfg := Vector.replicate 8 0x00001000, flushing := none, follow := none, staged := [],
    erase := none, flushfail := false, fallow := false, fatalDue := none, nextseq := 0, rowAcc := [], rowEnergy := [],
    blackbox := [] }

/-- The default calibration values (R396). -/
def Calib.default : Calib :=
  { curves := Vector.replicate 8 [(32, 100), (80, 124), (120, 170)],
    coef := Vector.replicate 8 #v[600, 544, 496, 2080, 7800, 360, 1440, 240, 160, 24, 32, 960, 48, 7400, 20400],
    ddouble := Vector.replicate 8 220, i85 := Vector.replicate 80 250, toff := Vector.replicate 80 0,
    poff := Vector.replicate 24 0, eta := 942, pfix := 4200, sgain := 0, soff := 0 }

/-- Start-up at reset: step 1, an empty flash, and one fused and enabled key slot 0 (log entry 6). -/
def Sbd.reset : Sbd :=
  { state := .starting, step := 1, recreason := 0, caldef := false, cfgdef := false, seqmix := false, ctlhost := .a,
    seq := 0, claimA := 0, claimAC := 0, claimB := 0, claimBC := 0, winner := none, latched := false, pending := none,
    flashop := 0, flashaddr := 0, busy := none, result := 0, program := false, flash := [], copyA := none,
    copyB := none, pushed := none, retrained := false, timings := #v[72, 72, 168, 1120, 15600, 136, 80],
    calib := .default, cfgDigest := none, calDigest := none, order := .m1152, serial := 0,
    keys := #v[{ fused := true, enabled := true, digest := 0 }, { fused := false, enabled := false, digest := 0 },
      { fused := false, enabled := false, digest := 0 }, { fused := false, enabled := false, digest := 0 }],
    imageDigest := 0, planDigest := 0 }

/-- A host port at reset (R426). -/
def Pci.reset : Pci :=
  { speed := 0, width := 0, flit := false, eid := 0, irqen := 0, irqcause := 0, errClass := 0, errAddr := 0,
    errHeld := false, wins := Vector.replicate 8 0, msix := Vector.replicate 16 0, pba := 0, due := 0, command := 0,
    bar0 := 0, bar2 := 0, d3hot := false, msixEnable := false, msixMask := false, aer := false, tokens := [], stalled := [],
    reply := none, sent := none, mctp := [], spdm := 0, transcript := [], certLog := [], measLog := [], resetDue := false, pairs := [] }

/-- The pins at reset, with nothing connected: FEED_ID 0x0, RECOVERY_N high, HALF_STRAP low (R453), PERST high, and
THERM_TRIP_N held low until step 9 of start-up (R456). -/
def Pins.reset : Pins :=
  { perstA := true, perstB := true, feedid := 0, feedKept := false, thermTripN := false, pwrFailN := true,
    recoveryN := true, halfStrap := false, recoverySampled := true, ownerB := false, driveFail := false, supply := true,
    sbAddr := none, sbPtr := 0, sbOut := 0 }

/-- Debug at reset (R427, R446, R447). -/
def Dbg.reset : Dbg :=
  { count := false, snap := false, rows := 1, snapbase := 0, stopmapEn := false, stopmap := 0, spread := false,
    mapDue := none, traces := Vector.replicate 8 .reset,
    watches := Vector.replicate 8 (Vector.replicate 4
      { reg := false, n := 1, queue := 0, outcome := .none, count := 0 }) }

/-- The module right after a module reset of a ZH8-M1152: start-up stands at step 1 (R380, R401). -/
def State.reset : State :=
  { pending := [], plots := Vector.replicate 640 .reset, sync := Vector.replicate 8 .reset, smod := .reset .m1152,
    mem := .reset .m1152, job := .reset, fb := .reset, rcv := .reset, kuf := .reset, pwr := .reset, evr := .reset,
    sbd := .reset, pciA := .reset, pciB := .reset, pins := .reset, dbg := .reset, freeCtr := 0 }

/-- Ways a step can stop with a fault. No command raises one: every event of the module has an effect that the spec
states or leaves as a free value, and an event whose condition does not hold does not occur. -/
inductive Fault where
  /-- raised by no command (safe: the model never stops here) -/
  | none
  deriving DecidableEq, Repr

/-- Ways a step can refuse a command. -/
inductive Refusal where
  /-- an arm that has no meaning yet; safe, since nothing can be proved of it -/
  | notModelled (mnemonic : String)
  deriving DecidableEq, Repr

end Sys2Proof.Machine
end

