-- ==== Sys2Proof/Machine/Bits.lean ====
section
/-! DEFINITION. Bit fields, little-endian byte lists (R8), the CRC-32 of R9, and sparse byte stores in canonical form. -/

namespace Sys2Proof.Machine

/-- Bits [hi:lo] of a word as a number. -/
def bits (w : W32) (hi lo : Nat) : Nat := (w.toNat >>> lo) % 2 ^ (hi + 1 - lo)

/-- Bit n of a word. -/
def bit (w : W32) (n : Nat) : Bool := w.getLsbD n

/-- A number placed at bit lo. -/
def place (v lo : Nat) : Nat := v <<< lo

/-- A Bool as 0 or 1. -/
def b2n (b : Bool) : Nat := if b then 1 else 0

/-- A word from a number. -/
def w32 (n : Nat) : W32 := BitVec.ofNat 32 n

/-- The n low bytes of a number, lowest first (R8). -/
def bytesOfNat : Nat → Nat → List Byte
  | 0, _ => []
  | n + 1, v => BitVec.ofNat 8 v :: bytesOfNat n (v / 256)

/-- The number that bytes hold, lowest first (R8). -/
def natOfBytes : List Byte → Nat
  | [] => 0
  | b :: r => b.toNat + 256 * natOfBytes r

/-- The four bytes of a word. -/
def bytesOfWord (w : W32) : List Byte := bytesOfNat 4 w.toNat

/-- The bytes of a list of words. -/
def bytesOfWords (ws : List W32) : List Byte := ws.flatMap bytesOfWord

/-- The word at byte offset `off` of a list of bytes; bytes beyond its end count as 0. -/
def wordAt (bs : List Byte) (off : Nat) : W32 := w32 (natOfBytes ((bs.drop off).take 4))

/-- Words at consecutive offsets. -/
def wordsOf (bs : List Byte) (n : Nat) : List W32 := (List.range n).map fun i => wordAt bs (4 * i)

/-- n zero bytes. -/
def zeros (n : Nat) : List Byte := List.replicate n 0

/-- Replaces the bytes at `off` of a list. -/
def patch (bs : List Byte) (off : Nat) (v : List Byte) : List Byte := bs.take off ++ v ++ bs.drop (off + v.length)

/-! ### CRC-32 (R9) -/

/-- One bit of the reflected CRC. -/
def crcBit (c : BitVec 32) : BitVec 32 := if c.getLsbD 0 then (c >>> 1) ^^^ 0xEDB88320#32 else c >>> 1

/-- One byte, least significant bit first. -/
def crcByte (c : BitVec 32) (b : Byte) : BitVec 32 :=
  let x := c ^^^ b.zeroExtend 32
  crcBit (crcBit (crcBit (crcBit (crcBit (crcBit (crcBit (crcBit x)))))))

/-- The CRC-32 of bytes in ascending address order (R9). -/
def crc32 (bs : List Byte) : W32 := (bs.foldl crcByte 0xFFFFFFFF#32) ^^^ 0xFFFFFFFF#32

/-! ### Sparse byte stores -/

/-- The byte at an address; `d` where none is listed. -/
def cellGet (d : Byte) : List Host.Cell → Nat → Byte
  | [], _ => d
  | (x, v) :: r, a => if x = a then v else cellGet d r a

/-- Writes a byte and keeps the form: addresses rising, no entry equal to `d`. -/
def cellPut (d : Byte) : List Host.Cell → Nat → Byte → List Host.Cell
  | [], a, v => if v = d then [] else [(a, v)]
  | (x, w) :: r, a, v =>
    if a < x then (if v = d then (x, w) :: r else (a, v) :: (x, w) :: r)
    else if a = x then (if v = d then r else (a, v) :: r)
    else (x, w) :: cellPut d r a v

/-- n bytes from an address. -/
def cellsGet (d : Byte) (m : List Host.Cell) (a n : Nat) : List Byte := (List.range n).map fun i => cellGet d m (a + i)

/-- Writes bytes from an address upward. -/
def cellsPut (d : Byte) : List Host.Cell → Nat → List Byte → List Host.Cell
  | m, _, [] => m
  | m, a, b :: r => cellsPut d (cellPut d m a b) (a + 1) r

/-- The listed cells of bytes at consecutive addresses. -/
def cellsOf (d : Byte) : Nat → List Byte → List Host.Cell
  | _, [] => []
  | a, b :: r => if b = d then cellsOf d (a + 1) r else (a, b) :: cellsOf d (a + 1) r

/-- Replaces the bytes from an address by a block of bytes. -/
def cellsBlit (d : Byte) (m : List Host.Cell) (a : Nat) (bs : List Byte) : List Host.Cell :=
  (m.filter fun x => x.1 < a) ++ cellsOf d a bs ++ m.filter fun x => a + bs.length ≤ x.1

/-- Addresses rise strictly from above `lo`, and no listed byte is `d`. -/
def cellsWf (d : Byte) : Option Nat → List Host.Cell → Bool
  | _, [] => true
  | none, (a, v) :: r => v != d && cellsWf d (some a) r
  | some lo, (a, v) :: r => decide (lo < a) && v != d && cellsWf d (some a) r

/-- Memory in canonical form, with unlisted bytes 0 (plot stores R184, device memory R197, black box). -/
def Memory.wf (m : List Host.Cell) : Bool := cellsWf 0 none m

/-! ### Saturating counts -/

/-- Adds to a counter that saturates at its largest value. -/
def satAdd {w : Nat} (c : BitVec w) (n : Nat) : BitVec w :=
  if c.toNat + n < 2 ^ w then BitVec.ofNat w (c.toNat + n) else BitVec.allOnes w

/-- Replaces the element at an index of a list. -/
def setAt {α : Type} (l : List α) (i : Nat) (v : α) : List α := l.set i v

/-- The lowest number from `lo` below `hi` that a list does not hold. -/
def lowestFree (used : List Nat) (lo hi : Nat) : Option Nat :=
  (List.range (hi - lo)).findSome? fun i => if (lo + i) ∈ used then none else some (lo + i)

/-- A slot that is free, which one the spec leaves open: the `c`-th choice of a free value (log entry 8). -/
def freeSlot (used : List Nat) (n c : Nat) : Option Nat :=
  let free := (List.range n).filter fun i => i ∉ used
  if free.isEmpty then none else some (free.getD (Config.freeNat c % free.length) 0)

end Sys2Proof.Machine
end

