-- ==== Sys2Proof/Machine/Flags.lean ====
section
/-! DEFINITION. The arithmetic flags of a plot (R47): their bit positions and how the flags of several operations join. Each
operation's own flag rule stands with the operation (Num, Dot, Drill, Dma). -/

namespace Sys2Proof.Machine

/-- Arithmetic flags, in the bit order of PLT_FPFLAGS. -/
abbrev Flags := BitVec 8

def flInvalid : Flags := 0x01
def flDivzero : Flags := 0x02
def flOverflow : Flags := 0x04
def flUnderflow : Flags := 0x08
def flInexact : Flags := 0x10
def flFlushed : Flags := 0x20
def flVoidrow : Flags := 0x40
def flInfrow : Flags := 0x80

/-- ORs the flags of a list. -/
def orFlags (l : List Flags) : Flags := l.foldl (fun a b => a ||| b) 0

end Sys2Proof.Machine
end

