-- ==== Sys2Proof/Machine/Num.lean ====
section
/-! DEFINITION. Number formats and their rounding (chapter 02): decoding of every format into an exact value, and the one
rounding function that all arithmetic and every conversion ends in. -/

namespace Sys2Proof.Machine

/-! ### The numeric control word (R39) -/

/-- Rounding directions. -/
inductive Rnd where
  | rne | rtz | rup | rdn | rna | sr
  deriving DecidableEq, Repr

/-- A decoded numeric control word. -/
structure Ctl where
  rnd : Rnd
  sat : Bool
  denorm : Bool
  strict : Bool
  deriving DecidableEq, Repr

/-- R40: a word with a reserved value or field, or SR with strict mode, has no decoding. -/
def Ctl.decode (w : BitVec 16) : Option Ctl :=
  if w.toNat / 256 ≠ 0 ∨ w.toNat % 4 ≠ 0 then none
  else
    let mk := fun r => some ({ rnd := r, sat := w.getLsbD 4, denorm := w.getLsbD 3, strict := w.getLsbD 2 } : Ctl)
    match (w.toNat >>> 5) % 8 with
    | 0 => mk .rne
    | 1 => mk .rtz
    | 2 => mk .rup
    | 3 => mk .rdn
    | 4 => mk .rna
    | 5 => if w.getLsbD 2 then none else mk .sr
    | _ => none

/-- Fast mode with RNE, SAT = 0 and DENORM = 0: the word 0. -/
def Ctl.fast : Ctl := { rnd := .rne, sat := false, denorm := false, strict := false }

/-- R43: arithmetic rounds to nearest even in fast mode, and by RND in strict mode. -/
def Ctl.arith (c : Ctl) : Ctl := if c.strict then c else { c with rnd := .rne }

/-- Subnormals are flushed: fast mode with DENORM = 0 (R45). -/
def Ctl.flushes (c : Ctl) : Bool := !c.strict && !c.denorm

/-! ### Exact values -/

/-- The value of an encoding. A finite value is (-1)^neg * m * 2^e; a NaN keeps its sign and its fraction field, aligned to the
52 bits of binary64, so that a conversion keeps the high payload bits (R52). -/
inductive Val where
  | nan (neg : Bool) (frac : Nat) (signalling : Bool)
  | inf (neg : Bool)
  | fin (neg : Bool) (m : Nat) (e : Int)
  deriving DecidableEq, Repr

/-- A floating format: exponent and fraction widths, bias, and whether the top exponent holds infinities and NaNs. -/
structure FFmt where
  ebits : Nat
  mbits : Nat
  ieee : Bool
  deriving DecidableEq, Repr

def FFmt.bias (f : FFmt) : Int := 2 ^ (f.ebits - 1) - 1
/-- The exponent of the smallest normal value. -/
def FFmt.emin (f : FFmt) : Int := 1 - f.bias
/-- The exponent of the largest finite value. -/
def FFmt.emax (f : FFmt) : Int := if f.ieee then f.bias else f.bias + 1
/-- The significand, in units of 2^(emax - mbits), of the largest finite value: ZE8 keeps only its last code for NaN. -/
def FFmt.maxM (f : FFmt) : Nat := if f.ieee then 2 ^ (f.mbits + 1) - 1 else 2 ^ (f.mbits + 1) - 2

def fZB16 : FFmt := { ebits := 8, mbits := 7, ieee := true }
def fZH16 : FFmt := { ebits := 5, mbits := 10, ieee := true }
def fZE8 : FFmt := { ebits := 4, mbits := 3, ieee := false }
def fZW8 : FFmt := { ebits := 5, mbits := 2, ieee := true }
def fB32 : FFmt := { ebits := 8, mbits := 23, ieee := true }
def fB64 : FFmt := { ebits := 11, mbits := 52, ieee := true }

/-- Width of a format in bits. -/
def FFmt.width (f : FFmt) : Nat := 1 + f.ebits + f.mbits

/-- R32, R38: the value of an encoding. Short formats have quiet NaNs only (R33). -/
def FFmt.decode (f : FFmt) (w : Nat) : Val :=
  let neg := (w >>> (f.ebits + f.mbits)) % 2 = 1
  let e := (w >>> f.mbits) % 2 ^ f.ebits
  let fr := w % 2 ^ f.mbits
  if f.ieee && e = 2 ^ f.ebits - 1 then
    if fr = 0 then .inf neg
    else .nan neg (fr * 2 ^ (52 - f.mbits)) (f.mbits ≥ 23 && fr < 2 ^ (f.mbits - 1))
  else if !f.ieee && e = 2 ^ f.ebits - 1 && fr = 2 ^ f.mbits - 1 then .nan neg fr false
  else if e = 0 then .fin neg fr (f.emin - f.mbits)
  else .fin neg (2 ^ f.mbits + fr) ((e : Int) - f.bias - f.mbits)

/-- The canonical NaN (R32, R38). -/
def FFmt.canonNan (f : FFmt) : Nat :=
  if f.ieee then (2 ^ f.ebits - 1) * 2 ^ f.mbits + 2 ^ (f.mbits - 1) else 2 ^ (f.ebits + f.mbits) - 1

/-- The sign bit of an encoding. -/
def FFmt.signBit (f : FFmt) (neg : Bool) : Nat := if neg then 2 ^ (f.ebits + f.mbits) else 0

/-- The encoding of an infinity. -/
def FFmt.infBits (f : FFmt) (neg : Bool) : Nat := f.signBit neg + (2 ^ f.ebits - 1) * 2 ^ f.mbits

/-- The largest finite value of a sign. -/
def FFmt.maxBits (f : FFmt) (neg : Bool) : Nat :=
  f.signBit neg + (if f.ieee then (2 ^ f.ebits - 1) * 2 ^ f.mbits - 1 else 2 ^ (f.ebits + f.mbits) - 2)

/-- The encoding of k * 2^q, where k has at most mbits + 1 bits and q is on the format's grid. -/
def FFmt.encode (f : FFmt) (neg : Bool) (k : Nat) (q : Int) : Nat :=
  if k < 2 ^ f.mbits then f.signBit neg + k
  else
    let k' := if k = 2 ^ (f.mbits + 1) then 2 ^ f.mbits else k
    let q' := if k = 2 ^ (f.mbits + 1) then q + 1 else q
    f.signBit neg + (q' + f.mbits + f.bias).toNat * 2 ^ f.mbits + (k' - 2 ^ f.mbits)

/-- A subnormal value of the format. -/
def FFmt.isSub (f : FFmt) : Val → Bool
  | .fin _ m e => m ≠ 0 && decide (m * 2 ^ (e - (f.emin - f.mbits)).toNat < 2 ^ f.mbits) &&
      decide (e ≥ f.emin - f.mbits)
  | _ => false

/-! ### Rounding -/

/-- floor(log2 (num / den)) for positive num and den. -/
def floorLog2 (num den : Nat) : Int :=
  let d : Int := (Nat.log2 num : Int) - Nat.log2 den
  let ge := if d ≥ 0 then decide (den * 2 ^ d.toNat ≤ num) else decide (den ≤ num * 2 ^ (-d).toNat)
  if ge then d else d - 1

/-- num / (den * 2^q) as a quotient and remainder, with the divisor. -/
def quoAt (num den : Nat) (q : Int) : Nat × Nat × Nat :=
  let n := if q ≥ 0 then num else num * 2 ^ (-q).toNat
  let d := if q ≥ 0 then den * 2 ^ q.toNat else den
  (n / d, n % d, d)

/-- R50: the chosen neighbour of quotient k with remainder r of divisor d. `draw` is the 24-bit number of SR. -/
def chooseUp (rnd : Rnd) (neg : Bool) (draw k r d : Nat) : Bool :=
  if r = 0 then false
  else match rnd with
    | .rne => 2 * r > d || (2 * r = d && k % 2 = 1)
    | .rna => 2 * r ≥ d
    | .rtz => false
    | .rup => !neg
    | .rdn => neg
    | .sr =>
      -- R50 draws on the signed value: for a negative x the neighbour of larger magnitude is lo
      if neg then !decide (draw < 2 ^ 24 * (d - r) / d) else draw < 2 ^ 24 * r / d

/-- A rounded result: its bits and flags. -/
structure Rounded where
  bits : Nat
  flags : Flags
  deriving DecidableEq, Repr

/-- R51: an overflow. -/
def FFmt.overflow (f : FFmt) (c : Ctl) (neg : Bool) : Rounded :=
  let fl := flOverflow ||| flInexact
  let toInf := match c.rnd with
    | .rne => true
    | .rna => true
    | .rtz => false
    | .rup => !neg
    | .rdn => neg
    | .sr => false
  if f.ieee && (c.strict || !c.sat) && toInf then { bits := f.infBits neg, flags := fl }
  else { bits := f.maxBits neg, flags := fl }

/-- Rounds the positive magnitude num / den with a sign into a floating format (R45, R50, R51). `keep`: tiny results of
this target are kept and set INEXACT only (R46). -/
def FFmt.round (f : FFmt) (c : Ctl) (keep : Bool) (draw : Nat) (neg : Bool) (num den : Nat) : Rounded :=
  let ex := floorLog2 num den
  let qn := ex - f.mbits
  let q := max qn (f.emin - f.mbits)
  let (k, r, d) := quoAt num den q
  let up := chooseUp c.rnd neg draw k r d
  let k' := if up then k + 1 else k
  let inexact := r ≠ 0
  -- the value rounded with an unbounded exponent range decides tininess; under SR the chosen value does
  let tiny :=
    if ex ≥ f.emin then false
    else if c.rnd = .sr then decide (k' < 2 ^ f.mbits)
    else
      let (ku, ru, du) := quoAt num den qn
      let ku' := if chooseUp c.rnd neg draw ku ru du then ku + 1 else ku
      !(decide (ku' = 2 ^ (f.mbits + 1)) && decide (ex + 1 = f.emin))
  if tiny && c.flushes && !keep then
    { bits := f.signBit neg, flags := flFlushed ||| flUnderflow ||| flInexact }
  else
    -- overflow: the rounded magnitude exceeds the largest finite value
    let tooBig := decide (q > f.emax - f.mbits) || (decide (q = f.emax - f.mbits) && decide (k' > f.maxM))
    if tooBig then f.overflow c neg
    else
      { bits := f.encode neg k' q,
        flags := (if inexact then flInexact else 0) ||| (if tiny && inexact && !keep then flUnderflow else 0) }

/-! ### Results of arithmetic -/

/-- An exact result before its single rounding. -/
inductive Exact where
  /-- a NaN: a payload to keep in strict mode, or none for the canonical NaN -/
  | nan (payload : Option (Bool × Nat))
  | inf (neg : Bool)
  | zero (neg : Bool)
  /-- (-1)^neg * num / den, not zero -/
  | fin (neg : Bool) (num den : Nat)
  deriving DecidableEq, Repr

/-- Delivers an exact result in a floating format. -/
def FFmt.deliver (f : FFmt) (c : Ctl) (keep : Bool) (draw : Nat) : Exact → Rounded
  | .nan none => { bits := f.canonNan, flags := 0 }
  | .nan (some (neg, fr)) =>
    if c.strict && decide (23 ≤ f.mbits) then
      { bits := f.signBit neg + (2 ^ f.ebits - 1) * 2 ^ f.mbits + (2 ^ (f.mbits - 1) + fr / 2 ^ (52 - f.mbits) % 2 ^ (f.mbits - 1)), flags := 0 }
    else { bits := f.canonNan, flags := 0 }
  | .inf neg => { bits := f.infBits neg, flags := 0 }
  | .zero neg => { bits := f.signBit neg, flags := 0 }
  | .fin neg num den => f.round c keep draw neg num den

/-- m * 2^e as a fraction. -/
def dyadic (neg : Bool) (m : Nat) (e : Int) : Exact :=
  if m = 0 then .zero neg
  else if e ≥ 0 then .fin neg (m * 2 ^ e.toNat) 1 else .fin neg m (2 ^ (-e).toNat)

/-- The exact value of an operand. -/
def Val.exact : Val → Exact
  | .nan neg fr _ => .nan (some (neg, fr))
  | .inf neg => .inf neg
  | .fin neg m e => dyadic neg m e

/-- The signed significand of a finite value at exponent e0 at most its own. -/
def sig (neg : Bool) (m : Nat) (e e0 : Int) : Int :=
  let x : Int := (m : Int) * 2 ^ (e - e0).toNat
  if neg then -x else x

/-- R45: a subnormal operand is read as a zero of its sign and sets FLUSHED. -/
def FFmt.readVal (f : FFmt) (c : Ctl) (v : Val) : Val × Flags :=
  match v with
  | .fin neg m e =>
    if c.flushes && f.isSub (.fin neg m e) then (.fin neg 0 0, flFlushed) else (v, 0)
  | _ => (v, 0)

/-! ### Elementary operations on values (R41, R43) -/

/-- INVALID for a signalling operand in strict mode. -/
def sigFlag (c : Ctl) : Val → Flags
  | .nan _ _ true => if c.strict then flInvalid else 0
  | _ => 0

/-- The NaN result of the first NaN operand, quietened (R41). -/
def firstNan : List Val → Option Exact
  | [] => none
  | .nan neg fr _ :: _ => some (.nan (some (neg, fr)))
  | _ :: r => firstNan r

/-- x * y + z with one rounding to come: exact values only. -/
def exactFma (c : Ctl) (x y z : Val) : Exact × Flags :=
  let sf := sigFlag c x ||| sigFlag c y ||| sigFlag c z
  let zeroInf := match x, y with
    | .inf _, .fin _ 0 _ => true
    | .fin _ 0 _, .inf _ => true
    | _, _ => false
  match firstNan [x, y] with
  | some r => (r, sf)
  | none =>
    if zeroInf then
      -- R41, R43: strict mode keeps the payload of a NaN addend; fast mode delivers the canonical NaN
      ((match firstNan [z] with | some r => r | none => .nan none), sf ||| flInvalid)
    else
      let ps : Bool := match x, y with
        | .inf a, .inf b => a != b
        | .inf a, .fin b _ _ => a != b
        | .fin a _ _, .inf b => a != b
        | .fin a _ _, .fin b _ _ => a != b
        | _, _ => false
      match firstNan [z] with
      | some r => (r, sf)
      | none =>
        let pInf := match x, y with
          | .inf _, _ => true
          | _, .inf _ => true
          | _, _ => false
        match z with
        | .inf zn => if pInf && ps != zn then (.nan none, sf ||| flInvalid) else (.inf zn, sf)
        | .fin zn zm ze =>
          if pInf then (.inf ps, sf)
          else match x, y with
            | .fin _ xm xe, .fin _ ym ye =>
              let pm := xm * ym
              let pe := xe + ye
              let e0 := min pe ze
              let t := sig ps pm pe e0 + sig zn zm ze e0
              if t = 0 then
                if pm = 0 && zm = 0 && ps = zn then (.zero ps, sf)
                else (.zero (c.arith.rnd = .rdn), sf)
              else (dyadic (t < 0) t.natAbs e0, sf)
            | _, _ => (.nan none, sf)
        | .nan _ _ _ => (.nan none, sf)

/-- x + y. -/
def exactAdd (c : Ctl) (x y : Val) : Exact × Flags :=
  let sf := sigFlag c x ||| sigFlag c y
  match firstNan [x, y] with
  | some r => (r, sf)
  | none => match x, y with
    | .inf a, .inf b => if a = b then (.inf a, sf) else (.nan none, sf ||| flInvalid)
    | .inf a, _ => (.inf a, sf)
    | _, .inf b => (.inf b, sf)
    | .fin a xm xe, .fin b ym ye =>
      let e0 := min xe ye
      let t := sig a xm xe e0 + sig b ym ye e0
      if t = 0 then (.zero (if xm = 0 && ym = 0 && a = b then a else c.arith.rnd = .rdn), sf)
      else (dyadic (t < 0) t.natAbs e0, sf)
    | _, _ => (.nan none, sf)

/-- The value with its sign changed. -/
def Val.negate : Val → Val
  | .nan n f s => .nan n f s
  | .inf n => .inf !n
  | .fin n m e => .fin (!n) m e

/-- x * y. -/
def exactMul (c : Ctl) (x y : Val) : Exact × Flags :=
  let sf := sigFlag c x ||| sigFlag c y
  match firstNan [x, y] with
  | some r => (r, sf)
  | none => match x, y with
    | .inf a, .inf b => (.inf (a != b), sf)
    | .inf a, .fin b m _ => if m = 0 then (.nan none, sf ||| flInvalid) else (.inf (a != b), sf)
    | .fin a m _, .inf b => if m = 0 then (.nan none, sf ||| flInvalid) else (.inf (a != b), sf)
    | .fin a xm xe, .fin b ym ye => (dyadic (a != b) (xm * ym) (xe + ye), sf)
    | _, _ => (.nan none, sf)

/-- x / y. -/
def exactDiv (c : Ctl) (x y : Val) : Exact × Flags :=
  let sf := sigFlag c x ||| sigFlag c y
  match firstNan [x, y] with
  | some r => (r, sf)
  | none => match x, y with
    | .inf _, .inf _ => (.nan none, sf ||| flInvalid)
    | .inf a, .fin b _ _ => (.inf (a != b), sf)
    | .fin a _ _, .inf b => (.zero (a != b), sf)
    | .fin a xm xe, .fin b ym ye =>
      if ym = 0 then
        if xm = 0 then (.nan none, sf ||| flInvalid) else (.inf (a != b), sf ||| flDivzero)
      else if xm = 0 then (.zero (a != b), sf)
      else
        let e := xe - ye
        (if e ≥ 0 then .fin (a != b) (xm * 2 ^ e.toNat) ym else .fin (a != b) xm (ym * 2 ^ (-e).toNat), sf)
    | _, _ => (.nan none, sf)

/-- The square root of num / den as a value that rounds as the root does: exact, or strictly between two neighbours on a
grid of `p` bits past the binary point of a root that has been scaled to at least 2^p (a sticky bit). -/
def stickySqrt (num den p : Nat) : Exact :=
  -- scale so that the integer root has at least p bits: root of num * 2^(2 t) / den
  let t := p + Nat.log2 den
  let v := num * 2 ^ (2 * t) / den
  let r := Nat.sqrt v
  if r * r * den = num * 2 ^ (2 * t) then .fin false r (2 ^ t) else .fin false (2 * r + 1) (2 ^ (t + 1))

/-- The square root. -/
def exactSqrt (c : Ctl) (x : Val) : Exact × Flags :=
  let sf := sigFlag c x
  match x with
  | .nan n f _ => (.nan (some (n, f)), sf)
  | .inf false => (.inf false, sf)
  | .inf true => (.nan none, sf ||| flInvalid)
  | .fin neg m e =>
    if m = 0 then (.zero neg, sf)
    else if neg then (.nan none, sf ||| flInvalid)
    else match dyadic false m e with
      | .fin _ num den => (stickySqrt num den 1200, sf)
      | r => (r, sf)

/-- Compares finite or infinite values: -1, 0 or 1, with +0 equal to -0. -/
def Val.cmp : Val → Val → Int
  | .fin a xm xe, .fin b ym ye =>
    let e0 := min xe ye
    let x := sig a xm xe e0
    let y := sig b ym ye e0
    if x < y then -1 else if x = y then 0 else 1
  | .inf a, .inf b => if a = b then 0 else if a then -1 else 1
  | .inf a, _ => if a then -1 else 1
  | _, .inf b => if b then 1 else -1
  | _, _ => 0

def Val.isNan : Val → Bool
  | .nan _ _ _ => true
  | _ => false
def Val.isInf : Val → Bool
  | .inf _ => true
  | _ => false
def Val.isNeg : Val → Bool
  | .nan n _ _ => n
  | .inf n => n
  | .fin n _ _ => n
def Val.isZero : Val → Bool
  | .fin _ 0 _ => true
  | _ => false
def Val.abs : Val → Val
  | .nan n f s => .nan n f s
  | .inf _ => .inf false
  | .fin _ m e => .fin false m e

/-- MAX and MIN (R126): a NaN when either operand is one, and +0.0 above -0.0. -/
def exactMaxMin (isMax : Bool) (c : Ctl) (x y : Val) : Exact × Flags :=
  let sf := sigFlag c x ||| sigFlag c y
  match firstNan [x, y] with
  | some r => (r, sf)
  | none =>
    let k := x.cmp y
    let xl := if k = 0 then !x.isNeg else decide (k > 0)
    ((if xl = isMax then x.exact else y.exact), sf)

/-! ### ZS8, ZG4 and integers (R34-R37) -/

/-- The value of a ZS8 code; none is NaN (R35). -/
def zs8Val (w : Nat) : Option (Nat × Int) :=
  let e := (w >>> 3) % 32
  let f := w % 8
  if e = 31 then none else if e = 0 then some (f, -17) else some (8 + f, (e : Int) - 18)

/-- The value of a ZG4 code in halves: sign and twice the magnitude (R34). -/
def zg4Val (w : Nat) : Bool × Nat :=
  ((w >>> 3) % 2 = 1, match w % 8 with | 0 => 0 | 1 => 1 | 2 => 2 | 3 => 3 | 4 => 4 | 5 => 6 | 6 => 8 | _ => 12)

/-- The ZG4 format as a floating grid: E2M1 with bias 1. -/
def fZG4 : FFmt := { ebits := 2, mbits := 1, ieee := false }

/-- Two's complement of w bits. -/
def intVal (n w : Nat) : Int := if w % 2 ^ n ≥ 2 ^ (n - 1) then (w % 2 ^ n : Int) - 2 ^ n else (w % 2 ^ n : Int)

/-- An integer as a value: no negative zero. -/
def Val.ofInt (i : Int) : Val := .fin (i < 0) i.natAbs 0

/-- Rounds a magnitude onto the ZS8 grid: 5 exponent bits, 3 fraction bits, bias 15, largest 61,440 (R35). -/
def roundZs8 (c : Ctl) (draw num den : Nat) : Rounded :=
  let ex := floorLog2 num den
  let q := max (ex - 3) (-17)
  let (k, r, d) := quoAt num den q
  let k' := if chooseUp c.rnd false draw k r d then k + 1 else k
  let (k2, q2) := if k' = 16 then (8, q + 1) else (k', q)
  if q2 > 12 then { bits := 0xF7, flags := flOverflow ||| flInexact }
  else
    { bits := if k2 < 8 then k2 else (q2 + 18).toNat * 8 + (k2 - 8), flags := if r = 0 then 0 else flInexact }

/-- Rounds a magnitude onto the ZG4 grid and saturates at 6 (R34, R51). -/
def roundZg4 (c : Ctl) (draw : Nat) (neg : Bool) (num den : Nat) : Rounded :=
  let ex := floorLog2 num den
  let q := max (ex - 1) (-1)
  let (k, r, d) := quoAt num den q
  let k' := if chooseUp c.rnd neg draw k r d then k + 1 else k
  let s := if neg then 8 else 0
  let (k2, q2) := if k' = 4 then (2, q + 1) else (k', q)
  if q2 > 1 || (q2 = 1 && k2 > 3) then { bits := s + 7, flags := flOverflow ||| flInexact }
  else { bits := s + (if k2 < 2 then k2 else (q2 + 2).toNat * 2 + (k2 - 2)), flags := if r = 0 then 0 else flInexact }

/-- Rounds into an integer of n bits; out of range saturates (R51, R52). -/
def roundInt (n : Nat) (c : Ctl) (draw : Nat) (neg : Bool) (num den : Nat) : Rounded :=
  let (k, r, d) := quoAt num den 0
  let k' := if chooseUp c.rnd neg draw k r d then k + 1 else k
  let lim := if neg then 2 ^ (n - 1) else 2 ^ (n - 1) - 1
  if k' > lim then
    { bits := if neg then 2 ^ (n - 1) else 2 ^ (n - 1) - 1, flags := flOverflow ||| flInexact }
  else
    { bits := if neg && k' ≠ 0 then 2 ^ n - k' else k', flags := if r = 0 then 0 else flInexact }

/-! ### Stored element formats (R79, R120) -/

/-- The floating format of a code, where it is one. -/
def floatOf (code : Nat) : Option FFmt :=
  match code with
  | 0x1 => some fZB16
  | 0x2 => some fZH16
  | 0x3 => some fZE8
  | 0x4 => some fZW8
  | 0x8 => some fB32
  | 0xA => some fB64
  | 0xB => some fZE8
  | _ => none

/-- Bits of one element of a format code (R120). -/
def elemBits (code : Nat) : Nat :=
  match code with
  | 0x1 => 16
  | 0x2 => 16
  | 0x3 => 8
  | 0x4 => 8
  | 0x5 => 4
  | 0x6 => 8
  | 0x7 => 4
  | 0x8 => 32
  | 0x9 => 1
  | 0xA => 64
  | 0xB => 8
  | 0xC => 32
  | _ => 0

/-- The product of a value and a ZS8 scale. -/
def scaled (neg : Bool) (m : Nat) (e : Int) (scale : Nat) : Val × Flags :=
  match zs8Val scale with
  | none => (.nan false 0 false, flInvalid)
  | some (sm, se) => (.fin neg (m * sm) (e + se), 0)

/-- Reads an element as a value in the computing format, with R45 on its own subnormals (R49, R52). `scale` is its
block's ZS8 code for the block formats. -/
def readElem (c : Ctl) (code : Nat) (w : Nat) (scale : Nat) : Val × Flags :=
  match code with
  | 0x5 => let (neg, h) := zg4Val w; scaled neg h (-1) scale
  | 0x6 => (Val.ofInt (intVal 8 w), 0)
  | 0x7 => (Val.ofInt (intVal 4 w), 0)
  | 0xB =>
    -- the ZE8 element of a block keeps its own subnormals (R46)
    match fZE8.decode w with
    | .fin neg m e => scaled neg m e scale
    | _ => match zs8Val scale with
      | none => (.nan false 0 false, flInvalid)
      | some _ => (.nan false 0 false, 0)
  | _ => match floatOf code with
    | some f =>
      match f.readVal c (f.decode w) with
      | (.nan n fr sg, fl) => if f.mbits ≥ 23 then (.nan n fr sg, fl) else (.nan false 0 false, fl)
      | r => r
    | none => (.fin false 0 0, 0)

/-- Writes a value into an element of a format without block scales (R49-R52). `src` is the exact source value. -/
def writeElem (c : Ctl) (code : Nat) (draw : Nat) (x : Exact) : Rounded :=
  match code with
  | 0x6 => intElem 8
  | 0x7 => intElem 4
  | _ => match floatOf code with
    | some f =>
      if f.ieee then f.deliver c false draw x
      else match x with
        -- R52: an infinity saturates ZE8 with OVERFLOW
        | .inf neg => { bits := f.maxBits neg, flags := flOverflow ||| flInexact }
        | .nan _ => { bits := f.canonNan, flags := 0 }
        | _ => f.deliver c false draw x
    | none => { bits := 0, flags := 0 }
where
  intElem (n : Nat) : Rounded :=
    match x with
    | .nan _ => { bits := 0, flags := flInvalid }
    | .inf neg => { bits := if neg then 2 ^ (n - 1) else 2 ^ (n - 1) - 1, flags := flOverflow ||| flInexact }
    | .zero _ => { bits := 0, flags := 0 }
    | .fin neg num den => roundInt n c draw neg num den

/-- R52: a value into ZS8 alone. -/
def writeZs8 (c : Ctl) (draw : Nat) : Exact → Rounded
  | .nan _ => { bits := 0xFF, flags := 0 }
  | .inf false => { bits := 0xF7, flags := flOverflow ||| flInexact }
  | .inf true => { bits := 0xFF, flags := flInvalid }
  | .zero _ => { bits := 0, flags := 0 }
  | .fin true _ _ => { bits := 0xFF, flags := flInvalid }
  | .fin false num den => roundZs8 c draw num den

/-- Which of two fractions is larger in magnitude: true when a / b ≥ c / d. -/
def fracGe (a b c d : Nat) : Bool := decide (c * b ≤ a * d)

/-- R53: a block of values into one ZS8 scale and element codes. `g4` selects ZG4 (M = 6) over ZE8 (M = 448); `draws`
gives the SR number of each element. -/
def writeBlock (c : Ctl) (g4 : Bool) (draws : List Nat) (xs : List Exact) : Nat × List Nat × Flags :=
  let bigM := if g4 then 6 else 448
  let bad := xs.any fun x => match x with | .nan _ => true | .inf _ => true | _ => false
  if bad then (0xFF, xs.map fun _ => 0, flInvalid)
  else
    let amax : Nat × Nat := xs.foldl (fun m x => match x with
      | .fin _ n d => if fracGe n d m.1 m.2 then (n, d) else m
      | _ => m) (0, 1)
    let negZero := if g4 then 8 else 0x80
    if amax.1 = 0 then
      (0, xs.map fun x => match x with | .zero true => negZero | _ => 0, 0)
    else
      let sat := decide (61440 * (amax.2 * bigM) < amax.1)
      let scale := if sat then 0xF7 else (roundZs8 { c with rnd := .rup } 0 amax.1 (amax.2 * bigM)).bits
      let (sm, se) := (zs8Val scale).getD (1, 0)
      let codes := (xs.zip (draws ++ List.replicate xs.length 0)).map fun (x, dr) => match x with
        | .fin neg n d =>
          -- x / scale, exact before its one rounding
          let n' := if se ≥ 0 then n else n * 2 ^ (-se).toNat
          let d' := if se ≥ 0 then d * sm * 2 ^ se.toNat else d * sm
          if g4 then roundZg4 c dr neg n' d' else fZE8.round c true dr neg n' d'
        | .zero true => { bits := negZero, flags := 0 }
        | _ => { bits := 0, flags := 0 }
      (scale, codes.map (·.bits),
        codes.foldl (fun f r => f ||| r.flags) (if sat then flOverflow else 0))

end Sys2Proof.Machine
end

