-- ==== Sys2Proof/Machine/Dot.lean ====
section
/-! DEFINITION. The defined dot product (chapter 03): the exact group of fast mode, the sequence of strict mode, the product of
a diagonal pass and the exactly rounded sum of a tile reduction. -/

namespace Sys2Proof.Machine

/-- An operand as read, with the flags of its reading. -/
abbrev Opd := Val × Flags

/-- A finite value in units of 2^-298, the weight of bit 0 of the group register (R58). -/
def fixed (neg : Bool) (m : Nat) (e : Int) : Int :=
  let x : Nat := if e + 298 ≥ 0 then m * 2 ^ (e + 298).toNat else m / 2 ^ (-(e + 298)).toNat
  if neg then -(x : Int) else x

/-- A fixed-point number of weight 2^-298 as an exact value, not zero. -/
def ofFixed (t : Int) : Exact := .fin (t < 0) t.natAbs (2 ^ 298)

/-- The product of two operands: its contribution to the group. -/
inductive Product where
  | nan
  | zeroInf
  | inf (neg : Bool)
  | fin (neg : Bool) (v : Int)
  deriving DecidableEq, Repr

/-- One product of a group (R59, R60). -/
def product (x y : Val) : Product :=
  match x, y with
  | .nan _ _ _, _ => .nan
  | _, .nan _ _ _ => .nan
  | .inf a, .inf b => .inf (a != b)
  | .inf a, .fin b m _ => if m = 0 then .zeroInf else .inf (a != b)
  | .fin a m _, .inf b => if m = 0 then .zeroInf else .inf (a != b)
  | .fin a xm xe, .fin b ym ye => .fin (a != b) (fixed (a != b) (xm * ym) (xe + ye))

/-- The class of a K group (R60). -/
inductive GroupClass where
  | nan
  | inf (neg : Bool)
  /-- the exact sum, and whether every product is a negative zero -/
  | fin (sum : Int) (negZero : Bool)
  deriving DecidableEq, Repr

/-- Classes a group, with the flag of its class (R60). -/
def classify (ps : List Product) : GroupClass × Flags :=
  let pinf := ps.contains (.inf false)
  let ninf := ps.contains (.inf true)
  if ps.contains .nan then (.nan, 0)
  else if ps.contains .zeroInf then (.nan, flInvalid)
  else if pinf && ninf then (.nan, flInvalid)
  else if pinf then (.inf false, 0)
  else if ninf then (.inf true, 0)
  else
    (.fin (ps.foldl (fun t p => match p with | .fin _ v => t + v | _ => t) 0)
      (ps.all fun p => match p with | .fin neg v => neg && v = 0 | _ => false), 0)

/-- Flags of operands. -/
def opdFlags (ps : List (Opd × Opd)) : Flags := ps.foldl (fun f p => f ||| p.1.2 ||| p.2.2) 0

/-- Fast mode: a group joins an accumulator with one rounding (R59-R62). -/
def fastGroup (c : Ctl) (acc : Nat) (ps : List (Opd × Opd)) : Rounded :=
  let (cls, cf) := classify (ps.map fun p => product p.1.1 p.2.1)
  let fl := opdFlags ps ||| cf
  let canon : Rounded := { bits := fB32.canonNan, flags := fl }
  match fB32.decode acc, cls with
  | .nan _ _ _, _ => canon
  | _, .nan => canon
  | .inf a, .inf g => if a = g then { bits := acc, flags := fl } else { bits := fB32.canonNan, flags := fl ||| flInvalid }
  | .inf _, .fin _ _ => { bits := acc, flags := fl }
  | .fin _ _ _, .inf g => { bits := fB32.infBits g, flags := fl }
  | .fin an am ae, .fin g nz =>
    let t := fixed an am ae + g
    if t = 0 then { bits := fB32.signBit (an && am = 0 && nz), flags := fl }
    else
      let r := fB32.deliver c.arith false 0 (ofFixed t)
      { r with flags := r.flags ||| fl }

/-- One step of the strict sequence in a format (R65): fused, or a multiplication and an addition. -/
def seqStep (f : FFmt) (c : Ctl) (unfused : Bool) (acc : Nat) (x y : Opd) : Rounded :=
  let a := f.decode acc
  let fl := x.2 ||| y.2
  if unfused then
    let (e, f1) := exactMul c x.1 y.1
    let m := f.deliver c false 0 e
    let (mv, f2) := f.readVal c (f.decode m.bits)
    let (e2, f3) := exactAdd c a mv
    let r := f.deliver c false 0 e2
    { bits := r.bits, flags := fl ||| f1 ||| m.flags ||| f2 ||| f3 ||| r.flags }
  else
    let (e, f1) := exactFma c x.1 y.1 a
    let r := f.deliver c false 0 e
    { bits := r.bits, flags := fl ||| f1 ||| r.flags }

/-- The strict sequence over steps (R65). -/
def seqDot (f : FFmt) (c : Ctl) (unfused : Bool) (acc : Nat) (ps : List (Opd × Opd)) : Rounded :=
  ps.foldl (fun r p =>
    let s := seqStep f c unfused r.bits p.1 p.2
    { bits := s.bits, flags := r.flags ||| s.flags }) { bits := acc, flags := 0 }

/-- One K group of a pass, in the mode of its control word (R59, R65). -/
def groupStep (c : Ctl) (unfused : Bool) (acc : Nat) (ps : List (Opd × Opd)) : Rounded :=
  if c.strict then seqDot fB32 c unfused acc ps else fastGroup c acc ps

/-- Cuts a list into K groups of 16 (R57). -/
def groupsOf {α : Type} : Nat → List α → List (List α)
  | 0, _ => []
  | n + 1, l => if l.isEmpty then [] else l.take 16 :: groupsOf n (l.drop 16)

/-- A whole binary32 dot product from an accumulator (R59, R65). -/
def dot32 (c : Ctl) (unfused : Bool) (acc : Nat) (ps : List (Opd × Opd)) : Rounded :=
  if c.strict then seqDot fB32 c unfused acc ps
  else (groupsOf ps.length ps).foldl (fun r g =>
    let s := fastGroup c r.bits g
    { bits := s.bits, flags := r.flags ||| s.flags }) { bits := acc, flags := 0 }

/-- The product of a diagonal pass (R83). -/
def diagProduct (c : Ctl) (x y : Opd) : Rounded :=
  let fl := x.2 ||| y.2
  if c.strict then
    let (e, f1) := exactMul c x.1 y.1
    let r := fB32.deliver c false 0 e
    { r with flags := r.flags ||| fl ||| f1 }
  else match product x.1 y.1 with
    | .nan => { bits := fB32.canonNan, flags := fl }
    | .zeroInf => { bits := fB32.canonNan, flags := fl ||| flInvalid }
    | .inf neg => { bits := fB32.infBits neg, flags := fl }
    | .fin neg v =>
      if v = 0 then { bits := fB32.signBit neg, flags := fl }
      else
        let r := fB32.deliver c.arith false 0 (ofFixed v)
        { r with flags := r.flags ||| fl }

/-- The exactly rounded sum of a tile reduction (R84). -/
def tileSum (c : Ctl) (xs : List Nat) : Rounded :=
  let vs := xs.map fun x => fB32.readVal c (fB32.decode x)
  let fl := vs.foldl (fun f v => f ||| v.2 ||| sigFlag c v.1) 0
  let pinf := vs.any fun v => v.1 = .inf false
  let ninf := vs.any fun v => v.1 = .inf true
  let nan := vs.any fun v => v.1.isNan
  let both : Flags := if pinf && ninf then flInvalid else 0
  if nan || (pinf && ninf) then { bits := fB32.canonNan, flags := fl ||| both }
  else if pinf then { bits := fB32.infBits false, flags := fl }
  else if ninf then { bits := fB32.infBits true, flags := fl }
  else
    let t := vs.foldl (fun t v => match v.1 with | .fin n m e => t + fixed n m e | _ => t) 0
    if t = 0 then { bits := fB32.signBit (vs.all fun v => v.1.isZero && v.1.isNeg), flags := fl }
    else
      let r := fB32.deliver c.arith false 0 (ofFixed t)
      { r with flags := r.flags ||| fl }

end Sys2Proof.Machine
end

