-- ==== Sys2Proof/Machine/Ops.lean ====
section
/-! DEFINITION. The named operations over the state that every family shares: reads and writes of one part, free values,
raising errors (R358-R368, R464), and the observation hooks of chapters 14, 15 and 18. -/

namespace Sys2Proof.Machine

/-! ### Parts of the state -/

/-- A plot. -/
def State.plot (s : State) (p : PlotIx) : Plot := s.plots.get p
/-- Replaces a plot. -/
def State.setPlot (s : State) (p : PlotIx) (q : Plot) : State := { s with plots := s.plots.set p.val q }
/-- Changes a plot. -/
def State.modPlot (s : State) (p : PlotIx) (f : Plot → Plot) : State := s.setPlot p (f (s.plot p))
/-- Changes a plot's sequencer. -/
def State.modSeq (s : State) (p : PlotIx) (f : Seq → Seq) : State := s.modPlot p fun q => { q with seq := f q.seq }
/-- A sync unit. -/
def State.unit (s : State) (d : DieIx) : SyncDie := s.sync.get d
/-- Changes a sync unit. -/
def State.modUnit (s : State) (d : DieIx) (f : SyncDie → SyncDie) : State :=
  { s with sync := s.sync.set d.val (f (s.unit d)) }
/-- A base die's memory registers. -/
def State.die (s : State) (d : DieIx) : BaseDie := s.mem.dies.get d
/-- Changes a base die's memory registers. -/
def State.modDie (s : State) (d : DieIx) (f : BaseDie → BaseDie) : State :=
  { s with mem := { s.mem with dies := s.mem.dies.set d.val (f (s.die d)) } }
/-- A Kufort port. -/
def State.kport (s : State) (k : KPort) : KufPort := s.kuf.ports.get k
/-- Changes a Kufort port. -/
def State.modKport (s : State) (k : KPort) (f : KufPort → KufPort) : State :=
  { s with kuf := { s.kuf with ports := s.kuf.ports.set k.val (f (s.kport k)) } }
/-- A strip. -/
def State.strip (s : State) (i : StripIx) : Strip := s.pwr.strips.get i
/-- Changes a strip. -/
def State.modStrip (s : State) (i : StripIx) (f : Strip → Strip) : State :=
  { s with pwr := { s.pwr with strips := s.pwr.strips.set i.val (f (s.strip i)) } }
/-- A host port. -/
def State.pci (s : State) : HostPort → Pci
  | .a => s.pciA
  | .b => s.pciB
/-- Changes a host port. -/
def State.modPci (s : State) (h : HostPort) (f : Pci → Pci) : State :=
  match h with
  | .a => { s with pciA := f s.pciA }
  | .b => { s with pciB := f s.pciB }
/-- A half's recorder. -/
def State.half (s : State) : Half → RecHalf
  | .a => s.evr.halfA
  | .b => s.evr.halfB
/-- Changes a half's recorder. -/
def State.modHalf (s : State) (h : Half) (f : RecHalf → RecHalf) : State :=
  match h with
  | .a => { s with evr := { s.evr with halfA := f s.evr.halfA } }
  | .b => { s with evr := { s.evr with halfB := f s.evr.halfB } }
/-- A die's trace unit. -/
def State.trace (s : State) (d : DieIx) : TraceDie := s.dbg.traces.get d
/-- Changes a die's trace unit. -/
def State.modTrace (s : State) (d : DieIx) (f : TraceDie → TraceDie) : State :=
  { s with dbg := { s.dbg with traces := s.dbg.traces.set d.val (f (s.trace d)) } }

/-- Plot store bytes of a plot (R184). -/
def State.psRead (s : State) (p : PlotIx) (a n : Nat) : List Byte := cellsGet 0 (s.plot p).store a n
/-- Writes plot store bytes. -/
def State.psWrite (s : State) (p : PlotIx) (a : Nat) (v : List Byte) : State :=
  s.modPlot p fun q => { q with store := cellsPut 0 q.store a v }

/-- Applies a step to every item of a list in turn. -/
def State.forEach {α : Type} (s : State) (l : List α) (f : State → α → State) : State := l.foldl f s

/-- Every plot, in index order. -/
def allPlots : List PlotIx := List.finRange 640
/-- Every stack, in index order. -/
def allDies : List DieIx := List.finRange 8
/-- Every strip, in index order. -/
def allStrips : List StripIx := List.finRange 80
/-- Every port, in index order. -/
def allPorts : List KPort := List.finRange 8

/-! ### Free values (log entry 1) -/

/-- The next free value and the state after its use. -/
def State.free (s : State) : Nat × State := (Config.freeNat s.freeCtr, { s with freeCtr := s.freeCtr + 1 })

/-! ### Halves and positions -/

/-- The lead half (R19); half A until the arbiter has latched (log entry 9). -/
def State.lead (s : State) : Half := s.sbd.winner.getD .a

/-- The half of a host port. -/
def halfOfPort : HostPort → Half
  | .a => .a
  | .b => .b

/-- The control host's port: the lead half's (R406). -/
def portOfHalf : Half → HostPort
  | .a => .a
  | .b => .b

/-- The position of the command at a plot's SEQPC. -/
def Plot.pos (q : Plot) : Pos := { row := q.seq.row, layer := q.seq.layer, oper := q.seq.oper, passno := q.seq.passno }

/-- The module's node number (R256). -/
def State.node (s : State) : BitVec 12 := s.kuf.node

/-- The plan runs (R182). -/
def State.running (s : State) : Bool := s.job.state = .running || s.job.state = .halted || s.job.state = .checking

/-- PLT_PLANSTAT.STATE is 0x0, 0x4 or 0x5. -/
def State.planIdle (s : State) : Bool := s.job.state = .idle || s.job.state = .ended || s.job.state = .failed

/-! ### Errors (R358-R360) -/

/-- SOURCE codes of an event record (R366). -/
def srcPlot : BitVec 4 := 0
def srcSync : BitVec 4 := 1
def srcMemory : BitVec 4 := 2
def srcRing : BitVec 4 := 3
def srcKufort : BitVec 4 := 4
def srcPower : BitVec 4 := 5
def srcEngine : BitVec 4 := 6
def srcService : BitVec 4 := 7

/-- The six detail words of a record, the rest 0 (R464). -/
def details (l : List Nat) : Vector W32 6 :=
  #v[w32 (l.getD 0 0), w32 (l.getD 1 0), w32 (l.getD 2 0), w32 (l.getD 3 0), w32 (l.getD 4 0), w32 (l.getD 5 0)]

/-- An error that no command raised. -/
def State.mkErr (s : State) (code : BitVec 16) (sev : Severity) (src : BitVec 4) (obj : Nat) (det : List Nat) : ErrRep :=
  { code := code, sev := sev, source := src, pos := Pos.none s.job.row, plot := none, object := BitVec.ofNat 64 obj,
    detail := details det, need := if sev = .jobFatal then 4 else 0 }

/-- Registers an error with a half's service controller (R360); ERROR_RECORD takes it up. -/
def State.raise (s : State) (h : Half) (e : ErrRep) : State :=
  s.modHalf h fun r => { r with registered := r.registered ++ [e] }

/-- Registers a module-wide error: the lead half handles it (R360). -/
def State.raiseLead (s : State) (e : ErrRep) : State := s.raise s.lead e

/-- A notice of class 0x0901 by the service controllers; `ev` is DETAIL0[7:0] (R359). -/
def State.notice (s : State) (ev obj : Nat) (det : List Nat) : State :=
  s.raiseLead (s.mkErr 0x0901 .notice srcService obj (ev :: det))

/-- A notice of class 0x0901 by another unit; `src` is its SOURCE (R359, R366). -/
def State.noticeFrom (s : State) (src : BitVec 4) (ev obj : Nat) (det : List Nat) : State :=
  s.raiseLead (s.mkErr 0x0901 .notice src obj (ev :: det))

/-- An error raised by a command of a plot at a position. -/
def plotErr (p : PlotIx) (pos : Pos) (code : BitVec 16) (sev : Severity) (obj : Nat) (det : List Nat) (need : BitVec 4) :
    ErrRep :=
  { code := code, sev := sev, source := srcPlot, pos := pos, plot := some p, object := BitVec.ofNat 64 obj,
    detail := details det, need := need }

/-- Registers a stop event of a plot; an earlier event keeps its REASON (R86, R144, R178). -/
def State.stopEvent (s : State) (p : PlotIx) (reason : BitVec 4) : State :=
  s.modSeq p fun q => if q.stopping.isNone then { q with stopping := some reason } else q

/-- A job-fatal error raised in a plot: the report, and the plot's stop with REASON 0x3 (R86, R144, R178). -/
def State.plotFatal (s : State) (p : PlotIx) (pos : Pos) (code : BitVec 16) (obj : Nat) (det : List Nat) : State :=
  (s.raise (halfOfDie (dieOfPlot p)) (plotErr p pos code .jobFatal obj det 4)).stopEvent p 3

/-- A recoverable error raised in a plot (R307): NEED 0x1 for a detected activation error, 0x2 for lost guarded data. -/
def State.plotRecoverable (s : State) (p : PlotIx) (pos : Pos) (code : BitVec 16) (obj : Nat) (det : List Nat)
    (need : BitVec 4) : State :=
  s.raise (halfOfDie (dieOfPlot p)) (plotErr p pos code .recoverable obj det need)

/-! ### MSI-X events (R418) -/

/-- An event of a vector at a port: its bit of PCI_IRQCAUSE, and its message where it is enabled; a masked vector's message
stays pending. In the fallow state only vectors 0 and 3 are sent (R418, R419). -/
def Pci.irqEvent (p : Pci) (v : Fin 4) (fallow : Bool) : Pci :=
  let b : BitVec 4 := 1#4 <<< v.val
  let p1 := { p with irqcause := p.irqcause ||| b }
  if !(p.irqen.getLsbD v.val && p.msixEnable) || (fallow && v ≠ 0 && v ≠ 3) then p1
  else if p.msixMask || bit (p.msix.toList.getD (4 * v.val + 3) 0) 0 then { p1 with pba := p1.pba ||| b }
  else { p1 with due := p1.due ||| b }

/-- An event of a vector at both ports (R418). -/
def State.irqEvent (s : State) (v : Fin 4) : State :=
  { s with pciA := s.pciA.irqEvent v s.evr.fallow, pciB := s.pciB.irqEvent v s.evr.fallow }

/-- PLT_PLANSTAT.STATE and PLT_STEPSTAT.HALT take values; a change is an event of vector 2 (R418). -/
def State.setPlan (s : State) (st : PlanState) (h : HaltState) : State :=
  let s1 := { s with job := { s.job with state := st, halt := h } }
  if s.job.state = st ∧ s.job.halt = h then s1 else s1.irqEvent 2

/-- SBD_STATUS.STATE takes a value; a change is an event of vector 3 (R418). -/
def State.setSbd (s : State) (st : SbdState) : State :=
  let s1 := { s with sbd := { s.sbd with state := st } }
  if s.sbd.state = st then s1 else s1.irqEvent 3

/-! ### Sticky flags (R47) -/

/-- Sets bits of PLT_FPFLAGS. -/
def State.setFlags (s : State) (p : PlotIx) (f : Flags) : State :=
  s.modPlot p fun q => { q with fpflags := q.fpflags ||| f }

/-! ### Counters (R428, R429) -/

/-- Events whose count is a timing that the model does not follow: 0x0C, 0x0D, 0x0F, 0x11, 0x12 and 0x15 (R430). -/
def timingEvent (ev : Nat) : Bool := ev ∈ [0x0C, 0x0D, 0x0F, 0x11, 0x12, 0x15]

/-- Whether a counter counts an event with a tag and a channel. -/
def Counter.counts (c : Counter) (ev : Nat) (layer oper : Id16) (chan : Option (BitVec 8)) : Bool :=
  bit c.sel 31 && decide (bits c.sel 7 0 = ev)
    && (!bit c.sel 30 || decide (bits c.tag 31 16 = layer.toNat))
    && (!bit c.sel 29 || decide (bits c.tag 15 0 = oper.toNat))
    && (match chan with
        | some ch => !bit c.sel 28 || decide (bits c.sel 15 8 = ch.toNat)
        | none => true)

/-- Counts n events of a kind with a tag at a plot. -/
def State.countCh (s : State) (p : PlotIx) (pos : Pos) (chan : Option (BitVec 8)) (ev n : Nat) : State :=
  if s.dbg.count then
    let f : Counter → Counter := fun c =>
      if c.counts ev pos.layer pos.oper chan then { c with value := satAdd c.value n } else c
    s.modPlot p fun q => { q with counters := q.counters.map f }
  else s

/-- Counts n events of a kind at a plot. -/
def State.count (s : State) (p : PlotIx) (pos : Pos) (ev n : Nat) : State := s.countCh p pos none ev n

/-- The counters of timings move on by free amounts before they are read or reconfigured (R430, log entry 10). -/
def State.settle (s : State) (p : PlotIx) : State :=
  if s.dbg.count then
    (List.range 8).foldl (fun s n =>
      let c := (s.plot p).counters.toList.getD n { sel := 0, tag := 0, value := 0 }
      if bit c.sel 31 && timingEvent (bits c.sel 7 0) then
        let (v, s1) := s.free
        let f : Nat → Counter → Counter := fun i x => if i = n then { x with value := satAdd x.value v } else x
        s1.modPlot p fun q => { q with counters := q.counters.mapIdx f }
      else s) s
  else s

/-! ### Energy model events (R342, R343) -/

/-- Adds an amount under a key of a list. -/
def addTo {κ : Type} [DecidableEq κ] : List (κ × Nat) → κ → Nat → List (κ × Nat)
  | [], k, n => [(k, n)]
  | (k', m) :: r, k, n => if k' = k then (k', m + n) :: r else (k', m) :: addTo r k n

/-- Counts n events of an energy kind for a plot and the command that issued the work. -/
def State.energy (s : State) (p : PlotIx) (pos : Pos) (kind n : Nat) : State :=
  let l := s.pwr.events.map fun e => ((e.1, e.2.1, e.2.2.1, e.2.2.2.1), e.2.2.2.2)
  let l' := addTo l (p, pos.layer, pos.oper, kind) n
  { s with pwr := { s.pwr with events := l'.map fun x => (x.1.1, x.1.2.1, x.1.2.2.1, x.1.2.2.2, x.2) } }

/-! ### Trace (R432-R438) -/

/-- Ring slots: 32,767, or 1,048,575 with SPILL (R432, R436). -/
def TraceDie.slots (t : TraceDie) : Nat := if t.spill then 1048575 else 32767

/-- The 32 bytes of a trace record (R432). -/
def TraceRec.bytes (r : TraceRec) : List Byte :=
  bytesOfWords [
    w32 (r.kind.toNat * 2 ^ 27 + b2n r.trig * 2 ^ 26 + r.plot.toNat * 2 ^ 16 + r.oper.toNat),
    w32 (r.layer.toNat * 2 ^ 16 + r.passno.toNat),
    w32 r.row.toNat,
    w32 ((r.row.toNat >>> 32) * 2 ^ 16 + r.ts.toNat >>> 32),
    w32 r.ts.toNat, r.data0, r.data1, r.tseq]

/-- A record with the module's row count and the time now. -/
def State.traceRec (s : State) (kind : BitVec 5) (plot : BitVec 10) (pos : Pos) (d0 d1 : Nat) : TraceRec :=
  { kind := kind, trig := false, plot := plot, oper := pos.oper, layer := pos.layer, passno := pos.passno, row := pos.row,
    ts := BitVec.ofNat 40 s.smod.cycles, data0 := w32 d0, data1 := w32 d1, tseq := 0 }

/-- Device address of a die's spill slice (R185, R436). -/
def traceSlice (d : DieIx) (t : TraceDie) : Nat := 0x020000000000 + (12 * d.val + t.slice.toNat) * 0x02000000

/-- Stores a record in a slot of the ring, or in the spill slice. -/
def State.traceStore (s : State) (d : DieIx) (slot : Nat) (r : TraceRec) : State :=
  let t := s.trace d
  if t.spill then { s with mem := { s.mem with cells := cellsPut 0 s.mem.cells (traceSlice d t + 32 * slot) r.bytes } }
  else s.modTrace d fun t => { t with ring := (slot, r) :: t.ring.filter fun x => x.1 ≠ slot }

/-- Capture runs. -/
def TraceDie.capturing (t : TraceDie) : Bool :=
  match t.state with
  | .armed => t.mode ≠ 0
  | .triggered => true
  | _ => false

/-- Places one record in the ring and moves WRIDX on (R434). -/
def State.tracePlace (s : State) (d : DieIx) (r : TraceRec) : State :=
  let t := s.trace d
  let s1 := s.traceStore d t.wridx { r with tseq := t.tseq }
  s1.modTrace d fun t =>
    let last := t.wridx + 1 = t.slots
    let t1 := { t with tseq := t.tseq + 1, rate := t.rate + 1, wridx := if last then 0 else t.wridx + 1,
                       wrapped := t.wrapped || (last && t.mode ≠ 0) }
    let t2 := if last && t.mode = 0 then { t1 with state := .ended } else t1
    if t.mode = 2 && t.state = .triggered then
      (if t.left ≤ 1 then { t2 with left := 0, state := .ended } else { t2 with left := t.left - 1 })
    else t2

/-- Writes a record under the capture state and the rate limit (R434, R437). -/
def State.traceWrite (s : State) (d : DieIx) (r : TraceRec) : State :=
  let t := s.trace d
  if t.state = .ended then s.modTrace d fun t => { t with full := satAdd t.full 1 }
  else if !t.capturing then s
  else if t.rate ≥ 256 then s.modTrace d fun t => { t with throttled := satAdd t.throttled 1, dropped := t.dropped + 1 }
  else
    let s1 :=
      if t.dropped = 0 then s
      else
        (s.tracePlace d (s.traceRec 0x0B 0x3FF (Pos.none s.job.row) t.dropped 0)).modTrace d fun t =>
          { t with dropped := 0 }
    if (s1.trace d).state = .ended then s1.modTrace d fun t => { t with full := satAdd t.full 1 }
    else s1.tracePlace d r

/-- The first trigger after ARM (R435): the trigger slot, then the ring; CENTRE then counts its further records. -/
def State.traceTrigger (s : State) (d : DieIx) (r : TraceRec) : State :=
  let t := s.trace d
  if !t.en || t.trigvalid || t.state = .off then s
  else
    let rt := { r with trig := true, tseq := t.tseq }
    let s1 :=
      if t.spill then
        { s with mem := { s.mem with cells := cellsPut 0 s.mem.cells (traceSlice d t + 32 * 1048575) rt.bytes } }
      else s.modTrace d fun t => { t with trigrec := some rt }
    let s2 := s1.modTrace d fun t =>
      { t with trigvalid := true, arm := false, state := if t.state = .armed then .triggered else t.state }
    let s3 := if bit t.kinds r.kind.toNat then s2.traceWrite d rt else s2
    s3.modTrace d fun t =>
      if t.mode = 2 && t.state = .triggered then
        let l := 32767 * (16 - t.pos.toNat) / 16
        if l = 0 then { t with state := .ended } else { t with left := l }
      else t

/-- Every other enabled die is triggered when SPREAD is 1 (R435). -/
def State.traceSpread (s : State) (d : DieIx) : State :=
  if s.dbg.spread then
    s.forEach allDies fun s e =>
      if e = d then s else s.traceTrigger e (s.traceRec 0x0C 0x3FF (Pos.none s.job.row) 2 0)
  else s

/-- A record of a kind on a die: written while its bit of DBG_TRCKIND is 1, and a trigger when `trig` or SRC 0x3 makes it
one (R433, R435). -/
def State.traceOn (s : State) (d : DieIx) (r : TraceRec) (trig : Bool) : State :=
  let t := s.trace d
  if !t.en then s
  else
    let byRow := t.src = 3 && bit t.kinds r.kind.toNat && decide (t.trigval.toNat ≤ r.row.toNat % 2 ^ 32)
    if (trig || byRow) && t.arm && !t.trigvalid then (s.traceTrigger d r).traceSpread d
    else if bit t.kinds r.kind.toNat then s.traceWrite d r
    else s

/-- A record about a plot. -/
def State.tracePlot (s : State) (p : PlotIx) (kind : BitVec 5) (pos : Pos) (d0 d1 : Nat) : State :=
  s.traceOn (dieOfPlot p) (s.traceRec kind (BitVec.ofNat 10 p.val) pos d0 d1) false

/-- A record of a sync unit or of the module on one die. -/
def State.traceDie (s : State) (d : DieIx) (kind : BitVec 5) (d0 d1 : Nat) : State :=
  s.traceOn d (s.traceRec kind 0x3FF (Pos.none s.job.row) d0 d1) false

/-! ### Histograms (R369, R370) -/

/-- The number of a half of a stack. -/
def Half.firstDie : Half → Nat
  | .a => 0
  | .b => 4

/-- The bin of a sample in units (R369). -/
def histBin (cfg : W32) (v : Nat) : Nat :=
  if bits cfg 31 30 = 1 then
    let base := bits cfg 11 0
    let width := bits cfg 24 12
    if v < base then 0 else Nat.min 15 ((v - base) / Nat.max width 1 + 1)
  else if v = 0 then 0 else min 15 (Nat.log2 v + 1)

/-- The value of a sample in the units in force (R369). -/
def histUnits (cfg : W32) (v : Nat) : Nat := if bits cfg 31 30 = 2 then v >>> bits cfg 29 25 else v

/-- A slot with one sample more. -/
def Hist.add (h : Hist) (cfg : W32) (row : Row) (v : Nat) : Hist :=
  let v32 := w32 (if v < 2 ^ 32 then v else 2 ^ 32 - 1)
  let b := histBin cfg v
  { h with
    last := row
    min := if h.count = 0 ∨ v32 < h.min then v32 else h.min
    minrow := if h.count = 0 ∨ v32 < h.min then row else h.minrow
    max := if h.count = 0 ∨ h.max < v32 then v32 else h.max
    maxrow := if h.count = 0 ∨ h.max < v32 then row else h.maxrow
    count := satAdd h.count 1
    bins := h.bins.mapIdx fun i c => if i = b then satAdd c 1 else c }

/-- A slot taken by a quantity and a key. -/
def Hist.fresh (q : Fin 8) (mode : BitVec 2) (layer oper : Id16) (row : Row) : Hist :=
  { quant := q, mode := mode, layer := layer, oper := oper, first := row, last := row, min := 0, max := 0, minrow := row,
    maxrow := row, count := 0, bins := Vector.replicate 16 0 }

/-- Quantities with a key: 0, 1 and 6 (R369). -/
def keyed (q : Fin 8) : Bool := q.val = 0 || q.val = 1 || q.val = 6

/-- The slot of a sample and whether it spilled to the catch-all slot (R370). -/
def histSlot (hist : List (Option Hist)) (q : Fin 8) (layer oper : Id16) : Nat × Bool :=
  if !keyed q then (q.val, false)
  else
    match (List.range 64).find? fun i => match hist.getD i none with
        | some h => decide (8 ≤ i) && h.quant = q && h.layer = layer && h.oper = oper
        | none => false with
    | some i => (i, false)
    | none =>
      match (List.range 64).find? fun i => decide (8 ≤ i) && (hist.getD i none).isNone with
      | some i => (i, false)
      | none => (q.val, true)

/-- A sample of quantity q, in its unit, from a unit of a half (R369, R370). -/
def State.sample (s : State) (h : Half) (q : Fin 8) (layer oper : Id16) (row : Row) (v : Nat) : State :=
  if !s.evr.qen.getLsbD q.val then s
  else
    let cfg := s.evr.qcfg.get q
    let (i, spill) := histSlot (s.half h).hist.toList q layer oper
    let catchAll := decide (i < 8)
    let taken := Hist.fresh q (BitVec.ofNat 2 (bits cfg 31 30)) (if catchAll then 0xFFFF else layer)
      (if catchAll then 0xFFFF else oper) row
    let f : Nat → Option Hist → Option Hist := fun j x =>
      if j = i then some ((x.getD taken).add cfg row (histUnits cfg v)) else x
    let s1 := s.modHalf h fun r => { r with hist := r.hist.mapIdx f }
    if spill then { s1 with evr := { s1.evr with histspill := satAdd s1.evr.histspill 1 } } else s1

/-- Gathers an amount for a per-row sample (R369). -/
def State.rowAdd (s : State) (q key n : Nat) : State :=
  let l := s.evr.rowAcc.map fun e => ((e.1, e.2.1), e.2.2)
  { s with evr := { s.evr with rowAcc := (addTo l (q, key) n).map fun x => (x.1.1, x.1.2, x.2) } }

end Sys2Proof.Machine
end

