-- ==== Sys2Proof/Machine/Mem.lean ====
section
/-! DEFINITION. Device memory (chapter 08): the address map, regions, the interleave, homes, the memory-side cache, and the
one access that reads or writes at a home (R188, R195, R203, R204). -/

namespace Sys2Proof.Machine

/-! ### Regions and addresses (R185, R193, R196) -/

/-- A region: its first unit, its units, whether it is guarded and whether its misses allocate in the cache. -/
structure Region where
  base : Nat
  size : Nat
  guarded : Bool
  alloc : Bool
  deriving DecidableEq, Repr

/-- Region units of a module (R193). -/
def units : OrderCode → Nat
  | .m1152 => 1536
  | .m576 => 768

/-- Bytes of a region unit. -/
def unitBytes : Nat := 0x30000000

/-- An entry of MEM_RGN (R206). -/
def regionOfWord (w : W32) : Region :=
  { base := bits w 21 11, size := bits w 10 0, guarded := !bit w 30, alloc := bit w 29 }

/-- The regions of a layout (R196). -/
def Layout.regions (l : Layout) (o : OrderCode) : List Region :=
  if l.mode then (l.rgn.toList.filter fun w => bit w 31).map regionOfWord
  else
    [{ base := 0, size := l.guardu, guarded := true, alloc := true }]
      ++ (if l.guardu < units o then [{ base := l.guardu, size := units o - l.guardu, guarded := false, alloc := true }]
          else [])

/-- Data bytes at the base of a region (R193). -/
def Region.dataBytes (r : Region) : Nat :=
  if r.guarded then r.size * unitBytes / 8 * 7 else r.size * unitBytes / 32 * 31

/-- The region whose range holds an address. -/
def Layout.regionAt (l : Layout) (o : OrderCode) (a : Nat) : Option Region :=
  (l.regions o).find? fun r => decide (r.base * unitBytes ≤ a) && decide (a < (r.base + r.size) * unitBytes)

/-- DATAMIB of a layout (R206). -/
def Layout.dataMib (l : Layout) (o : OrderCode) : Nat :=
  ((l.regions o).map fun r => r.dataBytes / 0x100000).sum

/-- The address lies in the base-store window, and the slice k = 12 s + j that holds it (R185). -/
def sliceOf (a : Nat) : Option Nat :=
  if 0x020000000000 ≤ a ∧ a < 0x0200C0000000 then some ((a - 0x020000000000) / 0x02000000) else none

/-- A stack from a number. -/
def dieIx (n : Nat) : DieIx := Fin.ofNat 8 n

/-- Slice j of stack s is in cache mode (R198, R207). -/
def State.sliceCached (s : State) (k : Nat) : Bool := (s.die (dieIx (k / 12))).slicemode.getLsbD (k % 12)

/-- The slice's mode changes (R199). -/
def State.sliceBusy (s : State) (k : Nat) : Bool :=
  match (s.die (dieIx (k / 12))).slicenext with
  | some m => m.getLsbD (k % 12) != (s.die (dieIx (k / 12))).slicemode.getLsbD (k % 12)
  | none => false

/-- The byte at an address is device memory (R185). -/
def State.isDevice (s : State) (a : Nat) : Bool :=
  match sliceOf a with
  | some k => !s.sliceCached k
  | none =>
    match s.mem.inForce.regionAt s.sbd.order a with
    | some r => decide (a < r.base * unitBytes + r.dataBytes)
    | none => false

/-- Every byte of a range is device memory. The pieces of the map are whole multiples of 64 B. -/
def State.rangeDevice (s : State) (a n : Nat) : Bool :=
  n = 0 || (List.range ((a + n - 1) / 0x100000 - a / 0x100000 + 1)).all fun i =>
    s.isDevice (if i = 0 then a else (a / 0x100000 + i) * 0x100000)
      && s.isDevice (if (a / 0x100000 + i + 1) * 0x100000 ≤ a + n then (a / 0x100000 + i + 1) * 0x100000 - 1 else a + n - 1)

/-- The byte at an address lies in a guarded region or a scratchpad slice (R156, R194). -/
def State.isGuarded (s : State) (a : Nat) : Bool :=
  match sliceOf a with
  | some k => !s.sliceCached k
  | none =>
    match s.mem.inForce.regionAt s.sbd.order a with
    | some r => r.guarded && decide (a < r.base * unitBytes + r.dataBytes)
    | none => false

/-- Every byte of a range is guarded; ranges are shorter than any region. -/
def State.rangeGuarded (s : State) (a n : Nat) : Bool :=
  n = 0 || (s.isGuarded a && s.isGuarded (a + n - 1) && s.rangeDevice a n)

/-! ### The interleave (R191, R192) -/

/-- The exclusive or of a number's bits. -/
def parity : Nat → Nat → Bool
  | 0, _ => false
  | n + 1, v => (v % 2 = 1) != parity n (v / 2)

/-- The masks in use (R192). -/
def Layout.masksInUse (l : Layout) : Vector (BitVec 25) 6 := if l.masks then l.hash else defaultMasks

/-- The channel of a DRAM address (R191). -/
def channelOf (l : Layout) (a : Nat) : Nat :=
  let g := a >>> 8
  let q := g / 192
  let r := g % 192
  let x := (List.range 6).foldl (fun x b =>
    x + (if parity 25 (q &&& (l.masksInUse.toList.getD b 0).toNat) then 2 ^ b else 0)) 0
  64 * ((r / 64 + q) % 3) + ((r % 64) ^^^ x)

/-- The channel-local address of a DRAM address (R191). -/
def localOf (a : Nat) : Nat := 256 * ((a >>> 8) / 192) + a % 256

/-- The home of an address: the base die that orders its accesses (R188, R189). -/
def State.homeOf (s : State) (a : Nat) : DieIx :=
  match sliceOf a with
  | some k => dieIx (k / 12)
  | none => dieIx (channelOf s.mem.inForce a / 24)

/-- Hops between two stacks (R186). -/
def hops (a b : DieIx) : Nat :=
  let d := (b.val + 8 - a.val) % 8
  if d ≤ 4 then d else 8 - d

/-- The CHANNEL field of MEM_ERRLOG (R207). -/
def State.channelField (s : State) (a : Nat) : Nat :=
  match sliceOf a with
  | some k => 0x7E0 + k % 12
  | none => channelOf s.mem.inForce a

/-! ### Sources and reports (R203, R207) -/

/-- The source of an access. -/
inductive MemSrc where
  | plot (p : PlotIx) (pos : Pos)
  | host (h : HostPort)
  | kufort
  | scrubber
  deriving DecidableEq, Repr

/-- The SOURCE field of MEM_ERRLOG (R207). -/
def MemSrc.code : MemSrc → Nat
  | .plot _ _ => 0
  | .host .a => 1
  | .host .b => 2
  | .kufort => 3
  | .scrubber => 4

/-- The report of a memory error: OBJECT the address and the channel, DETAIL0 the SOURCE (R366). The unit is the block's
home, and the report is recorded in its half (R365). -/
def State.memReport (s : State) (src : MemSrc) (a : Nat) (code : BitVec 16) (sev : Severity) (need : BitVec 4) : State :=
  let obj := a % 2 ^ 48 + s.channelField a * 2 ^ 48
  let e := s.mkErr code sev srcMemory obj [src.code]
  let e' := match src with
    | .plot p pos => { e with pos := pos, plot := some p, need := need }
    | _ => { e with need := need }
  s.raise (halfOfDie (s.homeOf a)) e'

/-- What a check of a stored block finds. -/
inductive BlockCheck where
  | clean | corrected | uncorrectable | undetected
  deriving DecidableEq, Repr

/-- The size of the coded block that holds an address: 64 B of DRAM, 8 B of base store (R193, R194). -/
def blockSize (a : Nat) : Nat := if (sliceOf a).isSome then 8 else 64

/-- The block that holds an address. -/
def blockOf (a : Nat) : Nat := a / blockSize a * blockSize a

/-- The stored wrong bytes (DRAM) or wrong bits (base store) of a block. -/
def badOf (l : List (Nat × Nat)) (b : Nat) : Nat :=
  match l with
  | [] => 0
  | (x, n) :: r => if x = b then n else badOf r b

/-- Drops or sets a block's stored errors. -/
def badSet (l : List (Nat × Nat)) (b n : Nat) : List (Nat × Nat) :=
  let l' := l.filter fun x => x.1 ≠ b
  if n = 0 then l' else (b, n) :: l'

/-- The granule of an address has a line in its home's cache. -/
def State.isCached (s : State) (a : Nat) : Bool :=
  (sliceOf a).isNone && (s.die (s.homeOf a)).cache.any fun c => c.granule = a / 256

/-- The check of a block under the guarantees of R193 and R194; beyond them the outcome is a free value (R203,
log entry 11). -/
def State.checkBlock (s : State) (b : Nat) : BlockCheck × State :=
  let n := badOf s.mem.bad b
  let beyond : BlockCheck × State :=
    let (v, s1) := s.free
    (if v % 2 = 0 then .uncorrectable else .undetected, s1)
  if n = 0 then (.clean, s)
  else if (sliceOf b).isSome || s.isCached b then
    -- a line of the cache lies in base-store words; its errors are reported in its region's class (log entry 11)
    if n = 1 then (.corrected, s) else if n = 2 then (.uncorrectable, s) else beyond
  else match s.mem.inForce.regionAt s.sbd.order b with
    | some r =>
      if r.guarded then (if n ≤ 3 then (.corrected, s) else if n ≤ 5 then (.uncorrectable, s) else beyond)
      else if n = 1 then (.uncorrectable, s) else beyond
    | none => (.clean, s)

/-- CLASS of MEM_ERRLOG: 1 guarded, 2 checked, 3 base store (R207). -/
def State.classOf (s : State) (a : Nat) : BitVec 2 :=
  if (sliceOf a).isSome then 3
  else match s.mem.inForce.regionAt s.sbd.order a with
    | some r => if r.guarded then 1 else 2
    | none => 0

/-- A corrected error: counted, written back, and a notice (R203). -/
def State.memCorrected (s : State) (src : MemSrc) (b : Nat) : State :=
  let d := s.homeOf b
  let s1 := s.modDie d fun x => { x with cecnt := satAdd x.cecnt 1 }
  let s2 := { s1 with mem := { s1.mem with bad := badSet s1.mem.bad b 0 } }
  (s2.memReport src b 0x0301 .notice 0).rowAdd 4 (b2n (decide (4 ≤ d.val))) 1

/-- An uncorrectable or mismatched block: MEM_ERRLOG, its count, and the recoverable report (R203, R204, R207). -/
def State.memUncorrectable (s : State) (src : MemSrc) (b : Nat) : State :=
  let d := s.homeOf b
  let cls := s.classOf b
  let ch := s.channelField b
  let s1 := s.modDie d fun x =>
    let y := if cls = 2 then { x with decnt := satAdd x.decnt 1 } else { x with uecnt := satAdd x.uecnt 1 }
    if x.errHeld then y
    else
      { y with errHeld := true, errClass := cls, errSource := BitVec.ofNat 3 src.code, errChannel := BitVec.ofNat 11 ch,
               errAddr := BitVec.ofNat 48 b }
  s1.memReport src b (if cls = 2 then 0x0303 else 0x0302) .recoverable (if cls = 2 then 1 else 2)

/-! ### The memory-side cache (R198) -/

/-- Slices of a base die in cache mode. -/
def State.cacheSlices (s : State) (d : DieIx) : Nat :=
  ((List.range 12).filter fun j => (s.die d).slicemode.getLsbD j).length

/-- Writes back a line that leaves the cache: an uncorrectable error discards it, and DRAM keeps its previous data (R203). -/
def State.writeBack (s : State) (src : MemSrc) (c : CacheLine) : State :=
  if !c.dirty then s
  else
    let bs := (List.range 4).map fun i => c.granule * 256 + 64 * i
    s.forEach bs fun s b =>
      if badOf s.mem.bad b > 1 then
        let s1 := s.memUncorrectable src b
        let old := (c.under.drop (b - c.granule * 256)).take 64
        { s1 with mem := { s1.mem with cells := cellsPut 0 s1.mem.cells b old, bad := badSet s1.mem.bad b 0 } }
      else if badOf s.mem.bad b > 0 then s.memCorrected src b
      else s

/-- An access touches its granule's line: a hit moves it to the front; a miss allocates where the region allocates, and
a set of more than 16 lines gives up its oldest (R198). The counters 0x13 and 0x14 count hits and misses (R428). -/
def State.cacheTouch (s : State) (src : MemSrc) (a : Nat) (write : Bool) : State :=
  if (sliceOf a).isSome then s
  else
    let d := s.homeOf a
    let n := s.cacheSlices d
    if n = 0 then s
    else
      let g := a / 256
      let tally := fun (s : State) (ev : Nat) => match src with
        | .plot p pos => s.count p pos ev 1
        | _ => s
      match (s.die d).cache.find? fun c => c.granule = g with
      | some c =>
        let c' := if write && !c.dirty then { c with dirty := true, under := cellsGet 0 s.mem.cells (256 * g) 256 } else c
        (tally s 0x13).modDie d fun x => { x with cache := c' :: x.cache.filter fun y => y.granule ≠ g }
      | none =>
        let s1 := tally s 0x14
        match s1.mem.inForce.regionAt s1.sbd.order a with
        | some r =>
          if r.alloc then
            let c : CacheLine :=
              { granule := g, dirty := write, under := if write then cellsGet 0 s1.mem.cells (256 * g) 256 else [] }
            let old := (s1.die d).cache
            if old.length < 16 then s1.modDie d fun x => { x with cache := c :: x.cache }
            else
              let sets := n * 8192
              let same := old.filter fun y => Config.cacheSet y.granule % sets = Config.cacheSet g % sets
              if same.length < 16 then s1.modDie d fun x => { x with cache := c :: x.cache }
              else
                match same.getLast? with
                | some v => (s1.writeBack src v).modDie d fun x =>
                    { x with cache := c :: x.cache.filter fun y => y.granule ≠ v.granule }
                | none => s1
          else s1
        | none => s1

/-! ### Accesses at the home (R188, R195, R204) -/

/-- The blocks that a range touches. -/
def blocksOf (a n : Nat) : List Nat :=
  if n = 0 then []
  else
    let z := blockSize a
    (List.range ((a + n - 1) / z - a / z + 1)).map fun i => (a / z + i) * z

/-- Checks the blocks of an access in order: the first uncorrectable one, if any, and the blocks whose delivered bytes are
free values. -/
def State.checkBlocks (s : State) (src : MemSrc) : List Nat → Option Nat × List Nat × State
  | [] => (none, [], s)
  | b :: r =>
    let (k, s1) := s.checkBlock b
    match k with
    | .uncorrectable => (some b, [], s1.memUncorrectable src b)
    | .corrected => (s1.memCorrected src b).checkBlocks src r
    | .clean => s1.checkBlocks src r
    | .undetected =>
      let (x, l, s2) := s1.checkBlocks src r
      (x, b :: l, s2)

/-- A read at the home: the block that could not be delivered, if any, and the bytes below it (R204). -/
def State.homeReadTo (s : State) (src : MemSrc) (a n : Nat) : Option Nat × List Byte × State :=
  let (e, loose, s1) := s.checkBlocks src (blocksOf a n)
  let s2 := if e.isSome then s1 else s1.cacheTouch src a false
  let good := cellsGet 0 s2.mem.cells a ((e.getD (a + n)) - a)
  if loose.isEmpty then (e, good, s2)
  else
    let (v, s3) := s2.free
    (e, good.mapIdx fun i x => if blockOf (a + i) ∈ loose then BitVec.ofNat 8 (v >>> (8 * i)) else x, s3)

/-- A read at the home: its bytes, or the block that could not be delivered (R204). -/
def State.homeRead (s : State) (src : MemSrc) (a n : Nat) : Except Nat (List Byte) × State :=
  let (e, v, s1) := s.homeReadTo src a n
  match e with
  | some b => (.error b, s1)
  | none => (.ok v, s1)

/-- A write covers a whole block. -/
def wholeBlock (a n b : Nat) : Bool := decide (a ≤ b) && decide (b + blockSize b ≤ a + n)

/-- One block of a write at the home: a partial write reads and decodes its block first; where that fails, it is not performed
(R195, R204). -/
def putBlock (src : MemSrc) (a : Nat) (v : List Byte) (acc : Bool × State) (b : Nat) : Bool × State :=
  let s := acc.2
  let lo := if b ≤ a then a else b
  let hi := if a + v.length ≤ b + blockSize b then a + v.length else b + blockSize b
  let part := (v.drop (lo - a)).take (hi - lo)
  let put := fun (s : State) =>
    let s' := s.cacheTouch src lo true
    { s' with mem := { s'.mem with cells := cellsPut 0 s'.mem.cells lo part } }
  if wholeBlock a v.length b then
    -- a report made before it stands, and the block becomes valid
    let s1 := put s
    (acc.1, { s1 with mem := { s1.mem with bad := badSet s1.mem.bad b 0 } })
  else
    let (e, _, s1) := s.checkBlocks src [b]
    match e with
    | some _ => (false, s1)
    | none => (acc.1, put s1)

/-- A write at the home. Where a partial write of a block fails, every other block of the access is written (R195, R204). -/
def State.homeWrite (s : State) (src : MemSrc) (a : Nat) (v : List Byte) : Bool × State :=
  (blocksOf a v.length).foldl (putBlock src a v) (true, s)

/-- Wrong bytes appear in the block that holds an address: they are added to those it has. -/
def State.inject (s : State) (a wrong : Nat) : State :=
  let b := blockOf a
  if wrong = 0 then s else { s with mem := { s.mem with bad := badSet s.mem.bad b (badOf s.mem.bad b + wrong) } }

/-- PLT_LASTGUARD follows a write of the job into guarded memory (R308). -/
def State.noteGuarded (s : State) (a : Nat) : State :=
  if s.isGuarded a then { s with rcv := { s.rcv with lastguard := s.job.row } } else s

/-- Cuts a range at the bounds of granules (R190). -/
def granulePieces : Nat → Nat → Nat → List (Nat × Nat)
  | 0, _, _ => []
  | fuel + 1, a, n =>
    if n = 0 then []
    else
      let k := Nat.min n (256 - a % 256)
      (a, k) :: granulePieces fuel (a + k) (n - k)

/-- A read of a range, granule by granule. -/
def State.readRange (s : State) (src : MemSrc) (a n : Nat) : Except Nat (List Byte) × State :=
  (granulePieces (n / 256 + 2) a n).foldl (fun (acc : Except Nat (List Byte) × State) x =>
    match acc.1 with
    | .error b => (.error b, acc.2)
    | .ok l =>
      let (r, s1) := acc.2.homeRead src x.1 x.2
      match r with
      | .error b => (.error b, s1)
      | .ok m => (.ok (l ++ m), s1)) (.ok [], s)

/-- A write of a range, granule by granule. -/
def State.writeRange (s : State) (src : MemSrc) (a : Nat) (v : List Byte) : Bool × State :=
  (granulePieces (v.length / 256 + 2) a v.length).foldl (fun (acc : Bool × State) x =>
    let (ok, s1) := acc.2.homeWrite src x.1 ((v.drop (x.1 - a)).take x.2)
    (acc.1 && ok, s1)) (true, s)

/-- A write of an engine of the module itself into device memory. -/
def State.engineWrite (s : State) (a : Nat) (v : List Byte) : State :=
  { s with mem := { s.mem with cells := cellsPut 0 s.mem.cells a v } }

/-- Device memory as it stands, without an access: what the module's own tables hold. -/
def State.memBytes (s : State) (a n : Nat) : List Byte := cellsGet 0 s.mem.cells a n

/-- A word of device memory. -/
def State.memWord (s : State) (a : Nat) : W32 := wordAt (s.memBytes a 4) 0

end Sys2Proof.Machine
end

