-- ==== Sys2Proof/Machine/Seq.lean ====
section
/-! DEFINITION. The plan sequencer's common operations (R159-R164, R177, R178): fetching and checking a command, moving on to
the next one, and how a stop event meets the command in progress. -/

namespace Sys2Proof.Machine

/-- A decoded command (R159). -/
structure Cmd where
  opc : Nat
  arg1 : Nat
  layer : Id16
  oper : Id16
  passno : Id16
  arg2 : Nat
  arg3 : Nat
  deriving DecidableEq, Repr

/-- The 16 bytes of a command, word by word (R159). -/
def Cmd.ofBytes (b : List Byte) : Cmd :=
  let w0 := wordAt b 0
  let w1 := wordAt b 4
  let w2 := wordAt b 8
  { opc := bits w0 31 24, arg1 := bits w0 23 0, layer := BitVec.ofNat 16 (bits w1 31 16),
    oper := BitVec.ofNat 16 (bits w1 15 0), passno := BitVec.ofNat 16 (bits w2 31 16), arg2 := bits w2 15 0,
    arg3 := (wordAt b 12).toNat }

/-- A command's position in a row (R6). -/
def Cmd.pos (c : Cmd) (row : Row) : Pos := { row := row, layer := c.layer, oper := c.oper, passno := c.passno }

/-- The device address of an image offset. -/
def State.imageAddr (s : State) (off : Nat) : Nat := (s.job.planbase.toNat + off) % 2 ^ 48

/-- The start offset of the part that a plot runs (R163). -/
def Seq.start (q : Seq) : SeqState → Nat
  | .prologue => q.prologue
  | .body => q.body
  | .epilogue => q.epilogue
  | _ => 0

/-- The three start offsets. -/
def Seq.starts (q : Seq) : List Nat := [q.prologue, q.body, q.epilogue]

/-- The end of a part: the next higher of the other starts (R163). -/
def Seq.partEnd (q : Seq) (part : SeqState) : Option Nat :=
  let st := q.start part
  (q.starts.filter fun x => st < x).foldl (fun m x => match m with
    | none => some x
    | some y => some (Nat.min x y)) none

/-- A jump target is in the same part, ahead, and a multiple of 16 (R163). -/
def Seq.targetOk (q : Seq) (target : Nat) : Bool :=
  decide (target % 16 = 0) && decide (q.pc.toNat < target) &&
    (match q.partEnd q.state with
     | some e => decide (target < e)
     | none => true)

/-- Sets SEQPC and shows the tags of the command that stands there (R183). -/
def State.seqAt (s : State) (p : PlotIx) (pc : Nat) : State :=
  let c := Cmd.ofBytes (s.memBytes (s.imageAddr pc) 16)
  s.modSeq p fun q => { q with pc := w32 pc, layer := c.layer, oper := c.oper, passno := c.passno }

/-- The command at SEQPC is done and the next one stands at `pc`: the prologue ends where the body begins (R163, R177), and
a STEP ends here (R440). -/
def State.finishAt (s : State) (p : PlotIx) (pc : Nat) : State :=
  let q := (s.plot p).seq
  let op := Cmd.ofBytes (s.memBytes (s.imageAddr q.pc.toNat) 16)
  let s1 := s.tracePlot p 0x02 (op.pos q.row) q.pc.toNat (op.opc * 2 ^ 24)
  let s2 := s1.modSeq p fun q =>
    { q with busy := .ready, waiting := false,
             state := if q.state = .prologue && pc = q.body then .body else q.state,
             stopping := if q.stepping && q.stopping.isNone then some 1 else q.stopping,
             stepping := false }
  s2.seqAt p pc

/-- The command at SEQPC is done. -/
def State.finish (s : State) (p : PlotIx) : State := s.finishAt p ((s.plot p).seq.pc.toNat + 16)

/-- The sequencer can begin the command at SEQPC: it runs a part, nothing stops or holds it, and the command before it is
done (R161, R178, R341). -/
def Seq.canIssue (q : Seq) : Bool :=
  (q.state = .prologue || q.state = .body || q.state = .epilogue) && q.stopping.isNone && q.busy = .ready && !q.sowing

/-- Strips that a frequency change or a low rail has stopped execute nothing (R333). -/
def State.clocked (s : State) (p : PlotIx) : Bool :=
  !(s.strip (stripOfPlot p)).stopped && s.pwr.railsOn && !s.evr.fallow

/-- A plot's sequencer may take a step now. -/
def State.mayIssue (s : State) (p : PlotIx) : Bool :=
  s.clocked p && (s.job.state = .running || s.job.state = .halted) && (s.plot p).seq.canIssue

/-- Refusal of the command at SEQPC (R164): the report names the plot, the image offset and the position. -/
def State.refuseCmd (s : State) (p : PlotIx) (pos : Pos) : State := s.plotFatal p pos 0x0202 (s.plot p).seq.pc.toNat []

/-- What fetching the command at SEQPC gives. -/
inductive Fetch where
  /-- this command is not the next event of the plot -/
  | off
  /-- it is refused, or could not be read -/
  | stopped (s : State)
  /-- it is fetched -/
  | cmd (c : Cmd) (s : State)

/-- Fetches the command at SEQPC (R161, R164). The row's event occurs only where the command there has its code; a code
outside the table is refused. -/
def State.fetch (s : State) (p : PlotIx) (opc : Nat) : Fetch :=
  if !s.mayIssue p then .off
  else
    let q := (s.plot p).seq
    let here := (s.plot p).pos
    let a := s.imageAddr q.pc.toNat
    if (q.state = .body || q.state = .epilogue) && some q.pc.toNat = q.partEnd q.state then .stopped (s.refuseCmd p here)
    else if !s.rangeGuarded a 16 then .stopped (s.refuseCmd p here)
    else
      let (r, s1) := s.homeRead (.plot p here) a 16
      match r with
      | .error _ => .stopped s1
      | .ok b =>
        let c := Cmd.ofBytes b
        if c.opc > 0x14 then .stopped (s1.refuseCmd p (c.pos q.row))
        else if c.opc ≠ opc then .off
        else .cmd c s1

/-- Runs a fetched command: `ok` holds when its arguments are in range and its reserved bits are 0 (R160, R164). A held
command has left its issue record (R433) when it was first held. -/
def State.command (s : State) (p : PlotIx) (opc : Nat) (ok : Cmd → State → Bool) (f : Cmd → Pos → State → State) : State :=
  match s.fetch p opc with
  | .off => s
  | .stopped s1 => s1
  | .cmd c s1 =>
    let pos := c.pos (s1.plot p).seq.row
    if ok c s1 then
      f c pos (if (s1.plot p).seq.waiting then s1 else s1.tracePlot p 0x01 pos (s1.plot p).seq.pc.toNat (c.opc * 2 ^ 24))
    else s1.refuseCmd p pos

/-- The numeric control word that PLT_NUMCTL shows: that of the pass in the array rows, else of the stream, else 0
(R39, R78). -/
def Plot.shownNumctl (q : Plot) : BitVec 16 :=
  match q.passes.getLast? with
  | some a => a.desc.numctl
  | none =>
    match q.stream with
    | some a => a.desc.numctl
    | none => 0

/-- Shows PLT_NUMCTL anew after work has begun or ended. -/
def State.showNumctl (s : State) (p : PlotIx) : State := s.modPlot p fun q => { q with numctl := q.shownNumctl }

/-- The plot's sequencer begins to wait: its Drill may run tilling load from PWR_TILL.LEVEL (R183, R340). -/
def State.beginWait (s : State) (p : PlotIx) : State :=
  let level := bits s.pwr.till 31 28
  s.modPlot p fun q => { q with tilling := level, seq := { q.seq with waiting := true } }

/-- A sowing barrier: every sequencer holds its next command until its strip's slot, while PWR_SOW.SOWEN is 1 (R341). -/
def State.sowBarrier (s : State) : State :=
  if bit s.pwr.sow 31 then
    let f : Plot → Plot := fun q => { q with seq := { q.seq with sowing := true } }
    { s with plots := s.plots.map f }
  else s

/-! ### Stops (R178, R179) -/

/-- Withdraws a participant from a combination that is not complete (R179). -/
def State.leaveCollective (s : State) (p : PlotIx) (id : Fin 4096) : State :=
  let out : Collective → Collective := fun c =>
    if c.id = id && c.reg.isNone then
      let l := (c.members.zip c.images).filter fun x => x.1 ≠ p
      { c with members := l.map (·.1), images := l.map (·.2) }
    else c
  let cs := (s.kuf.colls.map out).filter fun c => !c.members.isEmpty
  { s with kuf := { s.kuf with colls := cs } }

/-- Whether a combination has been joined by every participant (R179). -/
def State.collComplete (s : State) (id : Fin 4096) : Bool :=
  s.kuf.colls.any fun c => c.id = id && (c.reg.isSome || decide (c.members.length ≥ c.count))

/-- How a registered stop meets the command in progress: a watch is withdrawn in the next sync cycle, a combination that is
not complete is left, and work that has not begun stays the next command (R87, R145, R178, R179). -/
def State.settleStop (s : State) (p : PlotIx) : State :=
  let ready := fun (s : State) => s.modSeq p fun q => { q with busy := .ready, waiting := false }
  let withdraw := fun (s : State) => s.modUnit (dieOfPlot p) fun u => { u with withdraws := u.withdraws ++ [p] }
  match (s.plot p).seq.busy with
  | .watching => withdraw s
  | .collective id => if s.collComplete id then s else ready (withdraw (s.leaveCollective p id))
  | .passIssue _ => ready s
  | .streamIssue _ => ready s
  | .fencing _ => ready s
  | .checking c => if c.refDone then s else ready s
  | .dmaHand _ _ _ => s
  | .ready => s

/-- Registers a stop event with a REASON at a plot that runs, and settles the command in progress (R178). A plot that is
stopped, idle, ended or failed has nothing to stop. -/
def State.requestStop (s : State) (p : PlotIx) (reason : BitVec 4) : State :=
  let q := (s.plot p).seq
  if q.state = .idle || q.state = .stopped || q.state = .ended || q.state = .failed || q.stopping.isSome then s
  else (s.stopEvent p reason).settleStop p

/-- A job-fatal error of a command: the report and the plot's stop (R178, R286). -/
def State.fatal (s : State) (p : PlotIx) (pos : Pos) (code : BitVec 16) (obj : Nat) (det : List Nat) : State :=
  (s.plotFatal p pos code obj det).settleStop p

end Sys2Proof.Machine
end

