-- ==== Sys2Proof/Machine/Operands.lean ====
section
/-! DEFINITION. Operand forms: the descriptors of passes, streams, checks and transfers as they stand in the plot store
(R78, R106, R119, R165), where the elements they name lie (R80, R121), the checks of R56, R81 and R123, and which bytes of the
plot store a unit will still read or write (R82, R172). -/

namespace Sys2Proof.Machine

/-! ### Extents -/

/-- The bytes from lo up to, not including, hi of a plot store. -/
structure Ext where
  lo : Nat
  hi : Nat
  deriving DecidableEq, Repr

/-- n bytes from an address. -/
def extOf (a n : Nat) : Ext := { lo := a, hi := a + n }

/-- Two extents share a byte. -/
def Ext.meets (a b : Ext) : Bool := decide (a.lo < b.hi) && decide (b.lo < a.hi) && decide (a.lo < a.hi) && decide (b.lo < b.hi)

/-- Some extent of one list shares a byte with one of another. -/
def meet (xs ys : List Ext) : Bool := xs.any fun x => ys.any fun y => x.meets y

/-- Plot-store bytes. -/
def storeBytes : Nat := 0x200000

/-- An extent lies in the plot store. -/
def Ext.inStore (e : Ext) : Bool := decide (e.hi ≤ storeBytes)

/-! ### Rows of elements (R121) -/

/-- Rows of elements of one format at a plot-store address. -/
structure Plane where
  base : Nat
  rows : Nat
  per : Nat
  pitch : Nat
  code : Nat
  deriving DecidableEq, Repr

/-- Elements of a block: 32 or 64 for the block formats, else 1 (R120). -/
def blockLen (code : Nat) : Nat := if code = 5 then 32 else if code = 0xB then 64 else 1

/-- A block format. -/
def isBlock (code : Nat) : Bool := code = 5 || code = 0xB

/-- Bytes of one row. -/
def Plane.rowBytes (g : Plane) : Nat := (g.per * elemBits g.code + 7) / 8

/-- Bit position of element n of row r in the plot store. -/
def Plane.bitPos (g : Plane) (r n : Nat) : Nat :=
  if g.pitch = 0 then 8 * g.base + (r * g.per + n) * elemBits g.code
  else 8 * (g.base + r * g.pitch) + n * elemBits g.code

/-- Bytes from the address to the last data byte. -/
def Plane.dataLen (g : Plane) : Nat :=
  if g.rows = 0 then 0
  else if g.pitch = 0 then (g.rows * g.per * elemBits g.code + 7) / 8 else (g.rows - 1) * g.pitch + g.rowBytes

/-- The scale plane stands at the first multiple of 64 B above the last data byte. -/
def Plane.scaleBase (g : Plane) : Nat := ((g.base + g.dataLen - 1) / 64 + 1) * 64

/-- The plot-store byte that holds the scale of element n of row r. -/
def Plane.scaleAt (g : Plane) (r n : Nat) : Nat :=
  g.scaleBase + r * (g.per / blockLen g.code) + n / blockLen g.code

/-- The bytes of the rows, with their scale planes. -/
def Plane.exts (g : Plane) : List Ext :=
  extOf g.base g.dataLen :: (if isBlock g.code then [extOf g.scaleBase (g.rows * (g.per / blockLen g.code))] else [])

/-- Bits of a store from a bit position. -/
def bitsAt (m : List Host.Cell) (pos n : Nat) : Nat :=
  (natOfBytes (cellsGet 0 m (pos / 8) ((pos % 8 + n + 7) / 8)) >>> (pos % 8)) % 2 ^ n

/-- A store with bits replaced. -/
def putBits (m : List Host.Cell) (pos n v : Nat) : List Host.Cell :=
  let a := pos / 8
  let len := (pos % 8 + n + 7) / 8
  let old := natOfBytes (cellsGet 0 m a len)
  let sh := pos % 8
  let kept := old % 2 ^ sh + (old >>> (sh + n)) * 2 ^ (sh + n)
  cellsPut 0 m a (bytesOfNat len (kept + v % 2 ^ n * 2 ^ sh))

/-- The word of element n of row r. -/
def Plane.word (g : Plane) (m : List Host.Cell) (r n : Nat) : Nat := bitsAt m (g.bitPos r n) (elemBits g.code)

/-- The scale of element n of row r; 0 outside the block formats. -/
def Plane.scale (g : Plane) (m : List Host.Cell) (r n : Nat) : Nat :=
  if isBlock g.code then (cellGet 0 m (g.scaleAt r n)).toNat else 0

/-- The value of element n of row r, with the flags of its conversion (R122). -/
def Plane.read (g : Plane) (c : Ctl) (m : List Host.Cell) (r n : Nat) : Val × Flags :=
  readElem c g.code (g.word m r n) (g.scale m r n)

/-- A row that ends inside a byte, under a nonzero pitch, has the high bits of its last byte written as 0 (R121). -/
def Plane.padRow (g : Plane) (m : List Host.Cell) (r : Nat) : List Host.Cell :=
  let used := g.per * elemBits g.code
  if g.pitch ≠ 0 && used % 8 ≠ 0 then putBits m (g.bitPos r g.per) (8 - used % 8) 0 else m

/-! ### Harrow descriptors (R78-R81) -/

/-- A pass descriptor from its 64 bytes (R78). -/
def HarDesc.ofBytes (b : List Byte) : HarDesc :=
  let w := fun i => wordAt b (4 * i)
  { dkind := BitVec.ofNat 4 (bits (w 0) 31 28), arrays := BitVec.ofNat 4 (bits (w 0) 27 24),
    cfmt := BitVec.ofNat 4 (bits (w 0) 23 20), rfmt := BitVec.ofNat 4 (bits (w 0) 19 16),
    numctl := BitVec.ofNat 16 (bits (w 0) 15 0), bubble := BitVec.ofNat 8 (bits (w 1) 31 24),
    accinit := BitVec.ofNat 2 (bits (w 1) 23 22), accout := BitVec.ofNat 2 (bits (w 1) 21 20),
    bank := Fin.ofNat 2 (bits (w 1) 19 19), seq := bit (w 1) 18, axis := BitVec.ofNat 2 (bits (w 1) 17 16),
    k := bits (w 1) 15 0, rowaddr := bits (w 2) 20 0,
    coladdr := #v[bits (w 3) 20 0, bits (w 4) 20 0, bits (w 5) 20 0, bits (w 6) 20 0],
    rowstride := bits (w 7) 31 16, colstride := bits (w 7) 15 0, scaleoff := bits (w 8) 20 0, accsrc := bits (w 9) 20 0,
    accdst := bits (w 10) 20 0, outstride := bits (w 11) 20 0,
    reservedZero := ([2, 3, 4, 5, 6, 8, 9, 10, 11].all fun i => bits (w i) 31 21 = 0)
      && ([12, 13, 14, 15].all fun i => w i = 0) }

/-- Bytes of an operand vector (R79). -/
def vecBytes (code : Nat) : Nat := 4 * elemBits code

/-- The arrays that a pass enables. -/
def HarDesc.enabled (d : HarDesc) : List Nat := (List.range 4).filter fun a => d.arrays.getLsbD a

/-- COLADDR of an array. -/
def HarDesc.col (d : HarDesc) (a : Nat) : Nat := d.coladdr.toList.getD a 0

/-- The extent of an operand (R81). -/
def operandExt (addr stride k code : Nat) : Ext := extOf addr (stride * (k - 1) + vecBytes code)

/-- What a pass reads of its operands and their scales. -/
def HarDesc.operandExts (d : HarDesc) : List Ext :=
  if d.dkind = 3 then []
  else
    let cols := d.enabled.map d.col
    operandExt d.rowaddr d.rowstride d.k d.rfmt.toNat :: cols.map (fun a => operandExt a d.colstride d.k d.cfmt.toNat)
      ++ (if d.rfmt = 5 then [extOf (d.rowaddr + d.scaleoff) d.k] else [])
      ++ (if d.cfmt = 5 then cols.map fun a => extOf (a + d.scaleoff) d.k else [])

/-- The tiles that a pass loads. -/
def HarDesc.srcExts (d : HarDesc) : List Ext :=
  if d.accinit = 1 && d.dkind ≠ 2 then d.enabled.map fun a => extOf (d.accsrc + 0x1000 * a) 0x1000 else []

/-- The tiles that a pass writes out. -/
def tileExts (dst : Nat) (arrays : List Nat) : List Ext := arrays.map fun a => extOf (dst + 0x1000 * a) 0x1000

/-- What a pass writes. -/
def HarDesc.outExts (d : HarDesc) : List Ext :=
  if d.dkind = 1 then (if d.accout = 1 then [] else tileExts d.accdst d.enabled)
  else if d.dkind = 2 then d.enabled.map fun a => extOf (d.accdst + a * d.outstride) (128 * d.k)
  else d.enabled.map fun a => extOf (d.accdst + 128 * a) 128

/-- Groups of 16 steps (R57). -/
def HarDesc.groups (d : HarDesc) : Nat := (d.k + 15) / 16

/-- The numeric control word of a pass or stream: SR is refused there (R40). -/
def unitCtl (w : BitVec 16) : Option Ctl := (Ctl.decode w).filter fun c => c.rnd ≠ .sr

/-- R55: an accepted operand combination. -/
def comboOk (strict : Bool) (c r : Nat) : Bool :=
  let known := fun x => decide (1 ≤ x) && decide (x ≤ 8)
  let float := fun x => decide (1 ≤ x) && decide (x ≤ 4)
  let int := fun x => x = 6 || x = 7
  if strict then known c && known r
  else (float c && float r) || (c = 5 && r = 5) || (int c && int r) || (c = 8 && r = 8)

/-- R56, for the operand combination, K and the ZG4 blocks. -/
def HarDesc.passOk (d : HarDesc) (c : Ctl) : Bool :=
  d.dkind = 3
    || (comboOk c.strict d.cfmt.toNat d.rfmt.toNat && d.k ≠ 0 && (!(d.cfmt = 5 || d.rfmt = 5) || d.k % 32 = 0))

/-- Bit 2 a + b of every enabled array a and a bank b. -/
def HarDesc.bankMask (d : HarDesc) : BitVec 8 :=
  d.enabled.foldl (fun m a => m ||| BitVec.ofNat 8 (2 ^ (2 * a + d.bank.val))) 0

/-- R81, on the kept tiles that stand when the pass runs. -/
def HarDesc.descOk (d : HarDesc) (kept : BitVec 8) : Bool :=
  let mul := fun (n x : Nat) => decide (x % n = 0)
  let reserved := (d.dkind = 1 || d.dkind = 2 || d.dkind = 3) && d.cfmt.toNat ≤ 8 && d.rfmt.toNat ≤ 8 && d.accinit ≠ 3
    && d.accout ≠ 3 && d.reservedZero && (if d.dkind = 3 then decide (d.axis.toNat ≤ 1) else d.axis = 0)
  let formats :=
    if d.dkind = 3 then d.cfmt = 0 && d.rfmt = 0 && d.k = 0 && d.accinit ≠ 0
    else d.cfmt ≠ 0 && d.rfmt ≠ 0 && mul 16 d.rowaddr && d.enabled.all (fun a => mul 16 (d.col a)) && mul 16 d.rowstride
      && mul 16 d.colstride && decide (vecBytes d.rfmt.toNat ≤ d.rowstride) && decide (vecBytes d.cfmt.toNat ≤ d.colstride)
  let ins := d.operandExts ++ d.srcExts
  reserved && d.arrays ≠ 0 && formats && mul 128 d.accsrc && mul 128 d.accdst && mul 128 d.outstride
    && (ins ++ d.outExts).all Ext.inStore
    && (d.accinit ≠ 2 || kept &&& d.bankMask = d.bankMask)
    && (d.dkind ≠ 2 || (d.accinit = 0 && d.accout = 0 && d.bank = 0))
    && !meet d.outExts ins

/-- Why a pass is not issued: the error's class and object (R40, R56, R81). Only R81 names the descriptor. -/
def HarDesc.refusal (d : HarDesc) (addr : Nat) (kept : BitVec 8) : Option (BitVec 16 × Nat) :=
  match unitCtl d.numctl with
  | none => some (0x0201, 0)
  | some c =>
    if addr % 64 ≠ 0 || !d.descOk kept then some (0x0202, addr)
    else if d.passOk c then none else some (0x0202, 0)

/-- The kept tiles that will stand once the passes in the arrays have ended. -/
def Plot.keptAhead (q : Plot) : BitVec 8 :=
  q.passes.foldl (fun k a =>
    if a.desc.dkind = 1 then (if a.desc.accout = 0 then k &&& ~~~a.desc.bankMask else k ||| a.desc.bankMask) else k) q.kept

/-! ### Stream descriptors (R119-R125) -/

/-- A stream descriptor from its 64 bytes (R119). -/
def DrlDesc.ofBytes (b : List Byte) : DrlDesc :=
  let w := fun i => wordAt b (4 * i)
  { op := BitVec.ofNat 8 (bits (w 0) 31 24), rakeop := BitVec.ofNat 4 (bits (w 0) 23 20), rakerow := bit (w 0) 19,
    rakeclr := bit (w 0) 18, nostore := bit (w 0) 17, seq := bit (w 0) 16, numctl := BitVec.ofNat 16 (bits (w 0) 15 0),
    fmt := #v[BitVec.ofNat 4 (bits (w 1) 31 28), BitVec.ofNat 4 (bits (w 1) 27 24), BitVec.ofNat 4 (bits (w 1) 23 20),
      BitVec.ofNat 4 (bits (w 1) 19 16), BitVec.ofNat 4 (bits (w 1) 15 12)],
    count := (w 2).toNat, rowlen := bits (w 3) 15 0,
    addr := #v[bits (w 4) 20 0, bits (w 5) 20 0, bits (w 6) 20 0, bits (w 7) 20 0, bits (w 8) 20 0],
    pitch := #v[bits (w 9) 31 16, bits (w 9) 15 0, bits (w 10) 31 16, bits (w 10) 15 0, bits (w 11) 31 16],
    immlo := w 12, immhi := w 13, flagwr := bit (w 14) 31, flagaddr := bits (w 14) 20 0, rakedst := bits (w 15) 20 0,
    reservedZero := bits (w 1) 11 0 = 0 && bits (w 3) 31 16 = 0 && ([4, 5, 6, 7, 8].all fun i => bits (w i) 31 21 = 0)
      && bits (w 11) 15 0 = 0 && bits (w 14) 30 21 = 0 && bits (w 15) 31 21 = 0 }

/-- Format of stream i (A is 0). -/
def DrlDesc.f (d : DrlDesc) (i : Nat) : Nat := (d.fmt.toList.getD i 0).toNat

/-- A value format (R125). -/
def isF (c : Nat) : Bool := (decide (1 ≤ c) && decide (c ≤ 8)) || c = 0xA || c = 0xB

/-- Length of a row. -/
def DrlDesc.len (d : DrlDesc) : Nat := if d.rowlen = 0 then d.count else d.rowlen

/-- Rows of the stream. -/
def DrlDesc.rows (d : DrlDesc) : Nat := d.count / Nat.max d.len 1

/-- Pattern of a SHUFFLE (R129). -/
def DrlDesc.pattern (d : DrlDesc) : Nat := bits d.immlo 7 0

/-- Elements that a row of stream i holds. -/
def DrlDesc.per (d : DrlDesc) (i : Nat) : Nat :=
  if d.op = 0x23 && i = 3 then 1
  else if d.op = 0x31 && d.pattern = 3 && i < 2 then d.len / 2
  else if d.op = 0x31 && d.pattern = 4 && 3 ≤ i then d.len / 2
  else d.len

/-- The elements of stream i in the plot store. -/
def DrlDesc.plane (d : DrlDesc) (i : Nat) : Plane :=
  { base := d.addr.toList.getD i 0, rows := d.rows, per := d.per i, pitch := d.pitch.toList.getD i 0, code := d.f i }

/-- The computing format is binary64 (R122). -/
def DrlDesc.wide (d : DrlDesc) : Bool := d.fmt.toList.any fun c => c = 0xA

/-- Row operations (R125). -/
def DrlDesc.rowOp (d : DrlDesc) : Bool := decide (0x20 ≤ d.op.toNat) && decide (d.op.toNat ≤ 0x23)

/-- Element-wise operations (R124). -/
def DrlDesc.elementwise (d : DrlDesc) : Bool := (decide (1 ≤ d.op.toNat) && decide (d.op.toNat ≤ 0x16)) || d.op = 0x38

/-- The softmax family (R131-R133). -/
def DrlDesc.softmax (d : DrlDesc) : Bool := d.op = 0x20 || d.op = 0x21 || d.op = 0x22

/-- R125: the formats that an operation takes, and none for a stream that it does not use. Under SUMABSDIFF a CVT also
reads B (R136). -/
def DrlDesc.formatsOk (d : DrlDesc) (strict : Bool) : Bool :=
  let a := d.f 0
  let b := d.f 1
  let c := d.f 2
  let o := d.f 3
  let e := d.f 4
  let any := fun x => decide (1 ≤ x) && decide (x ≤ 0xC)
  let move := fun x => any x && !isBlock x
  let mask := c = 9 || c = 0
  match d.op.toNat with
  | 0x05 => isF a && isF b && isF c && isF o && e = 0
  | 0x0E => isF a && isF b && c = 9 && isF o && e = 0
  | 0x0F => isF a && isF b && c = 0 && o = 9 && e = 0
  | 0x20 => isF a && b = 0 && mask && isF o && e = 0
  | 0x21 => isF a && b = 0 && mask && isF o && e = 0
  | 0x22 => isF a && isF b && mask && isF o && e = 0
  | 0x23 => isF a && isF b && c = 0 && isF o && !isBlock o && e = 0 && (d.wide || comboOk strict a b)
  | 0x30 => move a && b = 0xC && c = 0 && o = a && e = 0
  | 0x31 => move a && c = 0 && o = a && bits d.immlo 31 8 = 0 &&
      (match d.pattern with
       | 1 => b = 0 && e = 0 && d.rowlen = 32 && d.count % 1024 = 0
       | 2 => b = 0 && e = 0
       | 3 => b = a && e = 0 && d.count % 2 = 0 && d.rowlen % 2 = 0
       | 4 => b = 0 && e = a && d.count % 2 = 0 && d.rowlen % 2 = 0
       | _ => false)
  | 0x32 => a = 5 && b = 0 && c = 0 && o = 5 && e = 0 && d.rows % 32 = 0 && d.pitch.toList.getD 3 0 = 0
  | 0x33 => a = 5 && b = 0 && c = 0 && o = 5 && e = 0 && d.rows % 32 = 0 && d.pitch.toList.getD 0 0 = 0
  | 0x38 => a = 0 && b = 0 && c = 0 && isF o && e = 0
  | op =>
    if op = 1 && d.rakeop = 4 then isF a && isF b && a ≠ 0xA && b ≠ 0xA && c = 0 && isF o && e = 0
    else if op ∈ [0x01, 0x07, 0x0A, 0x0B, 0x0C, 0x10, 0x11, 0x12, 0x13, 0x14, 0x15, 0x16] then
      isF a && b = 0 && c = 0 && isF o && e = 0
    else if op ∈ [0x02, 0x03, 0x04, 0x06, 0x08, 0x09, 0x0D] then isF a && isF b && c = 0 && isF o && e = 0
    else false

/-- R136, R139: the Rake operations that a stream may use. -/
def DrlDesc.rakeOk (d : DrlDesc) (strict : Bool) : Bool :=
  let o := d.f 3
  let allowed := match d.rakeop.toNat with
    | 0 => true
    | 1 => isF o
    | 2 => isF o
    | 3 => isF o
    | 4 => d.op = 1 && d.nostore
    | 5 => isF o && o ≠ 0xA
    | 6 => isF o && o ≠ 0xA
    | 7 => o = 8 && decide (1 ≤ d.rowlen) && decide (d.rowlen ≤ 20) && !d.rakerow
    | _ => false
  let seqOk := !(strict && d.seq && d.rakeop ≠ 0) || (d.rakeop = 1 && (d.rakerow || d.rakeclr))
  allowed && (d.rakeop = 0 || decide (d.op.toNat < 0x20)) && seqOk

/-- Streams that an operation reads: those of A, B and C with a format. -/
def DrlDesc.inputs (d : DrlDesc) : List Nat := [0, 1, 2].filter fun i => d.f i ≠ 0

/-- Streams that it writes. -/
def DrlDesc.outputs (d : DrlDesc) : List Nat := ([3, 4].filter fun i => d.f i ≠ 0).filter fun i => !(i = 3 && d.nostore)

/-- Bytes of a per-row Rake result (R137). -/
def DrlDesc.rakeSize (d : DrlDesc) : Nat := if d.wide then 8 else 4

/-- What a stream reads. -/
def DrlDesc.inExts (d : DrlDesc) : List Ext := d.inputs.flatMap fun i => (d.plane i).exts

/-- What a stream writes: its outputs, its per-row results and its flag record. -/
def DrlDesc.outExts (d : DrlDesc) : List Ext :=
  (d.outputs.flatMap fun i => (d.plane i).exts)
    ++ (if d.rakeop ≠ 0 && d.rakerow then [extOf d.rakedst (d.rows * d.rakeSize)] else [])
    ++ (if d.flagwr then [extOf d.flagaddr 16] else [])

/-- R124: an output may stand in place of an input. -/
def DrlDesc.inPlace (d : DrlDesc) (i o : Nat) : Bool :=
  d.elementwise && o = 3 && d.addr.toList.getD i 0 = d.addr.toList.getD o 0 && elemBits (d.f i) = elemBits (d.f o)
    && d.pitch.toList.getD i 0 = d.pitch.toList.getD o 0

/-- R123. -/
def DrlDesc.descOk (d : DrlDesc) (c : Ctl) : Bool :=
  let used := d.inputs ++ [3, 4].filter fun i => d.f i ≠ 0
  let mul := fun (n x : Nat) => decide (x % n = 0)
  let sizes := used.all fun i =>
    let g := d.plane i
    mul 16 g.base && mul 16 g.pitch && (g.pitch = 0 || decide (g.rowBytes ≤ g.pitch)) && mul (blockLen g.code) g.per
  let overlaps := d.outputs.any fun o => d.inputs.any fun i =>
    meet (d.plane o).exts (d.plane i).exts && !d.inPlace i o
  d.reservedZero && d.formatsOk c.strict && d.rakeOk c.strict
    && decide (1 ≤ d.count) && decide (d.count ≤ 4194304) && (d.rowlen = 0 || mul d.rowlen d.count)
    && (!d.rowOp || d.rowlen ≠ 0) && sizes && mul 16 d.flagaddr && mul 8 d.rakedst
    && (used.flatMap (fun i => (d.plane i).exts) ++ d.outExts).all Ext.inStore && !overlaps
    && !(d.outputs.contains 3 && d.outputs.contains 4 && meet (d.plane 3).exts (d.plane 4).exts)
    && (d.wide || d.immhi = 0 || !(d.op = 0x0C || d.op = 0x0D || d.op = 0x38))

/-- Why a stream is not issued (R40, R123). -/
def DrlDesc.refusal (d : DrlDesc) (addr : Nat) : Option (BitVec 16 × Nat) :=
  match unitCtl d.numctl with
  | none => some (0x0201, 0)
  | some c => if addr % 64 = 0 && d.descOk c then none else some (0x0202, addr)

/-- Length of a stop unit in elements (R125, R129, R146). -/
def DrlDesc.stopUnit (d : DrlDesc) : Nat :=
  if d.rowOp then d.len
  else if d.op = 0x32 || d.op = 0x33 then 32 * d.len
  else if d.op = 0x31 && d.pattern = 1 then 1024
  else 64

/-! ### DMA descriptors (R165) -/

/-- A DMA descriptor from its 128 bytes. -/
def DmaDesc.ofBytes (b : List Byte) : DmaDesc :=
  let w := fun i => wordAt b (4 * i)
  let wide := fun i => (w i).toNat + bits (w (i + 1)) 15 0 * 2 ^ 32
  { kind := BitVec.ofNat 4 (bits (w 0) 31 28), srcsp := BitVec.ofNat 2 (bits (w 0) 27 26),
    dstsp := BitVec.ofNat 2 (bits (w 0) 25 24), amode := BitVec.ofNat 2 (bits (w 0) 23 22), sampled := bit (w 0) 21,
    token := bit (w 0) 20, layout := bit (w 0) 19, numctl := BitVec.ofNat 16 (bits (w 0) 15 0),
    sfmt := BitVec.ofNat 4 (bits (w 1) 31 28), dfmt := BitVec.ofNat 4 (bits (w 1) 27 24), fltidx := bits (w 1) 8 0,
    rowlen := (w 2).toNat, nrows := bits (w 3) 31 16, cpassno := BitVec.ofNat 16 (bits (w 3) 15 0), src := wide 4,
    dst := wide 6, srcpitch := (w 8).toNat, dstpitch := (w 9).toNat, rowstep := (w 10).toNat, rowwrap := bits (w 11) 31 16,
    tokqueue := BitVec.ofNat 15 (bits (w 11) 14 0), node := BitVec.ofNat 12 (bits (w 12) 31 20),
    channel := BitVec.ofNat 8 (bits (w 12) 19 12), peer := bits (w 12) 9 0, tokpay := w 13, scale := wide 14, tensorid := w 16,
    elembase := w 17,
    reservedZero := bits (w 0) 18 16 = 0 && bits (w 1) 23 9 = 0 && bits (w 5) 31 16 = 0 && bits (w 7) 31 16 = 0
      && !bit (w 11) 15 && bits (w 12) 11 10 = 0 && bits (w 15) 31 16 = 0
      && ((List.range 14).all fun i => w (18 + i) = 0) }

/-- A transfer copies bytes (R168). -/
def DmaDesc.raw (d : DmaDesc) : Bool := d.sfmt = 0 && d.dfmt = 0

/-- The format that lays out an end: raw bytes lie as 8-bit elements. -/
def DmaDesc.code (d : DmaDesc) (f : BitVec 4) : Nat := if d.raw then 6 else f.toNat

/-- The source end in a plot store. -/
def DmaDesc.srcPlane (d : DmaDesc) : Plane :=
  { base := d.src, rows := d.nrows, per := d.rowlen, pitch := d.srcpitch, code := d.code d.sfmt }

/-- The destination end in a plot store. -/
def DmaDesc.dstPlane (d : DmaDesc) : Plane :=
  { base := d.dst, rows := d.nrows, per := d.rowlen, pitch := d.dstpitch, code := d.code d.dfmt }

/-- The plot's own bytes that a transfer reads. -/
def DmaDesc.srcExts (d : DmaDesc) : List Ext := if d.srcsp = 0 then d.srcPlane.exts else []

/-- The plot's own bytes that a transfer writes. -/
def DmaDesc.dstExts (d : DmaDesc) : List Ext := if d.dstsp = 0 then d.dstPlane.exts else []

/-! ### Work in progress (R82, R172) -/

/-- Accepted transfers. -/
def Plot.transfers (q : Plot) : List Transfer := q.movers.toList.flatten

/-- What accepted transfers will still write. -/
def Plot.moverWrites (q : Plot) : List Ext :=
  (q.transfers.filter fun t => t.performed && t.phase ≠ .tokenDue).flatMap fun t => t.desc.dstExts

/-- What accepted transfers will still read: a transfer in progress has read its source. -/
def Plot.moverReads (q : Plot) : List Ext :=
  (q.transfers.filter fun t => t.performed && t.phase = .queued).flatMap fun t => t.desc.srcExts

/-- What the arrays will still write. -/
def Plot.arrayWrites (q : Plot) : List Ext :=
  (q.passes.flatMap fun a => a.desc.outExts)
    ++ q.writeouts.flatMap fun w => tileExts w.dst ((List.range 4).filter fun a => w.arrays.getLsbD a)

/-- What the arrays will still read. -/
def Plot.arrayReads (q : Plot) : List Ext := q.passes.flatMap fun a => a.desc.operandExts ++ a.desc.srcExts

/-- What the stream will still write. -/
def Plot.streamWrites (q : Plot) : List Ext :=
  match q.stream with
  | some a => a.desc.outExts
  | none => []

/-- What the stream will still read. -/
def Plot.streamReads (q : Plot) : List Ext :=
  match q.stream with
  | some a => a.desc.inExts
  | none => []

/-- Bytes that earlier work will still write: a read of one is held. -/
def Plot.writesAhead (q : Plot) : List Ext := q.arrayWrites ++ q.streamWrites ++ q.moverWrites

/-- Bytes that earlier work will still read: a write of one is held. -/
def Plot.readsAhead (q : Plot) : List Ext := q.arrayReads ++ q.streamReads ++ q.moverReads

/-- A read of an extent is held now. -/
def Plot.readHeld (q : Plot) (l : List Ext) : Bool := meet l q.writesAhead

/-- A write of an extent is held now. -/
def Plot.writeHeld (q : Plot) (l : List Ext) : Bool := meet l (q.writesAhead ++ q.readsAhead)

/-- Marks a unit's access or fetch as held, or no longer held. -/
def State.setHeld (s : State) (p : PlotIx) (u : HeldUnit) (h : Bool) : State :=
  s.modPlot p fun q =>
    let rest := q.held.filter fun x => x ≠ u
    { q with held := if h then u :: rest else rest }

/-- The command at SEQPC is held: its fetch or its access waits (R183, R297). -/
def State.holdCommand (s : State) (p : PlotIx) : State :=
  (s.setHeld p .fetch true).modSeq p fun q => { q with waiting := true }

/-- The command at SEQPC is held no longer. -/
def State.unholdCommand (s : State) (p : PlotIx) : State :=
  (s.setHeld p .fetch false).modSeq p fun q => { q with waiting := false }

end Sys2Proof.Machine
end

