-- ==== Sys2Proof/Machine/Harrow.lean ====
section
/-! DEFINITION. The Harrow arrays (chapter 04): passes, K groups, tiles, stops with their spill records, and resumption. -/

namespace Sys2Proof.Machine

/-! ### Banks and tiles (R69, R75, R77) -/

/-- Bank b of array a. -/
def Plot.bank (q : Plot) (a : Nat) (b : Fin 2) : Tile := q.banks.toList.getD (2 * a + b.val) (Vector.replicate 1024 0)

/-- Replaces a bank. -/
def Plot.setBank (q : Plot) (a : Nat) (b : Fin 2) (t : Tile) : Plot :=
  let f : Nat → Tile → Tile := fun i x => if i = 2 * a + b.val then t else x
  { q with banks := q.banks.mapIdx f }

/-- A tile from 4 KiB of the plot store (R77). -/
def tileOf (b : List Byte) : Tile :=
  let ws := (wordsOf b 1024).toArray
  Vector.ofFn fun i : Fin 1024 => ws.getD i.val 0

/-- The bytes of a tile. -/
def tileBytes (t : Tile) : List Byte := bytesOfWords t.toList

/-- A tile whose values are read under R45, and whether one was flushed (R59, R75). -/
def flushTile (c : Ctl) (t : Tile) : Tile × Flags :=
  let f : W32 → Bool := fun w => c.flushes && fB32.isSub (fB32.decode w.toNat)
  (t.map fun w => if f w then w &&& 0x80000000#32 else w, if t.toList.any f then flFlushed else 0)

/-- The bank of a pass takes its starting value with the pass's first group (R75). -/
def State.initPass (s : State) (p : PlotIx) (a : ActivePass) (c : Ctl) : State :=
  if a.next ≠ a.start || a.resumed || a.desc.dkind ≠ 1 then s
  else
    s.forEach a.desc.enabled fun s i =>
      let (t, fl) := match a.desc.accinit.toNat with
        | 1 => flushTile c (tileOf (s.psRead p (a.desc.accsrc + 0x1000 * i) 0x1000))
        | 2 => flushTile c ((s.plot p).bank i a.desc.bank)
        | _ => (Vector.replicate 1024 0, 0)
      (s.modPlot p fun q => q.setBank i a.desc.bank t).setFlags p fl

/-! ### Operands (R80) -/

/-- Element i of operand vector k at an address. -/
def vecOpd (c : Ctl) (m : List Host.Cell) (code addr stride scaleoff k i : Nat) : Opd :=
  let w := bitsAt m (8 * (addr + k * stride) + i * elemBits code) (elemBits code)
  readElem c code w (if code = 5 then (cellGet 0 m (addr + scaleoff + 32 * (k / 32) + i)).toNat else 0)

/-- Row operand element j of step k. -/
def HarDesc.rowOpd (d : HarDesc) (c : Ctl) (m : List Host.Cell) (k j : Nat) : Opd :=
  vecOpd c m d.rfmt.toNat d.rowaddr d.rowstride d.scaleoff k j

/-- Column operand element i of step k of array a. -/
def HarDesc.colOpd (d : HarDesc) (c : Ctl) (m : List Host.Cell) (a k i : Nat) : Opd :=
  vecOpd c m d.cfmt.toNat (d.col a) d.colstride d.scaleoff k i

/-- The steps of a K group (R57). -/
def HarDesc.steps (d : HarDesc) (g : Nat) : List Nat := ((List.range 16).map (16 * g + ·)).filter (· < d.k)

/-! ### Groups (R59, R65, R74, R83) -/

/-- A K group of an outer-product pass on array a: every accumulator takes its 16 products. -/
def HarDesc.groupTile (d : HarDesc) (c : Ctl) (m : List Host.Cell) (t : Tile) (a g : Nat) : Tile × Flags :=
  let ks := d.steps g
  let cols : List (Vector Opd 32) := ks.map fun k => Vector.ofFn fun i : Fin 32 => d.colOpd c m a k i.val
  let rows : List (Vector Opd 32) := ks.map fun k => Vector.ofFn fun j : Fin 32 => d.rowOpd c m k j.val
  let out : Vector Rounded 1024 := Vector.ofFn fun x : Fin 1024 =>
    groupStep c d.seq (t.get x).toNat
      ((cols.zip rows).map fun y => (y.1.get (Fin.ofNat 32 (x.val / 32)), y.2.get (Fin.ofNat 32 x.val)))
  (out.map fun r => w32 r.bits, out.toList.foldl (fun f r => f ||| r.flags) 0)

/-- One step of a diagonal pass on one array (R83). -/
def State.diagStep (s : State) (p : PlotIx) (d : HarDesc) (c : Ctl) (m : List Host.Cell) (k a : Nat) : State :=
  let rs := (List.range 32).map fun i => diagProduct c (d.colOpd c m a k i) (d.rowOpd c m k i)
  (s.psWrite p (d.accdst + a * d.outstride + 128 * k) (rs.flatMap fun r => bytesOfNat 4 r.bits)).setFlags p
    (rs.foldl (fun f r => f ||| r.flags) 0)

/-- The order in which the arrays of a diagonal pass write one step: it matters only where OUTSTRIDE 0 sends them all to the same
bytes, and is free there (log entry 27). -/
def State.diagOrder (s : State) (d : HarDesc) : List Nat × State :=
  if d.outstride = 0 && decide (1 < d.enabled.length) then
    let (v, s1) := s.free
    (d.enabled.rotateLeft v, s1)
  else (d.enabled, s)

/-- A K group of a pass: its accumulators, or its products in the output region, and its flags. -/
def State.runGroup (s : State) (p : PlotIx) (d : HarDesc) (c : Ctl) (g : Nat) : State :=
  let m := (s.plot p).store
  if d.dkind = 2 then
    s.forEach (d.steps g) fun s k =>
      let (l, s1) := s.diagOrder d
      s1.forEach l fun s a => s.diagStep p d c m k a
  else
    s.forEach d.enabled fun s a =>
      let (t, fl) := d.groupTile c m ((s.plot p).bank a d.bank) a g
      (s.modPlot p fun q => q.setBank a d.bank t).setFlags p fl

/-- The energy kind of an array step (R342): the widest operand of a mixed pass counts (log entry 15). -/
def HarDesc.stepKind (d : HarDesc) (strict : Bool) : Nat :=
  let is := fun (l : List Nat) => l.contains d.cfmt.toNat || l.contains d.rfmt.toNat
  if strict then 4 else if is [8] then 3 else if is [1, 2] then 0 else if is [3, 4, 6] then 1 else 2

/-- 64-byte pieces of a number of bytes. -/
def pieces64 (n : Nat) : Nat := (n + 63) / 64

/-- Counters and energy of a group's steps (R342, R428). -/
def State.countSteps (s : State) (p : PlotIx) (a : ActivePass) (strict : Bool) : State :=
  let n := (a.desc.steps a.next).length
  let arrays := a.desc.enabled.length
  let read := pieces64 (n * (vecBytes a.desc.rfmt.toNat + arrays * vecBytes a.desc.cfmt.toNat))
  let s1 := ((s.count p a.pos 0x01 (n * arrays)).energy p a.pos (a.desc.stepKind strict) (n * arrays)).energy p a.pos 9 read
  if a.desc.dkind = 2 then s1.energy p a.pos 10 (2 * n * arrays) else s1

/-- The pass at the head of the arrays: the oldest. -/
def State.headPass (s : State) (p : PlotIx) : Option ActivePass := (s.plot p).passes.head?

/-- Replaces the oldest pass. -/
def State.setHeadPass (s : State) (p : PlotIx) (a : ActivePass) : State :=
  s.modPlot p fun q => { q with passes := a :: q.passes.tail }

/-- The oldest pass leaves the arrays. -/
def State.dropHeadPass (s : State) (p : PlotIx) : State :=
  (s.modPlot p fun q => { q with passes := q.passes.tail }).showNumctl p

/-- A pass has committed its last group: its bank is kept or written out (R75). -/
def State.endPass (s : State) (p : PlotIx) (a : ActivePass) : State :=
  let d := a.desc
  let s1 := s.dropHeadPass p
  if d.dkind ≠ 1 then s1
  else
    s1.modPlot p fun q =>
      { q with
        kept := if d.accout = 0 then q.kept &&& ~~~d.bankMask else q.kept ||| d.bankMask
        writeouts := if d.accout = 1 then q.writeouts
          else q.writeouts ++ [{ bank := d.bank, arrays := d.arrays, dst := d.accdst, isRef := a.isRef }] }

/-- GROUP_COMMIT: the oldest pass commits its next K group (R74). A group that a parity error discarded waits for its
re-entry (R88). -/
def execGroupCommit (p : PlotIx) (s : State) : Host.Outcome State Fault Refusal :=
  match s.headPass p with
  | none => .next s
  | some a =>
    match unitCtl a.desc.numctl with
    | none => .next s
    | some c =>
      if !s.clocked p || a.desc.dkind = 3 || a.redo = some a.next || decide (a.desc.groups ≤ a.next) then .next s
      else
        let s1 := ((s.initPass p a c).runGroup p a.desc c a.next).countSteps p a c.strict
        let a1 := { a with next := a.next + 1 }
        .next (if a1.next < a.desc.groups then s1.setHeadPass p a1 else s1.endPass p a1)

/-- TILE_WRITEOUT_DONE: the oldest write-out of a bank number ends; its tiles stand in the plot store (R75). -/
def execTileWriteoutDone (p : PlotIx) (bank : Fin 2) (s : State) : Host.Outcome State Fault Refusal :=
  match (s.plot p).writeouts.find? fun w => w.bank = bank with
  | none => .next s
  | some w =>
    if !s.clocked p then .next s
    else
      let arrays := (List.range 4).filter fun a => w.arrays.getLsbD a
      let q := s.plot p
      let s1 := s.forEach arrays fun s a => s.psWrite p (w.dst + 0x1000 * a) (tileBytes (q.bank a bank))
      let s2 := s1.energy p q.pos 10 (64 * arrays.length)
      let drop : List WriteOut → List WriteOut := fun l => l.erase w
      let s3 := s2.modPlot p fun q => { q with writeouts := drop q.writeouts }
      .next (if w.isRef then
          s3.modSeq p fun q => match q.busy with
            | .checking c => { q with busy := .checking { c with refDone := true } }
            | _ => q
        else s3)

/-- TILE_REDUCTION_DONE: the reduction at the head delivers its 32 sums per array (R84). -/
def execTileReductionDone (p : PlotIx) (s : State) : Host.Outcome State Fault Refusal :=
  match s.headPass p with
  | none => .next s
  | some a =>
    match unitCtl a.desc.numctl with
    | none => .next s
    | some c =>
      if !s.clocked p || a.desc.dkind ≠ 3 || a.redo.isSome then .next s
      else
        let d := a.desc
        let q := s.plot p
        let s1 := s.forEach d.enabled fun s i =>
          let t := if d.accinit = 1 then tileOf (cellsGet 0 q.store (d.accsrc + 0x1000 * i) 0x1000) else q.bank i d.bank
          let ws := t.toArray
          let rs := (List.range 32).map fun n => tileSum c ((List.range 32).map fun j =>
            (ws.getD (if d.axis = 0 then 32 * n + j else 32 * j + n) 0).toNat)
          (s.psWrite p (d.accdst + 128 * i) (rs.flatMap fun r => bytesOfNat 4 r.bits)).setFlags p
            (rs.foldl (fun f r => f ||| r.flags) 0)
        .next (s1.dropHeadPass p)

/-! ### Issue and entry (R72, R76, R78, R81, R82) -/

/-- PASS: fetches and checks the descriptor, and issues the pass (R78, R81). The fetch waits for bytes that earlier work will
still write (R297). -/
def execPass (p : PlotIx) (s : State) : Host.Outcome State Fault Refusal :=
  .next (s.command p 0x01 (fun c _ => c.arg1 < storeBytes && c.arg2 = 0 && c.arg3 = 0) fun c pos s =>
    if (s.plot p).readHeld [extOf c.arg1 64] then s.holdCommand p
    else
      let d := HarDesc.ofBytes (s.psRead p c.arg1 64)
      match d.refusal c.arg1 (s.plot p).keptAhead with
      | some (code, obj) => (s.unholdCommand p).fatal p pos code obj []
      | none =>
        let a : ActivePass := { addr := c.arg1, desc := d, pos := pos, start := 0, next := 0, redo := none, retried := none,
                                isRef := false, resumed := false }
        (s.unholdCommand p).modSeq p fun q => { q with busy := .passIssue a })

/-- A pass works in a bank of its enabled arrays (R75, R84). -/
def HarDesc.usesBank (d : HarDesc) : Bool := d.dkind = 1 || (d.dkind = 3 && d.accinit = 2)

/-- The bank that a pass names is being written out, or will be (R76). -/
def Plot.bankBusy (q : Plot) (d : HarDesc) : Bool :=
  d.usesBank &&
    (q.writeouts.any (fun w => w.bank = d.bank && w.arrays &&& d.arrays ≠ 0)
      || q.passes.any fun x => x.desc.dkind = 1 && x.desc.accout ≠ 1 && x.desc.bank = d.bank && x.desc.arrays &&& d.arrays ≠ 0)

/-- A pass waits for a plot-store extent (R82, R172). -/
def Plot.passHeld (q : Plot) (d : HarDesc) : Bool :=
  q.readHeld (d.operandExts ++ d.srcExts)
    || meet d.outExts (q.streamWrites ++ q.streamReads ++ q.moverWrites ++ q.moverReads)

/-- The pass that waits to enter array row 0. -/
def SeqBusy.entering : SeqBusy → Option ActivePass
  | .passIssue a => some a
  | .checking c => c.ref
  | _ => none

/-- A pass takes its first step in array row 0, or a reduction enters (R72). -/
def State.enterPass (s : State) (p : PlotIx) (a : ActivePass) : State :=
  let s1 := (s.setHeld p .pass false).modPlot p fun q => { q with passes := q.passes ++ [a], harSpilled := false }
  let s2 := if a.resumed then s1.showNumctl p else (s1.showNumctl p).count p a.pos 0x02 1
  match (s2.plot p).seq.busy with
  | .checking c => s2.modSeq p fun q => { q with busy := .checking { c with ref := none }, waiting := false }
  | _ => s2.finish p

/-- The issued pass enters, or is held. -/
def State.tryEnter (s : State) (p : PlotIx) : State :=
  let q := s.plot p
  match q.seq.busy.entering with
  | none => s
  | some a =>
    if !s.clocked p || q.bankBusy a.desc then s
    else if q.passHeld a.desc then (s.setHeld p .pass true).modSeq p fun x => { x with waiting := true }
    else s.enterPass p a

/-- PASS_ENTRY: the issued pass takes step 0 behind the sowing front (R72, R76); one that must wait stays issued. -/
def execPassEntry (p : PlotIx) (s : State) : Host.Outcome State Fault Refusal := .next (s.tryEnter p)

/-! ### Stops (R86-R91) -/

/-- The two words of a position in a stop record (R90, R145). -/
def posWords (pos : Pos) : List W32 :=
  [w32 pos.row.toNat, w32 (pos.passno.toNat * 2 ^ 16 + pos.row.toNat / 2 ^ 32), w32 (pos.oper.toNat * 2 ^ 16 + pos.layer.toNat)]

/-- The banks that a spill record of a pass holds (R90). -/
def Plot.tileMask (q : Plot) (d : HarDesc) : BitVec 8 := if d.dkind = 1 then q.kept ||| d.bankMask else q.kept

/-- The bytes of a spill record (R90). -/
def Plot.spillRecord (q : Plot) (a : ActivePass) (kpos : Nat) (reason : BitVec 4) : List Byte :=
  let mask := q.tileMask a.desc
  let w0 := w32 a.addr
  let w1 := w32 kpos
  let head := [w0, w1, w32 (mask.toNat * 2 ^ 8 + a.desc.arrays.toNat * 2 ^ 4 + reason.toNat)] ++ posWords a.pos
    ++ [~~~w1, ~~~w0] ++ List.replicate 8 0
  bytesOfWords head
    ++ ((List.range 8).filter fun i => mask.getLsbD i).flatMap fun i => tileBytes (q.bank (i / 2) (Fin.ofNat 2 i))

/-- The stopped pass leaves the arrays with a spill record (R90). -/
def State.spill (s : State) (p : PlotIx) (a : ActivePass) (kpos : Nat) (reason : BitVec 4) : State :=
  let q := s.plot p
  let s1 := s.psWrite p q.harSpillbase.toNat (q.spillRecord a kpos reason)
  let s2 := s1.modPlot p fun q => { q with passes := [], harSpilled := true }
  ((s2.showNumctl p).count p a.pos 0x03 1).tracePlot p 0x03 a.pos kpos reason.toNat

/-- PASS_STOP: a registered stop takes effect at the boundary before the pass's next group, once every group before it has
committed and every write-out has ended (R86, R87). After a parity error it stands at the discarded group (R88, R89). -/
def execPassStop (p : PlotIx) (s : State) : Host.Outcome State Fault Refusal :=
  match (s.plot p).passes, (s.plot p).seq.stopping with
  | [a], some reason =>
    match unitCtl a.desc.numctl with
    | none => .next s
    | some c =>
      if !s.clocked p || !(s.plot p).writeouts.isEmpty then .next s
      else if a.desc.dkind = 3 then
        if a.redo.isSome then .next (s.spill p a 0 4) else .next s
      else if a.redo = some a.next || (decide (a.start < a.next) && decide (a.next < a.desc.groups)) then
        .next ((s.initPass p a c).spill p a (16 * a.next) reason)
      else .next s
  | _, _ => .next s

/-- A parity error of the arrays that stops its pass (R88, R89): the report and the plot's stop with REASON 0x4. -/
def State.parityStop (s : State) (p : PlotIx) (pos : Pos) : State :=
  ((s.plotRecoverable p pos 0x0101 0 [] 1).stopEvent p 4).settleStop p

/-- HAR_PARRETRY counts a re-entry (R94). -/
def State.countRetry (s : State) (p : PlotIx) : State :=
  s.modPlot p fun q => { q with harParretry := satAdd q.harParretry 1 }

/-- A parity error in group g of a pass (R88): discarded, then re-entered once, or stopped. -/
def State.groupParity (s : State) (p : PlotIx) (a : ActivePass) (g : Nat) : ActivePass × State :=
  let a1 := { a with redo := some g }
  if (s.plot p).seq.stopping.isSome then (a1, s)
  else if a.retried = some g then (a1, s.parityStop p a.pos)
  else (a1, s.countRetry p)

/-- OPERAND_PARITY_ERROR: a parity error on an operand of group g of the oldest pass that has it before it (R88). -/
def execOperandParityError (p : PlotIx) (g : Nat) (s : State) : Host.Outcome State Fault Refusal :=
  let open_ := fun (a : ActivePass) =>
    a.desc.dkind ≠ 3 && decide (a.next ≤ g) && decide (g < a.desc.groups) && a.redo.isNone
  if !s.clocked p then .next s
  else match (s.plot p).passes.find? open_ with
    | none => .next s
    | some a =>
      let (a1, s1) := s.groupParity p a g
      let f : ActivePass → ActivePass := fun x => if x = a then a1 else x
      .next (s1.modPlot p fun q => { q with passes := q.passes.map f })

/-- PASS_REENTRY: the oldest pass re-enters at its discarded group once the groups before it have committed (R88). -/
def execPassReentry (p : PlotIx) (s : State) : Host.Outcome State Fault Refusal :=
  match s.headPass p with
  | none => .next s
  | some a =>
    if s.clocked p && a.redo = some a.next && (s.plot p).seq.stopping.isNone && a.desc.dkind ≠ 3 then
      .next (s.setHeadPass p { a with redo := none, retried := some a.next })
    else .next s

/-- REDUCTION_PARITY_ERROR: the reduction at the head discards its results and runs again, or stops (R89). -/
def execReductionParityError (p : PlotIx) (s : State) : Host.Outcome State Fault Refusal :=
  match s.headPass p with
  | none => .next s
  | some a =>
    if !s.clocked p || a.desc.dkind ≠ 3 || a.desc.accinit ≠ 1 || a.redo.isSome then .next s
    else if a.retried.isSome then .next ((s.parityStop p a.pos).setHeadPass p { a with redo := some 0 })
    else .next ((s.countRetry p).setHeadPass p { a with retried := some 0 })

/-! ### Resumption (R91) -/

/-- A position from the words of a stop record. -/
def posOfWords (lo mid hi : W32) : Pos :=
  { row := BitVec.ofNat 48 (lo.toNat + bits mid 15 0 * 2 ^ 32), passno := BitVec.ofNat 16 (bits mid 31 16),
    oper := BitVec.ofNat 16 (bits hi 31 16), layer := BitVec.ofNat 16 (bits hi 15 0) }

/-- The pass that a spill record resumes, with its bank mask; none when a check of R91 fails. -/
def Plot.readSpill (q : Plot) (rec : Nat) : Option (ActivePass × BitVec 8) :=
  let b := cellsGet 0 q.store rec 64
  let w := fun i => wordAt b (4 * i)
  let reason := bits (w 2) 3 0
  let mask := BitVec.ofNat 8 (bits (w 2) 15 8)
  let kpos := bits (w 1) 15 0
  let addr := bits (w 0) 20 0
  let d := HarDesc.ofBytes (cellsGet 0 q.store addr 64)
  let kOk := if d.dkind = 3 then decide (kpos = 0) else decide (kpos % 16 = 0) && decide (kpos < d.k)
  if w 6 = ~~~(w 1) && w 7 = ~~~(w 0) && decide (1 ≤ reason) && decide (reason ≤ 4) && bits (w 2) 7 4 = d.arrays.toNat && kOk
      && (d.dkind ≠ 1 || mask &&& d.bankMask = d.bankMask) && d.refusal addr mask = none then
    some ({ addr := addr, desc := d, pos := posOfWords (w 3) (w 4) (w 5), start := kpos / 16, next := kpos / 16, redo := none,
            retried := none, isRef := false, resumed := true }, mask)
  else none

/-- Reloads the tiles of a spill record and marks the kept ones (R91). The stopped pass's own bank is marked when the pass
continues a kept tile. -/
def State.reloadTiles (s : State) (p : PlotIx) (rec : Nat) (a : ActivePass) (mask : BitVec 8) : State :=
  let slots := (List.range 8).filter fun i => mask.getLsbD i
  let s1 := s.forEach slots.zipIdx fun s x =>
    let t := tileOf (s.psRead p (rec + 64 + 0x1000 * x.2) 0x1000)
    s.modPlot p fun q => q.setBank (x.1 / 2) (Fin.ofNat 2 x.1) t
  let own := if a.desc.dkind = 1 && a.desc.accinit ≠ 2 then a.desc.bankMask else 0
  s1.modPlot p fun q => { q with kept := q.kept ||| (mask &&& ~~~own) }

/-- RESUMEP: checks a spill record, reloads its tiles and issues the pass from KPOS (R91). It waits until the arrays are
empty (log entry 16). -/
def execResumep (p : PlotIx) (s : State) : Host.Outcome State Fault Refusal :=
  .next (s.command p 0x0E (fun c _ => c.arg1 < storeBytes && c.arg2 = 0 && c.arg3 = 0) fun c pos s =>
    let q := s.plot p
    if !q.passes.isEmpty || !q.writeouts.isEmpty || q.readHeld [extOf c.arg1 (64 + 8 * 0x1000)] then s.holdCommand p
    else
      match q.readSpill c.arg1 with
      | none => (s.unholdCommand p).fatal p pos 0x0203 c.arg1 []
      | some (a, mask) =>
        ((s.unholdCommand p).reloadTiles p c.arg1 a mask).modSeq p fun q => { q with busy := .passIssue a })

/-- The resume entry's RESUMEP (R178): the pass of the record at HAR_SPILLBASE enters the arrays. -/
def State.resumePass (s : State) (p : PlotIx) : State :=
  let q := s.plot p
  if !q.harSpilled then s
  else
    match q.readSpill q.harSpillbase.toNat with
    | none => s.fatal p q.pos 0x0203 q.harSpillbase.toNat []
    | some (a, mask) =>
      let s1 := (s.reloadTiles p q.harSpillbase.toNat a mask).modPlot p fun q =>
        { q with passes := q.passes ++ [a], harSpilled := false }
      s1.showNumctl p

end Sys2Proof.Machine
end

