-- ==== Sys2Proof/Machine/RakeReg.lean ====
section
/-! DEFINITION. The Rake register (R134-R141): terms, combination, read-out and its image. -/

namespace Sys2Proof.Machine

/-! ### Terms (R135) -/

/-- A binary64 term or square on the register's grid: rounded to a multiple of 2^-298, ties to even; a magnitude of 2^256 or
more is an infinity. -/
def gridTerm (neg : Bool) (m : Nat) (e : Int) : Val × Flags :=
  let num := if e ≥ 0 then m * 2 ^ e.toNat else m
  let den := if e ≥ 0 then 1 else 2 ^ (-e).toNat
  if 2 ^ 256 * den ≤ num then (.inf neg, flOverflow)
  else
    let n := num * 2 ^ 298
    let k := n / den
    let r := n % den
    let k' := if 2 * r > den || (2 * r = den && k % 2 = 1) then k + 1 else k
    (.fin (neg && (m = 0 || k' ≠ 0)) k' (-298), if r = 0 then 0 else flInexact)

/-- The square of a value, exact; never negative. -/
def Val.square : Val → Val
  | .nan n f s => .nan n f s
  | .inf _ => .inf false
  | .fin _ m e => .fin false (m * m) (2 * e)

/-- The magnitude of a difference of two values (R135): its term under SUMABSDIFF. -/
def absDiff (a b : Val) : Val × Flags :=
  match a, b with
  | .nan n f s, _ => (.nan n f s, 0)
  | _, .nan n f s => (.nan n f s, 0)
  | .inf x, .inf y => if x = y then (.nan false 0 false, flInvalid) else (.inf false, 0)
  | .inf _, _ => (.inf false, 0)
  | _, .inf _ => (.inf false, 0)
  | .fin an am ae, .fin bn bm be =>
    let e0 := min ae be
    (.fin false (sig an am ae e0 - sig bn bm be e0).natAbs e0, 0)

/-- The term of element d[e] for an additive operation (R136). -/
def rakeTerm (op : Nat) (wide : Bool) (v : Val) : Val × Flags :=
  let x := if op = 2 then v.square else if op = 3 then v.abs else v
  match x with
  | .fin n m e => if wide then gridTerm n m e else (x, 0)
  | _ => (x, 0)

/-- A negative zero. -/
def Val.isNegZero (v : Val) : Bool := v.isZero && v.isNeg

/-- The register's number. -/
def RakeReg.num (r : RakeReg) : Int := r.value.toInt

/-- A term enters a register of additive kind. -/
def RakeReg.addTerm (r : RakeReg) (v : Val) : RakeReg :=
  let r1 := { r with kind := .additive, terms := r.terms + 1,
                     negzero := v.isNegZero && (r.terms = 0 || r.negzero) }
  match v with
  | .nan _ _ _ => { r1 with nan := true }
  | .inf false => { r1 with pinf := true }
  | .inf true => { r1 with ninf := true }
  | .fin n m e => { r1 with value := r.value + BitVec.ofInt 640 (fixed n m e) }

/-- The finite extreme of a MAX or MIN register, with the sign of a zero; none while an infinity is the extreme, or no number
has entered. DEDUCED: a NaN sets NAN and is no extreme, so the register keeps its largest or smallest number (log entry 17). -/
def RakeReg.extreme (r : RakeReg) : Option (Int × Bool) :=
  if r.fin && !r.pinf && !r.ninf then some (r.num, r.negzero) else none

/-- Of two finite extremes, the larger with +0.0 above -0.0, or the smaller. -/
def pickExtreme (isMax : Bool) (a b : Int × Bool) : Int × Bool :=
  let less := decide (a.1 < b.1) || (decide (a.1 = b.1) && a.2 && !b.2)
  if less = isMax then b else a

/-- Sets the finite extreme; a register whose extreme is not finite keeps no number. -/
def RakeReg.withExtreme (r : RakeReg) (e : Option (Int × Bool)) : RakeReg :=
  match e with
  | some (n, z) => { r with value := BitVec.ofInt 640 n, negzero := z, fin := true }
  | none => { r with value := 0, negzero := false, fin := false }

/-- The extreme of a set from those of two parts. -/
def joinExtreme (isMax : Bool) (a b : Option (Int × Bool)) : Option (Int × Bool) :=
  match a, b with
  | some x, some y => some (pickExtreme isMax x y)
  | some x, none => some x
  | none, y => y

/-- The register of one term of MAX or MIN kind. -/
def RakeReg.single (isMax : Bool) (v : Val) : RakeReg :=
  let r : RakeReg := { RakeReg.cleared with kind := if isMax then .max else .min, terms := 1 }
  match v with
  | .nan _ _ _ => { r with nan := true }
  | .inf false => { r with pinf := true }
  | .inf true => { r with ninf := true }
  | .fin n m e => { r with value := BitVec.ofInt 640 (fixed n m e), negzero := n && m = 0, fin := true }

/-- Two registers of MAX or MIN kind as one (R135, R141). -/
def RakeReg.joinMax (isMax : Bool) (a b : RakeReg) : RakeReg :=
  let r : RakeReg :=
    { value := 0, nan := a.nan || b.nan,
      pinf := if isMax then a.pinf || b.pinf else a.pinf && b.pinf,
      ninf := if isMax then a.ninf && b.ninf else a.ninf || b.ninf,
      negzero := false, kind := a.kind, terms := a.terms + b.terms, fin := false }
  if r.pinf || r.ninf then r else r.withExtreme (joinExtreme isMax a.extreme b.extreme)

/-- An image combined into a register as if its terms had entered it (R141); kinds are equal, or one is empty. -/
def RakeReg.combine (a b : RakeReg) : RakeReg :=
  match a.kind, b.kind with
  | .empty, _ => b
  | _, .empty => a
  | .additive, _ =>
    { value := a.value + b.value, nan := a.nan || b.nan, pinf := a.pinf || b.pinf, ninf := a.ninf || b.ninf,
      negzero := if a.terms = 0 then b.negzero else if b.terms = 0 then a.negzero else a.negzero && b.negzero,
      kind := .additive, terms := a.terms + b.terms, fin := false }
  | .max, _ => a.joinMax true b
  | .min, _ => a.joinMax false b
  | .or, _ => { a with value := a.value ||| b.value, terms := a.terms + b.terms }

/-- Kinds that may meet (R136, R141). -/
def kindsMeet (a b : RakeKind) : Bool := a = .empty || b = .empty || a = b

/-- The kind of a Rake operation (R136). -/
def rakeKind (op : Nat) : RakeKind :=
  if op = 5 then .max else if op = 6 then .min else if op = 7 then .or else .additive

/-- A term of MAX or MIN enters. -/
def RakeReg.extremeTerm (r : RakeReg) (isMax : Bool) (v : Val) : RakeReg := r.combine (.single isMax v)

/-- Word e of an OR stream enters (R136). -/
def RakeReg.orWord (r : RakeReg) (e w : Nat) : RakeReg :=
  { r with kind := .or, value := r.value ||| BitVec.ofNat 640 (w * 2 ^ (32 * e)), terms := r.terms + 1 }

/-! ### The sequential sum (R139) -/

/-- One addition of the sequence in a format, on the accumulator's bits. -/
def seqAcc (f : FFmt) (c : Ctl) (acc : Nat) (v : Val) : Rounded :=
  let (e, f1) := exactAdd c (f.decode acc) v
  let x := f.deliver c false 0 e
  { x with flags := f1 ||| x.flags }

/-- The register with the sequence's result so far as its exact value; a binary64 one takes its place on the register's grid
(R135). -/
def RakeReg.holdSeq (r : RakeReg) (f : FFmt) (acc : Nat) : RakeReg :=
  let r1 : RakeReg := { RakeReg.cleared with kind := .additive, terms := r.terms + 1 }
  let v := f.decode acc
  match (match v with | .fin n m e => (gridTerm n m e).1 | x => x) with
  | .nan _ _ _ => { r1 with nan := true }
  | .inf false => { r1 with pinf := true }
  | .inf true => { r1 with ninf := true }
  | .fin n m e => { r1 with value := BitVec.ofInt 640 (fixed n m e), negzero := v.isNegZero }

/-! ### Reading out (R138) -/

/-- The register's value in a format. -/
def RakeReg.read (r : RakeReg) (f : FFmt) (c : Ctl) : Rounded :=
  let special := fun (flags : Flags) => ({ bits := f.canonNan, flags := flags } : Rounded)
  if r.kind = .empty then { bits := 0, flags := 0 }
  else if r.nan then special (if r.kind = .additive && r.pinf && r.ninf then flInvalid else 0)
  else if r.kind = .additive && r.pinf && r.ninf then special flInvalid
  else if r.pinf then { bits := f.infBits false, flags := 0 }
  else if r.ninf then { bits := f.infBits true, flags := 0 }
  else if r.num = 0 then { bits := f.signBit r.negzero, flags := 0 }
  else f.deliver c.arith false 0 (ofFixed r.num)

/-! ### Images (R140) -/

/-- The code of a kind. -/
def RakeKind.code : RakeKind → Nat
  | .empty => 0
  | .additive => 1
  | .max => 2
  | .min => 3
  | .or => 4

/-- The kind of a code. -/
def RakeKind.ofCode : Nat → Option RakeKind
  | 0 => some .empty
  | 1 => some .additive
  | 2 => some .max
  | 3 => some .min
  | 4 => some .or
  | _ => none

/-- The status word at 0x50. -/
def RakeReg.status (r : RakeReg) : W32 :=
  w32 (r.kind.code * 16 + b2n r.negzero * 8 + b2n r.ninf * 4 + b2n r.pinf * 2 + b2n r.nan)

/-- The 128 bytes of an image, with a given number in its VALUE field. -/
def RakeReg.imageOf (r : RakeReg) (value : Nat) : List Byte :=
  let head := bytesOfNat 80 value
    ++ bytesOfWords [r.status, ~~~r.status, w32 r.terms.toNat, w32 (r.terms.toNat / 2 ^ 32)]
  head ++ bytesOfWord (crc32 head) ++ zeros 28

/-- The 128 bytes of an image. -/
def RakeReg.image (r : RakeReg) : List Byte := r.imageOf r.value.toNat

/-- The spec states no number for a MAX or MIN register that has no finite extreme (log entry 17). -/
def RakeReg.loose (r : RakeReg) : Bool := (r.kind = .max || r.kind = .min) && r.extreme.isNone

/-- An image read back; none where its CRC or STATUSC differs or its KIND is reserved (R141). -/
def RakeReg.ofImage (b : List Byte) : Option RakeReg :=
  let st := wordAt b 0x50
  let terms := (wordAt b 0x58).toNat + (wordAt b 0x5C).toNat * 2 ^ 32
  if wordAt b 0x54 = ~~~st && wordAt b 0x60 = crc32 (b.take 0x60) then
    (RakeKind.ofCode (bits st 7 4)).map fun k =>
      let r : RakeReg :=
        { value := BitVec.ofNat 640 (natOfBytes (b.take 80)), nan := bit st 0, pinf := bit st 1, ninf := bit st 2,
          negzero := bit st 3, kind := k,
          terms := BitVec.ofNat 64 terms,
          fin := (k = .max || k = .min) && terms ≠ 0 && !bit st 1 && !bit st 2 }
      if r.loose then { r with value := 0, negzero := false } else r
  else none

end Sys2Proof.Machine
end

