-- ==== Sys2Proof/Machine/Trans.lean ====
section
/-! DEFINITION. The Drill's functions EXP, LOG, RECIP, RSQRT, TANH, SIGMOID and ERF (R127). Their values are irrational but
for the operands listed apart, so each is enclosed between two fixed-point numbers whose distance shrinks until both
lie in one cell of a grid finer than every rounding bound; the middle of that cell rounds as the value itself does. -/

namespace Sys2Proof.Machine

/-- An enclosure at a precision P: the value lies from lo / 2^P to hi / 2^P. -/
structure Encl where
  lo : Nat
  hi : Nat
  deriving DecidableEq, Repr

/-- The product of two enclosures at precision p. -/
def Encl.mul (p : Nat) (a b : Encl) : Encl := { lo := a.lo * b.lo / 2 ^ p, hi := a.hi * b.hi / 2 ^ p + 1 }
/-- The sum. -/
def Encl.add (a b : Encl) : Encl := { lo := a.lo + b.lo, hi := a.hi + b.hi }
/-- The difference of a larger and a smaller value. -/
def Encl.sub (a b : Encl) : Encl := { lo := a.lo - b.hi, hi := a.hi - b.lo }
/-- The quotient at precision p. -/
def Encl.div (p : Nat) (a b : Encl) : Encl := { lo := a.lo * 2 ^ p / b.hi, hi := a.hi * 2 ^ p / b.lo + 1 }
/-- The quotient by a natural number. -/
def Encl.divNat (a : Encl) (n : Nat) : Encl := { lo := a.lo / n, hi := a.hi / n + 1 }
/-- The product by a natural number. -/
def Encl.mulNat (a : Encl) (n : Nat) : Encl := { lo := a.lo * n, hi := a.hi * n }
/-- One. -/
def Encl.one (p : Nat) : Encl := { lo := 2 ^ p, hi := 2 ^ p }

/-- m * 2^e at precision p. -/
def Encl.ofDyadic (p m : Nat) (e : Int) : Encl :=
  let k := e + p
  if k ≥ 0 then { lo := m * 2 ^ k.toNat, hi := m * 2 ^ k.toNat }
  else { lo := m / 2 ^ (-k).toNat, hi := m / 2 ^ (-k).toNat + 1 }

/-- Horner steps of the exponential series: 1 + r / k * acc for k = n down to 1. -/
def expSeries (p : Nat) (r : Encl) : Nat → Encl → Encl
  | 0, acc => acc
  | k + 1, acc => expSeries p r k ((Encl.one p).add ((r.mul p acc).divNat (k + 1)))

/-- Repeated squaring. -/
def squares (p : Nat) : Nat → Encl → Encl
  | 0, a => a
  | n + 1, a => squares p n (a.mul p a)

/-- e^x for x = m * 2^e up to 2^11, at precision p. -/
def enclExp (p m : Nat) (e : Int) : Encl :=
  -- r = x / 2^20 is below 2^-8; the omitted terms of the series lie below two units of the last place
  let r := Encl.ofDyadic p m (e - 20)
  let t := expSeries p r (p / 8 + 2) (Encl.one p)
  squares p 20 { t with hi := t.hi + 2 }

/-- The series z + z^3 / 3 + z^5 / 5 + ... by Horner in z². -/
def atanhSeries (p : Nat) (z2 : Encl) : Nat → Encl → Encl
  | 0, acc => acc
  | k + 1, acc => atanhSeries p z2 k (((Encl.one p).divNat (2 * k + 1)).add (z2.mul p acc))

/-- 2 atanh z for z at most 1 / 3. -/
def enclAtanh2 (p : Nat) (z : Encl) : Encl :=
  let t := atanhSeries p (z.mul p z) (p / 3 + 2) { lo := 0, hi := 0 }
  let u := (z.mul p { t with hi := t.hi + 2 }).mulNat 2
  u

/-- ln 2. -/
def enclLn2 (p : Nat) : Encl := enclAtanh2 p ((Encl.one p).divNat 3)

/-- |ln x| for x = m * 2^e, and whether x is below 1. -/
def enclLog (p m : Nat) (e : Int) : Encl × Bool :=
  let b := Nat.log2 m
  let k := e + b
  -- mantissa in [1, 2)
  let mant := Encl.ofDyadic p m (-(b : Int))
  let z := (mant.sub (Encl.one p)).div p (mant.add (Encl.one p))
  let l := enclAtanh2 p z
  if k ≥ 0 then (((enclLn2 p).mulNat k.toNat).add l, false) else (((enclLn2 p).mulNat (-k).toNat).sub l, true)

/-- The arc tangent of 1 / n by its alternating series, to within `terms` units. -/
def atanInv (one n : Nat) : Nat → Nat → Nat → Int
  | 0, _, _ => 0
  | f + 1, k, t =>
    let v : Int := t / (2 * k + 1)
    (if k % 2 = 0 then v else -v) + atanInv one n f (k + 1) (t / (n * n))

/-- π by Machin's formula. -/
def enclPi (p : Nat) : Encl :=
  let one := 2 ^ (p + 32)
  let v := 16 * atanInv one 5 (p / 4 + 20) 0 (one / 5) - 4 * atanInv one 239 (p / 4 + 20) 0 (one / 239)
  let n := v.toNat / 2 ^ 32
  { lo := n - 1, hi := n + 2 }

/-- The square root of an enclosure. -/
def Encl.sqrt (p : Nat) (a : Encl) : Encl := { lo := Nat.sqrt (a.lo * 2 ^ p), hi := Nat.sqrt (a.hi * 2 ^ p) + 1 }

/-- Terms x (2x²)^n / (1 * 3 * ... * (2n + 1)) summed. -/
def erfSeries (p : Nat) (x2 : Encl) : Nat → Nat → Encl → Encl → Encl
  | 0, _, t, acc => { lo := acc.lo, hi := acc.hi + t.hi + 2 }
  | f + 1, k, t, acc =>
    let t' := ((t.mul p x2).mulNat 2).divNat (2 * k + 3)
    erfSeries p x2 f (k + 1) t' (acc.add t')

/-- erf x for x = m * 2^e below 8. -/
def enclErf (p m : Nat) (e : Int) : Encl :=
  let x := Encl.ofDyadic p m e
  let x2 := x.mul p x
  let ex := (Encl.one p).div p (enclExp p (m * m) (2 * e))
  let s := erfSeries p x2 (p + 300) 0 x x
  let c := (((Encl.one p).mulNat 4).div p (enclPi p)).sqrt p
  (c.mul p ex).mul p s

/-- The cell of 2^-s that holds a value, by enclosures of growing precision. -/
def cell (f : Nat → Encl) (s : Nat) : List Nat → Nat
  | [] => (f (s + 64)).lo / 2 ^ 64
  | g :: r =>
    let x := f (s + g)
    if x.lo / 2 ^ g = x.hi / 2 ^ g then x.lo / 2 ^ g else cell f s r

/-- Guard bits tried in turn. -/
def guards : List Nat := [64, 128, 256, 512, 1024, 2048, 4096, 8192]

/-- The value of an enclosure as it rounds. -/
def sticky (neg : Bool) (f : Nat → Encl) (s : Nat) : Exact := .fin neg (2 * cell f s guards + 1) (2 ^ (s + 1))

/-- A magnitude just below a dyadic value. -/
def justBelow (neg : Bool) (m : Nat) (e : Int) : Exact := dyadic neg (m * 2 ^ 200 - 1) (e - 200)

/-- floor(log2 |x|). -/
def magnitude (m : Nat) (e : Int) : Int := e + Nat.log2 m

/-- e^x for a finite nonzero x. -/
def expVal (neg : Bool) (m : Nat) (e : Int) : Exact :=
  let g := magnitude m e
  if g < -80 then (if neg then justBelow false 1 0 else .fin false (2 ^ 200 + 1) (2 ^ 200))
  else if g ≥ 10 then (if neg then .fin false 1 (2 ^ 1400) else .fin false (2 ^ 1400 + 1) 1)
  else if neg then sticky false (fun p => (Encl.one p).div p (enclExp p m e)) (1600)
  else sticky false (fun p => enclExp p m e) 160

/-- ln x for a finite positive x other than 1. -/
def logVal (m : Nat) (e : Int) : Exact :=
  sticky (enclLog 200 m e).2 (fun p => (enclLog p m e).1) 160

/-- tanh x for a finite nonzero x. -/
def tanhVal (neg : Bool) (m : Nat) (e : Int) : Exact :=
  let g := magnitude m e
  if g < -40 then justBelow neg m e
  else if g ≥ 5 then justBelow neg 1 0
  else
    sticky neg (fun p =>
      let x := enclExp p m (e + 1)
      (x.sub (Encl.one p)).div p (x.add (Encl.one p))) 240

/-- 1 / (1 + e^-x) for a finite nonzero x. -/
def sigmoidVal (neg : Bool) (m : Nat) (e : Int) : Exact :=
  let g := magnitude m e
  if g < -80 then (if neg then justBelow false 1 (-1) else .fin false (2 ^ 200 + 1) (2 ^ 201))
  else if g ≥ 10 then (if neg then .fin false 1 (2 ^ 1400) else justBelow false 1 0)
  else if neg then sticky false (fun p => (Encl.one p).div p ((enclExp p m e).add (Encl.one p))) 1600
  else
    sticky false (fun p =>
      let x := enclExp p m e
      x.div p (x.add (Encl.one p))) 160

/-- erf x for a finite nonzero x. -/
def erfVal (neg : Bool) (m : Nat) (e : Int) : Exact :=
  let g := magnitude m e
  if g ≥ 3 then justBelow neg 1 0
  else sticky neg (fun p => enclErf p m e) (160 + (-g).toNat)

/-- 1 / sqrt x for a finite positive x: exact where the root is rational, else with a sticky last bit. -/
def rsqrtVal (m : Nat) (e : Int) : Exact :=
  -- 1 / x = num / den, scaled so that the integer root keeps 1,200 bits
  let num := if e ≥ 0 then 1 else 2 ^ (-e).toNat
  let den := if e ≥ 0 then m * 2 ^ e.toNat else m
  stickySqrt num den 1200

/-- The exact value and the flags of a function of one operand (R127). The code is that of R125. -/
def exactFn (c : Ctl) (op : Nat) (x : Val) : Exact × Flags :=
  let sf := sigFlag c x
  match x with
  | .nan n f _ => (.nan (some (n, f)), sf)
  | .inf neg =>
    match op with
    | 0x10 => (if neg then .zero false else .inf false, 0)
    | 0x11 => if neg then (.nan none, flInvalid) else (.inf false, 0)
    | 0x12 => (.zero neg, 0)
    | 0x13 => if neg then (.nan none, flInvalid) else (.zero false, 0)
    | 0x14 => (.fin neg 1 1, 0)
    | 0x15 => (if neg then .zero false else .fin false 1 1, 0)
    | _ => (.fin neg 1 1, 0)
  | .fin neg m e =>
    if m = 0 then
      match op with
      | 0x10 => (.fin false 1 1, 0)
      | 0x11 => (.inf true, flDivzero)
      | 0x12 => (.inf neg, flDivzero)
      | 0x13 => (.inf neg, flDivzero)
      | 0x14 => (.zero neg, 0)
      | 0x15 => (.fin false 1 2, 0)
      | _ => (.zero neg, 0)
    else
      match op with
      | 0x10 => (expVal neg m e, 0)
      | 0x11 =>
        if neg then (.nan none, flInvalid)
        else if dyadic false m e = .fin false 1 1 || m * 2 ^ (e.toNat) = 2 ^ ((-e).toNat) then (.zero false, 0)
        else (logVal m e, 0)
      | 0x12 => (if e ≥ 0 then .fin neg 1 (m * 2 ^ e.toNat) else .fin neg (2 ^ (-e).toNat) m, 0)
      | 0x13 => if neg then (.nan none, flInvalid) else (rsqrtVal m e, 0)
      | 0x14 => (tanhVal neg m e, 0)
      | 0x15 => (sigmoidVal neg m e, 0)
      | _ => (erfVal neg m e, 0)

end Sys2Proof.Machine
end

