-- ==== Sys2Proof/Machine/Drill.lean ====
section
/-! DEFINITION. The Drill (chapter 06): the operations on streams, the Rake terms they deliver, stream flags, stops with their
records, and resumption. -/

namespace Sys2Proof.Machine

/-! ### Element-wise operations (R122, R125-R127) -/

/-- A result: a value of the computing format, or bits that are stored as they are. -/
inductive DrlRes where
  | val (v : Val)
  | raw (w : Nat)
  deriving DecidableEq, Repr

/-- The computing format (R122). -/
def DrlDesc.fmtOf (d : DrlDesc) : FFmt := if d.wide then fB64 else fB32

/-- Delivers an exact result in the computing format and reads it back. -/
def DrlDesc.round (d : DrlDesc) (c : Ctl) (x : Exact × Flags) : Val × Flags :=
  let r := d.fmtOf.deliver c.arith false 0 x.1
  (d.fmtOf.decode r.bits, x.2 ||| r.flags)

/-- A NaN of fast mode is the canonical one (R43). -/
def canonVal (c : Ctl) (v : Val) : Val := if !c.strict && v.isNan then .nan false 0 false else v

/-- The immediate as an operand (R122). -/
def DrlDesc.imm (d : DrlDesc) (c : Ctl) : Opd :=
  if d.wide then fB64.readVal c (fB64.decode (d.immlo.toNat + d.immhi.toNat * 2 ^ 32))
  else fB32.readVal c (fB32.decode d.immlo.toNat)

/-- The stored bits of element n of row r of stream i. -/
def DrlDesc.word (d : DrlDesc) (m : List Host.Cell) (i r n : Nat) : Nat := (d.plane i).word m r n

/-- Element n of row r of stream i as an operand. -/
def DrlDesc.opd (d : DrlDesc) (c : Ctl) (m : List Host.Cell) (i r n : Nat) : Opd := (d.plane i).read c m r n

/-- The sign bit of a stored element. -/
def signMask (code : Nat) : Nat := 2 ^ (elemBits code - 1)

/-- Strict ABS and NEG on stored bits (R126): only the sign bit changes; integers and block formats go through their value. -/
def bitwise (code : Nat) : Bool := (floatOf code).isSome && !isBlock code

/-- What ABS, NEG and SELECT deliver to a D that is not of their input's format (R52, R126): in strict mode a NaN of a short
format is the canonical one, and one that signals raises INVALID in a binary32 or binary64 target. -/
def DrlDesc.quiet (d : DrlDesc) (c : Ctl) (i : Nat) (v : Val) (fl : Flags) : DrlRes × Flags :=
  let long := fun x => decide (x = 8) || decide (x = 0xA)
  let w := if c.strict && v.isNan && !long (d.f i) then .nan false 0 false else canonVal c v
  (.val w, fl ||| (if long (d.f 3) then sigFlag c w else 0))

/-- The result of an element-wise operation on element n of row r (R125-R127). -/
def DrlDesc.element (d : DrlDesc) (c : Ctl) (m : List Host.Cell) (r n : Nat) : DrlRes × Flags :=
  let a := d.opd c m 0 r n
  let b := d.opd c m 1 r n
  let z := d.opd c m 2 r n
  let im := d.imm c
  let fl2 := a.2 ||| b.2
  let out := fun (fl : Flags) (x : Exact × Flags) =>
    let y := d.round c x
    ((DrlRes.val y.1 : DrlRes), fl ||| y.2)
  let same := c.strict && d.f 3 = d.f 0 && bitwise (d.f 0)
  let fused := fun (fl : Flags) (x y w : Val) =>
    if c.strict && d.seq then
      let p := d.round c (exactMul c x y)
      let t := d.round c (exactAdd c p.1 w)
      ((DrlRes.val t.1 : DrlRes), fl ||| p.2 ||| t.2)
    else out fl (exactFma c x y w)
  match d.op.toNat with
  | 0x01 => (.val (canonVal c a.1), a.2 ||| (if d.rakeop = 4 then b.2 else 0) ||| (if d.f 3 = 8 || d.f 3 = 0xA then sigFlag c a.1 else 0))
  | 0x02 => out fl2 (exactAdd c a.1 b.1)
  | 0x03 => out fl2 (exactAdd c a.1 b.1.negate)
  | 0x04 => out fl2 (exactMul c a.1 b.1)
  | 0x05 => fused (fl2 ||| z.2) a.1 b.1 z.1
  | 0x06 => out fl2 (exactDiv c a.1 b.1)
  | 0x07 => out a.2 (exactSqrt c a.1)
  | 0x08 => out fl2 (exactMaxMin true c a.1 b.1)
  | 0x09 => out fl2 (exactMaxMin false c a.1 b.1)
  | 0x0A =>
    if same then (.raw (d.word m 0 r n % signMask (d.f 0)), 0)
    else d.quiet c 0 (match a.1 with | .nan _ f s => .nan false f s | v => v.abs) a.2
  | 0x0B =>
    if same then (.raw (d.word m 0 r n ^^^ signMask (d.f 0)), 0)
    else d.quiet c 0 (match a.1 with | .nan g f s => .nan (!g) f s | v => v.negate) a.2
  | 0x0C => out (a.2 ||| im.2) (exactMul c a.1 im.1)
  | 0x0D => fused (fl2 ||| im.2) im.1 a.1 b.1
  | 0x0E =>
    let first := d.word m 2 r n = 1
    let i := if first then 0 else 1
    if c.strict && d.f 3 = d.f i && bitwise (d.f i) then (.raw (d.word m i r n), 0)
    else if first then d.quiet c i a.1 (if c.strict then a.2 else fl2)
    else d.quiet c i b.1 (if c.strict then b.2 else fl2)
  | 0x0F =>
    let gt := !a.1.isNan && !b.1.isNan && decide (0 < a.1.cmp b.1)
    (.raw (b2n gt), fl2 ||| sigFlag c a.1 ||| sigFlag c b.1)
  | 0x38 => (.val (canonVal c im.1), im.2 ||| (if d.f 3 = 8 || d.f 3 = 0xA then sigFlag c im.1 else 0))
  | op => out a.2 (exactFn c op a.1)

/-! ### Delivery to D (R51-R53, R122) -/

/-- An element as stored: its bits, its block's scale, and its flags. -/
structure Stored where
  bits : Nat
  scale : Nat
  flags : Flags
  deriving DecidableEq, Repr

/-- A NaN or an infinity of a block makes its own element's INVALID (log entry 18). -/
def blockFlags (x : Exact) : Flags :=
  match x with
  | .nan _ => flInvalid
  | .inf _ => flInvalid
  | _ => 0

/-- Results as a block format stores them: whole blocks (R53). -/
def storeBlocks (c : Ctl) (code : Nat) : Nat → List Val → List Stored
  | 0, _ => []
  | fuel + 1, l =>
    if l.isEmpty then []
    else
      let xs := (l.take (blockLen code)).map Val.exact
      let (sc, codes, fl) := writeBlock c (code = 5) [] xs
      let bad := xs.any fun x => match x with | .nan _ => true | .inf _ => true | _ => false
      (codes.zip xs).map (fun y => { bits := y.1, scale := sc, flags := if bad then blockFlags y.2 else fl })
        ++ storeBlocks c code fuel (l.drop (blockLen code))

/-- Results as the format of D stores them. -/
def storeResults (c : Ctl) (code : Nat) (l : List DrlRes) : List Stored :=
  if isBlock code then
    storeBlocks c code l.length (l.map fun r => match r with | .val v => v | .raw _ => .fin false 0 0)
  else l.map fun r => match r with
    | .raw w => { bits := w, scale := 0, flags := 0 }
    | .val v =>
      let x := writeElem c code 0 v.exact
      { bits := x.bits, scale := 0, flags := x.flags }

/-- Writes one stored element; a row's last element closes its last byte (R121). -/
def Plane.write (g : Plane) (m : List Host.Cell) (r n : Nat) (x : Stored) : List Host.Cell :=
  let m1 := putBits m (g.bitPos r n) (elemBits g.code) x.bits
  let m2 := if isBlock g.code then cellPut 0 m1 (g.scaleAt r n) (BitVec.ofNat 8 x.scale) else m1
  if n + 1 = g.per then g.padRow m2 r else m2

/-! ### The work of a unit -/

/-- What a stream has done so far. -/
structure Work where
  store : List Host.Cell
  reg : RakeReg
  sflags : BitVec 9
  firstInv : W32
  terms : Nat
  /-- the accumulator of a sequential sum, as bits of the computing format (R139) -/
  acc : Nat
  deriving DecidableEq, Repr

/-- Adds the flags of element e. -/
def Work.flag (w : Work) (e : Nat) (fl : Flags) : Work :=
  { w with sflags := w.sflags ||| fl.zeroExtend 9
           firstInv := if fl.getLsbD 0 && decide (e < w.firstInv.toNat) then w32 e else w.firstInv }

/-- The stream sums its terms one after another (R139). -/
def DrlDesc.sequential (d : DrlDesc) (c : Ctl) : Bool := c.strict && d.seq && d.rakeop = 1

/-- A term of element e of the row enters the Rake (R135-R139). -/
def DrlDesc.term (d : DrlDesc) (c : Ctl) (w : Work) (e n : Nat) (v : Val × Flags) (word : Nat) : Work :=
  let op := d.rakeop.toNat
  if op = 0 then w
  else
    let w1 := { w with terms := w.terms + 1 }
    if op = 7 then { w1 with reg := w1.reg.orWord n word }
    else if op = 5 || op = 6 then ({ w1 with reg := w1.reg.extremeTerm (op = 5) v.1 }).flag e v.2
    else if op = 4 then ({ w1 with reg := w1.reg.addTerm v.1 }).flag e v.2
    else if d.sequential c then
      let x := seqAcc d.fmtOf c w1.acc v.1
      ({ w1 with acc := x.bits, reg := w1.reg.holdSeq d.fmtOf x.bits }).flag e (v.2 ||| x.flags)
    else
      let t := rakeTerm op (d.f 3 = 0xA) v.1
      ({ w1 with reg := w1.reg.addTerm t.1 }).flag e (v.2 ||| t.2)

/-- Before element n of a row: the clearings of R137. -/
def DrlDesc.clearAt (d : DrlDesc) (w : Work) (e n : Nat) : Work :=
  if d.rakeop = 0 then w
  else if (d.rakerow && n = 0) || (!d.rakerow && d.rakeclr && e = 0) then { w with reg := .cleared, acc := 0 } else w

/-- After the last element of row r: the per-row read-out, and the clearing after the last row (R137, R138). -/
def DrlDesc.readRow (d : DrlDesc) (c : Ctl) (w : Work) (e r n : Nat) : Work :=
  if d.rakeop = 0 || !d.rakerow || n + 1 ≠ d.len then w
  else
    let x := if d.sequential c then { bits := w.acc, flags := 0 } else w.reg.read d.fmtOf c
    let w1 := ({ w with store := cellsPut 0 w.store (d.rakedst + d.rakeSize * r) (bytesOfNat d.rakeSize x.bits) }).flag e x.flags
    if r + 1 = d.rows then { w1 with reg := .cleared } else w1

/-- Elements [lo, hi) of an element-wise stream: read in full, then written (R124). -/
def DrlDesc.chunk (d : DrlDesc) (c : Ctl) (w : Work) (lo hi : Nat) : Work :=
  let es := (List.range (hi - lo)).map (lo + ·)
  let at_ := fun e => (e / Nat.max d.len 1, e % Nat.max d.len 1)
  let m := w.store
  let res := es.map fun e => d.element c m (at_ e).1 (at_ e).2
  let st := storeResults c (d.f 3) (res.map (·.1))
  let g := d.plane 3
  ((es.zip res).zip st).foldl (fun w x =>
    let e := x.1.1
    let (r, n) := at_ e
    let y := x.2
    let w1 := (d.clearAt w e n).flag e (x.1.2.2 ||| y.flags)
    let w2 := if d.nostore then w1 else { w1 with store := g.write w1.store r n y }
    let v : Val × Flags :=
      if d.rakeop = 4 then absDiff (d.opd c m 0 r n).1 (d.opd c m 1 r n).1 else readElem c (d.f 3) y.bits y.scale
    d.readRow c (d.term c w2 e n v y.bits) e r n) w

/-! ### Row operations (R67, R131-R133) -/

/-- The canonical NaN as a value. -/
def nanVal : Val := .nan false 0 false

/-- Plus zero. -/
def zeroVal : Val := .fin false 0 0

/-- The sum s of a row of exponentials: formed in the Rake register and rounded once, or sequential (R131, R133, R135). -/
def DrlDesc.expSum (d : DrlDesc) (c : Ctl) (es : List Val) : Val × Flags :=
  if c.strict && d.seq then
    es.foldl (fun a e =>
      let t := d.round c (exactAdd c a.1 e)
      (t.1, a.2 ||| t.2)) (zeroVal, 0)
  else
    let ts : List Opd := es.map fun v => rakeTerm 1 d.wide v
    let e0 : Int := ts.foldl (fun lo v => match v.1 with | .fin _ _ e => min lo e | _ => lo) 0
    let t : Int := ts.foldl (fun t v => match v.1 with | .fin n m e => t + sig n m e e0 | _ => t) 0
    d.round c (dyadic (t < 0) t.natAbs e0, orFlags (ts.map (·.2)))

/-- The largest of a list of values. -/
def maxVal : List Val → Val
  | [] => zeroVal
  | v :: r => r.foldl (fun m x => if 0 < x.cmp m then x else m) v

/-- Exponentials of a finite row: the rounded differences and their exponentials (R131). -/
def DrlDesc.exps (d : DrlDesc) (c : Ctl) (xs : List Val) : List (Val × Val × Flags) :=
  let m := maxVal xs
  xs.map fun a =>
    let t := d.round c (exactAdd c a m.negate)
    let e := d.round c (exactFn c 0x10 t.1)
    (t.1, e.1, t.2 ||| e.2)

/-- Puts the results of the unmasked positions back between those of the masked ones. -/
def spread (mask : List Bool) (on : List Val) (off : Val) : List Val :=
  match mask with
  | [] => []
  | true :: r => on.headD off :: spread r on.tail off
  | false :: r => off :: spread r on off

/-- SOFTMAX and LOGSOFTMAX on a row (R131, R132). -/
def DrlDesc.softmaxRow (d : DrlDesc) (c : Ctl) (log : Bool) (xs : List Opd) (mask : List Bool) : List Val × Flags :=
  let live := ((xs.zip mask).filter (·.2)).map (·.1)
  let fl := orFlags (live.map (·.2))
  let vs := live.map (·.1)
  let off : Val := if log then .inf true else zeroVal
  let all := fun (v : Val) => mask.map fun _ => v
  let k := (vs.filter fun v => v = .inf false).length
  if vs.all fun v => v = .inf true then (all off, fl ||| flVoidrow)
  else if vs.any Val.isNan then (all nanVal, fl ||| flInvalid)
  else if k ≠ 0 then
    let x : Exact × Flags :=
      if log then
        (match exactFn c 0x11 (.fin false k 0) with
         | (.fin n a b, f) => (.fin (!n) a b, f)
         | (.zero _, f) => (.zero false, f)
         | r => r)
      else exactDiv c (.fin false 1 0) (.fin false k 0)
    let y := d.round (if log then c else { c with rnd := .rne }) x
    (spread mask (vs.map fun v => if v = .inf false then y.1 else off) off, fl ||| y.2 ||| flInfrow)
  else
    let es := d.exps c vs
    let s := d.expSum c (es.map (·.2.1))
    let fe := orFlags (es.map (·.2.2))
    if log then
      let l := d.round c (exactFn c 0x11 s.1)
      let ys := es.map fun e => d.round c (exactAdd c e.1 l.1.negate)
      (spread mask (ys.map (·.1)) off, fl ||| fe ||| s.2 ||| l.2 ||| orFlags (ys.map (·.2)))
    else
      let ys := es.map fun e => d.round c (exactDiv c e.2.1 s.1)
      (spread mask (ys.map (·.1)) off, fl ||| fe ||| s.2 ||| orFlags (ys.map (·.2)))

/-- A dot product along a row in the computing format (R67). -/
def DrlDesc.dotRow (d : DrlDesc) (c : Ctl) (ps : List (Opd × Opd)) : Val × Flags :=
  let r := if d.wide then seqDot fB64 c.arith (d.seq && (c.strict || d.op = 0x23)) 0 ps else dot32 c d.seq 0 ps
  (d.fmtOf.decode r.bits, r.flags)

/-- SOFTMAXBWD on a row (R133). -/
def DrlDesc.backRow (d : DrlDesc) (c : Ctl) (ys gs : List Opd) (mask : List Bool) : List Val × Flags :=
  let live := ((ys.zip gs).zip mask).filter (·.2)
  let fl := orFlags (live.map fun x => x.1.1.2 ||| x.1.2.2)
  let all := fun (v : Val) => mask.map fun _ => v
  if live.isEmpty then (all zeroVal, flVoidrow)
  else if live.any fun x => x.1.1.1.isNan || x.1.2.1.isNan then (all nanVal, fl ||| flInvalid)
  else
    let z : Opd := (zeroVal, 0)
    let dot := d.dotRow c (((ys.zip gs).zip mask).map fun x => if x.2 then x.1 else (z, z))
    let out := live.map fun x =>
      let t := d.round c (exactAdd c x.1.2.1 dot.1.negate)
      let y := d.round c (exactMul c x.1.1.1 t.1)
      (y.1, t.2 ||| y.2)
    (spread mask (out.map (·.1)) zeroVal, fl ||| dot.2 ||| orFlags (out.map (·.2)))

/-- One row of a row operation. -/
def DrlDesc.rowUnit (d : DrlDesc) (c : Ctl) (w : Work) (r : Nat) : Work :=
  let m := w.store
  let ns := List.range d.len
  let as_ := ns.map fun n => d.opd c m 0 r n
  let bs := ns.map fun n => d.opd c m 1 r n
  let mask := ns.map fun n => d.f 2 = 0 || d.word m 2 r n = 1
  let (vs, fl) := match d.op.toNat with
    | 0x20 => d.softmaxRow c false as_ mask
    | 0x21 => d.softmaxRow c true as_ mask
    | 0x22 => d.backRow c as_ bs mask
    | _ =>
      let x := d.dotRow c (as_.zip bs)
      ([x.1], x.2)
  let st := storeResults c (d.f 3) (vs.map DrlRes.val)
  let g := d.plane 3
  let w1 := w.flag (r * d.len) (fl ||| orFlags (st.map (·.flags)))
  if d.nostore then w1
  else { w1 with store := st.zipIdx.foldl (fun m x => g.write m r x.2 x.1) m }

/-! ### Movement (R129) -/

/-- Copies an element's bits. -/
def copyElem (src : List Host.Cell) (dst : List Host.Cell) (a : Plane) (ra na : Nat) (b : Plane) (rb nb : Nat) :
    List Host.Cell :=
  b.write dst rb nb { bits := a.word src ra na, scale := 0, flags := 0 }

/-- Elements [lo, hi) of a PERMUTE. -/
def DrlDesc.permute (d : DrlDesc) (w : Work) (lo hi : Nat) : Work :=
  let m := w.store
  let l := Nat.max d.len 1
  ((List.range (hi - lo)).map (lo + ·)).foldl (fun w e =>
    let j := d.word m 1 (e / l) (e % l)
    let ok := decide (j < d.count)
    let v := if ok then d.word m 0 (j / l) (j % l) else 0
    let w1 := if d.nostore then w
      else { w with store := (d.plane 3).write w.store (e / l) (e % l) { bits := v, scale := 0, flags := 0 } }
    if ok then w1 else { w1 with sflags := w1.sflags ||| 0x100 }) w

/-- Where element n of row r of a SHUFFLE comes from and goes to: source stream and place, destination stream and place. -/
def DrlDesc.shufflePlace (d : DrlDesc) (r n : Nat) : (Nat × Nat × Nat) × (Nat × Nat × Nat) :=
  match d.pattern with
  | 1 => ((0, r, n), (3, r / 32 * 32 + n, r % 32))
  | 2 => ((0, r, n), (3, r, d.len - 1 - n))
  | 3 => ((n % 2, r, n / 2), (3, r, n))
  | _ => ((0, r, n), (if n % 2 = 0 then 3 else 4, r, n / 2))

/-- Elements [lo, hi) of a SHUFFLE. -/
def DrlDesc.shuffle (d : DrlDesc) (w : Work) (lo hi : Nat) : Work :=
  let m := w.store
  let l := Nat.max d.len 1
  ((List.range (hi - lo)).map (lo + ·)).foldl (fun w e =>
    let (a, b) := d.shufflePlace (e / l) (e % l)
    if d.nostore && b.1 = 3 then w
    else { w with store := copyElem m w.store (d.plane a.1) a.2.1 a.2.2 (d.plane b.1) b.2.1 b.2.2 }) w

/-- Bit position of the code of row n at position k in a panel layout whose data plane stands at an address (R99). -/
def panelBit (base k_ n k : Nat) : Nat :=
  8 * (base + 512 * (n / 32 * (k_ / 32) + k / 32) + 16 * (k % 32) + n % 32 / 2) + 4 * (n % 2)

/-- Offset of the scale of row n, block b in a panel layout's scale plane (R99). -/
def panelScale (k_ n b : Nat) : Nat := 32 * (n / 32 * (k_ / 32) + b) + n % 32

/-- Rows [lo, hi) of a PACK or UNPACK (R129). -/
def DrlDesc.repack (d : DrlDesc) (w : Work) (lo hi : Nat) : Work :=
  if d.nostore then w
  else
    let m := w.store
    let pack := d.op = 0x32
    let rows := if pack then d.plane 0 else d.plane 3
    let panel := if pack then d.plane 3 else d.plane 0
    let k_ := d.len
    let one : List Host.Cell → Nat → Nat → List Host.Cell := fun o n k =>
      let pb := panelBit panel.base k_ n k
      let o1 := if pack then putBits o pb 4 (rows.word m n k) else putBits o (rows.bitPos n k) 4 (bitsAt m pb 4)
      if k % 32 ≠ 0 then o1
      else
        let ps := panel.scaleBase + panelScale k_ n (k / 32)
        if pack then cellPut 0 o1 ps (cellGet 0 m (rows.scaleAt n k)) else cellPut 0 o1 (rows.scaleAt n k) (cellGet 0 m ps)
    { w with store := ((List.range (hi - lo)).map (lo + ·)).foldl (fun o n => (List.range k_).foldl (fun o k => one o n k) o) m }

/-! ### Stop units -/

/-- The stop unit that begins at element lo (R125). -/
def DrlDesc.unit (d : DrlDesc) (c : Ctl) (w : Work) (lo : Nat) : Work :=
  let hi := Nat.min (lo + d.stopUnit) d.count
  let l := Nat.max d.len 1
  match d.op.toNat with
  | 0x20 => d.rowUnit c w (lo / l)
  | 0x21 => d.rowUnit c w (lo / l)
  | 0x22 => d.rowUnit c w (lo / l)
  | 0x23 => d.rowUnit c w (lo / l)
  | 0x30 => d.permute w lo hi
  | 0x31 => d.shuffle w lo hi
  | 0x32 => d.repack w (lo / l) (hi / l)
  | 0x33 => d.repack w (lo / l) (hi / l)
  | _ => d.chunk c w lo hi

/-- Stop units from element lo up to element hi. -/
def DrlDesc.units (d : DrlDesc) (c : Ctl) : Nat → Work → Nat → Nat → Work
  | 0, w, _, _ => w
  | fuel + 1, w, lo, hi => if hi ≤ lo then w else d.units c fuel (d.unit c w lo) (lo + d.stopUnit) hi

/-- Drill chunks of elements [lo, hi): 64 elements each, counted row by row in a row operation (R118, R128). -/
def DrlDesc.chunks (d : DrlDesc) (lo hi : Nat) : Nat :=
  if d.rowOp then (hi - lo) / Nat.max d.len 1 * ((d.len + 63) / 64) else (hi - lo + 63) / 64

/-- Runs a stream's units up to element hi: their results, terms, flags and counts. -/
def State.runStream (s : State) (p : PlotIx) (a : ActiveStream) (c : Ctl) (hi : Nat) : ActiveStream × State :=
  let d := a.desc
  let q := s.plot p
  let w0 : Work := { store := q.store, reg := q.rake, sflags := a.sflags, firstInv := a.firstInv, terms := 0,
                     acc := a.acc.toNat }
  let w := d.units c (d.count + 1) w0 a.epos hi
  let n := d.chunks a.epos hi
  let bytes := fun (l : List Nat) => pieces64 ((hi - a.epos) * (l.foldl (fun t i => t + elemBits (d.f i)) 0) / 8)
  let s1 := s.modPlot p fun q => { q with store := w.store, rake := w.reg }
  let s2 := (s1.count p a.pos 0x04 n).count p a.pos 0x05 w.terms
  let s3 := ((s2.energy p a.pos (if d.wide then 6 else 5) n).energy p a.pos 8 ((w.terms + 63) / 64)).energy p a.pos 9
    (bytes d.inputs)
  ({ a with epos := hi, sflags := w.sflags, firstInv := w.firstInv, acc := BitVec.ofNat 64 w.acc }, s3.energy p a.pos 10 (bytes d.outputs))

/-! ### Rows of the command table -/

/-- STREAM: fetches and checks the descriptor, and issues the stream (R119, R123, R297). -/
def execStream (p : PlotIx) (s : State) : Host.Outcome State Fault Refusal :=
  .next (s.command p 0x02 (fun c _ => c.arg1 < storeBytes && c.arg2 = 0 && c.arg3 = 0) fun c pos s =>
    if (s.plot p).readHeld [extOf c.arg1 64] then s.holdCommand p
    else
      let d := DrlDesc.ofBytes (s.psRead p c.arg1 64)
      match d.refusal c.arg1 with
      | some (code, obj) => (s.unholdCommand p).fatal p pos code obj []
      | none =>
        let a : ActiveStream := { addr := c.arg1, desc := d, pos := pos, epos := 0, sflags := 0, firstInv := 0xFFFFFFFF,
                                  started := false, retried := none, acc := 0 }
        (s.unholdCommand p).modSeq p fun q => { q with busy := .streamIssue a })

/-- Whether the Rake register lets a stream run (R136, R143). -/
def Plot.rakeLets (q : Plot) (d : DrlDesc) : Bool :=
  let empty := d.softmax || (d.rakeop ≠ 0 && d.rakerow)
  if empty then !q.rakeHeld
  else d.rakeop = 0 || d.rakeclr || kindsMeet q.rake.kind (rakeKind d.rakeop.toNat)

/-- A stream waits for a plot-store extent (R82, R172). -/
def Plot.streamHeld (q : Plot) (d : DrlDesc) : Bool :=
  meet d.inExts (q.arrayWrites ++ q.moverWrites)
    || meet d.outExts (q.arrayWrites ++ q.arrayReads ++ q.moverWrites ++ q.moverReads)

/-- The issued stream begins its first stop unit, or is held, or is refused by the Rake register. -/
def State.tryStart (s : State) (p : PlotIx) : State :=
  let q := s.plot p
  match q.seq.busy with
  | .streamIssue a =>
    if !s.clocked p || q.stream.isSome then s
    else if q.streamHeld a.desc then (s.setHeld p .stream true).modSeq p fun x => { x with waiting := true }
    else if !q.rakeLets a.desc then s.fatal p a.pos 0x0204 0 []
    else
      let s1 := (s.setHeld p .stream false).modPlot p fun q =>
        { q with stream := some { a with started := true }, drlSpilled := false }
      (s1.showNumctl p).finish p
  | _ => s

/-- STREAM_START: the issued stream begins (R118, R128, R143). -/
def execStreamStart (p : PlotIx) (s : State) : Host.Outcome State Fault Refusal := .next (s.tryStart p)

/-- The flag record of a stream (R130). -/
def ActiveStream.flagRecord (a : ActiveStream) : List Byte :=
  let w := w32 a.sflags.toNat
  bytesOfWords [w, a.firstInv, ~~~w, w32 a.desc.count]

/-- STREAM_END: the stream completes; its flags, its flag record and the register's holding follow (R130, R143, R152). -/
def execStreamEnd (p : PlotIx) (s : State) : Host.Outcome State Fault Refusal :=
  match (s.plot p).stream with
  | none => .next s
  | some a =>
    match unitCtl a.desc.numctl with
    | none => .next s
    | some c =>
      if !s.clocked p then .next s
      else
        let (b, s1) := s.runStream p a c a.desc.count
        let s2 := s1.setFlags p (b.sflags.truncate 8)
        let s3 := s2.modPlot p fun q =>
          { q with stream := none, sflags := b.sflags, firstinv := b.firstInv,
                   rakeHeld := q.rakeHeld || (b.desc.rakeop ≠ 0 && !b.desc.rakerow) }
        let s4 := if b.desc.flagwr then s3.psWrite p b.desc.flagaddr b.flagRecord else s3
        .next (s4.showNumctl p)

/-- The bytes of a stream stop record (R145), with the register image's number. -/
def Plot.streamRecord (q : Plot) (a : ActiveStream) (reason : BitVec 4) (value : Nat) : List Byte :=
  let w0 := w32 a.addr
  let w1 := w32 a.epos
  let fl := w32 a.sflags.toNat
  bytesOfWords ([w0, w1, w32 reason.toNat] ++ posWords a.pos ++ [~~~w1, ~~~w0, fl, a.firstInv, ~~~fl] ++ List.replicate 5 0)
    ++ q.rake.imageOf value

/-- The number of the register's image: a free value where the spec states none (R135, log entry 17). -/
def State.imageValue (s : State) (r : RakeReg) : Nat × State :=
  if r.loose then s.free else (r.value.toNat, s)

/-- The stream stops at its current position with a record (R144, R145). -/
def State.stopStream (s : State) (p : PlotIx) (a : ActiveStream) (reason : BitVec 4) : State :=
  let (v, s0) := s.imageValue (s.plot p).rake
  let q := s0.plot p
  let s1 := s0.psWrite p q.drlSpillbase.toNat (q.streamRecord a reason v)
  let s2 := s1.modPlot p fun q => { q with stream := none, drlSpilled := true }
  ((s2.showNumctl p).count p a.pos 0x03 1).tracePlot p 0x03 a.pos a.epos reason.toNat

/-- An element index at which a stop unit begins (R146). -/
def DrlDesc.unitStart (d : DrlDesc) (e : Nat) : Bool := decide (e < d.count) && decide (e % Nat.max d.stopUnit 1 = 0)

/-- STREAM_STOP: a registered stop takes effect at the start of a stop unit; every unit before it has run (R144, R145). -/
def execStreamStop (p : PlotIx) (epos : Nat) (s : State) : Host.Outcome State Fault Refusal :=
  match (s.plot p).stream, (s.plot p).seq.stopping with
  | some a, some reason =>
    match unitCtl a.desc.numctl with
    | none => .next s
    | some c =>
      if s.clocked p && a.desc.unitStart epos && decide (a.epos < epos) then
        let (b, s1) := s.runStream p a c epos
        .next (s1.stopStream p b reason)
      else .next s
  | _, _ => .next s

/-- DRILL_PARITY_ERROR: the unit at epos is read again once; a second failure stops the stream there with REASON 0x4
(R147). -/
def execDrillParityError (p : PlotIx) (epos : Nat) (s : State) : Host.Outcome State Fault Refusal :=
  match (s.plot p).stream with
  | none => .next s
  | some a =>
    match unitCtl a.desc.numctl with
    | none => .next s
    | some c =>
      if s.clocked p && a.desc.unitStart epos && decide (a.epos ≤ epos) then
        let (b, s1) := s.runStream p a c epos
        if a.retried = some epos then .next ((s1.stopStream p b 4).parityStop p a.pos)
        else
          .next (s1.modPlot p fun q =>
            { q with stream := some { b with retried := some epos }, drlParretry := satAdd q.drlParretry 1 })
      else .next s

/-- TILLING_PARITY_ERROR: counted, with a notice; nothing stops (R149). -/
def execTillingParityError (p : PlotIx) (s : State) : Host.Outcome State Fault Refusal :=
  let q := s.plot p
  if s.clocked p && q.stream.isNone && decide (0 < q.tilling) then
    .next ((s.modPlot p fun q => { q with drlTillpar := satAdd q.drlTillpar 1 }).raise (halfOfDie (dieOfPlot p))
      { plotErr p (Pos.none s.job.row) 0x0901 .notice 0 [0x08] 0 with source := srcPower })
  else .next s

/-! ### Resumption (R146) -/

/-- The stream that a stop record resumes, with its register; none when a check of R146 fails. -/
def Plot.readStop (q : Plot) (rec : Nat) : Option (ActiveStream × RakeReg) :=
  let b := cellsGet 0 q.store rec 192
  let w := fun i => wordAt b (4 * i)
  let reason := bits (w 2) 3 0
  let addr := bits (w 0) 20 0
  let d := DrlDesc.ofBytes (cellsGet 0 q.store addr 64)
  if w 6 = ~~~(w 1) && w 7 = ~~~(w 0) && w 10 = ~~~(w 8) && decide (1 ≤ reason) && decide (reason ≤ 4)
      && d.refusal addr = none && d.unitStart (w 1).toNat then
    (RakeReg.ofImage (b.drop 64)).map fun r =>
      ({ addr := addr, desc := d, pos := posOfWords (w 3) (w 4) (w 5), epos := (w 1).toNat,
         sflags := BitVec.ofNat 9 (w 8).toNat, firstInv := w 9, started := true, retried := none,
         acc := BitVec.ofNat 64 (r.read d.fmtOf Ctl.fast).bits }, r)
  else none

/-- A resumed stream takes the Drill. -/
def State.continueStream (s : State) (p : PlotIx) (a : ActiveStream) (r : RakeReg) : State :=
  (s.modPlot p fun q => { q with stream := some a, rake := r, drlSpilled := false }).showNumctl p

/-- RESUMES: checks a stop record, restores the register and the flags, and continues the stream (R146). It waits until the
Drill has no stream. -/
def execResumes (p : PlotIx) (s : State) : Host.Outcome State Fault Refusal :=
  .next (s.command p 0x0F (fun c _ => c.arg1 < storeBytes && c.arg2 = 0 && c.arg3 = 0) fun c pos s =>
    let q := s.plot p
    if q.stream.isSome || q.readHeld [extOf c.arg1 192] then s.holdCommand p
    else
      match q.readStop c.arg1 with
      | none => (s.unholdCommand p).fatal p pos 0x0203 c.arg1 []
      | some (a, r) => ((s.unholdCommand p).continueStream p a r).finish p)

/-- The resume entry's RESUMES (R178). -/
def State.resumeStream (s : State) (p : PlotIx) : State :=
  let q := s.plot p
  if !q.drlSpilled then s
  else
    match q.readStop q.drlSpillbase.toNat with
    | none => s.fatal p q.pos 0x0203 q.drlSpillbase.toNat []
    | some (a, r) => s.continueStream p a r

end Sys2Proof.Machine
end

