-- ==== Sys2Proof/Machine/Sync.lean ====
section
/-! DEFINITION. Token queues, watches, early tokens, timeouts and the dump (chapter 09). -/

namespace Sys2Proof.Machine

/-! ### Helpers -/

/-- Inserts by a key, after equal keys. -/
def insertKey {α : Type} (key : α → Nat) (x : α) : List α → List α
  | [] => [x]
  | y :: r => if key x < key y then x :: y :: r else y :: insertKey key x r

/-- Sorts by a key; items with equal keys keep their order. -/
def sortKey {α : Type} (key : α → Nat) (l : List α) : List α := l.foldl (fun acc x => insertKey key x acc) []

/-- OBJ word of a queue number, a die, or a collective id (R464). -/
def objQueue (q : Nat) : Nat := q
def objDie (d : Nat) : Nat := 2 ^ 30 + d * 2 ^ 12
def objColl (id : Nat) : Nat := 2 ^ 31 + id

/-- Key word (R464). -/
def keyWord (node : BitVec 12) (ch : BitVec 8) : Nat := node.toNat * 2 ^ 20 + ch.toNat * 2 ^ 12 + 1

/-- Source word of a token (R464). -/
def TokenRec.srcWord (t : TokenRec) : Nat := t.src.toNat * 2 ^ 20 + t.channel.toNat * 2 ^ 12 + t.kind.toNat

/-- A token record with its complements (R211). -/
def mkToken (kind : BitVec 3) (src : BitVec 12) (ch : BitVec 8) (queue : BitVec 15) (payload : W32) (bytes : Nat)
    (tseq : BitVec 16) : TokenRec :=
  { payload := payload, payloadC := ~~~payload, bytes := BitVec.ofNat 40 bytes, tseq := tseq, kind := kind, src := src,
    channel := ch, queue := queue, queueC := ~~~(queue.zeroExtend 32) }

/-- The complements of a record match (R211). -/
def TokenRec.ok (t : TokenRec) : Bool := t.payloadC = ~~~t.payload && t.queueC = ~~~(t.queue.zeroExtend 32)

/-- The field die of a queue number (R208). -/
def dieOfQueue (q : BitVec 15) : DieIx := dieIx (q.toNat / 4096)

/-- The queue within its die. -/
def inDie (q : BitVec 15) : Fin 4096 := Fin.ofNat 4096 q.toNat

/-- The 15-bit number of a queue of a die. -/
def queueNumber (d : DieIx) (q : Nat) : Nat := d.val * 4096 + q % 4096

/-- An error of a sync unit (R365: it is recorded in the half of its die). -/
def State.syncErr (s : State) (d : DieIx) (code : BitVec 16) (sev : Severity) (objLo objHi : Nat) (det : List Nat) : State :=
  s.raise (halfOfDie d) (s.mkErr code sev srcSync (objLo + objHi * 2 ^ 32) det)

/-- Replaces a queue of a die. -/
def State.setQueue (s : State) (d : DieIx) (q : Fin 4096) (l : List W32) : State :=
  s.modUnit d fun u => { u with queues := u.queues.set q.val l }

/-- The payloads in a queue, oldest first. -/
def State.queue (s : State) (d : DieIx) (q : Fin 4096) : List W32 := (s.unit d).queues.get q

/-! ### Queues that an engine reads (R269, R272, R315) -/

/-- The step queues Q, Q + 1 and Q + 2 of the plan in force (R269). -/
def State.stepQueues (s : State) : List Nat :=
  match s.job.hdr with
  | some h => [h.stepqueue.toNat, h.stepqueue.toNat + 1, h.stepqueue.toNat + 2]
  | none => []

/-- The buddy queue: that of the pairing, else that of a buddy list whose MAGIC and FORMAT stand at PLT_BUDDYLIST (R311,
R315, log entry 12). -/
def State.buddyQueue (s : State) : Option Nat :=
  match s.rcv.feedWait.map (·.pairing) <|> s.rcv.pairing with
  | some p => some p.bqueue.toNat
  | none =>
    let a := s.rcv.buddylist.toNat
    if s.memWord a = 0x42554459#32 && bits (s.memWord (a + 4)) 15 0 = 1 then some (bits (s.memWord (a + 12)) 14 0) else none

/-- Adds a token to the list of the engine that reads its queue. -/
def State.engineAdd (s : State) (queue : Nat) (payload : W32) (src : BitVec 12) : State :=
  let t : EngineTok := { queue := BitVec.ofNat 15 queue, payload := payload, src := src }
  if queue ∈ s.stepQueues then { s with job := { s.job with tokens := s.job.tokens ++ [t] } }
  else if s.buddyQueue = some queue then { s with rcv := { s.rcv with tokens := s.rcv.tokens ++ [t] } }
  else s

/-- Drops the first item that meets a condition. -/
def dropFirst {α : Type} (f : α → Bool) : List α → List α
  | [] => []
  | x :: r => if f x then r else x :: dropFirst f r

/-- Drops the oldest token of a queue from its engine's list, or all of them. -/
def State.engineDrop (s : State) (queue : Nat) (all : Bool) : State :=
  let cut := fun (l : List EngineTok) =>
    if all then l.filter fun t => t.queue.toNat ≠ queue else dropFirst (fun t => t.queue.toNat = queue) l
  { s with job := { s.job with tokens := cut s.job.tokens }, rcv := { s.rcv with tokens := cut s.rcv.tokens } }

/-- Takes a token of an engine's queue out of the queue and of the engine's list. -/
def State.engineTake (s : State) (t : EngineTok) : State :=
  let d := dieOfQueue t.queue
  let q := inDie t.queue
  (s.setQueue d q (s.queue d q).tail).engineDrop t.queue.toNat false

/-! ### Entering a queue (R213) -/

/-- A token enters its queue, or is discarded as an overflow (R213). -/
def State.enterQueue (s : State) (d : DieIx) (t : TokenRec) : State :=
  let q := inDie t.queue
  let l := s.queue d q
  let num := queueNumber d q.val
  if l.length ≥ 64 then
    let s1 := s.modUnit d fun u => { u with ovfKind := t.kind, ovfQueue := BitVec.ofNat 12 q.val }
    s1.syncErr d 0x0401 .jobFatal (objQueue num) 0 [t.srcWord, t.tseq.toNat]
  else
    ((s.setQueue d q (l ++ [t.payload])).traceDie d 0x04 num t.payload.toNat).engineAdd num t.payload
      (if t.kind = 3 then t.src else 0xFFF)

/-- Order of token entries within a sync cycle (R217): kinds 1 and 2 by plot, then 4, then 5, then kind 3 by source,
channel and sequence from the entry's NEXT. -/
def entryKey (u : SyncDie) (t : TokenRec) : Nat :=
  if t.kind = 1 || t.kind = 2 then t.src.toNat
  else if t.kind = 4 then 4096
  else if t.kind = 5 then 4097
  else
    let next := match u.inbound.find? fun e => e.node = t.src && e.channel = t.channel with
      | some e => e.next
      | none => 0
    4098 + (t.src.toNat * 256 + t.channel.toNat) * 65536 + (t.tseq - next).toNat

/-! ### Early tokens (R221-R224) -/

/-- The key of a tally entry matches. -/
def Tally.is (e : Tally) (node : BitVec 12) (ch : BitVec 8) (tseq : BitVec 16) : Bool :=
  e.node = node && e.channel = ch && e.tseq = tseq

/-- How long ago, in tokens of its channel, a token was accepted: larger is later. -/
def SyncDie.seqRank (u : SyncDie) (node : BitVec 12) (ch : BitVec 8) (tseq : BitVec 16) : Nat :=
  let next := match u.inbound.find? fun e => e.node = node && e.channel = ch with
    | some e => e.next
    | none => 0
  (tseq - next).toNat

/-- A token of the same source and channel with a lower TSEQ is held (R222). -/
def SyncDie.heldBefore (u : SyncDie) (node : BitVec 12) (ch : BitVec 8) (tseq : BitVec 16) : Bool :=
  u.tally.any fun e => e.tok.isSome && e.node = node && e.channel = ch
    && decide (u.seqRank node ch e.tseq < u.seqRank node ch tseq)

/-- Details of a tally or early-token report (R464). -/
def tallyDetails (first : Nat) (tally bytes : Nat) : List Nat :=
  [first, tally % 2 ^ 32, bytes % 2 ^ 32, (tally / 2 ^ 32) % 256 * 256 + bytes / 2 ^ 32 % 256]

/-- Early tokens that can leave the hold now: their tally equals their BYTES, and no lower one of their channel stays
(R222). Walks the held tokens in the order of their sequence. -/
def leaveHold (u : SyncDie) : List Tally → List (BitVec 12 × BitVec 8) → List Tally
  | [], _ => []
  | e :: r, blocked =>
    if (e.node, e.channel) ∈ blocked then leaveHold u r blocked
    else match e.tok with
      | some t =>
        if e.tally = t.bytes.toNat then e :: leaveHold u r blocked
        else leaveHold u r ((e.node, e.channel) :: blocked)
      | none => leaveHold u r blocked

/-- The early tokens that leave the hold in a sync cycle. -/
def SyncDie.leaving (u : SyncDie) : List Tally :=
  leaveHold u (sortKey (fun e => u.seqRank e.node e.channel e.tseq) (u.tally.filter fun e => e.tok.isSome)) []

/-! ### Rows: arrivals -/

/-- TOKEN_ARRIVAL: the i-th local, host or hand token on its way reaches its sync unit; tokens of one source to one die
keep their order (R188, R213, log entry 13). A record whose complements differ is discarded (R211). -/
def execTokenArrival (i : Nat) (s : State) : Host.Outcome State Fault Refusal :=
  match s.kuf.transit[i]? with
  | none => .next s
  | some t =>
    let d := dieOfQueue t.queue
    let before := (s.kuf.transit.take i).any fun x => x.kind = t.kind && x.src = t.src && dieOfQueue x.queue = d
    if before || s.smod.writing then .next s
    else
      let s1 := { s with kuf := { s.kuf with transit := s.kuf.transit.eraseIdx i } }
      if t.ok then .next (s1.modUnit d fun u => { u with inbox := u.inbox ++ [t] })
      else .next (s1.syncErr d 0x0401 .jobFatal (objQueue t.queue.toNat) 0 [t.srcWord, t.tseq.toNat])

/-- A remote token that an inbound entry accepts enters its queue or is held (R222, R224). -/
def State.acceptRemote (s : State) (d : DieIx) (t : TokenRec) : State :=
  let u := s.unit d
  match u.tally.find? fun e => e.is t.src t.channel t.tseq with
  | some e =>
    if e.tally > t.bytes.toNat then
      s.syncErr d 0x0401 .jobFatal (objQueue t.queue.toNat) (keyWord t.src t.channel)
        (tallyDetails (1 * 2 ^ 16 + t.tseq.toNat) e.tally t.bytes.toNat)
    else if e.tally = t.bytes.toNat && !u.heldBefore t.src t.channel t.tseq then
      s.modUnit d fun u =>
        { u with tally := u.tally.filter fun x => x.slot ≠ e.slot, inbox := u.inbox ++ [t] }
    else
      let hold : Tally → Tally := fun x => if x.slot = e.slot then { x with tok := some t, age := 0 } else x
      (s.modUnit d fun u => { u with tally := u.tally.map hold }).traceDie d 0x06 t.queue.toNat e.tally
  | none =>
    if t.bytes = 0 && !u.heldBefore t.src t.channel t.tseq then s.modUnit d fun u => { u with inbox := u.inbox ++ [t] }
    else
      let (c, s1) := (s.freeCtr, { s with freeCtr := s.freeCtr + 1 })
      match freeSlot (u.tally.map (·.slot)) 1024 c with
      | none =>
        s.syncErr d 0x0401 .jobFatal (objQueue t.queue.toNat) (keyWord t.src t.channel)
          (tallyDetails (3 * 2 ^ 16 + t.tseq.toNat) 0 t.bytes.toNat)
      | some n =>
        let e : Tally :=
          { slot := n, node := t.src, channel := t.channel, tseq := t.tseq, tally := 0, tok := some t, age := 0 }
        (s1.modUnit d fun u => { u with tally := u.tally ++ [e] }).traceDie d 0x06 t.queue.toNat 0

/-- The inbound entry of a key, made when it is absent and the table has room (R223). -/
def State.inboundEntry (s : State) (d : DieIx) (node : BitVec 12) (ch : BitVec 8) : Option Inbound × State :=
  let u := s.unit d
  match u.inbound.find? fun e => e.node = node && e.channel = ch with
  | some e => (some e, s)
  | none =>
    match freeSlot (u.inbound.map (·.slot)) 512 s.freeCtr with
    | none => (none, s)
    | some n =>
      let e : Inbound := { slot := n, node := node, channel := ch, next := 0, dups := 0 }
      (some e, { s with freeCtr := s.freeCtr + 1 }.modUnit d fun u => { u with inbound := u.inbound ++ [e] })

/-- A remote token meets its inbound entry (R223). -/
def State.remoteToken (s : State) (d : DieIx) (t : TokenRec) : State :=
  match s.inboundEntry d t.src t.channel with
  | (none, s1) =>
    s1.syncErr d 0x0401 .jobFatal (objQueue t.queue.toNat) (keyWord t.src t.channel)
      (tallyDetails (4 * 2 ^ 16 + t.tseq.toNat) 0 t.bytes.toNat)
  | (some e, s1) =>
    let dist := (t.tseq - e.next).toNat
    let upd := fun (f : Inbound → Inbound) => s1.modUnit d fun u =>
      { u with inbound := u.inbound.map fun x => if x.slot = e.slot then f x else x }
    if dist = 0 then (upd fun x => { x with next := x.next + 1 }).acceptRemote d t
    else if dist < 32768 then
      s1.syncErr d 0x0401 .jobFatal (objDie d.val) (keyWord t.src t.channel) [e.next.toNat, t.tseq.toNat]
    else
      ((upd fun x => { x with dups := satAdd x.dups 1 }).modUnit d fun u => { u with dupcnt := satAdd u.dupcnt 1 }).syncErr d
        0x0402 .notice (objDie d.val) (keyWord t.src t.channel) [e.next.toNat, t.tseq.toNat]

/-- Drops received messages from ACKED upward while they are applied, and moves ACKED on (R247). -/
def ackOn : Nat → BitVec 24 → List RxMsg → BitVec 24 × List RxMsg
  | 0, a, l => (a, l)
  | n + 1, a, l =>
    if l.any fun m => m.mseq = a && m.applied then ackOn n (a + 1) (l.filter fun m => m.mseq ≠ a) else (a, l)

/-- A message of a receive pair is applied (R247). -/
def State.rxApplied (s : State) (node : BitVec 12) (ch : BitVec 8) (mseq : BitVec 24) : State :=
  let mark : RxMsg → RxMsg := fun m => if m.mseq = mseq then { m with applied := true } else m
  let f : RxPair → RxPair := fun x =>
    if x.node = node && x.channel = ch then
      let (a, l) := ackOn 257 x.acked (x.got.map mark)
      { x with acked := a, got := l, since := x.since + 1 }
    else x
  { s with kuf := { s.kuf with rx := s.kuf.rx.map f } }

/-- REMOTE_TOKEN_ARRIVAL: the i-th remote token on its way reaches its sync unit, which is where its message counts as
applied (R223, R224, R247). -/
def execRemoteTokenArrival (i : Nat) (s : State) : Host.Outcome State Fault Refusal :=
  match s.kuf.remote[i]? with
  | none => .next s
  | some (mseq, t) =>
    let d := dieOfQueue t.queue
    let before := (s.kuf.remote.take i).any fun x => x.2.src = t.src && x.2.channel = t.channel && dieOfQueue x.2.queue = d
    if before || s.smod.writing then .next s
    else
      let s1 := { s with kuf := { s.kuf with remote := s.kuf.remote.eraseIdx i } }
      if t.ok then .next ((s1.rxApplied t.src t.channel mseq).remoteToken d t)
      else .next (s1.syncErr d 0x0401 .jobFatal (objQueue t.queue.toNat) 0 [t.srcWord, t.tseq.toNat])

/-- An acknowledged announced write adds its bytes to the tally of its key (R222, R224). -/
def State.tallyAdd (s : State) (a : TallyAdd) : State :=
  let d := a.die
  let u := s.unit d
  match u.tally.find? fun e => e.is a.node a.channel a.tseq with
  | some e =>
    let n := e.tally + a.bytes
    let tooMany := match e.tok with
      | some t => decide (n > t.bytes.toNat)
      | none => false
    if tooMany then
      let b := match e.tok with | some t => t.bytes.toNat | none => 0
      let q := match e.tok with | some t => objQueue t.queue.toNat | none => objDie d.val
      s.syncErr d 0x0401 .jobFatal q (keyWord a.node a.channel) (tallyDetails (1 * 2 ^ 16 + a.tseq.toNat) n b)
    else
      let f : Tally → Tally := fun x => if x.slot = e.slot then { x with tally := n } else x
      s.modUnit d fun u => { u with tally := u.tally.map f }
  | none =>
    let entered := match u.inbound.find? fun e => e.node = a.node && e.channel = a.channel with
      | some e => decide (32768 ≤ (a.tseq - e.next).toNat)
      | none => false
    if entered then
      s.syncErr d 0x0401 .jobFatal (objDie d.val) (keyWord a.node a.channel)
        (tallyDetails (2 * 2 ^ 16 + a.tseq.toNat) a.bytes 0)
    else
      match freeSlot (u.tally.map (·.slot)) 1024 s.freeCtr with
      | none =>
        s.syncErr d 0x0401 .jobFatal (objDie d.val) (keyWord a.node a.channel)
          (tallyDetails (3 * 2 ^ 16 + a.tseq.toNat) a.bytes 0)
      | some n =>
        let e : Tally :=
          { slot := n, node := a.node, channel := a.channel, tseq := a.tseq, tally := a.bytes, tok := none, age := 0 }
        { s with freeCtr := s.freeCtr + 1 }.modUnit d fun u => { u with tally := u.tally ++ [e] }

/-- ANNOUNCED_WRITE_ACK: the oldest acknowledged announced write is tallied (R222). -/
def execAnnouncedWriteAck (s : State) : Host.Outcome State Fault Refusal :=
  match s.kuf.adds with
  | [] => .next s
  | a :: r =>
    if s.smod.writing then .next s
    else .next ({ s with kuf := { s.kuf with adds := r } }.tallyAdd a)

/-! ### Hand operations (R230) -/

/-- Early tokens held for a queue of a die, oldest first. -/
def SyncDie.earlyFor (u : SyncDie) (queue : Nat) : List Tally :=
  sortKey (fun e => 2 ^ 62 - e.age) (u.tally.filter fun e => match e.tok with
    | some t => decide (t.queue.toNat = queue)
    | none => false)

/-- Ends a hand operation with a result (R234). -/
def State.handDone (s : State) (d : DieIx) (result : BitVec 3) : State :=
  let q := Fin.ofNat 4096 (s.unit d).qqueue.toNat
  let n := (s.queue d q).length
  let e := ((s.unit d).earlyFor (queueNumber d q.val)).length
  s.modUnit d fun u => { u with qbusy := false, qresult := result, qcount := BitVec.ofNat 7 n,
                                qearly := BitVec.ofNat 8 (if e < 255 then e else 255) }

/-- The notice of a hand operation (R230, R359). -/
def State.handNotice (s : State) (d : DieIx) (payload : W32) : State :=
  let u := s.unit d
  s.syncErr d 0x0901 .notice (objQueue (queueNumber d u.qqueue.toNat)) u.qop.toNat [0x04, payload.toNat]

/-- The hand operation of a die, in step 1 of a sync cycle (R217, R230). -/
def State.handOp (s : State) (d : DieIx) : State :=
  let u := s.unit d
  if !u.qbusy then s
  else
    let q := Fin.ofNat 4096 u.qqueue.toNat
    let num := queueNumber d q.val
    let l := s.queue d q
    match u.qop.toNat with
    | 1 =>
      match l[u.qdata.toNat % 64]? with
      | some v => (s.modUnit d fun u => { u with qread := v }).handDone d 1
      | none => s.handDone d 5
    | 2 =>
      if l.length ≥ 64 then (s.handDone d 2).handNotice d u.qdata
      else
        ((((s.setQueue d q (l ++ [u.qdata])).traceDie d 0x04 num u.qdata.toNat).engineAdd num u.qdata 0xFFF).handDone d
          1).handNotice d u.qdata
    | 3 =>
      match l with
      | [] => (s.handDone d 3).handNotice d 0
      | v :: r => (((s.setQueue d q r).engineDrop num false).handDone d 1).handNotice d v
    | 4 =>
      if l.isEmpty then (s.handDone d 3).handNotice d 0
      else (((s.setQueue d q []).engineDrop num true).handDone d 1).handNotice d 0
    | 5 =>
      match u.earlyFor num with
      | [] => (s.handDone d 4).handNotice d 0
      | e :: _ =>
        match e.tok with
        | some t =>
          if l.length ≥ 64 then (s.handDone d 2).handNotice d t.payload
          else
            (((s.modUnit d fun u => { u with tally := u.tally.filter fun x => x.slot ≠ e.slot }).enterQueue d t).handDone d
              1).handNotice d t.payload
        | none => s.handDone d 4
    | _ => s.handDone d 0

/-! ### Watches (R215-R220) -/

/-- A watch has the same waiter as another: one WAIT and one collective watch per plot, one per debugger register. -/
def Watch.ofPlot (w : Watch) (p : PlotIx) : Bool := w.plot = p && w.kind ≠ .debugger

/-- The WAITINFO word (R235). -/
def waitInfo (outcome count object : Nat) : W32 := w32 (outcome * 2 ^ 30 + count * 2 ^ 23 + object)

/-- The object number of a watch: the queue number of its die, or the collective id (R227, R235). -/
def Watch.objNum (w : Watch) (d : DieIx) : Nat :=
  match w.kind with
  | .rcombine => w.object.toNat
  | .vote => w.object.toNat
  | _ => queueNumber d w.object.toNat

/-- Withdraws a plot's watch: no token is consumed, and its command runs again after resumption (R179, R219). -/
def State.withdraw (s : State) (d : DieIx) (p : PlotIx) : State :=
  match (s.unit d).watches.find? fun w => w.ofPlot p with
  | none => s
  | some w =>
    let s1 := s.modUnit d fun u => { u with watches := u.watches.filter fun x => x.slot ≠ w.slot }
    s1.modPlot p fun q =>
      { q with waitinfo := waitInfo 3 0 (w.objNum d),
               seq := if q.seq.busy = .watching then { q.seq with busy := .ready, waiting := false } else q.seq }

/-- Watch slots that the step engine and the buddy engine take on a die (R215, R272, R315, log entry 12). -/
def State.engineSlots (s : State) (d : DieIx) : Nat :=
  let onDie := fun (q : Nat) => decide (q / 4096 % 8 = d.val)
  ((s.stepQueues.filter onDie).length)
    + (match s.buddyQueue with
       | some q => b2n (onDie q)
       | none => 0)

/-- Sets a debugger watch register. -/
def State.modDbgWatch (s : State) (d : DieIx) (n : Fin 4) (f : DbgWatch → DbgWatch) : State :=
  let v := s.dbg.watches.get d
  { s with dbg := { s.dbg with watches := s.dbg.watches.set d.val (v.set n.val (f (v.get n))) } }

/-- Registers a watch in a free slot (R215, R229, R442). -/
def State.register (s : State) (d : DieIx) (w : Watch) : State :=
  let u := s.unit d
  match freeSlot (u.watches.map (·.slot)) (1024 - s.engineSlots d) s.freeCtr with
  | some n =>
    { s with freeCtr := s.freeCtr + 1 }.modUnit d fun u => { u with watches := u.watches ++ [{ w with slot := n }] }
  | none =>
    match w.kind with
    | .debugger => s.modDbgWatch d w.dbg fun x => { x with reg := false, outcome := .refused }
    | _ => s

/-- A watch whose condition holds is released (R216): its tokens leave the queue, and the release message reaches its
waiter. -/
def State.release (s : State) (d : DieIx) (w : Watch) : State :=
  let q := Fin.ofNat 4096 w.object.toNat
  let l := s.queue d q
  let num := queueNumber d q.val
  let pay := l.headD 0
  let s1 := s.setQueue d q (l.drop w.consume)
  let s2 := (s1.modUnit d fun u => { u with watches := u.watches.filter fun x => x.slot ≠ w.slot }).traceDie d 0x05 num
    l.length
  match w.kind with
  | .debugger =>
    let s3 := s2.modDbgWatch d w.dbg fun x =>
      { x with reg := false, outcome := .released, count := BitVec.ofNat 7 l.length }
    let t := s3.trace d
    if t.src = 4 && bits t.trigval 1 0 = w.dbg.val then
      s3.traceOn d (s3.traceRec 0x0C 0x3FF (Pos.none s3.job.row) 3 w.dbg.val) true
    else s3
  | _ =>
    let s3 := s2.modPlot w.plot fun x =>
      { x with waitpay := pay, waitinfo := waitInfo 1 l.length num }
    let s4 := s3.sample (halfOfDie d) 1 w.pos.layer w.pos.oper w.pos.row (w.elapsed / 100)
    if (s4.plot w.plot).seq.busy = .watching then s4.finish w.plot else s4

/-- Step 4: watches in order of registration, each release before the next evaluation (R217, R218). -/
def State.evaluate (s : State) (d : DieIx) : State :=
  s.forEach (s.unit d).watches fun s w =>
    match w.kind with
    | .rcombine => s
    | .vote => s
    | _ => if (s.queue d (Fin.ofNat 4096 w.object.toNat)).length ≥ w.n then s.release d w else s

/-! ### The dump (R228, R229) -/

/-- One dump word list padded with zero bytes. -/
def padTo (n : Nat) (b : List Byte) : List Byte := b ++ zeros (n - b.length)

/-- Entries at their slot numbers, n slots of `size` bytes (R229). -/
def slotted {α : Type} (n size : Nat) (l : List α) (slot : α → Nat) (f : α → List Byte) : List Byte :=
  (List.range n).flatMap fun i => match l.find? fun x => slot x = i with
    | some x => padTo size (f x)
    | none => zeros size

/-- The code of a watch kind (R229). -/
def WatchKind.code : WatchKind → Nat
  | .wait => 1
  | .rcombine => 2
  | .vote => 3
  | .debugger => 4

/-- A field-die section of a dump (R229). -/
def SyncDie.section (u : SyncDie) (d : DieIx) : List Byte :=
  let qs := u.queues.toList
  let queueTable := (List.range 4096).flatMap fun i =>
    let n := (qs.getD i []).length
    let e := (u.earlyFor (queueNumber d i)).length
    let w0 := w32 ((if e < 255 then e else 255) * 2 ^ 24 + n)
    let ws := (u.watches.filter fun w =>
      decide (w.object.toNat = i) && (w.kind = .wait || w.kind = .debugger)).length
    bytesOfWords [w0, ~~~w0, w32 ws, 0]
  let tokens := (List.range 4096).flatMap fun i =>
    padTo 512 (bytesOfWords ((qs.getD i []).flatMap fun p => [p, ~~~p]))
  let watches := slotted 1024 16 u.watches (·.slot) fun w =>
    bytesOfWords [
      w32 (2 ^ 31 + w.kind.code * 2 ^ 28 + (match w.kind with | .debugger => 0 | _ => w.plot.val) * 2 ^ 16 + w.object.toNat),
      w32 (w.consume * 2 ^ 8 + w.n), w32 (w.elapsed / 1000), w32 w.timeout]
  let tallies := slotted 1024 32 u.tally (·.slot) fun e =>
    let b := match e.tok with | some t => t.bytes.toNat | none => 0
    bytesOfWords [
      w32 (e.node.toNat * 2 ^ 20 + e.channel.toNat * 2 ^ 12 + b2n e.tok.isSome * 2 + 1),
      w32 (e.tseq.toNat * 2 ^ 16 + e.tally / 2 ^ 32 % 256 * 2 ^ 8 + b / 2 ^ 32), w32 e.tally, w32 b,
      (match e.tok with | some t => t.payload | none => 0), w32 (match e.tok with | some t => t.queue.toNat | none => 0)]
  let inb := slotted 512 16 u.inbound (·.slot) fun e =>
    bytesOfWords [w32 (e.node.toNat * 2 ^ 20 + e.channel.toNat * 2 ^ 12 + 1), w32 e.next.toNat, w32 e.dups.toNat]
  let body := queueTable ++ tokens ++ watches ++ tallies ++ inb ++ zeros 0x1FFC
  body ++ bytesOfWord (crc32 body)

/-- The bytes of a dump (R229). -/
def Frozen.bytes (f : Frozen) : List Byte :=
  let h := bytesOfWords [0x53594E44, 1, w32 f.row.toNat, w32 (f.node.toNat * 2 ^ 16 + f.row.toNat / 2 ^ 32),
    w32 (f.trigger.toNat * 2 ^ 29 + f.object.toNat),
    w32 (match f.waiter with | some p => 2 ^ 31 + p.val | none => 0)]
  let head := padTo 0xFFC h
  head ++ bytesOfWord (crc32 head) ++ allDies.flatMap fun d => (f.units.get d).section d

/-- Bytes of a dump. -/
def dumpSize : Nat := 0x1101000

/-- A dump trigger (R228): false when a dump is held or cannot be written, so that nothing freezes. -/
def State.dump (s : State) (trigger : BitVec 3) (object : Nat) (waiter : Option PlotIx) : Bool × State :=
  if s.smod.held then (false, { s with smod := { s.smod with suppressed := satAdd s.smod.suppressed 1 } })
  else if !s.rangeGuarded s.smod.dumpbase.toNat dumpSize then
    (false, s.notice 0x03 0 [])
  else
    let f : Frozen :=
      { units := s.sync, row := s.job.row, node := s.kuf.node, trigger := trigger, object := BitVec.ofNat 15 object,
        waiter := waiter }
    (true, { s with smod := { s.smod with held := true, writing := true, trigger := trigger, frozen := some f } })

/-! ### Expiries (R225-R227) -/

/-- The early token that a report names: the oldest held for a queue (R227, R464). -/
def earlyReport (u : SyncDie) (queue : Nat) : Nat × List Nat :=
  match u.earlyFor queue with
  | [] => (0, [0, 0, 0, 0])
  | e :: _ =>
    let b := match e.tok with | some t => t.bytes.toNat | none => 0
    (keyWord e.node e.channel,
      [e.tseq.toNat, e.tally % 2 ^ 32, b % 2 ^ 32, e.tally / 2 ^ 32 % 256 * 256 + b / 2 ^ 32 % 256])

/-- The report of a watch expiry (R227, R464). -/
def State.watchReport (s : State) (d : DieIx) (w : Watch) (sev : Severity) : ErrRep :=
  let u := s.unit d
  let isQueue := w.kind = .wait || w.kind = .debugger
  let num := w.objNum d
  let (key, e) := if isQueue then earlyReport u num else (0, [0, 0, 0, 0])
  let nEarly := if isQueue then (u.earlyFor num).length else 0
  let cnt := if isQueue then (s.queue d (Fin.ofNat 4096 w.object.toNat)).length else 0
  let lo := if isQueue then objQueue num else objColl num
  let dbg := if w.kind = .debugger then 2 ^ 31 + w.dbg.val * 2 ^ 24 else 0
  { code := 0x0403, sev := sev, source := srcSync,
    pos := if w.kind = .debugger then Pos.none s.job.row else w.pos,
    plot := if w.kind = .debugger then none else some w.plot,
    object := BitVec.ofNat 64 (lo + key * 2 ^ 32),
    detail := details [w.consume * 2 ^ 8 + w.n, w.timeout,
      e.getD 0 0 * 2 ^ 16 + (if nEarly < 255 then nEarly else 255) * 2 ^ 7 + cnt, e.getD 1 0, e.getD 2 0, dbg + e.getD 3 0],
    need := if sev = .jobFatal then 4 else 0 }

/-- The error of an expiry (R226): the watch is freed, and its plot stops as a failed plot. -/
def State.expireError (s : State) (d : DieIx) (w : Watch) : State :=
  let s1 := s.raise (halfOfDie d) (s.watchReport d w .jobFatal)
  let s2 := s1.modUnit d fun u => { u with watches := u.watches.filter fun x => x.slot ≠ w.slot }
  match w.kind with
  | .debugger => s2.modDbgWatch d w.dbg fun x => { x with reg := false, outcome := .timedOut }
  | _ =>
    let s3 := match w.kind with
      | .wait => s2
      | _ => s2.leaveCollective w.plot (Fin.ofNat 4096 w.object.toNat)
    (s3.modPlot w.plot fun q =>
      { q with waitinfo := waitInfo 2 0 (w.objNum d),
               seq := { q.seq with busy := .ready, waiting := false } }).stopEvent w.plot 3

/-- The timer of a watch starts again from 0 (R226). -/
def State.restartWatch (s : State) (d : DieIx) (slot : Nat) : State :=
  s.modUnit d fun u => { u with watches := u.watches.map fun w => if w.slot = slot then { w with elapsed := 0 } else w }

/-- A watch expires (R226). -/
def State.expire (s : State) (d : DieIx) (w : Watch) : State :=
  let waiter := if w.kind = .debugger then none else some w.plot
  match s.smod.action.toNat with
  | 1 => s.expireError d w
  | 2 =>
    let s1 := (s.dump 1 (w.objNum d) waiter).2
    (s1.raise (halfOfDie d) (s.watchReport d w .notice)).restartWatch d w.slot
  | 3 =>
    let (taken, s1) := s.dump 1 (w.objNum d) waiter
    if taken then { s1 with smod := { s1.smod with errAfter := some (.watch d w.slot) } } else s1.expireError d w
  | _ => s

/-- The report of an early token's expiry (R224, R464). -/
def State.earlyExpiryReport (s : State) (e : Tally) (t : TokenRec) (sev : Severity) : ErrRep :=
  s.mkErr 0x0403 sev srcSync (objQueue t.queue.toNat + keyWord e.node e.channel * 2 ^ 32)
    (tallyDetails e.tseq.toNat e.tally t.bytes.toNat)

/-- An early token expires as a watch does (R224, R226). An error leaves the token held; its timer starts again. -/
def State.expireEarly (s : State) (d : DieIx) (e : Tally) (t : TokenRec) : State :=
  let again := fun (s : State) => s.modUnit d fun u =>
    { u with tally := u.tally.map fun x => if x.slot = e.slot then { x with age := 0 } else x }
  match s.smod.action.toNat with
  | 1 => (again s).raise (halfOfDie d) (s.earlyExpiryReport e t .jobFatal)
  | 2 =>
    let s1 := (s.dump 2 t.queue.toNat none).2
    (again s1).raise (halfOfDie d) (s.earlyExpiryReport e t .notice)
  | 3 =>
    let (taken, s1) := s.dump 2 t.queue.toNat none
    if taken then { again s1 with smod := { s1.smod with errAfter := some (.early d e.slot) } }
    else (again s1).raise (halfOfDie d) (s1.earlyExpiryReport e t .jobFatal)
  | _ => s

/-- WATCH_EXPIRY: a watch whose timer has reached T may expire (R225); nothing expires while a dump freezes the units. -/
def execWatchExpiry (d : DieIx) (slot : Nat) (s : State) : Host.Outcome State Fault Refusal :=
  if s.smod.writing then .next s
  else
    match (s.unit d).watches.find? fun w => w.slot = slot with
    | some w => if w.elapsed ≥ w.timeout * 1000 then .next (s.expire d w) else .next s
    | none => .next s

/-- EARLY_TOKEN_EXPIRY: an early token held for DEFAULTUS (R224). -/
def execEarlyTokenExpiry (d : DieIx) (slot : Nat) (s : State) : Host.Outcome State Fault Refusal :=
  if s.smod.writing then .next s
  else
    match (s.unit d).tally.find? fun e => e.slot = slot with
    | some e =>
      match e.tok with
      | some t => if e.age ≥ s.smod.defaultus.toNat * 1000 then .next (s.expireEarly d e t) else .next s
      | none => .next s
    | none => .next s

/-! ### The sync cycle (R217) -/

/-- Steps 1 to 4 of a sync cycle on one die. -/
def State.syncDie (s : State) (d : DieIx) : State :=
  let s1 := s.handOp d
  -- step 2: token entries
  let u := s1.unit d
  let out := u.leaving
  let outSlots := out.map (·.slot)
  let toks := sortKey (entryKey u) (u.inbox ++ out.filterMap (·.tok))
  let s2 := s1.modUnit d fun u =>
    { u with inbox := [], tally := u.tally.filter fun e => e.slot ∉ outSlots }
  let s3 := s2.forEach toks fun s t => s.enterQueue d t
  -- step 3: withdrawals, then registrations
  let u3 := s3.unit d
  let s4 := s3.modUnit d fun u => { u with withdraws := [], regs := [], dbgWithdraws := [] }
  let s5 := s4.forEach (sortKey (·.val) u3.withdraws) fun s p => s.withdraw d p
  let s6 := s5.forEach u3.dbgWithdraws fun s n =>
    (s.modUnit d fun u => { u with watches := u.watches.filter fun w => !(w.kind = .debugger && w.dbg = n) }).modDbgWatch d n
      fun x => { x with reg := false, outcome := .withdrawn }
  let regs := sortKey (fun w => match w.kind with | .debugger => 640 + w.dbg.val | _ => w.plot.val)
    (u3.regs.filter fun w => w.kind = .debugger || decide (w.plot ∉ u3.withdraws))
  let lost := u3.regs.filter fun w => w.kind ≠ .debugger && decide (w.plot ∈ u3.withdraws)
  let s7 := s6.forEach lost fun s w => s.modPlot w.plot fun q =>
    { q with waitinfo := waitInfo 3 0 (w.objNum d),
             seq := if q.seq.busy = .watching then { q.seq with busy := .ready, waiting := false } else q.seq }
  let s8 := s7.forEach regs fun s w => s.register d w
  -- step 4: evaluation
  s8.evaluate d

/-- Step 5 on one die: expiries that no longer have a choice, at T + 2 us (R225). -/
def State.syncExpire (s : State) (d : DieIx) : State :=
  let s1 := s.forEach (s.unit d).watches fun s w =>
    if s.smod.writing then s
    else if w.elapsed ≥ (w.timeout + 2) * 1000 && (s.unit d).watches.any (fun x => x.slot = w.slot) then s.expire d w else s
  s1.forEach (s1.unit d).tally fun s e =>
    match e.tok with
    | some t =>
      if !s.smod.writing && decide (e.age ≥ (s.smod.defaultus.toNat + 2) * 1000) then s.expireEarly d e t else s
    | none => s

/-- Time passes on one die: its timers, which a freeze pauses (R225). Watch timers pause while the job is halted at a row
boundary (R281). -/
def SyncDie.tick (u : SyncDie) (n : Nat) (halted : Bool) : SyncDie :=
  { u with watches := if halted then u.watches else u.watches.map fun w => { w with elapsed := w.elapsed + n }
           tally := u.tally.map fun e => if e.tok.isSome then { e with age := e.age + n } else e }

/-- The module's timers that count sync cycles (R278, R288, R314, R432, R437). -/
def State.tickModule (s : State) (n : Nat) : State :=
  let c := s.smod.cycles + n
  let fresh := c / 1000 ≠ s.smod.cycles / 1000
  let halted := s.job.halt ≠ .none
  let wait := s.job.complete
  { s with
    smod := { s.smod with cycles := c }
    job := { s.job with stepAge := if wait && !halted then s.job.stepAge + n else s.job.stepAge
                        waitAge := if wait then s.job.waitAge + n else s.job.waitAge }
    rcv := { s.rcv with feedAge := if s.rcv.feedWait.isSome then s.rcv.feedAge + n else s.rcv.feedAge }
    dbg := { s.dbg with traces := if fresh then s.dbg.traces.map fun t => { t with rate := 0 } else s.dbg.traces } }

/-- SYNC_CYCLE: one sync cycle of all eight units, `elapsed` sync cycles after the one before (R209, R217). A unit that a
dump has frozen does nothing (R228). -/
def execSyncCycle (elapsed : Nat) (s : State) : Host.Outcome State Fault Refusal :=
  let s1 := s.tickModule elapsed
  if s1.smod.writing then .next s1
  else
    let s2 := s1.forEach allDies fun s d => s.modUnit d fun u => u.tick elapsed (s.job.halt = .boundary)
    let s3 := s2.forEach allDies fun s d => s.syncDie d
    .next (s3.forEach allDies fun s d => if s.smod.writing then s else s.syncExpire d)

/-- The parent of a node in the step tree (R270). -/
def treeParent (n : BitVec 12) : Option (BitVec 12) := if n = 0 then none else some (BitVec.ofNat 12 ((n.toNat - 1) / 8))

/-- The children of a node in a job of `m` modules (R270). -/
def treeChildren (n : BitVec 12) (m : Nat) : List (BitVec 12) :=
  ((List.range 8).map fun i => 8 * n.toNat + 1 + i).filterMap fun c => if c < m then some (BitVec.ofNat 12 c) else none

/-- This module's children (R270). -/
def State.children (s : State) : List (BitVec 12) :=
  match s.job.hdr with
  | some h => treeChildren s.kuf.node h.modules
  | none => []

/-- The step queue Q + i of the plan in force (R269). -/
def State.stepQueue (s : State) (i : Nat) : Nat := s.stepQueues.getD i 0

/-- Up tokens wait in queue Q, from this node. -/
def State.hasUp (s : State) (c : BitVec 12) : Bool :=
  s.job.tokens.any fun t => decide (t.queue.toNat = s.stepQueue 0) && t.src = c

/-- The report of a step timeout (R288, R464). -/
def State.stepReport (s : State) (sev : Severity) : ErrRep :=
  let missing := s.children.filter fun c => !s.hasUp c
  let first := 8 * s.kuf.node.toNat + 1
  let mask := (missing.map fun c => 2 ^ (c.toNat - first)).sum
  let q := if s.job.upSent then s.stepQueue 1 else s.stepQueue 0
  let parent := match treeParent s.kuf.node with
    | some n => n.toNat
    | none => 0
  { s.mkErr 0x0403 sev srcEngine (objQueue q + s.kuf.node.toNat * 2 ^ 32)
      [(if s.job.upSent then 0 else mask) + b2n s.job.upSent * 256, parent] with need := if sev = .jobFatal then 4 else 0 }

/-- DUMP_WRITTEN: the dump's last byte is written, WRITING clears, and what the expiry still owes follows (R226, R228). -/
def execDumpWritten (s : State) : Host.Outcome State Fault Refusal :=
  match s.smod.frozen with
  | none => .next s
  | some f =>
    let s1 := { s with
      mem := { s.mem with cells := cellsBlit 0 s.mem.cells s.smod.dumpbase.toNat f.bytes }
      smod := { s.smod with writing := false, frozen := none, errAfter := none } }
    let s2 := s1.notice 0x03 0 []
    match s.smod.errAfter with
    | none => .next s2
    | some .step => .next (s2.raiseLead (s2.stepReport .jobFatal))
    | some (.early d slot) =>
      match (s2.unit d).tally.find? fun e => e.slot = slot with
      | some e => match e.tok with
        | some t => .next (s2.raise (halfOfDie d) (s2.earlyExpiryReport e t .jobFatal))
        | none => .next s2
      | none => .next s2
    | some (.watch d slot) =>
      match (s2.unit d).watches.find? fun w => w.slot = slot with
      | some w => .next (s2.expireError d w)
      | none => .next s2

end Sys2Proof.Machine
end

