-- ==== Sys2Proof/Machine/Rake.lean ====
section
/-! DEFINITION. The Rake commands and the Rake network of the module (R138, R141-R143). A Rake command waits until the stream
before it has delivered its last term (R143) and until no earlier work stands in the way of its own access (R172). -/

namespace Sys2Proof.Machine

/-- RCLEAR: the register is cleared, and held no longer (R141, R143). -/
def execRclear (p : PlotIx) (s : State) : Host.Outcome State Fault Refusal :=
  .next (s.command p 0x09 (fun c _ => c.arg1 = 0 && c.arg2 = 0 && c.arg3 = 0) fun _ _ s =>
    if (s.plot p).stream.isSome then s.holdCommand p
    else ((s.unholdCommand p).modPlot p fun q => { q with rake := .cleared, rakeHeld := false }).finish p)

/-- RREAD: the register is read out into binary32 or binary64 and written to the plot store (R138, R141). -/
def execRread (p : PlotIx) (s : State) : Host.Outcome State Fault Refusal :=
  .next (s.command p 0x0A
    (fun c _ => c.arg1 + (if c.arg2 = 1 then 8 else 4) ≤ storeBytes && c.arg2 ≤ 1 && c.arg3 < 2 ^ 16)
    fun c pos s =>
      let q := s.plot p
      let n := if c.arg2 = 1 then 8 else 4
      if q.stream.isSome || q.writeHeld [extOf c.arg1 n] then s.holdCommand p
      else
        let s0 := s.unholdCommand p
        match unitCtl (BitVec.ofNat 16 c.arg3) with
        | none => s0.fatal p pos 0x0201 0 []
        | some ctl =>
          if q.rake.kind = .or then s0.fatal p pos 0x0204 0 []
          else
            let r := q.rake.read (if c.arg2 = 1 then fB64 else fB32) ctl
            ((s0.psWrite p c.arg1 (bytesOfNat n r.bits)).setFlags p r.flags).finish p)

/-- RSAVE: the register's image is written to the plot store (R140, R141). -/
def execRsave (p : PlotIx) (s : State) : Host.Outcome State Fault Refusal :=
  .next (s.command p 0x0B
    (fun c _ => c.arg1 % 64 = 0 && c.arg1 + 128 ≤ storeBytes && c.arg2 = 0 && c.arg3 = 0) fun c _ s =>
      let q := s.plot p
      if q.stream.isSome || q.writeHeld [extOf c.arg1 128] then s.holdCommand p
      else
        let (v, s1) := (s.unholdCommand p).imageValue q.rake
        (s1.psWrite p c.arg1 (q.rake.imageOf v)).finish p)

/-- RADD: an image is checked and combined into the register (R141). -/
def execRadd (p : PlotIx) (s : State) : Host.Outcome State Fault Refusal :=
  .next (s.command p 0x0C
    (fun c _ => c.arg1 % 64 = 0 && c.arg1 + 128 ≤ storeBytes && c.arg2 = 0 && c.arg3 = 0) fun c pos s =>
      let q := s.plot p
      if q.stream.isSome || q.readHeld [extOf c.arg1 128] then s.holdCommand p
      else
        let s0 := s.unholdCommand p
        match RakeReg.ofImage (s.psRead p c.arg1 128) with
        | none => s0.fatal p pos 0x0204 c.arg1 []
        | some r =>
          if kindsMeet q.rake.kind r.kind then
            (s0.modPlot p fun q => { q with rake := q.rake.combine r, rakeHeld := true }).finish p
          else s0.fatal p pos 0x0204 c.arg1 [])

/-! ### Combinations (R142) -/

/-- Combines the registers of a list. -/
def combineAll (l : List RakeReg) : RakeReg := l.foldl RakeReg.combine .cleared

/-- The kinds of the registers agree, but for empty ones. -/
def kindsAgree (l : List RakeReg) : Bool :=
  let ks := (l.filter fun r => r.kind ≠ .empty).map (·.kind)
  ks.all fun k => some k = ks.head?

/-- The combination of an id that still waits for participants. -/
def State.openColl (s : State) (id : Fin 4096) : Option Collective :=
  s.kuf.colls.find? fun c => c.id = id && c.reg.isNone

/-- A mismatch among the participants of a combination: a job-fatal error on every one of them (R142). -/
def State.collMismatch (s : State) (id : Fin 4096) (members : List PlotIx) : State :=
  let cs := s.kuf.colls.filter fun c => !(c.id = id && c.reg.isNone)
  let s1 := { s with kuf := { s.kuf with colls := cs } }
  s1.forEach members fun s p =>
    let s2 := s.modUnit (dieOfPlot p) fun u => { u with withdraws := u.withdraws ++ [p] }
    let s3 := s2.modSeq p fun q => { q with busy := .ready, waiting := false }
    s3.fatal p (s3.plot p).pos 0x0204 id.val []

/-- A plot joins a combination with a register (R142); its wait is a collective watch (R220). The last participant forms the
combined register. -/
def State.joinColl (s : State) (p : PlotIx) (pos : Pos) (id : Fin 4096) (count : Nat) (r : RakeReg) (kind : WatchKind) :
    State :=
  let old := s.openColl id
  let members := (match old with | some c => c.members | none => []) ++ [p]
  let images := (match old with | some c => c.images | none => []) ++ [r]
  let sameCount := match old with | some c => decide (c.count = count) | none => true
  if !sameCount || !kindsAgree images then s.collMismatch id members
  else
    let reg := if members.length ≥ count then some (combineAll images) else none
    let c : Collective := { id := id, count := count, members := members, images := images, reg := reg, step := 0 }
    let rest := s.kuf.colls.filter fun c => !(c.id = id && c.reg.isNone)
    let s1 := { s with kuf := { s.kuf with colls := rest ++ [c] } }
    let w : Watch := { slot := 0, kind := kind, plot := p, dbg := 0, object := BitVec.ofNat 12 id.val, n := 0, consume := 0,
                       elapsed := 0, timeout := s.smod.defaultus.toNat, pos := pos }
    ((s1.modUnit (dieOfPlot p) fun u => { u with regs := u.regs ++ [w] }).beginWait p).modSeq p fun q =>
      { q with busy := .collective id }

/-- RCOMBINE: the plot's register joins the module-wide combination of its id (R142). -/
def execRcombine (p : PlotIx) (s : State) : Host.Outcome State Fault Refusal :=
  .next (s.command p 0x0D
    (fun c _ => c.arg1 = 0 && c.arg2 < 4095 && 1 ≤ c.arg3 && c.arg3 ≤ 640) fun c pos s =>
      if (s.plot p).stream.isSome then s.holdCommand p
      else (s.unholdCommand p).joinColl p pos (Fin.ofNat 4096 c.arg2) c.arg3 (s.plot p).rake .rcombine)

/-- The schedule of an id in the route table in force (R262). -/
def State.schedule (s : State) (id : Fin 4096) : List CollStep :=
  match s.kuf.route with
  | some t =>
    match t.colls.find? fun x => x.1 = id.val with
    | some x => x.2
    | none => []
  | none => []

/-- A participant's collective watch is released by the delivery (R220). -/
def State.endCollWatch (s : State) (p : PlotIx) (id : Fin 4096) : State :=
  let d := dieOfPlot p
  let other := fun (w : Watch) => !(w.ofPlot p && (w.kind = .rcombine || w.kind = .vote))
  (s.modUnit d fun u => { u with watches := u.watches.filter other, regs := u.regs.filter other }).traceDie d 0x05 id.val 0

/-- The combined register reaches a participant, and its command is done; the vote leaves the plot's own register alone and
its contribution clears the fail vector (R111, R142). -/
def State.deliver (s : State) (p : PlotIx) (id : Fin 4096) (r : RakeReg) : State :=
  let s1 := s.endCollWatch p id
  let s2 := s1.modPlot p fun q =>
    if id.val = 4095 then { q with failvec := 0, seq := { q.seq with voted := true } } else { q with rake := r }
  if (s2.plot p).seq.busy = .collective id then s2.finish p else s2

/-- COMBINE_DELIVERY: the combined register, after the last step of its schedule, is delivered to every participant (R142,
R262). The vote's goes to the fallback allocator (R112). A sowing barrier ends here (R341). -/
def execCombineDelivery (id : Fin 4096) (s : State) : Host.Outcome State Fault Refusal :=
  match s.kuf.colls.find? fun c => c.id = id && c.reg.isSome with
  | none => .next s
  | some c =>
    match c.reg with
    | none => .next s
    | some r =>
      if c.step < (s.schedule id).length then .next s
      else
        let s1 := { s with kuf := { s.kuf with colls := s.kuf.colls.erase c } }
        let s2 := if id.val = 4095 then { s1 with fb := { s1.fb with voteReady := some r } } else s1
        .next ((s2.forEach c.members fun s p => s.deliver p id r).sowBarrier)

end Sys2Proof.Machine
end

