-- ==== Sys2Proof/Machine/FourBit.lean ====
section
/-! DEFINITION. Four-bit work (chapter 05): the four-bit layer table, sampled checks, the vote and the fallback allocator, and the
branch on a layer's state. -/

namespace Sys2Proof.Machine

/-! ### The four-bit layer table (R102, R103) -/

/-- The FLT header (R102). -/
structure FltHdr where
  entries : Nat
  rescap : Nat
  unitbytes : Nat
  resbase : Nat
  reservedZero : Bool
  deriving DecidableEq, Repr

/-- An FLT entry (R103). -/
structure FltEntry where
  layer : Nat
  rank : Nat
  prio : Nat
  chkint : Nat
  thsel : Bool
  thresh : Nat
  resunits : Nat
  state : Nat
  switchrow : Nat
  resoff : Nat
  /-- the complements match -/
  sound : Bool
  reservedZero : Bool
  deriving DecidableEq, Repr

/-- The device address of the plan's FLT; none when the plan has no FLT (R157). -/
def State.fltBase (s : State) : Option Nat :=
  match s.job.hdr with
  | some h => if h.flt = 0 then none else some h.flt
  | none => none

/-- An FLT header from its 64 bytes. -/
def FltHdr.ofBytes (b : List Byte) : FltHdr :=
  let w := fun i => wordAt b (4 * i)
  { entries := bits (w 0) 9 0, rescap := bits (w 1) 15 0, unitbytes := (w 2).toNat,
    resbase := (w 3).toNat + (w 4).toNat * 2 ^ 32,
    reservedZero := bits (w 0) 31 10 = 0 && bits (w 1) 31 16 = 0 && (List.range 11).all fun i => w (5 + i) = 0 }

/-- An FLT entry from its 32 bytes. -/
def FltEntry.ofBytes (b : List Byte) : FltEntry :=
  let w := fun i => wordAt b (4 * i)
  { layer := bits (w 0) 31 16, rank := bits (w 0) 15 8, prio := bits (w 0) 7 0, chkint := bits (w 1) 31 20,
    thsel := bit (w 1) 19, thresh := bits (w 1) 15 0, resunits := bits (w 2) 15 0, state := bits (w 3) 1 0,
    switchrow := (w 4).toNat + bits (w 5) 15 0 * 2 ^ 32, resoff := bits (w 5) 31 16,
    sound := w 6 = ~~~(w 3) && w 7 = ~~~(w 5),
    reservedZero := bits (w 1) 18 16 = 0 && bits (w 2) 31 16 = 0 && bits (w 3) 31 2 = 0 }

/-- The header of the FLT at an address. -/
def State.fltHdrAt (s : State) (a : Nat) : FltHdr := FltHdr.ofBytes (s.memBytes a 64)

/-- The address of entry n (R102). -/
def fltEntryAddr (a n : Nat) : Nat := a + 64 + 32 * n

/-- Entry n of the FLT at an address. -/
def State.fltEntryAt (s : State) (a n : Nat) : FltEntry := FltEntry.ofBytes (s.memBytes (fltEntryAddr a n) 32)

/-- ENTRIES of the plan's FLT; 0 without one. -/
def State.fltEntries (s : State) : Nat :=
  match s.fltBase with
  | some a => (s.fltHdrAt a).entries
  | none => 0

/-- The STATE that row R runs a layer in: a switch counts from its SWITCHROW (R113, R114; log entry 19). -/
def FltEntry.stateAt (e : FltEntry) (row : Nat) : Nat := if e.state = 2 && decide (row < e.switchrow) then 1 else e.state

/-- What the sequencer learns of a layer's entry. -/
inductive FltRead where
  /-- the entry could not be read, or its complement differs: the error is raised -/
  | failed (s : State)
  | entry (e : FltEntry) (state : Nat) (s : State)

/-- The plan sequencer reads an entry; STATE once for each row and layer (R104, R163). -/
def State.fltRead (s : State) (p : PlotIx) (pos : Pos) (idx : Nat) : FltRead :=
  match s.fltBase with
  | none => .failed (s.fatal p pos 0x0205 idx [])
  | some a =>
    let (r, s1) := s.homeRead (.plot p pos) (fltEntryAddr a idx) 32
    match r with
    | .error _ => .failed s1
    | .ok b =>
      let e := FltEntry.ofBytes b
      match (s1.plot p).seq.fltRead.find? fun x => x.1 = idx with
      | some x => .entry e x.2.toNat s1
      | none =>
        if !e.sound then .failed (s1.fatal p pos 0x0205 idx [])
        else
          let st := e.stateAt pos.row.toNat
          .entry e st (s1.modSeq p fun q => { q with fltRead := (idx, BitVec.ofNat 2 st) :: q.fltRead })

/-- R105: a check of a layer is sampled at a row count and a pass number. -/
def State.sampled (s : State) (e : FltEntry) (state : Nat) (row : Nat) (pass : Nat) : Bool :=
  let n := if e.chkint = 0 then bits s.fb.fbcfg 27 16 else e.chkint
  bit s.fb.fbcfg 31 && decide (state ≤ 1) && decide ((row + pass) % Nat.max n 1 = 0)

/-! ### Branching (R163) -/

/-- BRFLT: reads the layer's STATE once per row and jumps when it is ZE8 (R104, R163). -/
def execBrflt (p : PlotIx) (s : State) : Host.Outcome State Fault Refusal :=
  .next (s.command p 0x10
    (fun c s => decide (c.arg1 < s.fltEntries) && c.arg1 < 512 && c.arg2 = 0 && (s.plot p).seq.targetOk c.arg3)
    fun c pos s =>
      match s.fltRead p pos c.arg1 with
      | .failed s1 => s1
      | .entry _ st s1 => if st = 2 then s1.finishAt p c.arg3 else s1.finish p)

/-! ### Sampled checks (R105-R109) -/

/-- A check descriptor (R106). -/
structure ChkDesc where
  array : Fin 4
  fltidx : Nat
  outtile : Nat
  refdesc : Nat
  reservedZero : Bool
  deriving DecidableEq, Repr

/-- A check descriptor from its 64 bytes. -/
def ChkDesc.ofBytes (b : List Byte) : ChkDesc :=
  let w := fun i => wordAt b (4 * i)
  { array := Fin.ofNat 4 (bits (w 0) 29 28), fltidx := bits (w 0) 24 16, outtile := bits (w 1) 20 0, refdesc := bits (w 2) 20 0,
    reservedZero := bits (w 0) 31 30 = 0 && bits (w 0) 27 25 = 0 && bits (w 0) 15 0 = 0 && bits (w 1) 31 21 = 0
      && bits (w 2) 31 21 = 0 && (List.range 13).all fun i => w (3 + i) = 0 }

/-- R107, for the reference pass and the tiles. -/
def ChkDesc.ok (k : ChkDesc) (d : HarDesc) : Bool :=
  let ref := d.accdst + 0x1000 * k.array.val
  let strict := match unitCtl d.numctl with
    | some c => c.strict
    | none => false
  k.reservedZero && k.outtile % 128 = 0 && (extOf k.outtile 0x1000).inStore && d.dkind = 1 && strict
    && d.arrays.toNat = 2 ^ k.array.val && d.accinit = 0 && d.accout = 0 && d.refusal k.refdesc 0 = none
    && !(extOf k.outtile 0x1000).meets (extOf ref 0x1000)

/-- The Rake register is held, or a running stream will leave it held (R143). -/
def Plot.rakeTaken (q : Plot) : Bool :=
  q.rakeHeld || (match q.stream with
    | some a => a.desc.rakeop ≠ 0 && !a.desc.rakerow
    | none => false)

/-- CHECK: a check command that is not sampled is done at once; a sampled one issues its reference pass (R105-R107). -/
def execCheck (p : PlotIx) (s : State) : Host.Outcome State Fault Refusal :=
  .next (s.command p 0x07 (fun c _ => c.arg1 < storeBytes && c.arg2 = 0 && c.arg3 = 0) fun c pos s =>
    if !bit s.fb.fbcfg 31 then s.finish p
    else if (s.plot p).readHeld [extOf c.arg1 64] then s.holdCommand p
    else
      let s0 := s.unholdCommand p
      let k := ChkDesc.ofBytes (s0.psRead p c.arg1 64)
      if c.arg1 % 64 ≠ 0 || decide (s0.fltEntries ≤ k.fltidx) then s0.fatal p pos 0x0202 c.arg1 []
      else
        match s0.fltRead p pos k.fltidx with
        | .failed s1 => s1
        | .entry e st s1 =>
          if !s1.sampled e st pos.row.toNat pos.passno.toNat then s1.finish p
          else if (s1.plot p).readHeld [extOf k.refdesc 64] then s1.holdCommand p
          else
            let d := HarDesc.ofBytes (s1.psRead p k.refdesc 64)
            if (unitCtl d.numctl).isNone then s1.fatal p pos 0x0201 0 []
            else if !k.ok d then s1.fatal p pos 0x0202 c.arg1 []
            else if (s1.plot p).rakeTaken then s1.fatal p pos 0x0204 0 []
            else
              let a : ActivePass := { addr := k.refdesc, desc := d, pos := pos, start := 0, next := 0, redo := none,
                                      retried := none, isRef := true, resumed := false }
              let run : CheckRun := { array := k.array, fltidx := k.fltidx, layer := BitVec.ofNat 16 e.layer,
                                      outtile := k.outtile, reftile := d.accdst + 0x1000 * k.array.val,
                                      threshold := BitVec.ofNat 16 (if e.thsel then e.thresh else bits s1.fb.fbcfg 15 0),
                                      ref := some a, refDone := false }
              s1.modSeq p fun q => { q with busy := .checking run })

/-- The outcome of a comparison (R108). -/
inductive ChkOutcome where
  | pass | fail | void
  deriving DecidableEq, Repr

/-- Compares an output tile with a reference tile (R108): exact sums in units of 2^-298. -/
def compareTiles (out ref : List W32) (t : Nat) : ChkOutcome :=
  let ys := out.map fun w => fB32.decode w.toNat
  let xs := ref.map fun w => fB32.decode w.toNat
  let bad := fun (v : Val) => v.isNan || v.isInf
  let num := fun (v : Val) => match v with
    | .fin n m e => fixed n m e
    | _ => 0
  if xs.any bad then .void
  else if ys.any bad then .fail
  else
    let e := (ys.zip xs).foldl (fun a p => a + (num p.1 - num p.2).natAbs) 0
    let r := xs.foldl (fun a x => a + (num x).natAbs) 0
    if t * r < 65536 * e then .fail else .pass

/-- CHECK_COMPARE: after the reference pass's write-out the Rake compares the tiles and the result is recorded (R108,
R109). -/
def execCheckCompare (p : PlotIx) (s : State) : Host.Outcome State Fault Refusal :=
  let q := s.plot p
  match q.seq.busy with
  | .checking c =>
    let streamUses := match q.stream with
      | some a => a.desc.rakeop ≠ 0 || a.desc.softmax
      | none => false
    if !s.clocked p || !c.refDone || streamUses || q.readHeld [extOf c.outtile 0x1000] then .next s
    else
      let o := compareTiles (wordsOf (s.psRead p c.outtile 0x1000) 1024) (wordsOf (s.psRead p c.reftile 0x1000) 1024)
        c.threshold.toNat
      let code := match o with | .pass => 1 | .fail => 2 | .void => 3
      let failed := o = .fail
      let cnt : W32 := w32 ((satAdd (q.chkcnt.extractLsb' 16 16) (b2n failed)).toNat * 2 ^ 16
        + (satAdd (q.chkcnt.extractLsb' 0 16) 1).toNat)
      let s1 := s.modPlot p fun q =>
        { q with chklast := w32 (code * 2 ^ 30 + c.fltidx * 2 ^ 16 + c.layer.toNat), chkcnt := cnt,
                 failvec := if failed then q.failvec ||| BitVec.ofNat 512 (2 ^ c.fltidx) else q.failvec }
      let s2 := if o = .void then
          s1.raise (halfOfDie (dieOfPlot p)) (plotErr p q.pos 0x0901 .notice c.layer.toNat [0x0C] 0)
        else s1
      .next (s2.finish p)
  | _ => .next s

/-! ### The vote (R111, R112) -/

/-- The vote digest of the module (R111). -/
def State.voteDigest (s : State) (flt : Nat) : W32 :=
  let n := (s.fltHdrAt flt).entries
  crc32 (s.memBytes flt 64 ++ ((List.range n).flatMap fun i => s.memBytes (fltEntryAddr flt i) 12)
    ++ bytesOfWord s.fb.fbcfg ++ bytesOfNat 2 s.fb.extra.toNat)

/-- The OR image of a plot's contribution (R136). -/
def voteImage (failvec : BitVec 512) (digest : W32) : RakeReg :=
  { RakeReg.cleared with
    kind := .or, terms := 1
    value := BitVec.ofNat 640 (failvec.toNat + digest.toNat * 2 ^ 512 + (~~~digest).toNat * 2 ^ 544) }

/-- VOTE: the plot's fail vector and the module's digest join the vote under id 4,095 (R111); a second vote in a row is a
job-fatal error. -/
def execVote (p : PlotIx) (s : State) : Host.Outcome State Fault Refusal :=
  .next (s.command p 0x08 (fun c s => c.arg1 = 0 && c.arg2 = 0 && c.arg3 = 0 && s.fltBase.isSome) fun _ pos s =>
    match s.fltBase with
    | none => s
    | some flt =>
      if (s.plot p).seq.voted then s.fatal p pos 0x0205 0 []
      else s.joinColl p pos 4095 s.job.active.length (voteImage (s.plot p).failvec (s.voteDigest flt)) .vote)

/-! ### The fallback allocator (R112, R113) -/

/-- What the allocation has reached. -/
structure Alloc where
  used : Nat
  blocked : Bool
  /-- changed entries: index, new state, its first reserve unit, and its resunits -/
  changes : List (Nat × Nat × Nat)
  deriving DecidableEq, Repr

/-- One entry of the allocation, in the order of R113. -/
def Alloc.visit (total : Nat) (v : BitVec 512) (a : Alloc) (x : Nat × FltEntry) : Alloc :=
  let e := x.2
  let candidate := e.state = 1 || (e.state = 0 && v.getLsbD x.1)
  if !candidate then a
  else if !a.blocked && decide (a.used + e.resunits ≤ total) then
    { a with used := a.used + e.resunits, changes := a.changes ++ [(x.1, 2, a.used)] }
  else if e.state = 0 then { a with blocked := true, changes := a.changes ++ [(x.1, 1, 0)] }
  else { a with blocked := true }

/-- The words that a change writes into its entry, with their complements (R103). -/
def State.writeChange (s : State) (flt : Nat) (row : Nat) (x : Nat × Nat × Nat) : State :=
  let a := fltEntryAddr flt x.1
  let old := s.memWord (a + 0x0C)
  let st := w32 (old.toNat / 4 * 4 + x.2.1)
  let s1 := (s.engineWrite (a + 0x0C) (bytesOfWord st)).engineWrite (a + 0x18) (bytesOfWord (~~~st))
  let s2 := if x.2.1 = 2 then
      let sw := w32 (x.2.2 * 2 ^ 16 + row / 2 ^ 32 % 2 ^ 16)
      ((s1.engineWrite (a + 0x10) (bytesOfWord (w32 row))).engineWrite (a + 0x14) (bytesOfWord sw)).engineWrite (a + 0x1C)
        (bytesOfWord (~~~sw))
    else s1
  (s2.noteGuarded a).notice (if x.2.1 = 2 then 0x01 else 0x02) x.1 []

/-- FALLBACK_ALLOCATION: the digest test and the allocation of a completed vote (R112, R113, R116). -/
def execFallbackAllocation (s : State) : Host.Outcome State Fault Refusal :=
  match s.fb.voteReady, s.fltBase with
  | some r, some flt =>
    let v : BitVec 512 := BitVec.ofNat 512 r.value.toNat
    let d1 := w32 (r.value.toNat / 2 ^ 512)
    let d2 := w32 (r.value.toNat / 2 ^ 544)
    let s0 := { s with fb := { s.fb with voteReady := none } }
    if d1 ^^^ d2 ≠ 0xFFFFFFFF#32 then
      .next (s0.raiseLead (s.mkErr 0x0205 .jobFatal srcEngine d1.toNat [d2.toNat]))
    else
      let h := s.fltHdrAt flt
      let es := (List.range h.entries).map fun i => (i, s.fltEntryAt flt i)
      let total := h.rescap + s.fb.extra.toNat
      let a := (sortKey (fun x => x.2.prio * 1024 + x.1) es).foldl (Alloc.visit total v)
        { used := s.fb.used, blocked := false, changes := [] }
      let s1 := s0.forEach a.changes fun s x => s.writeChange flt (s.job.row.toNat + 1) x
      let after := (List.range h.entries).map fun i => (s1.fltEntryAt flt i).state
      .next { s1 with fb := { s1.fb with used := a.used, resfree := BitVec.ofNat 16 (total - a.used),
                                         pendingN := BitVec.ofNat 10 (after.filter (· = 1)).length,
                                         switchedN := BitVec.ofNat 10 (after.filter (· = 2)).length,
                                         fbrow := s.job.row, fblast := v, allocDone := true } }
  | _, _ => .next s

end Sys2Proof.Machine
end

