-- ==== Sys2Proof/Machine/Kmsg.lean ====
section
/-! DEFINITION. Kufort messages (R246-R255) and their routes (R257-R261): building and reading them, the send table, and the
send of a data write or a token on a channel. -/

namespace Sys2Proof.Machine

/-! ### Messages (R251) -/

/-- A message header. -/
structure MsgHdr where
  mtype : Nat
  channel : BitVec 8
  hops : Nat
  len : Nat
  src : BitVec 12
  dst : BitVec 12
  mseq : BitVec 24
  deriving DecidableEq, Repr

/-- The 16 bytes of a header. -/
def MsgHdr.bytes (h : MsgHdr) : List Byte :=
  bytesOfWords [
    w32 (h.mtype * 2 ^ 28 + h.channel.toNat * 2 ^ 20 + h.hops * 2 ^ 14 + h.len),
    w32 (h.src.toNat * 2 ^ 20 + h.dst.toNat * 2 ^ 8), w32 (h.mseq.toNat * 2 ^ 8), 0]

/-- A header from bytes. -/
def MsgHdr.ofBytes (b : List Byte) : MsgHdr :=
  let w0 := wordAt b 0
  let w1 := wordAt b 4
  { mtype := bits w0 31 28, channel := BitVec.ofNat 8 (bits w0 27 20), hops := bits w0 19 14, len := bits w0 8 0,
    src := BitVec.ofNat 12 (bits w1 31 20), dst := BitVec.ofNat 12 (bits w1 19 8),
    mseq := BitVec.ofNat 24 (bits (wordAt b 8) 31 8) }

/-- The reserved bits of a header are 0. -/
def hdrReserved (b : List Byte) : Bool :=
  bits (wordAt b 0) 13 9 = 0 && bits (wordAt b 4) 7 0 = 0 && bits (wordAt b 8) 7 0 = 0 && wordAt b 12 = 0

/-- Bytes of a whole message: header, body and MCRC. -/
def MsgHdr.size (h : MsgHdr) : Nat := 20 + h.len

/-- The message with HOPS replaced. -/
def setHops (m : List Byte) (hops : Nat) : List Byte :=
  let w := wordAt m 0
  patch m 0 (bytesOfWord (w32 (w.toNat - bits w 19 14 * 2 ^ 14 + hops * 2 ^ 14)))

/-- MCRC covers every byte before it, with HOPS taken as 0. -/
def mcrcOf (m : List Byte) : W32 := crc32 ((setHops m 0).take (m.length - 4))

/-- A message with its MCRC. -/
def mkMessage (h : MsgHdr) (body : List Byte) : List Byte :=
  let m := { h with len := body.length }.bytes ++ body
  m ++ bytesOfWord (crc32 (setHops m 0))

/-- MCRC agrees. -/
def mcrcOk (m : List Byte) : Bool := wordAt m (m.length - 4) = mcrcOf m

/-- The class that a message travels in. -/
def classOfType (mtype : Nat) : Fin 3 := if mtype = 1 || mtype = 2 then 0 else if mtype = 3 then 1 else 2

/-- Base die of a port (R17). -/
def dieOfPort (k : KPort) : DieIx := dieIx (([1, 1, 2, 2, 5, 5, 6, 6] : List Nat).getD k.val 1)

/-- The channel home of a channel (R246). -/
def channelHome (ch : BitVec 8) : DieIx := dieIx (([1, 2, 5, 6] : List Nat).getD (ch.toNat % 4) 1)

/-! ### Errors -/

/-- A transport error (R359): the items in the order of the raising rule (R464). -/
def State.transportErr (s : State) (d : DieIx) (lo hi : Nat) (det : List Nat) : State :=
  s.raise (halfOfDie d) (s.mkErr 0x0502 .jobFatal srcKufort (lo + hi * 2 ^ 32) det)

/-- The word that holds a destination node, as a command's or a descriptor's NODE field holds it. -/
def dstWord (node : BitVec 12) : Nat := node.toNat

/-! ### Routes (R257-R260) -/

/-- The destination entry of a node. -/
def State.destOf (s : State) (node : BitVec 12) : Option RouteDest :=
  match s.kuf.route with
  | some t => t.dests.find? fun d => d.node = node.toNat
  | none => none

/-- Ports that an entry names and that the table uses, the one in use first. -/
def RouteDest.ports (d : RouteDest) (t : RouteTable) : List KPort :=
  let both := if d.altValid then (if d.useAlt then [d.alt, d.primary] else [d.primary, d.alt]) else [d.primary]
  both.filter fun k => (t.ports.get k).used

/-- The port for a message to a node: the one in use, or while that one is declared down the other. No port is left when
the entry is not valid or is the module's own, its ports are not used, or both are declared down (R258, R260). -/
def State.routeOf (s : State) (node : BitVec 12) : Option KPort :=
  if node = s.kuf.node then none
  else match s.kuf.route, s.destOf node with
    | some t, some d => (d.ports t).find? fun k => (s.kport k).state ≠ .failed
    | _, _ => none

/-- Queues a message at a port, in its class. -/
def State.txPush (s : State) (k : KPort) (m : List Byte) : State :=
  let c := classOfType (MsgHdr.ofBytes m).mtype
  s.modKport k fun x => { x with txq := x.txq.set c.val (x.txq.get c ++ [m]) }

/-- MAXHOPS of the route table in force. -/
def State.maxHops (s : State) : Nat :=
  match s.kuf.route with
  | some t => t.maxHops.toNat
  | none => 0

/-- Sends a message on the route of its destination: the port it leaves by, or the error of R258 or R260. -/
def State.sendOn (s : State) (m : List Byte) : Option KPort × State :=
  let dst := (MsgHdr.ofBytes m).dst
  match s.routeOf dst with
  | some k => (some k, s.txPush k m)
  | none => (none, s.raiseLead (s.mkErr 0x0502 .jobFatal srcKufort (dstWord dst) []))

/-- A control message without a body, or ACK with one word (R255). -/
def State.control (s : State) (mtype : Nat) (node : BitVec 12) (ch : BitVec 8) (body : List Byte) : List Byte :=
  mkMessage { mtype := mtype, channel := ch, hops := s.maxHops, len := 0, src := s.kuf.node, dst := node, mseq := 0 } body

/-! ### The send table (R246, R247) -/

/-- The send pair of a node and a channel. -/
def State.txPair (s : State) (node : BitVec 12) (ch : BitVec 8) : Option TxPair :=
  s.kuf.tx.find? fun x => x.node = node && x.channel = ch

/-- Changes a send pair. -/
def State.modTx (s : State) (node : BitVec 12) (ch : BitVec 8) (f : TxPair → TxPair) : State :=
  { s with kuf := { s.kuf with tx := s.kuf.tx.map fun x => if x.node = node && x.channel = ch then f x else x } }

/-- A message of a pair lies within 256 of ACKED. -/
def TxPair.inWindow (x : TxPair) (m : SentMsg) : Bool := decide ((m.mseq - x.acked).toNat < 256)

/-- Sends every message of a pair that has not been sent and that its grant and window let go, in order (R246, R247). -/
def State.pump (s : State) (node : BitVec 12) (ch : BitVec 8) : State :=
  match s.txPair node ch with
  | none => s
  | some x =>
    if !x.granted then s
    else
      s.forEach (x.buffer.filter fun m => m.sends = 0 && x.inWindow m) fun s m =>
        let (k, s1) := s.sendOn m.bytes
        let f : SentMsg → SentMsg := fun y => if y.mseq = m.mseq then { y with sends := 1, port := k } else y
        s1.modTx node ch fun x => { x with buffer := x.buffer.map f }

/-- Sends OPEN for a pair. -/
def State.sendOpen (s : State) (node : BitVec 12) (ch : BitVec 8) : State :=
  (s.sendOn (s.control 4 node ch [])).2.modTx node ch fun x => { x with opens := x.opens + 1 }

/-- Gives a data write or a token to the transport: its MSEQ, and OPEN before the first message of the pair (R246). -/
def State.pairSend (s : State) (node : BitVec 12) (ch : BitVec 8) (mtype : Nat) (body : List Byte) : BitVec 24 × State :=
  let s1 :=
    if (s.txPair node ch).isSome then s
    else
      let x : TxPair := { node := node, channel := ch, granted := false, refused := false, mseq := 0, acked := 0,
                          buffer := [], opens := 0 }
      { s with kuf := { s.kuf with tx := s.kuf.tx ++ [x] } }.sendOpen node ch
  let n := match s1.txPair node ch with
    | some x => x.mseq
    | none => 0
  let m := mkMessage { mtype := mtype, channel := ch, hops := s.maxHops, len := 0, src := s.kuf.node, dst := node, mseq := n }
    body
  let s2 := s1.modTx node ch fun x =>
    { x with mseq := x.mseq + 1, buffer := x.buffer ++ [{ mseq := n, bytes := m, sends := 0, port := none }] }
  (n, s2.pump node ch)

/-- The body of a data write (R252). -/
def dataBody (addr : Nat) (ann : Option (DieIx × BitVec 16)) (data : List Byte) : List Byte :=
  let w := match ann with
    | some (d, _) => 2 ^ 31 + d.val * 2 ^ 28
    | none => 0
  let q := match ann with
    | some (_, t) => t.toNat * 2 ^ 16
    | none => 0
  bytesOfWords [w32 addr, w32 (w + addr / 2 ^ 32 % 2 ^ 16), w32 q, 0] ++ data ++ zeros ((4 - data.length % 4) % 4)

/-- A data write to a node. -/
def State.sendData (s : State) (node : BitVec 12) (ch : BitVec 8) (addr : Nat) (ann : Option (DieIx × BitVec 16))
    (data : List Byte) : BitVec 24 × State :=
  s.pairSend node ch 1 (dataBody addr ann data)

/-- The body of a token message (R253). -/
def tokenBody (t : TokenRec) : List Byte :=
  bytesOfWords [t.payload, t.payloadC, w32 t.bytes.toNat,
    w32 (t.bytes.toNat / 2 ^ 32 * 2 ^ 24 + t.tseq.toNat * 2 ^ 8 + t.kind.toNat), w32 t.queue.toNat, t.queueC]

/-- The next TSEQ for a node, a channel and a field die (R221). -/
def State.takeTseq (s : State) (node : BitVec 12) (ch : BitVec 8) (d : DieIx) : BitVec 16 × State :=
  let key := fun (x : BitVec 12 × BitVec 8 × DieIx × BitVec 16) => x.1 = node && x.2.1 = ch && x.2.2.1 = d
  let n := match s.job.tseqs.find? key with
    | some x => x.2.2.2
    | none => 0
  let rest := s.job.tseqs.filter fun x => !key x
  (n, { s with job := { s.job with tseqs := rest ++ [(node, ch, d, n + 1)] } })

/-- A token message with a TSEQ that has been taken. -/
def State.sendTokenSeq (s : State) (node : BitVec 12) (ch : BitVec 8) (queue : BitVec 15) (payload : W32) (bytes : Nat)
    (tseq : BitVec 16) : BitVec 24 × State :=
  s.pairSend node ch 2 (tokenBody (mkToken 3 0 0 queue payload bytes tseq))

/-- A token to a queue of another node (R212, R221). -/
def State.sendToken (s : State) (node : BitVec 12) (ch : BitVec 8) (queue : BitVec 15) (payload : W32) : State :=
  let (n, s1) := s.takeTseq node ch (dieOfQueue queue)
  (s1.sendTokenSeq node ch queue payload 0 n).2

/-- A token on this module, sent by a plot (R212). -/
def State.localToken (s : State) (kind : BitVec 3) (src : BitVec 12) (queue : BitVec 15) (payload : W32) : State :=
  { s with kuf := { s.kuf with transit := s.kuf.transit ++ [mkToken kind src 0 queue payload 0 0] } }

/-- Flits that a message fills (R241). -/
def flitsOf (n : Nat) : Nat := (n + 111) / 112

/-! ### Resending (R249) -/

/-- Sends an unacknowledged message again; the one after the fifth sending is the error. -/
def State.resendMsg (s : State) (node : BitVec 12) (ch : BitVec 8) (m : SentMsg) : State :=
  let set := fun (s : State) (n : Nat) (k : Option KPort) =>
    let f : SentMsg → SentMsg := fun y => if y.mseq = m.mseq then { y with sends := n, port := k } else y
    s.modTx node ch fun x => { x with buffer := x.buffer.map f }
  if m.sends = 0 || m.sends > 5 then s
  else if m.sends = 5 then
    (set s 6 m.port).raiseLead (s.mkErr 0x0502 .jobFatal srcKufort (keyWord node ch + m.mseq.toNat * 2 ^ 40) [])
  else
    let (k, s1) := s.sendOn m.bytes
    let s2 := set s1 (m.sends + 1) k
    ({ s2 with kuf := { s2.kuf with resent := satAdd s2.kuf.resent 1 } }).rowAdd 5
      (match k with
       | some k => b2n (decide (4 ≤ (dieOfPort k).val))
       | none => 0) 1

end Sys2Proof.Machine
end

