-- ==== Sys2Proof/Machine/Dma.lean ====
section
/-! DEFINITION. The movers (R165-R172): the DMA command, what a transfer reads and writes, conversions on the load/store path,
its accesses at their homes, its end and its trailing token. -/

namespace Sys2Proof.Machine

/-! ### The device-memory end (R169) -/

/-- Rows of elements in device memory, with the scale plane of a block format. -/
structure DevEnd where
  base : Nat
  scale : Nat
  rows : Nat
  per : Nat
  pitch : Nat
  code : Nat
  panel : Bool
  deriving DecidableEq, Repr

/-- Bytes from one row, or one row panel, to the next. -/
def DevEnd.step (e : DevEnd) : Nat :=
  if e.pitch ≠ 0 then e.pitch else if e.panel then 16 * e.per else e.per * elemBits e.code / 8

/-- Bytes from the scales of one row, or row panel, to the next. -/
def DevEnd.scaleStep (e : DevEnd) : Nat :=
  if e.pitch ≠ 0 then e.pitch / (if e.code = 5 then 16 else 64) else if e.panel then e.per else e.per / blockLen e.code

/-- Bit position of element n of row r. -/
def DevEnd.bitPos (e : DevEnd) (r n : Nat) : Nat :=
  if e.panel then 8 * (e.base + r / 32 * e.step + 512 * (n / 32) + 16 * (n % 32) + r % 32 / 2) + 4 * (r % 2)
  else if e.pitch ≠ 0 then 8 * (e.base + r * e.pitch) + n * elemBits e.code
  else 8 * e.base + (r * e.per + n) * elemBits e.code

/-- The byte that holds the scale of element n of row r. -/
def DevEnd.scaleAt (e : DevEnd) (r n : Nat) : Nat :=
  if e.panel then e.scale + r / 32 * e.scaleStep + 32 * (n / 32) + r % 32
  else e.scale + r * e.scaleStep + n / blockLen e.code

/-- The bytes of one row, or one row panel, and of its scales, as (address, length). -/
def DevEnd.rowRanges (e : DevEnd) (r : Nat) : List (Nat × Nat) :=
  if e.panel then [(e.base + r * e.step, 16 * e.per), (e.scale + r * e.scaleStep, e.per)]
  else
    let bits := e.per * elemBits e.code
    let data :=
      if e.pitch ≠ 0 then (e.base + r * e.pitch, (bits + 7) / 8)
      else
        let hi := if r + 1 = e.rows then (e.rows * bits + 7) / 8 else (r + 1) * bits / 8
        (e.base + r * bits / 8, hi - r * bits / 8)
    data :: (if isBlock e.code then [(e.scale + r * e.scaleStep, e.per / blockLen e.code)] else [])

/-- Every range of the end, rows ascending (R166). -/
def DevEnd.ranges (e : DevEnd) : List (Nat × Nat) :=
  ((List.range (if e.panel then e.rows / 32 else e.rows)).flatMap e.rowRanges).filter fun x => x.2 ≠ 0

/-- The ranges cut at granule bounds (R190, R252). -/
def DevEnd.pieces (e : DevEnd) : List (Nat × Nat) := e.ranges.flatMap fun x => granulePieces (x.2 / 256 + 2) x.1 x.2

/-- The device end of a descriptor at its address after AMODE. -/
def DmaDesc.devEnd (d : DmaDesc) (base scale : Nat) : DevEnd :=
  let src := d.srcsp = 1
  let code := d.code (if src then d.sfmt else d.dfmt)
  { base := base, scale := scale, rows := d.nrows, per := d.rowlen, pitch := if src then d.srcpitch else d.dstpitch,
    code := code, panel := d.layout && decide (code = 5) }

/-- One end is device memory, here or remote. -/
def DmaDesc.hasDev (d : DmaDesc) : Bool := d.srcsp = 1 || d.dstsp = 1 || d.dstsp = 3

/-! ### Conversion (R168, R300, R301) -/

/-- Rotates a word left. -/
def rotl (x : W32) (n : Nat) : W32 := x.rotateLeft n

/-- One round of the generator. -/
def srRound (st : W32 × W32 × W32 × W32) (i : Nat) : W32 × W32 × W32 × W32 :=
  let (a0, b0, c0, d0) := st
  let a1 := a0 + b0
  let d1 := rotl (d0 ^^^ a1) 16
  let c1 := c0 + d1
  let b1 := rotl (b0 ^^^ c1) 12
  let a2 := a1 + b1
  let d2 := rotl (d1 ^^^ a2) 8
  let c2 := c1 + d2
  let b2 := rotl (b1 ^^^ c2) 7
  (a2 ^^^ w32 i, b2, c2, d2)

/-- The 24-bit draw of a key (R301). -/
def srDraw (tensor : W32) (row : Row) (index : W32) : Nat :=
  let st := (List.range 8).foldl srRound
    (tensor ^^^ 0x5a480c31#32, w32 row.toNat ^^^ 0x9d2c5681#32, w32 (row.toNat / 2 ^ 32) ^^^ 0x3b1ea4d7#32,
      index ^^^ 0xc6f02b95#32)
  (((st.1 + st.2.2.1) ^^^ (st.2.1 + st.2.2.2)) >>> 8).toNat

/-- Cuts a list into pieces of n. -/
def chunks {α : Type} (n : Nat) : Nat → List α → List (List α)
  | 0, _ => []
  | fuel + 1, l => if l.isEmpty then [] else l.take n :: chunks n fuel (l.drop n)

/-- Stored results of one row, from element `first` of the transfer (R49-R53). -/
def convertRow (c : Ctl) (code : Nat) (draw : Nat → Nat) (first : Nat) (xs : List Val) : List Stored :=
  if isBlock code then
    let k := blockLen code
    ((chunks k (xs.length / k + 1) xs).mapIdx fun b ys =>
      let draws := (List.range k).map fun i => draw (first + b * k + i)
      let (scale, codes, fl) := writeBlock c (code = 5) draws (ys.map Val.exact)
      codes.mapIdx fun i w => ({ bits := w, scale := scale, flags := if i = 0 then fl else 0 } : Stored)).flatten
  else
    xs.mapIdx fun n v =>
      let r := writeElem c code (draw (first + n)) v.exact
      { bits := r.bits, scale := 0, flags := r.flags }

/-- The draw of element n of a transfer (R300). -/
def DmaDesc.draw (d : DmaDesc) (row : Row) (n : Nat) : Nat := srDraw d.tensorid row (d.elembase + w32 n)

/-- The transfer's numeric control word. -/
def DmaDesc.ctl (d : DmaDesc) : Ctl := (Ctl.decode d.numctl).getD .fast

/-- Source values of a row in plot-store form (R121). -/
def DmaDesc.planeRow (d : DmaDesc) (m : List Host.Cell) (r : Nat) : List (Val × Flags) :=
  (List.range d.rowlen).map fun n => d.srcPlane.read d.ctl m r n

/-- Source values of a row in device memory. -/
def DmaDesc.devRow (d : DmaDesc) (e : DevEnd) (m : List Host.Cell) (r : Nat) : List (Val × Flags) :=
  (List.range d.rowlen).map fun n =>
    readElem d.ctl e.code (bitsAt m (e.bitPos r n) (elemBits e.code))
      (if isBlock e.code then (cellGet 0 m (e.scaleAt r n)).toNat else 0)

/-- Words of a row of a raw copy. -/
def DmaDesc.rawRow (d : DmaDesc) (t : Transfer) (r : Nat) : List Stored :=
  (List.range d.rowlen).map fun n =>
    let w := if d.srcsp = 1 then bitsAt t.got ((d.devEnd t.base t.scaleBase).bitPos r n) 8 else d.srcPlane.word t.got r n
    { bits := w, scale := 0, flags := 0 }

/-- What a transfer stores for a row, from the source bytes that it has captured. -/
def Transfer.row (t : Transfer) (r : Nat) : List Stored :=
  let d := t.desc
  if d.raw then d.rawRow t r
  else
    let vs := if d.srcsp = 1 then d.devRow (d.devEnd t.base t.scaleBase) t.got r else d.planeRow t.got r
    let out := convertRow d.ctl d.dfmt.toNat (d.draw t.pos.row) (r * d.rowlen) (vs.map (·.1))
    (out.zip vs).map fun x => { x.1 with flags := x.1.flags ||| x.2.2 }

/-- Flags of stored results. -/
def flagsOf (l : List Stored) : Flags := l.foldl (fun f x => f ||| x.flags) 0

/-- Writes a row in plot-store form. -/
def Transfer.rowToPlane (t : Transfer) (m : List Host.Cell) (r : Nat) : List Host.Cell × Flags :=
  let xs := t.row r
  ((xs.zip (List.range xs.length)).foldl (fun m x => t.desc.dstPlane.write m r x.2 x.1) m, flagsOf xs)

/-- Writes a row in the form of device memory, into an image of the bytes that the transfer writes. -/
def Transfer.rowToDev (t : Transfer) (m : List Host.Cell) (r : Nat) : List Host.Cell × Flags :=
  let e := t.desc.devEnd t.base t.scaleBase
  let xs := t.row r
  ((xs.zip (List.range xs.length)).foldl (fun m x =>
    let m1 := putBits m (e.bitPos r x.2) (elemBits e.code) x.1.bits
    if isBlock e.code then cellPut 0 m1 (e.scaleAt r x.2) (BitVec.ofNat 8 x.1.scale) else m1) m, flagsOf xs)

/-- Every row of a transfer through one of these. -/
def Transfer.allRows (t : Transfer) (f : List Host.Cell → Nat → List Host.Cell × Flags) (m : List Host.Cell) :
    List Host.Cell × Flags :=
  (List.range t.desc.nrows).foldl (fun acc r =>
    let (m1, fl) := f acc.1 r
    (m1, acc.2 ||| fl)) (m, 0)

/-! ### Refusals (R40, R171) -/

/-- The conversions of R168, with LAYOUT and block sizes of R169. -/
def DmaDesc.formOk (d : DmaDesc) : Bool :=
  let s := d.sfmt.toNat
  let t := d.dfmt.toNat
  let short := fun (x : Nat) => (decide (1 ≤ x) && decide (x ≤ 8)) || x = 0xA || x = 0xB
  let wide := fun (x : Nat) => x = 8 || x = 0xA
  let load := d.srcsp = 1 && d.dstsp = 0 && short s && wide t
  let store := d.srcsp = 0 && (d.dstsp = 1 || d.dstsp = 0) && wide s && short t
  d.raw || load || store

/-- A store-path conversion (R168). -/
def DmaDesc.isStore (d : DmaDesc) : Bool := !d.raw && d.srcsp = 0

/-- Bytes of a row at an end. -/
def DmaDesc.rowBytes (d : DmaDesc) (f : BitVec 4) : Nat := (d.rowlen * elemBits (d.code f) + 7) / 8

/-- ROWLEN and NROWS (R165, R169). -/
def DmaDesc.sizeOk (d : DmaDesc) : Bool :=
  let devCode := d.code (if d.srcsp = 1 then d.sfmt else d.dfmt)
  decide (1 ≤ d.rowlen) && decide (d.rowBytes d.sfmt ≤ 2097152) && decide (d.rowBytes d.dfmt ≤ 2097152)
    && decide (1 ≤ d.nrows)
    && decide (d.rowlen % blockLen d.sfmt.toNat = 0) && decide (d.rowlen % blockLen d.dfmt.toNat = 0)
    && !(d.hasDev && d.layout && isBlock devCode && (devCode ≠ 5 || d.nrows % 32 ≠ 0))

/-- An end in a plot store: aligned, and inside the store. -/
def planeOk (g : Plane) : Bool := g.base % 16 = 0 && g.pitch % 16 = 0 && g.exts.all Ext.inStore

/-- The rules of R171 and R269 that the descriptor alone decides. `steps` are the step queues; PEER names a plot. -/
def DmaDesc.descOk (d : DmaDesc) (steps : List Nat) : Bool :=
  d.kind = 1 && d.reservedZero && d.srcsp ≠ 3 && d.amode ≠ 3
    && (d.srcsp = 0 || d.dstsp = 0) && d.formOk && d.sizeOk
    && (d.raw || (d.srcsp ≠ 2 && d.dstsp ≠ 2 && d.dstsp ≠ 3))
    && (d.srcsp = 1 || planeOk d.srcPlane) && (d.dstsp = 1 || d.dstsp = 3 || planeOk d.dstPlane)
    && ((d.srcsp ≠ 2 && d.dstsp ≠ 2) || decide (d.peer < 640))
    && !(d.token && decide (d.tokqueue.toNat ∈ steps)) && !(d.dstsp = 3 && d.channel = 255)
    && !(d.isStore && d.ctl.rnd = .sr && decide (2 ^ 32 < d.elembase.toNat + d.nrows * d.rowlen))

/-- AMODE's address (R167). -/
def State.amode (s : State) (d : DmaDesc) (row : Row) (e : Option FltEntry) (a : Nat) : Nat :=
  match d.amode.toNat with
  | 1 =>
    let first := match s.job.hdr with
      | some h => h.rowfirst.toNat
      | none => 0
    let n := row.toNat - first
    (a + (if d.rowwrap = 0 then n else n % d.rowwrap) * d.rowstep) % 2 ^ 48
  | 2 =>
    match e, s.fltBase with
    | some e, some f =>
      let h := s.fltHdrAt f
      (h.resbase + e.resoff * h.unitbytes + a) % 2 ^ 48
    | _, _ => a
  | _ => a

/-- A slice that a range names changes its mode (R199). -/
def State.rangeBusy (s : State) (x : Nat × Nat) : Bool :=
  match sliceOf x.1, sliceOf (x.1 + x.2 - 1) with
  | some a, some b => (List.range (b + 1 - a)).any fun i => s.sliceBusy (a + i)
  | some a, none => s.sliceBusy a
  | none, some b => s.sliceBusy b
  | none, none => false

/-- What a mover makes of a descriptor. -/
inductive Accepted where
  /-- its read of the descriptor is held, or a slice that it names changes its mode -/
  | wait
  /-- refused, or its FLT entry could not be read: the error is raised -/
  | refused (s : State)
  | ok (t : Transfer) (s : State)

/-- A mover reads and checks the descriptor at a plot-store address (R165, R171, R172). -/
def State.acceptDma (s : State) (p : PlotIx) (pos : Pos) (addr : Nat) : Accepted :=
  let bad := fun (s : State) => Accepted.refused (s.fatal p pos 0x0202 addr [])
  if addr % 128 ≠ 0 || decide (storeBytes < addr + 128) then bad s
  else if (s.plot p).readHeld [extOf addr 128] then .wait
  else
    let d := DmaDesc.ofBytes (s.psRead p addr 128)
    match Ctl.decode d.numctl with
    | none => .refused (s.fatal p pos 0x0201 0 [])
    | some c =>
      if c.rnd = .sr && !d.isStore then .refused (s.fatal p pos 0x0201 0 [])
      else if !d.descOk s.stepQueues || ((d.sampled || (d.amode = 2 && d.hasDev)) && decide (s.fltEntries ≤ d.fltidx)) then bad s
      else if d.dstsp = 3 && (s.routeOf d.node).isNone then .refused (s.fatal p pos 0x0502 (dstWord d.node) [])
      else
        let needs := d.sampled || (d.amode = 2 && d.hasDev)
        let go := fun (s : State) (e : Option (FltEntry × Nat)) =>
          if d.amode = 2 && d.hasDev && (match e with | some x => decide (x.2 ≠ 2) | none => true) then bad s
          else
            let fe := e.map (·.1)
            let base := s.amode d pos.row fe (if d.srcsp = 1 then d.src else d.dst)
            let scale := s.amode d pos.row fe d.scale
            let rs := (d.devEnd base scale).ranges
            let here := d.srcsp = 1 || d.dstsp = 1
            if here && rs.any s.rangeBusy then .wait
            else if here && !(rs.all fun x => s.rangeDevice x.1 x.2) then bad s
            else
              let performed := !d.sampled || (match e with
                | some x => s.sampled x.1 x.2 pos.row.toNat d.cpassno.toNat
                | none => false)
              .ok { seqno := (s.plot p).nextXfer, addr := addr, desc := d, pos := pos, phase := .queued,
                    performed := performed, base := base, scaleBase := scale, todo := [], got := [], unacked := [],
                    msgs := [], tseq := 0, sent := 0 } s
        if needs then
          match s.fltRead p pos d.fltidx with
          | .failed s1 => .refused s1
          | .entry e st s1 => go s1 (some (e, st))
        else go s none

/-! ### Activation -/

/-- The unit of a mover. -/
def moverUnit (m : Fin 2) : HeldUnit := if m = 0 then .mover0 else .mover1

/-- Replaces a mover's list. -/
def State.setMover (s : State) (p : PlotIx) (m : Fin 2) (l : List Transfer) : State :=
  s.modPlot p fun q => { q with movers := q.movers.set m.val l }

/-- The transfers of a mover. -/
def State.mover (s : State) (p : PlotIx) (m : Fin 2) : List Transfer := (s.plot p).movers.get m

/-- Changes the transfer at a mover's head. -/
def State.modHead (s : State) (p : PlotIx) (m : Fin 2) (f : Transfer → Transfer) : State :=
  match s.mover p m with
  | [] => s
  | t :: r => s.setMover p m (f t :: r)

/-- Transfers of a plot that were accepted before a transfer and have not written their destination. -/
def Plot.before (q : Plot) (t : Transfer) : List Transfer :=
  q.transfers.filter fun x => decide (x.seqno < t.seqno) && x.performed && x.phase ≠ .tokenDue

/-- A transfer's own accesses to the plot store are held (R82, R172). -/
def Plot.transferHeld (q : Plot) (t : Transfer) : Bool :=
  let writes := q.arrayWrites ++ q.streamWrites ++ (q.before t).flatMap fun x => x.desc.dstExts
  let reads := q.arrayReads ++ q.streamReads
    ++ ((q.before t).filter fun x => x.phase = .queued).flatMap fun x => x.desc.srcExts
  meet t.desc.srcExts writes || meet t.desc.dstExts (writes ++ reads)

/-- A remote token of a node, a channel and a field die has its TSEQ and has not been sent: the next one waits, so that
tokens leave in the order of their TSEQ (R221, R223). -/
def State.tseqTaken (s : State) (node : BitVec 12) (ch : BitVec 8) (d : DieIx) : Bool :=
  allPlots.any fun p => (s.plot p).transfers.any fun t =>
    t.phase = .tokenDue && t.desc.dstsp = 3 && t.desc.node = node && t.desc.channel = ch && dieOfQueue t.desc.tokqueue = d

/-- Bytes that a transfer reads of a plot store, as an image. -/
def captureExts (m : List Host.Cell) (l : List Ext) : List Host.Cell :=
  l.foldl (fun g x => cellsPut 0 g x.lo (cellsGet 0 m x.lo (x.hi - x.lo))) []

/-- Bytes at the plot-store end (counter 0x06). -/
def DmaDesc.storeEnd (d : DmaDesc) : Nat :=
  let n := fun (l : List Ext) => (l.map fun x => x.hi - x.lo).sum
  n d.srcExts + n d.dstExts

/-- The unused high bits of the last byte of a ZI4 image whose rows follow bit by bit are left open by R169 (log entry 1). -/
def State.looseNibble (s : State) (e : DevEnd) (m : List Host.Cell) : List Host.Cell × State :=
  if e.code = 7 && e.pitch = 0 && decide (e.rows * e.per % 2 = 1) then
    let (v, s1) := s.free
    (putBits m (e.bitPos (e.rows - 1) e.per) 4 v, s1)
  else (m, s)

/-- A remote transfer's data goes to the transport, message by message (R252), with the TSEQ of its token (R221). -/
def State.sendTransfer (s : State) (p : PlotIx) (t : Transfer) (img : List Host.Cell) : Transfer × State :=
  let d := t.desc
  let die := dieOfQueue d.tokqueue
  let (ts, s1) := if d.token then s.takeTseq d.node d.channel die else (0, s)
  let ps := (d.devEnd t.base t.scaleBase).pieces
  let (ids, s2) := ps.foldl (fun (acc : List (BitVec 24) × State) x =>
    let (n, s') := acc.2.sendData d.node d.channel x.1 (if d.token then some (die, ts) else none) (cellsGet 0 img x.1 x.2)
    (acc.1 ++ [n], s')) ([], s1)
  let bytes := (ps.map (·.2)).sum
  let flits := (ps.map fun x => flitsOf (36 + (x.2 + 3) / 4 * 4)).sum
  let s3 := ((s2.countCh p t.pos (some d.channel) 0x0A bytes).countCh p t.pos (some d.channel) 0x0B ps.length).energy p
    t.pos 14 flits
  ({ t with phase := if d.token then .tokenDue else .active, msgs := ids, tseq := ts, sent := bytes }, s3)

/-- A transfer begins: its source is read, and its accesses or messages are formed. -/
def State.beginTransfer (s : State) (p : PlotIx) (m : Fin 2) (t : Transfer) : State :=
  let d := t.desc
  let e := d.devEnd t.base t.scaleBase
  let s0 := (s.setHeld p (moverUnit m) false).count p t.pos 0x06 d.storeEnd
  let put := fun (s : State) (t : Transfer) => s.modHead p m fun _ => t
  if d.srcsp = 1 then
    put s0 { t with phase := .active, todo := e.pieces.map fun x => { addr := x.1, len := x.2, data := none } }
  else
    let src := if d.srcsp = 2 then (s0.plot (Fin.ofNat 640 d.peer)).store else (s0.plot p).store
    let t1 := { t with phase := .active, got := captureExts src d.srcPlane.exts }
    if d.dstsp = 1 || d.dstsp = 3 then
      let (img, fl) := t1.allRows t1.rowToDev []
      let (img1, s1) := (s0.setFlags p fl).looseNibble e img
      if d.dstsp = 1 then
        put s1 { t1 with
          got := []
          todo := e.pieces.map fun x => { addr := x.1, len := x.2, data := some (cellsGet 0 img1 x.1 x.2) } }
      else
        let (t2, s2) := s1.sendTransfer p { t1 with got := [] } img1
        put s2 t2
    else put s0 t1

/-- The head of a mover begins as soon as nothing holds it; a suppressed transfer only leaves (R105, R165). -/
def State.activate : Nat → State → PlotIx → Fin 2 → State
  | 0, s, _, _ => s
  | n + 1, s, p, m =>
    match s.mover p m with
    | [] => s.setHeld p (moverUnit m) false
    | t :: r =>
      if t.phase ≠ .queued then s
      else if !t.performed then State.activate n (s.setMover p m r) p m
      else if (s.plot p).transferHeld t
          || (t.desc.dstsp = 3 && t.desc.token && s.tseqTaken t.desc.node t.desc.channel (dieOfQueue t.desc.tokqueue)) then
        s.setHeld p (moverUnit m) true
      else s.beginTransfer p m t

/-! ### The DMA command (R160, R166) -/

/-- Hands descriptors over while the mover has room: it holds 16 ahead of the one it performs (R166). -/
def State.handOver : Nat → State → PlotIx → State
  | 0, s, _ => s
  | n + 1, s, p =>
    match (s.plot p).seq.busy with
    | .dmaHand m addr left =>
      if left = 0 then (s.unholdCommand p).finish p
      else if (s.mover p m).length ≥ 17 then s
      else
        match s.acceptDma p (s.plot p).pos addr with
        | .wait => s.holdCommand p
        | .refused s1 => (s1.unholdCommand p).modSeq p fun q => { q with busy := .ready }
        | .ok t s1 =>
          let s2 := (s1.setMover p m (s1.mover p m ++ [t])).modPlot p fun q =>
            { q with nextXfer := q.nextXfer + 1, seq := { q.seq with busy := .dmaHand m (addr + 128) (left - 1) } }
          State.handOver n ((s2.unholdCommand p).activate 18 p m) p
    | _ => s

/-- DMA: COUNT descriptors, 128 B apart, are handed to a mover. The command is done when the last one is accepted; a stop
does not end the handing (R160, R178). -/
def execDma (p : PlotIx) (s : State) : Host.Outcome State Fault Refusal :=
  match (s.plot p).seq.busy with
  | .dmaHand _ _ _ => .next (if s.clocked p then s.handOver 256 p else s)
  | _ =>
    .next (s.command p 0x03
      (fun c _ => c.arg1 / 2 ^ 21 % 4 = 0 && 1 ≤ c.arg2 && c.arg2 ≤ 255 && c.arg3 = 0) fun c _ s =>
        let m : Fin 2 := Fin.ofNat 2 (c.arg1 / 2 ^ 23)
        (s.modSeq p fun q => { q with busy := .dmaHand m (c.arg1 % 2 ^ 21) c.arg2 }).handOver 256 p)

/-! ### Accesses (R188, R204) -/

/-- A mover's head leaves: the next transfer may begin, and the sequencer may hand over more. -/
def State.endTransfer (s : State) (p : PlotIx) (m : Fin 2) : State :=
  ((s.setMover p m (s.mover p m).tail).activate 18 p m).handOver 256 p

/-- Counters and energy of an access of a mover (R342, R428). -/
def State.countAccess (s : State) (p : PlotIx) (pos : Pos) (a n : Nat) (write : Bool) : State :=
  let h := hops (dieOfPlot p) (s.homeOf a) * ((n + 63) / 64)
  let s1 := ((s.count p pos (if write then 0x08 else 0x07) n).count p pos 0x09 h).energy p pos 12 h
  if (sliceOf a).isSome then s1 else s1.energy p pos 13 ((n + 63) / 64)

/-- Elements at the start of a row whose source bytes meet no missing range. -/
def Transfer.lead (t : Transfer) (missing : List (Nat × Nat)) (r : Nat) : Nat :=
  let e := t.desc.devEnd t.base t.scaleBase
  let there := fun (lo n : Nat) => missing.all fun x => decide (lo + n ≤ x.1) || decide (x.1 + x.2 ≤ lo)
  ((List.range t.desc.rowlen).takeWhile fun i =>
    let b := e.bitPos r i
    there (b / 8) ((b % 8 + elemBits e.code + 7) / 8) && (!isBlock e.code || there (e.scaleAt r i) 1)).length

/-- A mover that meets a block it cannot read has written every element below it, and none from it on: rows are performed in
ascending order and the bytes of a row in ascending address order (R166, R204). DEDUCED: log entry 41. -/
def State.landBelow (s : State) (p : PlotIx) (t : Transfer) (missing : List (Nat × Nat)) : State :=
  if t.desc.dstsp ≠ 0 then s
  else
    let (store, fl, _) := (List.range t.desc.nrows).foldl (fun (acc : List Host.Cell × Flags × Bool) r =>
      if acc.2.2 then
        let k := t.lead missing r
        let xs := (t.row r).take k
        ((xs.zip (List.range k)).foldl (fun m x => t.desc.dstPlane.write m r x.2 x.1) acc.1,
          acc.2.1 ||| flagsOf xs, decide (k = t.desc.rowlen))
      else acc) ((s.plot p).store, 0, true)
    (s.modPlot p fun q => { q with store := store }).setFlags p fl

/-- HOME_ACCESS: the next access of a mover's transfer is performed at its home (R188, R195, R203); `wrongBytes` new wrong
bytes have appeared in its first block. An access that is not performed stops the descriptor (R204). -/
def execHomeAccess (p : PlotIx) (m : Fin 2) (wrongBytes : Nat) (s : State) : Host.Outcome State Fault Refusal :=
  match s.mover p m with
  | [] => .next s
  | t :: _ =>
    match t.todo with
    | [] => .next s
    | a :: r =>
      if s.evr.fallow || t.phase ≠ .active then .next s
      else
        let src := MemSrc.plot p t.pos
        let s0 := (s.inject a.addr wrongBytes).countAccess p t.pos a.addr a.len a.data.isSome
        match a.data with
        | none =>
          let (e, v, s1) := s0.homeReadTo src a.addr a.len
          let t1 := { t with todo := r, got := cellsPut 0 t.got a.addr v }
          match e with
          | some b =>
            let missing := (b, a.addr + a.len - b) :: r.map fun x => (x.addr, x.len)
            .next ((s1.landBelow p t1 missing).endTransfer p m)
          | none => .next (s1.modHead p m fun _ => t1)
        | some b =>
          let (ok, s1) := s0.homeWrite src a.addr b
          if ok then .next (s1.modHead p m fun t => { t with todo := r, unacked := t.unacked ++ [a.addr] })
          else .next (s1.endTransfer p m)

/-- A received data write is acknowledged at its home: it counts as applied, and its bytes go to be tallied (R222, R247). -/
def State.ackPair (s : State) (node : BitVec 12) (ch : BitVec 8) : State :=
  match s.kuf.rx.find? fun x => x.node = node && x.channel = ch with
  | none => s
  | some x =>
    match x.got.find? fun g => !g.applied && g.wrote.isSome with
    | none => s
    | some g =>
      let s1 := s.rxApplied node ch g.mseq
      let s2 := match g.wrote with
        | some a => s1.noteGuarded a
        | none => s1
      match g.ann with
      | some t => { s2 with kuf := { s2.kuf with adds := s2.kuf.adds ++ [t] } }
      | none => s2

/-- A host port's write is acknowledged: every token write behind it has one write less to wait for (R417). -/
def State.ackHost (s : State) (h : HostPort) : State :=
  let n := match h with
    | .a => s.mem.ackA
    | .b => s.mem.ackB
  if n = 0 then s
  else
    let s1 := match h with
      | .a => { s with mem := { s.mem with ackA := n - 1 } }
      | .b => { s with mem := { s.mem with ackB := n - 1 } }
    let left := (s1.pci h).tokens.map fun x => (x.1 - 1, x.2)
    let out := (left.takeWhile fun x => x.1 = 0).map (·.2)
    let s2 := s1.modPci h fun c => { c with tokens := left.drop out.length }
    { s2 with kuf := { s2.kuf with transit := s2.kuf.transit ++ out } }

/-- WRITE_ACK: the home acknowledges the oldest outstanding write of a source (R188). -/
def execWriteAck (src : AckSrc) (s : State) : Host.Outcome State Fault Refusal :=
  match src with
  | .mover p m =>
    match s.mover p m with
    | t :: _ =>
      match t.unacked with
      | a :: r => .next ((s.modHead p m fun t => { t with unacked := r }).noteGuarded a)
      | [] => .next s
    | [] => .next s
  | .host h => .next (s.ackHost h)
  | .pair node ch => .next (s.ackPair node ch)

/-! ### The end of a transfer (R166, R170, R247) -/

/-- A transfer has made every access and has every acknowledgement. -/
def Transfer.complete (t : Transfer) : Bool :=
  t.phase = .active && t.todo.isEmpty && t.unacked.isEmpty && t.msgs.isEmpty

/-- A transfer whose destination is a plot store writes it now. -/
def State.landTransfer (s : State) (p : PlotIx) (t : Transfer) : State :=
  let land := fun (x : PlotIx) =>
    let (store, fl) := t.allRows t.rowToPlane (s.plot x).store
    (s.modPlot x fun q => { q with store := store }).setFlags p fl
  let cross := fun (s : State) =>
    if t.desc.srcsp = 2 || t.desc.dstsp = 2 then
      let h := hops (dieOfPlot p) (dieOfPlot (Fin.ofNat 640 t.desc.peer)) * ((t.desc.storeEnd + 63) / 64)
      (s.count p t.pos 0x09 h).energy p t.pos 12 h
    else s
  match t.desc.dstsp.toNat with
  | 0 => cross (land p)
  | 2 => cross (land (Fin.ofNat 640 t.desc.peer))
  | _ => s

/-- TRANSFER_DONE: the head of a mover has moved every byte, and every write of it, or every message, is acknowledged
(R166, R188, R247). A local trailing token is then due (R170). -/
def execTransferDone (p : PlotIx) (m : Fin 2) (s : State) : Host.Outcome State Fault Refusal :=
  match s.mover p m with
  | [] => .next s
  | t :: _ =>
    if !t.complete || s.evr.fallow then .next s
    else
      let s1 := s.landTransfer p t
      if t.desc.token && t.desc.dstsp ≠ 3 then .next (s1.modHead p m fun t => { t with phase := .tokenDue })
      else .next (s1.endTransfer p m)

/-- TRAILING_TOKEN: the token of a transfer is sent, after its data (R170, R212). A local transfer then ends; a remote one
waits for the acknowledgement of its messages, the token's among them. -/
def execTrailingToken (p : PlotIx) (m : Fin 2) (s : State) : Host.Outcome State Fault Refusal :=
  match s.mover p m with
  | [] => .next s
  | t :: _ =>
    if t.phase ≠ .tokenDue || s.evr.fallow then .next s
    else
      let d := t.desc
      if d.dstsp = 3 then
        let (n, s1) := s.sendTokenSeq d.node d.channel d.tokqueue d.tokpay t.sent t.tseq
        let s2 := (s1.countCh p t.pos (some d.channel) 0x0B 1).energy p t.pos 14 1
        .next (s2.modHead p m fun t => { t with phase := .active, msgs := t.msgs ++ [n] })
      else .next ((s.localToken 2 (BitVec.ofNat 12 p.val) d.tokqueue d.tokpay).endTransfer p m)

end Sys2Proof.Machine
end

