-- ==== Sys2Proof/Machine/Plan.lean ====
section
/-! DEFINITION. The remaining plan commands (R160, R177), the release of held units, and the end of a plot's stop (R178). -/

namespace Sys2Proof.Machine

/-! ### Simple commands -/

/-- NOP: no effect (R160). -/
def execNop (p : PlotIx) (s : State) : Host.Outcome State Fault Refusal :=
  .next (s.command p 0x00 (fun c _ => c.arg1 = 0 && c.arg2 = 0 && c.arg3 = 0) fun _ _ s => s.finish p)

/-- JUMP: to a target ahead in the same part (R160, R163). -/
def execJump (p : PlotIx) (s : State) : Host.Outcome State Fault Refusal :=
  .next (s.command p 0x11 (fun c s => c.arg1 = 0 && c.arg2 = 0 && (s.plot p).seq.targetOk c.arg3) fun c _ s => s.finishAt p c.arg3)

/-- MARK: a marker in the trace, and a trigger where DBG_TRIG names it (R160, R433, R447). -/
def execMark (p : PlotIx) (s : State) : Host.Outcome State Fault Refusal :=
  .next (s.command p 0x14 (fun c _ => c.arg1 = 0 && c.arg2 = 0) fun c pos s =>
    let d := dieOfPlot p
    let t := s.trace d
    (s.traceOn d (s.traceRec 0x07 (BitVec.ofNat 10 p.val) pos c.arg3 0) (t.src = 1 && decide (t.trigval.toNat = c.arg3))).finish p)

/-- WAIT: registers a watch on a queue of the plot's die; the step queues are refused (R160, R215, R269). -/
def execWait (p : PlotIx) (s : State) : Host.Outcome State Fault Refusal :=
  .next (s.command p 0x04
    (fun c s =>
      let n := c.arg2 % 128
      let consume := c.arg2 / 256
      decide (c.arg1 < 4096) && decide (1 ≤ n) && decide (n ≤ 64) && decide (consume ≤ n) && c.arg2 / 128 % 2 = 0
        && decide (c.arg3 ≤ 60000000) && decide (queueNumber (dieOfPlot p) c.arg1 ∉ s.stepQueues))
    fun c pos s =>
      let w : Watch := { slot := 0, kind := .wait, plot := p, dbg := 0, object := BitVec.ofNat 12 c.arg1, n := c.arg2 % 128,
                         consume := c.arg2 / 256, elapsed := 0,
                         timeout := if c.arg3 = 0 then s.smod.defaultus.toNat else c.arg3, pos := pos }
      ((s.modUnit (dieOfPlot p) fun u => { u with regs := u.regs ++ [w] }).beginWait p).modSeq p fun q =>
        { q with busy := .watching })

/-- SIGNAL: a token with byte count 0, here or on another node (R160, R212). A remote token waits while the TSEQ before its
own is still to be sent (R221). -/
def execSignal (p : PlotIx) (s : State) : Host.Outcome State Fault Refusal :=
  .next (s.command p 0x05
    (fun c s =>
      let remote := c.arg1 / 2 ^ 15 % 2 = 1
      let ch := c.arg1 / 2 ^ 16
      decide (c.arg1 % 2 ^ 15 ∉ s.stepQueues)
        && (if remote then ch ≠ 255 && decide (c.arg2 < 2 ^ 12) else ch = 0 && c.arg2 = 0))
    fun c pos s =>
      let queue := BitVec.ofNat 15 c.arg1
      if c.arg1 / 2 ^ 15 % 2 = 1 then
        let node := BitVec.ofNat 12 c.arg2
        let ch := BitVec.ofNat 8 (c.arg1 / 2 ^ 16)
        if (s.routeOf node).isNone then (s.unholdCommand p).fatal p pos 0x0502 (dstWord node) []
        else if s.tseqTaken node ch (dieOfQueue queue) then s.holdCommand p
        else
          let s1 := (s.unholdCommand p).sendToken node ch queue (w32 c.arg3)
          ((s1.countCh p pos (some ch) 0x0B 1).energy p pos 14 1).finish p
      else (s.localToken 1 (BitVec.ofNat 12 p.val) queue (w32 c.arg3)).finish p)

/-! ### Fences and the ends of parts -/

/-- Earlier work of the units of a FENCE mask is complete (R160). -/
def Plot.quiet (q : Plot) (mask : BitVec 5) : Bool :=
  let rakeUsed := match q.stream with
    | some a => a.desc.rakeop ≠ 0
    | none => false
  (!mask.getLsbD 0 || (q.passes.isEmpty && q.writeouts.isEmpty)) && (!mask.getLsbD 1 || q.stream.isNone)
    && (!mask.getLsbD 2 || !rakeUsed) && (!mask.getLsbD 3 || (q.movers.get 0).isEmpty)
    && (!mask.getLsbD 4 || (q.movers.get 1).isEmpty)

/-- All work that a plot has issued is complete. -/
def Plot.allQuiet (q : Plot) : Bool := q.quiet 0x1F

/-- The code of the command at SEQPC, as the module's own image holds it. -/
def State.opAt (s : State) (p : PlotIx) : Nat := bits (s.memWord (s.imageAddr (s.plot p).seq.pc.toNat)) 31 24

/-- FENCE: waits for the earlier work of the named units (R160). -/
def execFence (p : PlotIx) (s : State) : Host.Outcome State Fault Refusal :=
  match (s.plot p).seq.busy with
  | .fencing mask =>
    if s.clocked p && s.opAt p = 0x06 && (s.plot p).quiet mask then .next (s.finish p) else .next s
  | _ =>
    .next (s.command p 0x06 (fun c _ => decide (c.arg1 < 32) && c.arg2 = 0 && c.arg3 = 0) fun c _ s =>
      let mask := BitVec.ofNat 5 c.arg1
      if (s.plot p).quiet mask then s.finish p
      else (s.beginWait p).modSeq p fun q => { q with busy := .fencing mask })

/-- A plot's counter snapshot (R431): written where its ring lies in device memory. -/
def State.snapshot (s : State) (p : PlotIx) : State :=
  let due := s.dbg.snap && (match s.job.snapRow with
    | some r => decide (r.toNat ≤ s.job.row.toNat)
    | none => true)
  if !due then s
  else
    let base := s.dbg.snapbase.toNat
    let rows := Nat.max s.dbg.rows.toNat 1
    if !s.rangeDevice base (rows * 40960) then s.notice 0x0C base []
    else
      let first := match s.job.hdr with
        | some h => h.rowfirst.toNat
        | none => 0
      let s1 := s.settle p
      let bytes := (s1.plot p).counters.toList.flatMap fun c => bytesOfNat 8 c.value.toNat
      s1.engineWrite (base + (s.job.row.toNat - first) % rows * 40960 + 64 * p.val) bytes

/-- A plot at ENDROW whose work is complete writes its snapshot and reports the row complete (R177, R431). -/
def State.reportRow (s : State) (p : PlotIx) : State :=
  let q := s.plot p
  if q.seq.state = .atEndrow && !q.seq.rowDone && q.seq.stopping.isNone && q.allQuiet && s.clocked p then
    (s.snapshot p).modSeq p fun q => { q with rowDone := true }
  else s

/-- ENDROW: ends the row body; the plot waits until its work is complete and reports the row complete (R177). The command
is done at the advance. -/
def execEndrow (p : PlotIx) (s : State) : Host.Outcome State Fault Refusal :=
  if (s.plot p).seq.state = .atEndrow then .next (s.reportRow p)
  else
    .next (s.command p 0x12
      (fun c s => c.arg1 = 0 && c.arg2 = 0 && c.arg3 = 0 && (s.plot p).seq.state = .body) fun _ _ s =>
        ((s.beginWait p).modSeq p fun q => { q with state := .atEndrow }).reportRow p)

/-- Identity flits with REQ = 1 go out on every ACTIVE port (R240). -/
def State.identityRequests (s : State) : State :=
  s.forEach allPorts fun s k =>
    s.modKport k fun x =>
      if x.state = .active then { x with sendIdent := x.sendIdent ++ [true], identWait := true } else x

/-- Requests for a halt that the end of the plan leaves unserved are cleared, with a notice that names H (R280). -/
def State.clearRequests (s : State) : State :=
  if s.job.haltat || s.job.haltnext then
    let s1 := { s with job := { s.job with haltat := false, haltnext := false } }
    s1.noticeFrom srcEngine 0x0A s.job.haltrow.toNat []
  else s

/-- The plan ends or fails: STATE and HALT, requests and identities (R177, R240, R280). -/
def State.endPlan (s : State) (st : PlanState) (h : HaltState) : State :=
  ((s.setPlan st h).clearRequests).identityRequests

/-- ENDPLAN: outside the body, ends the plot's part of the plan once all its work is complete; the plan ends with its last
plot (R160, R164, R177). -/
def State.plotEnded (s : State) (p : PlotIx) : State :=
  let s1 := (s.modSeq p fun q => { q with state := .ended, busy := .ready, waiting := false }).tracePlot p 0x02 (s.plot p).pos
    (s.plot p).seq.pc.toNat (0x13 * 2 ^ 24)
  let s2 := { s1 with job := { s1.job with ended := s1.job.ended ++ [p] } }
  if s2.job.active.all fun x => decide (x ∈ s2.job.ended) then s2.endPlan .ended .none else s2

/-- ENDPLAN (R160, R177). -/
def execEndplan (p : PlotIx) (s : State) : Host.Outcome State Fault Refusal :=
  match (s.plot p).seq.busy with
  | .fencing _ =>
    if s.clocked p && s.opAt p = 0x13 && (s.plot p).allQuiet then .next (s.plotEnded p) else .next s
  | _ =>
    .next (s.command p 0x13
      (fun c s => c.arg1 = 0 && c.arg2 = 0 && c.arg3 = 0 && (s.plot p).seq.state ≠ .body) fun _ _ s =>
        if (s.plot p).allQuiet then s.plotEnded p else s.modSeq p fun q => { q with busy := .fencing 0x1F })

/-! ### Held units (R82, R172, R297) -/

/-- The command at SEQPC, held at its fetch or its own access, is tried again. -/
def State.retryCommand (s : State) (p : PlotIx) : Host.Outcome State Fault Refusal :=
  match (s.plot p).seq.busy with
  | .dmaHand _ _ _ => execDma p s
  | _ =>
    match s.opAt p with
    | 0x01 => execPass p s
    | 0x02 => execStream p s
    | 0x05 => execSignal p s
    | 0x07 => execCheck p s
    | 0x09 => execRclear p s
    | 0x0A => execRread p s
    | 0x0B => execRsave p s
    | 0x0C => execRadd p s
    | 0x0D => execRcombine p s
    | 0x0E => execResumep p s
    | 0x0F => execResumes p s
    | _ => .next s

/-- HELD_ACCESS_RELEASE: a held unit goes on as soon as nothing in its way is left; until then it stays held (R172). -/
def execHeldAccessRelease (p : PlotIx) (u : HeldUnit) (s : State) : Host.Outcome State Fault Refusal :=
  if !decide (u ∈ (s.plot p).held) || !s.clocked p then .next s
  else
    match u with
    | .fetch => s.retryCommand p
    | .pass => execPassEntry p s
    | .stream => execStreamStart p s
    | .mover0 => .next (s.activate 18 p 0)
    | .mover1 => .next (s.activate 18 p 1)

/-! ### Stops (R178, R284, R445) -/

/-- A plot has come to rest. -/
def SeqState.atRest (x : SeqState) : Bool := x = .idle || x = .stopped || x = .ended || x = .failed

/-- The code of a sequencer state (R183). -/
def SeqState.code : SeqState → Nat
  | .idle => 0
  | .prologue => 1
  | .body => 2
  | .epilogue => 3
  | .atEndrow => 4
  | .stopped => 5
  | .ended => 6
  | .failed => 7

/-- The stop-map entry of a plot (R445). -/
def Plot.mapEntry (q : Plot) : List Byte :=
  let kpos := if q.harSpilled then bits (wordAt (cellsGet 0 q.store (q.harSpillbase.toNat + 4) 4) 0) 15 0 else 0
  let epos := if q.drlSpilled then wordAt (cellsGet 0 q.store (q.drlSpillbase.toNat + 4) 4) 0 else 0
  let st := w32 (q.seq.state.code * 2 ^ 28 + b2n q.harSpilled * 2 ^ 27 + b2n q.drlSpilled * 2 ^ 26 + b2n q.seq.waiting * 2 ^ 25)
  bytesOfWords [q.seq.pc, w32 q.seq.row.toNat, w32 (q.seq.passno.toNat * 2 ^ 16 + q.seq.row.toNat / 2 ^ 32),
    w32 (q.seq.layer.toNat * 2 ^ 16 + q.seq.oper.toNat), st, w32 kpos, epos, ~~~st]

/-- Plots that stand within a pass, or within a stream. -/
def State.inPass (s : State) : Nat := (s.job.active.filter fun p => (s.plot p).harSpilled).length
def State.inStream (s : State) : Nat := (s.job.active.filter fun p => (s.plot p).drlSpilled).length

/-- The bytes of a stop map (R445). -/
def State.mapBytes (s : State) (reason : BitVec 4) : List Byte :=
  let head := bytesOfWords ([0x53544D50, w32 (s.kuf.node.toNat * 2 ^ 20 + reason.toNat * 2 ^ 16 + 1), w32 s.job.row.toNat,
    w32 (s.job.row.toNat / 2 ^ 32), w32 (s.inPass * 2 ^ 16 + s.inStream)] ++ List.replicate 10 0)
  let entries := allPlots.flatMap fun p => (s.plot p).mapEntry
  head ++ bytesOfWord (crc32 (head ++ entries)) ++ entries

/-- Once every plot has come to rest, a halt now leaves its recorder entry, and a stop map that is due is written, or
a notice names its base (R284, R445). -/
def State.haltComplete (s : State) : State :=
  if !(s.job.active.all fun p => (s.plot p).seq.state.atRest) then s
  else
    let within := (s.job.active.filter fun p => (s.plot p).harSpilled || (s.plot p).drlSpilled).length
    let s1 := if s.job.haltNote then
        { s with job := { s.job with haltNote := false } }.noticeFrom srcEngine 0x0A within []
      else s
    match s1.dbg.mapDue with
    | none => s1
    | some r =>
      let b := s1.dbg.stopmap.toNat
      let s2 := { s1 with dbg := { s1.dbg with mapDue := none } }
      let bytes := s1.mapBytes r
      if s1.rangeDevice b bytes.length then s2.engineWrite b bytes else s2.notice 0x0C b []

/-- The resume entry of a stopped plot: RESUMEP and RESUMES from its records, then the command at SEQPC (R178). -/
def State.resumePlot (s : State) (p : PlotIx) (stepping : Bool) : State :=
  let s1 := s.modPlot p fun q =>
    { q with
      harStopped := false, drlStopped := false
      seq := { q.seq with state := q.seq.part, busy := .ready, stopping := none, byStop := false, stepping := stepping,
                          waiting := decide (q.seq.part = .atEndrow) } }
  (s1.resumePass p).resumeStream p

/-- PLOT_STOP_COMPLETE: pass and stream have stopped, the movers have completed, and the sequencer stands (R178). A plot that a
job-fatal error stopped has failed (log entry 21). One that a halt now stopped goes on at once where RESUME came first. -/
def execPlotStopComplete (p : PlotIx) (s : State) : Host.Outcome State Fault Refusal :=
  let q := s.plot p
  match q.seq.stopping with
  | none => .next s
  | some reason =>
    if q.seq.busy ≠ .ready || !q.allQuiet || q.seq.state.atRest then .next s
    else
      let s1 := (s.modPlot p fun q =>
        { q with
          harStopped := true, drlStopped := true, harStopreq := false, drlStopreq := false, held := []
          drlSpillbase := q.drlSpillnext.getD q.drlSpillbase, drlSpillnext := none
          seq := { q.seq with state := if reason = 3 then .failed else .stopped, part := q.seq.state, stopping := none,
                              waiting := false, byStop := decide (reason = 1) } }).haltComplete
      .next (if reason = 2 && s1.job.state = .running then s1.resumePlot p false else s1)

end Sys2Proof.Machine
end

