-- ==== Sys2Proof/Machine/Kufort.lean ====
section
/-! DEFINITION. Kufort links (chapter 10): training, flits, replay and identity, the receipt of messages and their forwarding, the
acknowledgements of the transport, and the steps of a collective schedule. -/

namespace Sys2Proof.Machine

/-! ### Routes that follow a port (R260) -/

/-- Every destination entry whose PRIMARY is a port uses its alternate from now on. -/
def State.switchRoutes (s : State) (k : KPort) : State :=
  let f : RouteDest → RouteDest := fun d => if d.primary = k then { d with useAlt := true } else d
  let s1 := s.modKport k fun x => { x with altuse := true }
  { s1 with kuf := { s1.kuf with route := s1.kuf.route.map fun t => { t with dests := t.dests.map f } } }

/-! ### Training (R238, R244) -/

/-- A port error (R359): OBJECT is the port. -/
def State.portErr (s : State) (k : KPort) (det : List Nat) : State :=
  s.raise (halfOfDie (dieOfPort k)) (s.mkErr 0x0501 .recoverable srcKufort k.val det)

/-- The link layer of a port begins afresh with SIGNAL (log entry 4). -/
def KufPort.fresh (x : KufPort) : KufPort :=
  { KufPort.reset with
    enable := x.enable, nbrPort := x.nbrPort, nbrNode := x.nbrNode, corr := x.corr, uncorr := x.uncorr, crcfail := x.crcfail
    replays := x.replays, retrains := x.retrains, altuse := x.altuse, txq := x.txq, state := .signal }

/-- A port leaves ACTIVE and retrains from EQUALISE (R244, R260). -/
def State.retrain (s : State) (k : KPort) : State :=
  (s.modKport k fun x =>
    { x with state := .equalise, retrainDue := false, first := false, retrains := satAdd x.retrains 1, identOk := false,
             identWait := false }).switchRoutes k

/-- A port is declared down: FAILED, the DOWN flit, its replay buffer discarded, the error, and every message that left by it
sent again on the pair's route (R244, R249, R260). -/
def State.declareDown (s : State) (k : KPort) : State :=
  let s1 := (s.modKport k fun x =>
    { x with state := .failed, sendDown := true, replay := [], resend := [], retrainDue := false, identWait := false,
             txq := Vector.replicate 3 [], txrest := Vector.replicate 3 [] }).switchRoutes k
  let s2 := s1.portErr k []
  s2.forEach s2.kuf.tx fun s x =>
    s.forEach (x.buffer.filter fun m => m.port = some k) fun s m => s.resendMsg x.node x.channel m

/-- PORT_TRAINING_STATE_DONE: the exit of the port's training state (R238). IDENT ends once the neighbour's identity has passed;
replay then goes on from the kept flits (R243, R260). -/
def execPortTrainingStateDone (k : KPort) (s : State) : Host.Outcome State Fault Refusal :=
  let x := s.kport k
  if s.evr.fallow then .next s
  else
    match x.state with
    | .signal => .next (s.modKport k fun x => { x with state := .equalise })
    | .equalise => .next (s.modKport k fun x => { x with state := .align })
    | .align => .next (s.modKport k fun x => { x with state := .ident, identOk := false })
    | .ident =>
      if x.identOk then
        .next (s.modKport k fun x => { x with state := .active, first := false, fails := 0, resend := x.replay, lastReq := none })
      else .next s
    | _ => .next s

/-- PORT_STATE_BOUND_EXCEEDED: a training state beyond its bound goes back to SIGNAL; the third retraining in a row that
fails declares the port down (R238, R244). -/
def execPortStateBoundExceeded (k : KPort) (s : State) : Host.Outcome State Fault Refusal :=
  let x := s.kport k
  let training := x.state = .signal || x.state = .equalise || x.state = .align || x.state = .ident
  if !training || s.evr.fallow then .next s
  else if !x.first && x.fails ≥ 2 then .next (s.declareDown k)
  else .next (s.modKport k fun x => { x with state := .signal, fails := if x.first then 0 else x.fails + 1 })

/-- CODEWORD_LOCK_LOST: the port must leave ACTIVE (R244). -/
def execCodewordLockLost (k : KPort) (s : State) : Host.Outcome State Fault Refusal :=
  if (s.kport k).state = .active && !s.evr.fallow then .next (s.modKport k fun x => { x with retrainDue := true }) else .next s

/-- RETRAINING: a port that must leave ACTIVE does so and retrains from EQUALISE; its destinations use their alternates (R244,
R260). -/
def execRetraining (k : KPort) (s : State) : Host.Outcome State Fault Refusal :=
  let x := s.kport k
  if x.state = .active && x.retrainDue && !s.evr.fallow then .next (s.retrain k) else .next s

/-- PORT_DECLARED_DOWN: 10 ms after it left ACTIVE the port has not returned (R244). -/
def execPortDeclaredDown (k : KPort) (s : State) : Host.Outcome State Fault Refusal :=
  let x := s.kport k
  let training := x.state = .signal || x.state = .equalise || x.state = .align || x.state = .ident
  if training && !x.first && !s.evr.fallow then .next (s.declareDown k) else .next s

/-! ### Flits (R241-R243) -/

/-- A flit from its fields and payload. -/
def mkFlit (ftype cls : Nat) (fseq ackseq : BitVec 12) (cred : List Nat) (payload : List Byte) : List Byte :=
  let body := bytesOfWords [
      w32 (ftype * 2 ^ 28 + cls * 2 ^ 26 + fseq.toNat * 2 ^ 12 + ackseq.toNat),
      w32 (cred.getD 0 0 * 2 ^ 24 + cred.getD 1 0 * 2 ^ 16 + cred.getD 2 0 * 2 ^ 8)]
    ++ payload ++ zeros (112 - payload.length) ++ zeros 4
  body ++ bytesOfWord (crc32 body)

/-- What fills a payload: its bytes, what is left of the message in progress, and the messages behind it. -/
structure Fill where
  acc : List Byte
  rest : List Byte
  queue : List (List Byte)
  deriving DecidableEq, Repr

/-- Fills a payload. A message begins only while credit covers each of its flits (R242). -/
def fillPayload (credit : Nat) : Nat → Fill → Fill
  | 0, f => f
  | n + 1, f =>
    let room := 112 - f.acc.length
    if room = 0 then f
    else if !f.rest.isEmpty then
      fillPayload credit n { f with acc := f.acc ++ f.rest.take room, rest := f.rest.drop room }
    else match f.queue with
      | [] => f
      | m :: r =>
        if flitsOf (f.acc.length + m.length) ≤ credit then fillPayload credit n { f with rest := m, queue := r } else f

/-- The flit of a class that can be sent now, with what it leaves. -/
def KufPort.fillClass (x : KufPort) (c : Fin 3) : Option Fill :=
  let credit := x.credit.get c
  if credit = 0 then none
  else
    let f := fillPayload credit 113 { acc := [], rest := x.txrest.get c, queue := x.txq.get c }
    if f.acc.isEmpty then none else some f

/-- The class to send: 2, then 1, then 0 (R242). -/
def KufPort.nextClass (x : KufPort) : Option (Fin 3 × Fill) :=
  ([2, 1, 0] : List (Fin 3)).findSome? fun c => (x.fillClass c).map fun f => (c, f)

/-- A port sends a flit of a type that is not replayed: it returns the credits it owes. -/
def State.sendCtrl (s : State) (k : KPort) (ftype : Nat) (payload : List Byte) (f : KufPort → KufPort) : State :=
  s.modKport k fun x =>
    let cred := x.giveBack.toList.map fun n => Nat.min n 255
    let y := f x
    { y with lane := mkFlit ftype 0 (x.fseq - 1) (x.expect - 1) cred payload,
             giveBack := x.giveBack.map fun n => n - Nat.min n 255 }

/-- The plan's identity word: PLANID [31:0] while a plan runs (R239, R240). -/
def State.planWord (s : State) : W32 :=
  match s.job.hdr with
  | some h => if s.running then w32 h.planid.toNat else 0
  | none => 0

/-- The payload of an identity flit (R240). -/
def State.identPayload (s : State) (k : KPort) (req : Bool) : List Byte :=
  bytesOfWords [w32 (b2n req * 2 ^ 31 + k.val * 2 ^ 24 + s.kuf.node.toNat), s.planWord]

/-- The port may carry messages: while a plan runs, once an identity has passed since its START (R240). -/
def State.mayCarry (s : State) (k : KPort) : Bool := !s.running || (s.kport k).identOk

/-- A message flit leaves, and is kept for replay (R243). -/
def State.sendMessageFlit (s : State) (k : KPort) (c : Fin 3) (f : Fill) : State :=
  s.modKport k fun x =>
    let cred := x.giveBack.toList.map fun n => Nat.min n 255
    let flit := mkFlit 1 c.val x.fseq (x.expect - 1) cred f.acc
    { x with
      lane := flit, fseq := x.fseq + 1, replay := x.replay ++ [(x.fseq, flit)], txrest := x.txrest.set c.val f.rest
      txq := x.txq.set c.val f.queue, credit := x.credit.set c.val (x.credit.get c - 1)
      giveBack := x.giveBack.map fun n => n - Nat.min n 255 }

/-- FLIT_SEND: the port's next flit. DOWN, identity and replay requests go first, then flits to be sent again, then messages
by class, then idle (R240-R243). A port that a received identity has put into MISMATCH still answers the request that it
carried (R240). -/
def execFlitSend (k : KPort) (s : State) : Host.Outcome State Fault Refusal :=
  let x := s.kport k
  match x.state with
  | .align => if s.evr.fallow then .next s else .next (s.sendCtrl k 0 [] id)
  | .ident => if s.evr.fallow then .next s else .next (s.sendCtrl k 3 (s.identPayload k false) id)
  | .failed => if x.sendDown then .next (s.sendCtrl k 4 [] fun x => { x with sendDown := false }) else .next s
  | .active =>
    if x.sendDown then .next (s.sendCtrl k 4 [] fun x => { x with sendDown := false, state := .down })
    else if x.retrainDue || s.evr.fallow then .next s
    else match x.sendIdent with
      | req :: r => .next (s.sendCtrl k 3 (s.identPayload k req) fun x => { x with sendIdent := r })
      | [] =>
        if x.sendReq then
          .next (s.sendCtrl k 2 (bytesOfWord (w32 x.expect.toNat)) fun x =>
            { x with sendReq := false, replays := satAdd x.replays 1 })
        else match x.resend with
          | (_, b) :: r => .next (s.modKport k fun x => { x with resend := r, lane := b })
          | [] =>
            match (if s.mayCarry k && decide (x.replay.length < 256) then x.nextClass else none) with
            | some (c, f) => .next (s.sendMessageFlit k c f)
            | none => .next (s.sendCtrl k 0 [] id)
  | .mismatch =>
    match x.sendIdent with
    | req :: r => if s.evr.fallow then .next s else .next (s.sendCtrl k 3 (s.identPayload k req) fun x => { x with sendIdent := r })
    | [] => .next s
  | _ => .next s

/-- Bytes that the message in progress at the end of a stream still lacks. -/
def lacking : Nat → List Byte → Nat
  | 0, _ => 0
  | n + 1, b =>
    if b.isEmpty then 0
    else
      let size := (MsgHdr.ofBytes b).size
      if size ≤ b.length then lacking n (b.drop size) else size - b.length

/-- Message bytes of a payload behind a stream: a message goes on to its end, and where the next word spells no message
(MTYPE 0) the rest of the payload is fill (log entry 22). -/
def absorb : Nat → List Byte → List Byte → List Byte
  | 0, got, _ => got
  | n + 1, got, pay =>
    if pay.isEmpty then got
    else
      let need := lacking (got.length / 20 + 1) got
      if need ≠ 0 then absorb n (got ++ pay.take need) (pay.drop need)
      else if (MsgHdr.ofBytes pay).mtype = 0 then got
      else absorb n (got ++ pay.take 4) (pay.drop 4)

/-- A flit of messages that arrives in order (R241, R243). -/
def KufPort.accept (x : KufPort) (c : Fin 3) (payload : List Byte) : KufPort :=
  let old := x.rx.get c
  let new := absorb 113 old payload
  { x with
    expect := x.expect + 1, rx := x.rx.set c.val new
    rxFlits := x.rxFlits.set c.val (x.rxFlits.get c ++ (if new.length = old.length then [] else [new.length - old.length]))
    giveBack := if new.length = old.length then x.giveBack.set c.val (x.giveBack.get c + 1) else x.giveBack }

/-- What a good flit carries besides its payload: ACKSEQ and credits (R242, R243). -/
def KufPort.linkWords (x : KufPort) (b : List Byte) : KufPort :=
  let ack : BitVec 12 := BitVec.ofNat 12 (bits (wordAt b 0) 11 0)
  let w1 := wordAt b 4
  let cred := [bits w1 31 24, bits w1 23 16, bits w1 15 8]
  let later := fun (e : BitVec 12 × List Byte) => decide (2048 ≤ (ack - e.1).toNat)
  { x with
    replay := x.replay.filter later, resend := x.resend.filter later
    credit := x.credit.mapIdx fun i n => n + cred.getD i 0 }

/-- FLIT_RECEIVE: a flit of 128 bytes arrives, in a codeword that was corrected or was not correctable. One that fails is
discarded, and a replay is asked for (R237, R241-R243). -/
def execFlitReceive (k : KPort) (bytes : List Byte) (corrected uncorrectable : Bool) (s : State) :
    Host.Outcome State Fault Refusal :=
  let x := s.kport k
  if !(x.state = .align || x.state = .ident || x.state = .active) || s.evr.fallow then .next s
  else
    let x1 := { x with corr := satAdd x.corr (b2n corrected), uncorr := satAdd x.uncorr (b2n uncorrectable) }
    let w0 := wordAt bytes 0
    if uncorrectable || wordAt bytes 124 ≠ crc32 (bytes.take 124) then
      .next (s.modKport k fun _ => { x1 with crcfail := satAdd x1.crcfail 1, sendReq := x.state = .active })
    else
      let fseq : BitVec 12 := BitVec.ofNat 12 (bits w0 23 12)
      let x2 := x1.linkWords bytes
      let payload := (bytes.drop 8).take 112
      let late := decide ((x.expect - 1 - fseq).toNat < 2048)
      match bits w0 31 28 with
      | 1 =>
        if fseq = x.expect && bits w0 27 26 < 3 then .next (s.modKport k fun _ => x2.accept (Fin.ofNat 3 (bits w0 27 26)) payload)
        else if late then .next (s.modKport k fun _ => x2)
        else .next (s.modKport k fun _ => { x2 with sendReq := true })
      | 0 => .next (s.modKport k fun _ => if late then x2 else { x2 with sendReq := true })
      | _ => .next (s.modKport k fun _ => { x2 with ctrl := x2.ctrl ++ [bytes] })

/-- The control flit that waits at a port, when it has a type. -/
def KufPort.ctrlHead (x : KufPort) (ftype : Nat) : Option (List Byte) :=
  match x.ctrl with
  | b :: _ => if bits (wordAt b 0) 31 28 = ftype then some b else none
  | [] => none

/-- Takes the control flit at the head. -/
def State.dropCtrl (s : State) (k : KPort) : State := s.modKport k fun x => { x with ctrl := x.ctrl.tail }

/-- REPLAY_REQUEST: the sender sends again from the flit named; the same FSEQ eight times in a row retrains the port (R243,
R244). -/
def execReplayRequest (k : KPort) (s : State) : Host.Outcome State Fault Refusal :=
  match (s.kport k).ctrlHead 2 with
  | none => .next s
  | some b =>
    let f : BitVec 12 := BitVec.ofNat 12 (bits (wordAt b 8) 11 0)
    let n := match (s.kport k).lastReq with
      | some (g, n) => if g = f then n + 1 else 1
      | none => 1
    let s1 := ((s.dropCtrl k).modKport k fun x =>
      { x with lastReq := some (f, n), resend := x.replay.filter fun e => decide ((e.1 - f).toNat < 2048),
               retrainDue := x.retrainDue || (decide (8 ≤ n) && x.state = .active) })
    .next (s1.rowAdd 5 (b2n (decide (4 ≤ (dieOfPort k).val))) 1)

/-! ### Identity (R239, R240) -/

/-- The received identity passes: any while no plan runs; else the expected neighbour with this plan, or none, at work. A port
that the table does not use expects no neighbour. -/
def State.identityOk (s : State) (k : KPort) (port : Nat) (node : BitVec 12) (plan : W32) : Bool :=
  match s.running, s.kuf.route, s.job.hdr with
  | true, some t, some h =>
    let e := t.ports.get k
    !e.used || (e.nbrPort.toNat = port && e.nbrNode = node && (plan = 0 || plan = w32 h.planid.toNat))
  | _, _, _ => true

/-- IDENTITY_FLIT: the neighbour's identity is reported and checked at once; a request is answered, and a refusal leads to
MISMATCH (R239, R240). -/
def execIdentityFlit (k : KPort) (s : State) : Host.Outcome State Fault Refusal :=
  match (s.kport k).ctrlHead 3 with
  | none => .next s
  | some b =>
    let w := wordAt b 8
    let node : BitVec 12 := BitVec.ofNat 12 (bits w 11 0)
    let port := bits w 26 24
    let plan := wordAt b 12
    let s1 := (s.dropCtrl k).modKport k fun x =>
      { x with nbrPort := BitVec.ofNat 3 port, nbrNode := node,
               sendIdent := if bit w 31 then x.sendIdent ++ [false] else x.sendIdent,
               identWait := if bit w 31 then x.identWait else false }
    if s.identityOk k port node plan then .next (s1.modKport k fun x => { x with identOk := true })
    else
      let e := match s.kuf.route with
        | some t => let p := t.ports.get k; p.nbrPort.toNat * 2 ^ 24 + p.nbrNode.toNat
        | none => 0
      let own := match s.job.hdr with
        | some h => h.planid.toNat
        | none => 0
      let s2 := (s1.modKport k fun x => { x with state := .mismatch, identOk := false, retrainDue := false }).portErr k
        [e, own, port * 2 ^ 24 + node.toNat, plan.toNat]
      .next (s2.switchRoutes k)

/-- IDENTITY_ANSWER_TIMEOUT: no answer within 1 ms of a request: the port retrains from EQUALISE (R240). -/
def execIdentityAnswerTimeout (k : KPort) (s : State) : Host.Outcome State Fault Refusal :=
  let x := s.kport k
  if x.identWait && x.state = .active && !s.evr.fallow then .next (s.retrain k) else .next s

/-- DOWN_FLIT: the port is declared down at once (R244). -/
def execDownFlit (k : KPort) (s : State) : Host.Outcome State Fault Refusal :=
  match (s.kport k).ctrlHead 4 with
  | none => .next s
  | some _ => if s.evr.fallow then .next s else .next ((s.dropCtrl k).declareDown k)

/-! ### Receipt of messages (R246-R254, R259) -/

/-- The whole message at the head of a class. -/
def KufPort.msgHead (x : KufPort) (c : Fin 3) : Option (List Byte) :=
  let b := x.rx.get c
  let n := (MsgHdr.ofBytes b).size
  if 16 ≤ b.length ∧ n ≤ b.length then some (b.take n) else none

/-- Buffered flits whose bytes are all taken, and what is left of the others. -/
def freeFlits : Nat → List Nat → Nat × List Nat
  | _, [] => (0, [])
  | n, k :: r => if k ≤ n then let (f, l) := freeFlits (n - k) r; (f + 1, l) else (0, (k - n) :: r)

/-- Takes the message at the head of a class, and gives back the credits of the flits that it frees (R242). -/
def State.dropMsg (s : State) (k : KPort) (c : Fin 3) (n : Nat) : State :=
  s.modKport k fun x =>
    let (f, l) := freeFlits n (x.rxFlits.get c)
    { x with rx := x.rx.set c.val ((x.rx.get c).drop n), rxFlits := x.rxFlits.set c.val l,
             giveBack := x.giveBack.set c.val (x.giveBack.get c + f) }

/-- A message for another node goes on, with HOPS lowered by 1; without hops left, or without a route, it is discarded with an
error (R258, R259). -/
def State.forward (s : State) (m : List Byte) : State :=
  let h := MsgHdr.ofBytes m
  if h.hops = 0 then
    s.transportErr (channelHome h.channel) h.src.toNat h.dst.toNat [h.channel.toNat]
  else (s.sendOn (setHops m (h.hops - 1))).2

/-- A message is discarded with an error that names its source node and channel (R248). -/
def State.badMessage (s : State) (h : MsgHdr) : State :=
  s.transportErr (channelHome h.channel) (keyWord h.src h.channel) 0 []

/-- Takes the head of a class when `mine` claims its type: it is forwarded, refused for its MCRC, or handled. -/
def State.receive (s : State) (k : KPort) (c : Fin 3) (mine : Nat → Bool) (f : MsgHdr → List Byte → State → State) : State :=
  if s.evr.fallow then s
  else match (s.kport k).msgHead c with
    | none => s
    | some m =>
      let h := MsgHdr.ofBytes m
      if !mine h.mtype then s
      else
        let s1 := s.dropMsg k c m.length
        if h.dst ≠ s.kuf.node then s1.forward m
        else if !mcrcOk m || !hdrReserved m then s1.badMessage h
        else f h m s1

/-- The receive pair of a message. -/
def State.rxPair (s : State) (h : MsgHdr) : Option RxPair :=
  s.kuf.rx.find? fun x => x.node = h.src && x.channel = h.channel

/-- Notes a received message in its pair. -/
def State.noteReceived (s : State) (h : MsgHdr) (g : RxMsg) : State :=
  let f : RxPair → RxPair := fun x => if x.node = h.src && x.channel = h.channel then { x with got := x.got ++ [g] } else x
  { s with kuf := { s.kuf with rx := s.kuf.rx.map f } }

/-- Classes a message of a pair by its distance from ACKED (R248), and applies a new one. -/
def State.classed (s : State) (h : MsgHdr) (apply : State → State) : State :=
  match s.rxPair h with
  | none => s.badMessage h
  | some x =>
    let d := (h.mseq - x.acked).toNat
    if d < 256 && !(x.got.any fun g => g.mseq = h.mseq) then apply s
    else if d < 256 || 2 ^ 23 ≤ d then { s with kuf := { s.kuf with dupmsg := satAdd s.kuf.dupmsg 1 } }
    else s.transportErr (channelHome h.channel) (keyWord h.src h.channel) (h.mseq.toNat * 2 ^ 8) []

/-- The data of a message without its padding. No field gives the length before padding, so how many of the last zero bytes
are padding is a free value (log entry 23). -/
def State.dataOf (s : State) (m : List Byte) : List Byte × State :=
  let d := (m.take (m.length - 4)).drop 0x20
  let z := (d.reverse.takeWhile fun b => b = 0).length
  let most := Nat.min (Nat.min z 3) (d.length - 1)
  if most = 0 then (d, s)
  else
    let (v, s1) := s.free
    (d.take (d.length - v % (most + 1)), s1)

/-- DATA_WRITE: a data write at the head of class 0 is applied at its home, or forwarded (R248, R252, R259). -/
def execDataWrite (k : KPort) (s : State) : Host.Outcome State Fault Refusal :=
  .next (s.receive k 0 (fun t => t ≠ 2) fun h m s =>
    if h.mtype ≠ 1 || h.len < 20 then s.badMessage h
    else s.classed h fun s =>
      let a := (wordAt m 0x10).toNat + bits (wordAt m 0x14) 15 0 * 2 ^ 32
      let (d, s1) := s.dataOf m
      if !s1.rangeDevice a d.length then s1.transportErr (channelHome h.channel) (keyWord h.src h.channel) a []
      else
        let (ok, s2) := s1.writeRange .kufort a d
        if !ok then s2
        else
          let w := wordAt m 0x14
          let ann : Option TallyAdd :=
            if bit w 31 then
              some { die := dieIx (bits w 30 28), node := h.src, channel := h.channel,
                     tseq := BitVec.ofNat 16 (bits (wordAt m 0x18) 31 16), bytes := d.length }
            else none
          s2.noteReceived h { mseq := h.mseq, applied := false, ann := ann, wrote := some a })

/-- TOKEN: a token message at the head of class 0 goes to its sync unit, or on (R248, R253, R259). -/
def execToken (k : KPort) (s : State) : Host.Outcome State Fault Refusal :=
  .next (s.receive k 0 (fun t => t = 2) fun h m s =>
    if h.len ≠ 24 then s.badMessage h
    else s.classed h fun s =>
      let w := wordAt m 0x1C
      let t : TokenRec :=
        { payload := wordAt m 0x10, payloadC := wordAt m 0x14,
          bytes := BitVec.ofNat 40 ((wordAt m 0x18).toNat + bits w 31 24 * 2 ^ 32), tseq := BitVec.ofNat 16 (bits w 23 8),
          kind := BitVec.ofNat 3 (bits w 2 0), src := h.src, channel := h.channel,
          queue := BitVec.ofNat 15 (wordAt m 0x20).toNat, queueC := wordAt m 0x24 }
      let s1 := s.noteReceived h { mseq := h.mseq, applied := false, ann := none, wrote := none }
      { s1 with kuf := { s1.kuf with remote := s1.kuf.remote ++ [(h.mseq, t)] } })

/-- COLLECTIVE_STEP: an image at the head of class 1 waits in the inbox, or goes on; a full inbox, or an image of an earlier
row, is an error (R254, R259, R263). -/
def execCollectiveStep (k : KPort) (s : State) : Host.Outcome State Fault Refusal :=
  .next (s.receive k 1 (fun _ => true) fun h m s =>
    if h.mtype ≠ 3 || h.len ≠ 144 then s.badMessage h
    else
      let w := wordAt m 0x10
      let row : Row := BitVec.ofNat 48 ((wordAt m 0x14).toNat + bits (wordAt m 0x18) 15 0 * 2 ^ 32)
      let id : BitVec 12 := BitVec.ofNat 12 (bits w 11 0)
      if 256 ≤ s.kuf.inbox.length || row < s.job.row then
        s.raiseLead (s.mkErr 0x0502 .jobFatal srcKufort (objColl id.toNat + h.src.toNat * 2 ^ 52) [])
      else
        let i : InboxImage :=
          { collid := id, row := row, step := BitVec.ofNat 8 (bits w 19 12), node := h.src, image := (m.drop 0x20).take 128 }
        { s with kuf := { s.kuf with inbox := s.kuf.inbox ++ [i] } })

/-! ### Control messages (R246, R247, R255) -/

/-- OPEN: answered with GRANT once the module's START has been accepted and the receive table has room; a full table answers
REFUSE (R246). -/
def execOpenMsg (k : KPort) (s : State) : Host.Outcome State Fault Refusal :=
  .next (s.receive k 2 (fun t => !(t = 5 || t = 6 || t = 7)) fun h _ s =>
    if h.mtype ≠ 4 then s.badMessage h
    else if s.job.state = .idle then s
    else if (s.rxPair h).isSome then (s.sendOn (s.control 5 h.src h.channel [])).2
    else if 1024 ≤ (s.kuf.rx.filter fun x => channelHome x.channel = channelHome h.channel).length then
      (s.sendOn (s.control 7 h.src h.channel [])).2
    else
      let x : RxPair := { node := h.src, channel := h.channel, acked := 0, got := [], since := 0 }
      let s1 := { s with kuf := { s.kuf with rx := s.kuf.rx ++ [x] } }
      (s1.sendOn (s1.control 5 h.src h.channel [])).2)

/-- GRANT: the pair's window opens (R246). -/
def execGrant (k : KPort) (s : State) : Host.Outcome State Fault Refusal :=
  .next (s.receive k 2 (fun t => t = 5) fun h _ s =>
    (s.modTx h.src h.channel fun x => { x with granted := true }).pump h.src h.channel)

/-- REFUSE: a job-fatal error that names the pair (R246). -/
def execRefuse (k : KPort) (s : State) : Host.Outcome State Fault Refusal :=
  .next (s.receive k 2 (fun t => t = 7) fun h _ s =>
    match s.txPair h.src h.channel with
    | none => s
    | some _ =>
      (s.modTx h.src h.channel fun x => { x with refused := true }).raiseLead
        (s.mkErr 0x0502 .jobFatal srcKufort (keyWord h.src h.channel) []))

/-- The transfers of a plot without the messages of a pair below ACKED. -/
def Plot.dropAcked (q : Plot) (node : BitVec 12) (ch : BitVec 8) (acked : BitVec 24) : Plot :=
  let f : Transfer → Transfer := fun t =>
    if t.desc.node = node && t.desc.channel = ch then
      { t with msgs := t.msgs.filter fun n => decide ((n - acked).toNat < 2 ^ 23) }
    else t
  { q with movers := q.movers.map fun l => l.map f }

/-- ACK: messages below ACKED leave the retry buffer, transfers forget them, and the window moves (R247). -/
def execAck (k : KPort) (s : State) : Host.Outcome State Fault Refusal :=
  .next (s.receive k 2 (fun t => t = 6) fun h m s =>
    match s.txPair h.src h.channel with
    | none => s
    | some x =>
      let a : BitVec 24 := BitVec.ofNat 24 (bits (wordAt m 0x10) 31 8)
      if (x.mseq - x.acked).toNat < (a - x.acked).toNat then s
      else
        let s1 := s.modTx h.src h.channel fun x =>
          { x with acked := a, buffer := x.buffer.filter fun y => decide ((y.mseq - a).toNat < 2 ^ 23) }
        let f : Plot → Plot := fun q => q.dropAcked h.src h.channel a
        let s2 : State := { s1 with plots := s1.plots.map f }
        s2.pump h.src h.channel)

/-- ACK_SEND: the receiver acknowledges what it has applied (R247). -/
def execAckSend (node : BitVec 12) (ch : BitVec 8) (s : State) : Host.Outcome State Fault Refusal :=
  match s.kuf.rx.find? fun x => x.node = node && x.channel = ch with
  | none => .next s
  | some x =>
    if x.since = 0 || s.evr.fallow then .next s
    else
      let f : RxPair → RxPair := fun y => if y.node = node && y.channel = ch then { y with since := 0 } else y
      let s1 := { s with kuf := { s.kuf with rx := s.kuf.rx.map f } }
      .next (s1.sendOn (s1.control 6 node ch (bytesOfWord (w32 (x.acked.toNat * 2 ^ 8))))).2

/-- MESSAGE_RESEND: 20 ms have passed since an unacknowledged message was last sent (R249). -/
def execMessageResend (node : BitVec 12) (ch : BitVec 8) (mseq : BitVec 24) (s : State) : Host.Outcome State Fault Refusal :=
  match s.txPair node ch with
  | none => .next s
  | some x =>
    match x.buffer.find? fun m => m.mseq = mseq with
    | none => .next s
    | some m => if s.evr.fallow then .next s else .next (s.resendMsg node ch m)

/-- OPEN_RESEND: an OPEN without GRANT or REFUSE for 20 ms is sent again (R255). -/
def execOpenResend (node : BitVec 12) (ch : BitVec 8) (s : State) : Host.Outcome State Fault Refusal :=
  match s.txPair node ch with
  | none => .next s
  | some x => if x.granted || x.refused || s.evr.fallow then .next s else .next (s.sendOpen node ch)

/-! ### Collective schedules (R262, R263) -/

/-- The combination of an id whose register is formed, with the schedule step that it has reached. -/
def State.collStep (s : State) (id : Fin 4096) : Option (Collective × RakeReg × CollStep) :=
  match s.kuf.colls.find? fun c => c.id = id && c.reg.isSome with
  | none => none
  | some c =>
    match c.reg, (s.schedule id)[c.step]? with
    | some r, some t => some (c, r, t)
    | _, _ => none

/-- A combination takes its next step with a register. -/
def State.stepColl (s : State) (c : Collective) (r : RakeReg) : State :=
  let c' := { c with reg := some r, step := c.step + 1 }
  { s with kuf := { s.kuf with colls := s.kuf.colls.map fun x => if x = c then c' else x } }

/-- The body of a collective step message (R254). -/
def collBody (id : Fin 4096) (step : Nat) (row : Row) (image : List Byte) : List Byte :=
  bytesOfWords [w32 (step * 2 ^ 12 + id.val), w32 row.toNat, w32 (row.toNat / 2 ^ 32), 0] ++ image

/-- SEND: the register's image goes to the node of the schedule's step (R254, R262). -/
def execSend (id : Fin 4096) (s : State) : Host.Outcome State Fault Refusal :=
  match s.collStep id with
  | some (c, r, t) =>
    if t.op ≠ 1 || s.evr.fallow then .next s
    else
      let (v, s1) := s.imageValue r
      let h : MsgHdr := { mtype := 3, channel := 0, hops := s1.maxHops, len := 0, src := s1.kuf.node, dst := t.node, mseq := 0 }
      .next ((s1.sendOn (mkMessage h (collBody id c.step s1.job.row (r.imageOf v)))).2.stepColl c r)
  | none => .next s

/-- The image that a receiving step waits for. -/
def State.inboxImage (s : State) (id : Fin 4096) (t : CollStep) : Option InboxImage :=
  s.kuf.inbox.find? fun i => i.collid.toNat = id.val && i.row = s.job.row && i.step = t.peerstep && i.node = t.node

/-- A receiving step takes its image from the inbox; one whose checks fail is refused with an error (R141, R263). -/
def State.recvStep (s : State) (id : Fin 4096) (op : BitVec 4) (f : RakeReg → RakeReg → Option RakeReg) : State :=
  match s.collStep id with
  | none => s
  | some (c, r, t) =>
    if t.op ≠ op || s.evr.fallow then s
    else match s.inboxImage id t with
      | none => s
      | some i =>
        let s1 := { s with kuf := { s.kuf with inbox := s.kuf.inbox.erase i } }
        match (RakeReg.ofImage i.image).bind (f r) with
        | some r' => s1.stepColl c r'
        | none =>
          s1.raiseLead (s1.mkErr 0x0204 .jobFatal srcEngine (objColl id.val + t.node.toNat * 2 ^ 52) [])

/-- RECVADD: the image that the step waits for is combined with the register, under the checks of RADD (R141, R262). -/
def execRecvadd (id : Fin 4096) (s : State) : Host.Outcome State Fault Refusal :=
  .next (s.recvStep id 2 fun r x => if kindsMeet r.kind x.kind then some (r.combine x) else none)

/-- RECVSET: the image that the step waits for replaces the register (R262). -/
def execRecvset (id : Fin 4096) (s : State) : Host.Outcome State Fault Refusal :=
  .next (s.recvStep id 3 fun _ x => some x)

end Sys2Proof.Machine
end

