-- ==== Sys2Proof/Machine/Job.lean ====
section
/-! DEFINITION. Jobs over many modules (chapter 11): completion, the step round, the advance, the two halts, the abort and
the step timeout. -/

namespace Sys2Proof.Machine

/-! ### Requests and neighbours -/

/-- The module holds a pending request for a halt at the boundary after its row (R279, R317). -/
def State.requested (s : State) : Bool :=
  s.job.haltnext || s.rcv.checkpoint || (s.job.haltat && decide (s.job.haltrow.toNat ≤ s.job.row.toNat))

/-- The neighbours in the step tree: the parent and the children (R270). -/
def State.neighbours (s : State) : List (BitVec 12) := (treeParent s.kuf.node).toList ++ s.children

/-- The bits [30:0] of the module's row count, as step tokens carry them (R274). -/
def State.rowLow (s : State) : Nat := s.job.row.toNat % 2 ^ 31

/-- A step token: channel 255, byte count 0 (R269, R274). -/
def State.sendStep (s : State) (node : BitVec 12) (q : Nat) (flag : Bool) : State :=
  s.sendToken node 255 (BitVec.ofNat 15 (s.stepQueue q)) (w32 (b2n flag * 2 ^ 31 + s.rowLow))

/-- The tokens that wait in step queue Q + i, oldest first. -/
def State.stepTokens (s : State) (i : Nat) : List EngineTok :=
  s.job.tokens.filter fun t => t.queue.toNat = s.stepQueue i

/-- Step tokens carry this module's row count (R275). -/
def State.rowMatches (s : State) (t : EngineTok) : Bool := bits t.payload 30 0 = s.rowLow

/-- A step token of another row: job-fatal, naming both nodes, both values and the queue (R275). -/
def State.rowMismatch (s : State) (t : EngineTok) : State :=
  (s.engineTake t).raiseLead { s.mkErr 0x0503 .jobFatal srcEngine (s.kuf.node.toNat + t.src.toNat * 2 ^ 32)
    [s.rowLow, bits t.payload 30 0, t.queue.toNat] with need := 4 }

/-- The step engine works: the plan runs and is not halted (R272, R284). -/
def State.stepRuns (s : State) : Bool := s.job.state = .running && s.job.halt = .none && !s.evr.fallow

/-! ### Completion (R271) -/

/-- A buddy copy, or a host checkpoint, is due at a row: every BUDDYINT rows from ROWFIRST (R316). -/
def PlanHdr.copyDue (h : PlanHdr) (row : Row) : Bool :=
  h.buddyint ≠ 0 && decide ((row.toNat - h.rowfirst.toNat + 1) % h.buddyint = 0)

/-- Every active plot stands at ENDROW with its work complete (R177, R271). -/
def State.plotsDone (s : State) : Bool := s.job.active.all fun p => (s.plot p).seq.rowDone

/-- The fallback allocation of the row has completed, or the plan has no FLT (R112, R271). -/
def State.allocated (s : State) : Bool :=
  match s.job.hdr with
  | some h => h.flt = 0 || s.fb.allocDone
  | none => true

/-- The due copy has been taken (R271, R316); without buddy protection, none is due. -/
def State.copyDone (s : State) : Bool :=
  match s.job.hdr with
  | some h => !h.copyDue s.job.row || s.rcv.copied || !(s.rcv.mode = 1 || s.rcv.mode = 3)
  | none => true

/-- The children whose up token waits. -/
def State.presentUps (s : State) : List (BitVec 12) := s.children.filter fun c => s.hasUp c

/-- The round's step 1 begins: the timer, and the children whose up token came before (R272, R278, R288);
PLT_JOBCFG takes effect (R290). -/
def State.beginRound (s : State) : State :=
  { s with job := { s.job with
      upSent := false, haltreq := false, ups := s.presentUps, stepAge := 0, slowNow := s.job.waitslow
      tousNow := s.job.steptous } }

/-- ROW_COMPLETION: the plots, the fallback allocation and a due copy have finished (R271). -/
def execRowCompletion (s : State) : Host.Outcome State Fault Refusal :=
  if s.stepRuns && !s.job.complete && s.plotsDone && s.allocated && s.copyDone && decide (s.job.active ≠ s.job.ended) then
    .next ({ s with job := { s.job with complete := true, waitAge := 0 } }.beginRound)
  else .next s

/-! ### The round (R272, R273, R278) -/

/-- The first token of queue Q with another row count. -/
def State.badUp (s : State) : Option EngineTok := (s.stepTokens 0).find? fun t => !s.rowMatches t

/-- Every child's up token of this round waits. -/
def State.allUps (s : State) : Bool := s.children.all fun c => s.hasUp c

/-- Step 1: consumes one up token of each child; HALTREQ joins the module's own request, and LASTNODE takes the last
arriver (R272, R278, R280). -/
def State.takeUps (s : State) : State :=
  let toks := s.children.filterMap fun c => (s.stepTokens 0).find? fun t => t.src = c
  let late := s.job.tokens.filter fun t => decide (t ∈ toks) && decide (t.src ∉ s.job.ups)
  let last := match late.getLast? with
    | some t => t.src
    | none => s.kuf.node
  let req := s.requested || toks.any fun t => bit t.payload 31
  let s1 := s.forEach toks fun s t => s.engineTake t
  { s1 with job := { s1.job with haltreq := req, lastnode := last } }

/-- STEP_UP: a node other than the root sends its up token once step 1 is satisfied (R272). -/
def execStepUp (s : State) : Host.Outcome State Fault Refusal :=
  if !s.stepRuns || s.job.upSent then .next s
  else
    match s.badUp, treeParent s.kuf.node with
    | some t, _ => .next (s.rowMismatch t)
    | none, none => .next s
    | none, some par =>
      if !s.job.complete || !s.allUps then .next s
      else
        let s1 := s.takeUps
        .next ({ s1 with job := { s1.job with upSent := true } }.sendStep par 0 s1.job.haltreq)

/-- A plot's sequencer begins a part: its row and the first command's tags; a stopped plot begins it when it resumes (R273). -/
def State.beginPart (s : State) (p : PlotIx) (part : SeqState) : State :=
  let q := (s.plot p).seq
  let atRest := q.state = .stopped
  let s1 := s.modSeq p fun q =>
    { q with state := if atRest then .stopped else part, part := part, row := s.job.row, rowDone := false, voted := false,
             fltRead := [], busy := .ready, waiting := false }
  s1.seqAt p (q.start part)

/-- The quantities that are sampled once per row (R369). -/
def State.rowSamples (s : State) : State :=
  let row := s.job.row
  let got := fun (q k : Nat) => (s.evr.rowAcc.filterMap fun e => if e.1 = q ∧ e.2.1 = k then some e.2.2 else none).sum
  let s1 := s.forEach allStrips fun s i =>
    let h := halfOfDie (dieOfStrip i)
    (s.sample h 2 0xFFFF 0xFFFF row (got 2 i.val / 16)).sample h 3 0xFFFF 0xFFFF row (got 3 i.val)
  let s2 := s1.forEach [(Half.a, 0), (Half.b, 1)] fun s x =>
    (s.sample x.1 4 0xFFFF 0xFFFF row (got 4 x.2)).sample x.1 5 0xFFFF 0xFFFF row (got 5 x.2)
  let s3 := s2.forEach s2.evr.rowEnergy fun s e => s.sample e.1 6 e.2.1 e.2.2.1 row (e.2.2.2 / 4000000)
  let s4 :=
    if s3.evr.qen.getLsbD 7 then
      s3.forEach s3.job.active fun s p =>
        let (v, s1) := s.free
        s1.sample (halfOfDie (dieOfPlot p)) 7 0xFFFF 0xFFFF row (v / 64)
    else s3
  { s4 with evr := { s4.evr with rowAcc := [], rowEnergy := [] } }

/-- The step wait of the round, under the ENDROW of the lowest active plot (R278, R369). -/
def State.waitSample (s : State) : State :=
  match s.job.active with
  | [] => s
  | p :: _ => s.sample s.lead 0 (s.plot p).seq.layer (s.plot p).seq.oper s.job.row (s.job.waitAge / 1000)

/-- The advance after the row: the row count and the plots' bodies, or after ROWLAST their epilogues (R273). -/
def State.advance (s : State) : State :=
  let s1 := s.waitSample.rowSamples
  let last := match s.job.hdr with
    | some h => h.rowlast
    | none => s.job.row
  let atEnd := s.job.row = last
  let row := if atEnd then s.job.row else s.job.row + 1
  let s2 := { s1 with
    job := { s1.job with row := row, complete := false, upSent := false, haltreq := false, ups := [] }
    fb := { s1.fb with allocDone := false }
    rcv := { s1.rcv with copied := false } }
  let s3 := if atEnd then s2 else s2.forEach allDies fun s d => s.traceDie d 0x0A (row.toNat % 2 ^ 32) 0
  (s3.forEach s3.job.active fun s p => s.beginPart p (if atEnd then .epilogue else .body)).sowBarrier

/-- The module halts at the boundary after its row; the requests that this serves clear (R280). -/
def State.haltAtBoundary (s : State) : State :=
  let served := s.job.haltat && decide (s.job.haltrow.toNat ≤ s.job.row.toNat)
  let past := s.job.haltat && decide (s.job.haltrow.toNat < s.job.row.toNat)
  let s1 := { s with
    job := { s.job with haltnext := false, haltat := s.job.haltat && !served, upSent := false, ups := [] }
    rcv := { s.rcv with checkpoint := false } }
  (s1.setPlan .halted .boundary).noticeFrom srcEngine 0x0A
    (if past then s.job.haltrow.toNat else 0) []

/-- The end of the round: down tokens to the children, then the halt or the advance (R272, R273, R280). -/
def State.endRound (s : State) (halt : Bool) : State :=
  let s1 := s.forEach s.children fun s c => s.sendStep c 1 halt
  if halt then s1.haltAtBoundary else s1.advance

/-- ADVANCE: the root once step 1 is satisfied, another node once its down token has come. Queue Q + 2 is examined first
(R272, R273, R287). -/
def execAdvance (s : State) : Host.Outcome State Fault Refusal :=
  if !s.stepRuns || !(s.stepTokens 2).isEmpty then .next s
  else
    match treeParent s.kuf.node with
    | none =>
      match s.badUp with
      | some t => .next (s.rowMismatch t)
      | none =>
        if !s.job.complete || !s.allUps then .next s
        else
          let s1 := s.takeUps
          .next (s1.endRound s1.job.haltreq)
    | some _ =>
      match s.stepTokens 1 with
      | [] => .next s
      | t :: _ =>
        if !s.rowMatches t then .next (s.rowMismatch t)
        else if !s.job.upSent then .next s
        else .next ((s.engineTake t).endRound (bit t.payload 31))

/-! ### Halting now and the abort (R283-R287) -/

/-- Sends halt tokens to the neighbours but the one that sent it. -/
def State.sendHalts (s : State) (sender : Option (BitVec 12)) (abort : Bool) : State :=
  if s.kuf.route.isNone then s
  else s.forEach (s.neighbours.filter fun n => some n ≠ sender) fun s n => s.sendStep n 2 abort

/-- Halts the module now: every active plot stops with REASON 0x2, and halt tokens go on. Halted at a row boundary, it
has nothing to stop and leaves a notice (R283, R284, R287, R445). -/
def State.haltNow (s : State) (sender : Option (BitVec 12)) : State :=
  match s.job.state with
  | .running =>
    let s1 := s.setPlan .halted .now
    let s2 := { s1 with
      job := { s1.job with haltNote := true }
      dbg := { s1.dbg with mapDue := if s1.dbg.stopmapEn then some 2 else s1.dbg.mapDue } }
    let s3 := s2.forEach s2.job.active fun s p => s.requestStop p 2
    (s3.sendHalts sender false).haltComplete
  | .halted => if s.job.halt = .boundary then s.noticeFrom srcEngine 0x0A 0 [] else s
  | _ => s

/-- HALT_TOKEN: the oldest token of queue Q + 2 is consumed; it halts the module now or, with bit 31, aborts it through the
error that names its source and its row count (R283, R286). While the plan is being checked it waits. -/
def execHaltToken (s : State) : Host.Outcome State Fault Refusal :=
  if s.evr.fallow || s.job.state = .checking then .next s
  else
    match s.stepTokens 2 with
    | [] => .next s
    | t :: _ =>
      let s1 := s.engineTake t
      if !s.running then .next s1
      else if bit t.payload 31 then
        .next (s1.raiseLead { s1.mkErr 0x0504 .jobFatal srcEngine
          (t.src.toNat + bits t.payload 30 0 * 2 ^ 32) [] with need := 4 })
      else .next (s1.haltNow (some t.src))

/-- JOB_ABORT: a job-fatal error that has been recorded stops the plots with REASON 0x3, sends abort tokens, and ends the
plan (R286). -/
def execJobAbort (s : State) : Host.Outcome State Fault Refusal :=
  match s.job.abortDue with
  | none => .next s
  | some origin =>
    let s1 := { s with job := { s.job with abortDue := none } }
    if s.evr.fallow then .next s
    else if !s1.running then .next s1
    else
      let s2 := s1.forEach s1.job.active fun s p => s.requestStop p 3
      let s3 := { s2 with
        job := { s2.job with complete := false, upSent := false }
        rcv := { s2.rcv with copy := none, feedWait := none, waitReturn := none }
        dbg := { s2.dbg with mapDue := if s2.dbg.stopmapEn then some 3 else s2.dbg.mapDue } }
      .next (((s3.sendHalts (some origin) true).endPlan .failed .aborted).haltComplete)

/-- RESUME of a module halted at a boundary runs the round again; of one halted now, the resume entries (R282, R285). A resume
leaves a notice (R359). -/
def State.resumeJob (s : State) : State :=
  match s.job.halt with
  | .boundary => (((s.noticeFrom srcEngine 0x0A 0 []).setPlan .running .none).beginRound).sowBarrier
  | .now =>
    let s1 := (s.noticeFrom srcEngine 0x0A 0 []).setPlan .running .none
    let s2 := { s1 with job := { s1.job with stepAge := 0 } }
    let stopped := s2.job.active.filter fun p => (s2.plot p).seq.state = .stopped && !(s2.plot p).seq.byStop
    (s2.forEach stopped fun s p => s.resumePlot p false).sowBarrier
  | _ => s

/-- STEP_TIMEOUT: the step engine has waited STEPTOUS, and ACTION applies (R226, R288). -/
def execStepTimeout (s : State) : Host.Outcome State Fault Refusal :=
  if !s.stepRuns || !s.job.complete || s.job.stepAge < s.job.tousNow.toNat * 1000 || s.smod.writing then .next s
  else
    let q := s.stepQueue (b2n s.job.upSent)
    let again := { s with job := { s.job with stepAge := 0 } }
    match s.smod.action.toNat with
    | 1 => .next (again.raiseLead (s.stepReport .jobFatal))
    | 2 => .next ((again.raiseLead (s.stepReport .notice)).dump 1 q none).2
    | 3 =>
      let (taken, s1) := again.dump 1 q none
      if taken then .next { s1 with smod := { s1.smod with errAfter := some .step } }
      else .next (s1.raiseLead (s1.stepReport .jobFatal))
    | _ => .next s

end Sys2Proof.Machine
end

