-- ==== Sys2Proof/Machine/Recorder.lean ====
section
/-! DEFINITION. The event recorder (chapter 15): records and their repeats, errors that arrive together, flushes and the
black box, and the fallow state. -/

namespace Sys2Proof.Machine

/-! ### Record images (R366, R370) -/

/-- The code of a severity (R358). -/
def Severity.code : Severity → Nat
  | .notice => 0
  | .recoverable => 1
  | .jobFatal => 2
  | .moduleFatal => 3

/-- Words followed by their complements. -/
def withComplement (ws : List W32) : List Byte := bytesOfWords (ws ++ ws.map fun w => ~~~w)

/-- The 16 words of an event record (R366). -/
def EvRec.words (r : EvRec) : List W32 :=
  let e := r.rep
  let row := e.pos.row.toNat
  let plot := match e.plot with
    | some p => 2 ^ 31 + p.val
    | none => 0
  [w32 (2 ^ 28 + e.sev.code * 2 ^ 26 + b2n r.preempted * 2 ^ 25 + e.source.toNat * 2 ^ 16 + e.code.toNat), r.rseq, w32 row,
    w32 (e.pos.passno.toNat * 2 ^ 16 + row / 2 ^ 32), w32 (e.pos.layer.toNat * 2 ^ 16 + e.pos.oper.toNat), w32 plot,
    w32 e.object.toNat, w32 (e.object.toNat / 2 ^ 32), e.detail.get 0, e.detail.get 1,
    w32 (r.repeats.toNat * 2 ^ 16 + r.last.toNat / 2 ^ 32), w32 r.last.toNat, e.detail.get 2, e.detail.get 3, e.detail.get 4,
    e.detail.get 5]

/-- The 128 bytes of an event record (R366). -/
def EvRec.bytes (r : EvRec) : List Byte := withComplement r.words

/-- Two records are identical when the words that R367 names are equal. -/
def EvRec.same (x y : EvRec) : Bool :=
  [0, 4, 5, 6, 7, 8, 9, 12, 13, 14, 15].all fun i => x.words.getD i 0 = y.words.getD i 0

/-- The 256 bytes of a histogram slot in use (R370). -/
def Hist.bytes (h : Hist) : List Byte :=
  let hi := fun (r : Row) => r.toNat / 2 ^ 32
  withComplement (
    [w32 (2 * 2 ^ 28 + h.quant.val * 2 ^ 24 + h.mode.toNat * 2 ^ 22), w32 (h.layer.toNat * 2 ^ 16 + h.oper.toNat),
      w32 h.first.toNat, w32 (hi h.last * 2 ^ 16 + hi h.first), w32 h.last.toNat, h.min, h.max, w32 h.minrow.toNat,
      w32 h.maxrow.toNat, w32 (hi h.maxrow * 2 ^ 16 + hi h.minrow), h.count, 0] ++ h.bins.toList ++ List.replicate 4 0)

/-- The 256 KiB of a half's recorder buffer (R365). -/
def RecHalf.image (r : RecHalf) : List Byte :=
  (r.hist.toList.flatMap fun x => match x with
    | some h => h.bytes
    | none => zeros 256) ++ (r.ring.flatMap EvRec.bytes) ++ zeros ((1920 - r.ring.length) * 128)

/-! ### Writing records (R361, R367, R368) -/

/-- The newest record of a ring. -/
def RecHalf.newest (r : RecHalf) : Option EvRec :=
  r.ring.foldl (fun m x => match m with
    | some y => if y.rseq < x.rseq then some x else some y
    | none => some x) none

/-- The ring slot of the oldest notice. -/
def RecHalf.oldestNotice (r : RecHalf) : Option Nat :=
  let seqs := r.ring.filterMap fun x => if x.rep.sev = .notice then some x.rseq.toNat else none
  let first := seqs.foldl (fun m n => match m with
    | some k => some (Nat.min k n)
    | none => some n) none
  match first with
  | some n => r.ring.findIdx? fun x => x.rseq.toNat = n
  | none => none

/-- A new record takes the next slot, or that of the oldest notice; none when neither is left (R368). -/
def RecHalf.place (r : RecHalf) (e : EvRec) : Option RecHalf :=
  if r.ring.length < 1920 then some { r with ring := r.ring ++ [e] }
  else match r.oldestNotice with
    | some i => some { r with ring := r.ring.set i e }
    | none => none

/-- Changes the record with a sequence number. -/
def RecHalf.modRec (r : RecHalf) (n : W32) (f : EvRec → EvRec) : RecHalf :=
  { r with ring := r.ring.map fun x => if x.rseq = n then f x else x }

/-- A repeat: REPEAT saturates, LASTROW takes the row count (R361, R367). -/
def EvRec.again (row : Row) (r : EvRec) : EvRec := { r with repeats := satAdd r.repeats 1, last := row }

/-- The half that an entry of the staging list changes. -/
def Staged.half : Staged → Half
  | .record h _ => h
  | .mark h _ => h
  | .again h _ _ => h

/-- Applies a change to a buffer; `none` when a record finds no place. -/
def RecHalf.change (r : RecHalf) : Staged → Option RecHalf
  | .record _ e => r.place e
  | .mark _ n => some (r.modRec n fun x => { x with preempted := true })
  | .again _ n row => some (r.modRec n (EvRec.again row))

/-- A change reaches the buffer. A record of recoverable or higher severity is an event of vector 0 (R418), every record
a trace record of kind 0x09, which triggers under SRC 0x2 (R433, R435); one without a place is counted (R368). -/
def State.applyChange (s : State) (c : Staged) : State :=
  match (s.half c.half).change c with
  | none => { s with evr := { s.evr with dropped := satAdd s.evr.dropped 1 } }
  | some r =>
    let s1 := s.modHalf c.half fun _ => r
    match c with
    | .record _ e =>
      let tr := s1.traceRec 0x09 0x3FF (Pos.none s1.job.row) e.rep.code.toNat e.rep.sev.code
      let s2 := s1.forEach allDies fun s d =>
        s.traceOn d tr ((s.trace d).src = 2 && decide (bits (s.trace d).trigval 1 0 ≤ e.rep.sev.code))
      if e.rep.sev = .notice then s2 else s2.irqEvent 0
    | _ => s1

/-- A change to a buffer, staged while a flush runs; a full staging list drops it (R371). -/
def State.change (s : State) (c : Staged) : State :=
  if s.evr.flushing.isNone then s.applyChange c
  else if s.evr.staged.length < 32 then { s with evr := { s.evr with staged := s.evr.staged ++ [c] } }
  else { s with evr := { s.evr with dropped := satAdd s.evr.dropped 1 } }

/-- Applies the staging list (R371). -/
def State.applyStaged (s : State) : State :=
  let l := s.evr.staged
  { s with evr := { s.evr with staged := [] } }.forEach l fun s c => s.applyChange c

/-- A half's buffer with the staged changes of that half. -/
def State.ahead (s : State) (h : Half) : RecHalf :=
  (s.evr.staged.filter fun c => c.half = h).foldl (fun r c => (r.change c).getD r) (s.half h)

/-- A record of its own: none when it finds no place, or no room in the staging list (R368, R371). -/
def State.freshRecord (s : State) (h : Half) (r : EvRec) : Option W32 × State :=
  let room := ((s.ahead h).place r).isSome && (s.evr.flushing.isNone || decide (s.evr.staged.length < 32))
  let s1 := if room then s.modHalf h fun x => { x with rseq := x.rseq + 1 } else s
  (if room then some r.rseq else none, s1.change (.record h r))

/-- Writes the record of an error, or counts it as a repeat of the newest one; the RSEQ of its record (R366, R367). -/
def State.record (s : State) (h : Half) (e : ErrRep) : Option W32 × State :=
  let r : EvRec := { rep := e, preempted := false, rseq := (s.half h).rseq, repeats := 0, last := 0 }
  match (s.ahead h).newest with
  | some n => if r.same n then (some n.rseq, s.change (.again h n.rseq s.job.row)) else s.freshRecord h r
  | none => s.freshRecord h r

/-! ### The black box (R372, R373) -/

/-- Offset of a flush slot. -/
def slotOffset (k : Nat) : Nat := 0x10000 + k * 0x84000

/-- A superblock copy at an offset is valid: MAGIC, FORMAT, complements and CRC match (R373). -/
def superValid (bb : List Host.Cell) (off : Nat) : Bool :=
  let b := cellsGet 0 bb off 0x84
  let ws := wordsOf b 32
  ws.getD 0 0 = 0x42424F58#32 && ws.getD 1 0 = 1 && (ws.drop 16) = (ws.take 16).map (fun w => ~~~w)
    && wordAt b 0x80 = crc32 (b.take 0x80)

/-- The offset of the current superblock: the valid copy with the larger NEXTSEQ (R373). -/
def superOffset (bb : List Host.Cell) : Option Nat :=
  let next := fun (o : Nat) => (wordAt (cellsGet 0 bb o 12) 8).toNat
  match superValid bb 0, superValid bb 0x8000 with
  | true, true => if next 0x8000 > next 0 then some 0x8000 else some 0
  | true, false => some 0
  | false, true => some 0x8000
  | false, false => none

/-- Words 3 to 5 of the current superblock: the last fallow entry and FLUSHFAIL; zero where there is none. -/
def superEntry (bb : List Host.Cell) : List W32 :=
  match superOffset bb with
  | some o => wordsOf (cellsGet 0 bb (o + 12) 12) 3
  | none => [0, 0, 0]

/-- The 132 bytes of a superblock (R373). -/
def superBytes (next : W32) (entry : List W32) : List Byte :=
  let b := withComplement ([0x42424F58#32, 1, next] ++ entry ++ List.replicate 10 0)
  b ++ bytesOfWord (crc32 b)

/-- The words of a fallow entry: FLUSHFAIL, FALLOW with its CODE, and its row count. -/
def fallowEntry (fail : Bool) (code : BitVec 16) (row : Row) : List W32 :=
  [w32 (b2n fail * 2 ^ 17 + 2 ^ 16 + code.toNat), w32 row.toNat, w32 (row.toNat / 2 ^ 32)]

/-- EVR_LOST (R376). -/
def Evr.lost (e : Evr) : W32 := w32 (e.dropped.toNat * 2 ^ 16 + e.nestovf.toNat * 2 ^ 8 + e.histspill.toNat)

/-- The code of a flush trigger (R373). -/
def FlushTrigger.code : FlushTrigger → Nat
  | .error => 1
  | .fallow => 2
  | .write => 3

/-- Plan identity of the plan in force, or 0. -/
def State.planid (s : State) : Nat :=
  match s.job.hdr with
  | some h => h.planid.toNat
  | none => 0

/-- The slot header of a flush (R373). -/
def State.slotHeader (s : State) (f : Flush) (n : W32) : List Byte :=
  let b := withComplement (
    [0x4242534C#32, w32 (s.kuf.node.toNat * 2 ^ 20 + f.trigger.code * 2 ^ 16 + 1), n, w32 f.row.toNat,
      w32 (b2n (s.lead = .b) * 2 ^ 16 + f.row.toNat / 2 ^ 32), w32 s.planid, w32 (s.planid / 2 ^ 32),
      w32 (f.tsev.code * 2 ^ 16 + f.tcode.toNat), f.lost] ++ List.replicate 7 0)
    ++ bytesOfWords [crc32 f.bufA.image, crc32 f.bufB.image]
  let c := crc32 b
  b ++ bytesOfWords [c, ~~~c]

/-- Writes bytes of the black box. -/
def State.bbWrite (s : State) (off : Nat) (b : List Byte) : State :=
  { s with evr := { s.evr with blackbox := cellsBlit 0 s.evr.blackbox off b } }

/-! ### Flushes (R371) -/

/-- Takes the snapshot with which a flush begins (R371). -/
def State.startFlush (s : State) (t : FlushTrigger) (sev : Severity) (code : BitVec 16) : State :=
  let f : Flush := { trigger := t, tsev := sev, tcode := code, bufA := s.evr.halfA, bufB := s.evr.halfB, row := s.job.row,
                     lost := s.evr.lost }
  { s with evr := { s.evr with flushing := some f } }

/-- A flush trigger: a flush, or FOLLOW while a flush or an erase is in progress; none in the fallow state (R371, R377). -/
def State.triggerFlush (s : State) (t : FlushTrigger) (sev : Severity) (code : BitVec 16) : State :=
  if s.evr.fallow then s
  else if s.evr.flushing.isSome || s.evr.erase.isSome then
    { s with evr := { s.evr with follow := some (s.evr.follow.getD (t, sev, code)) } }
  else s.startFlush t sev code

/-- A flush that is abandoned leaves its slot without a valid header; how much of the images it has written is free (R373). -/
def State.abandonFlush (s : State) : State :=
  match s.evr.flushing with
  | none => s
  | some f =>
    let (v, s1) := s.free
    let slot := slotOffset (s.evr.nextseq.toNat % 7)
    let image := (f.bufA.image ++ f.bufB.image).take (v % (0x80000 + 1))
    let s2 := (s1.bbWrite slot (zeros 0x90)).bbWrite (slot + 0x1000) image
    { s2 with evr := { s2.evr with flushing := none } }

/-! ### The fallow state (R92, R148, R362, R363, R438) -/

/-- A plot stops in the cycle of a module-fatal error: its passes, streams and transfers are lost (R92, R148, R363). -/
def Plot.stopFatal (q : Plot) : Plot :=
  { q with passes := [], writeouts := [], kept := 0, stream := none, rake := .cleared, rakeHeld := false,
           movers := Vector.replicate 2 [], held := [], tilling := 0 }

/-- A trace stops capture (R438). -/
def TraceDie.stopCapture (t : TraceDie) : TraceDie := if t.state = .off then t else { t with state := .ended }

/-- Writes the records of every error of a half's pending list (R362). -/
def State.recordPending (s : State) (h : Half) : State :=
  let l := (s.half h).pending
  (s.modHalf h fun r => { r with pending := [] }).forEach l fun s e => (s.record h e).2

/-- Entry to the fallow state (R363): strips, ports, engines and traces stop, and the records of the pending errors are
written. A flush in progress is abandoned (R371). -/
def State.enterFallow (s : State) : State :=
  let s1 := s.abandonFlush.applyStaged
  let dark : KufPort → KufPort := fun x =>
    if x.state = .active then { x with sendDown := true } else { x with state := if x.state = .failed then .failed else .down }
  let s2 : State := { s1 with
    plots := s1.plots.map Plot.stopFatal
    kuf := { s1.kuf with ports := s1.kuf.ports.map dark }
    dbg := { s1.dbg with traces := s1.dbg.traces.map TraceDie.stopCapture }
    job := { s1.job with abortDue := none }
    evr := { s1.evr with follow := none, fatalDue := none, fallow := true } }
  ((s2.recordPending .a).recordPending .b).setSbd .fallow

/-- MODULE_FATAL: a module-fatal error that has been recorded puts the module into the fallow state, and the fallow flush
begins. During the header clear of an erase that flush waits; later steps of an erase are abandoned (R363, R377). -/
def execModuleFatal (s : State) : Host.Outcome State Fault Refusal :=
  match s.evr.fatalDue with
  | none => .next s
  | some code =>
    let s1 := s.enterFallow
    match s1.evr.erase with
    | some .headers => .next { s1 with evr := { s1.evr with follow := some (.fallow, .moduleFatal, code) } }
    | some .superblock => .next { s1 with evr := { s1.evr with follow := some (.fallow, .moduleFatal, code) } }
    | _ => .next ({ s1 with evr := { s1.evr with erase := none } }.startFlush .fallow .moduleFatal code)

/-- FLUSH_PATH_ERROR: class 0x0801, and the fallow state at once, without a further flush. The superblock takes FLUSHFAIL
when the MRAM still accepts writes, which is a free value (R362). -/
def execFlushPathError (s : State) : Host.Outcome State Fault Refusal :=
  match s.evr.flushing with
  | none => .next s
  | some f =>
    let (v, s1) := s.free
    let was := s.evr.fallow
    let s2 := if was then s1.abandonFlush.applyStaged else s1.enterFallow
    let e : ErrRep := { s2.mkErr 0x0801 .moduleFatal srcService 0 [] with need := 0 }
    let (n, s3) := s2.record s2.lead e
    let s4 := s3.modHalf s3.lead fun r => { r with handling := some { code := 0x0801, sev := .moduleFatal, rseq := n, follow := false } }
    let s5 := { s4 with evr := { s4.evr with flushfail := true, erase := none } }
    let code := if was then f.tcode else 0x0801
    let copy := (superOffset s5.evr.blackbox).getD 0
    .next (if v % 2 = 0 then s5.bbWrite copy (superBytes s5.evr.nextseq (fallowEntry true code f.row)) else s5)

/-! ### Handling (R358, R360, R361) -/

/-- What an error does besides its record (R307, R358): NEED keeps the higher value, and a loss of guarded data without buddy
protection is 0x3 (R314). A halt now follows where the path has one; an abort or the fallow state comes next. -/
def State.errorEffect (s : State) (e : ErrRep) : State :=
  let need := if e.need = 2 && s.rcv.mode = 2 then 3 else e.need
  let s1 := { s with rcv := { s.rcv with need := if s.rcv.need < need then need else s.rcv.need } }
  match e.sev with
  | .notice => s
  | .recoverable => if need = 0 then s1 else s1.haltNow none
  | .jobFatal =>
    let origin := if e.code = 0x0504 then BitVec.ofNat 12 e.object.toNat else s.kuf.node
    { s1 with job := { s1.job with abortDue := some (s1.job.abortDue.getD origin) } }
  | .moduleFatal => { s1 with evr := { s1.evr with fatalDue := some (s1.evr.fatalDue.getD e.code) } }

/-- Handles an error: its record, its effects, and the flush that it triggers (R358, R360, R371). In the fallow state
nothing follows a record. -/
def State.handle (s : State) (h : Half) (e : ErrRep) : State :=
  let (n, s1) := s.record h e
  if s1.evr.fallow || e.sev = .notice then s1
  else
    let s2 := s1.errorEffect e
    let hd : Handling := { code := e.code, sev := e.sev, rseq := n,
                           follow := s2.evr.flushing.isSome || s2.evr.erase.isSome }
    let s3 := s2.modHalf h fun r => { r with handling := some hd }
    if e.sev = .moduleFatal then s3 else s3.triggerFlush .error e.sev e.code

/-- An error joins the pending list of its half, or is dropped from a full one (R361). -/
def State.enqueue (s : State) (h : Half) (e : ErrRep) : State :=
  if (s.half h).pending.length < 16 then s.modHalf h fun r => { r with pending := r.pending ++ [e] }
  else { s with evr := { s.evr with nestovf := satAdd s.evr.nestovf 1 } }

/-- An error is taken up while another is in handling, or while errors wait (R361). -/
def State.takeUp (s : State) (h : Half) (e : ErrRep) : State :=
  match (s.half h).handling with
  | none => if (s.half h).pending.isEmpty then s.handle h e else s.enqueue h e
  | some cur =>
    if cur.code = e.code then
      match cur.rseq with
      | some n => s.change (.again h n s.job.row)
      | none => s
    else if cur.sev.code < e.sev.code then
      let s1 := match cur.rseq with
        | some n => s.change (.mark h n)
        | none => s
      s1.handle h e
    else s.enqueue h e

/-- ERROR_RECORD: the oldest error registered with a half's service controller is taken up (R360, R361). -/
def execErrorRecord (h : Half) (s : State) : Host.Outcome State Fault Refusal :=
  match (s.half h).registered with
  | [] => .next s
  | e :: r => .next ((s.modHalf h fun x => { x with registered := r }).takeUp h e)

/-- PENDING_ERROR: handling has ended, and the oldest pending error of the half is handled (R361). -/
def execPendingError (h : Half) (s : State) : Host.Outcome State Fault Refusal :=
  match (s.half h).handling, (s.half h).pending with
  | none, e :: r => .next ((s.modHalf h fun x => { x with pending := r }).handle h e)
  | _, _ => .next s

/-- What waits for a flush after one has completed: an error whose flush that was is no longer in handling (R360). -/
def RecHalf.flushed (r : RecHalf) : RecHalf :=
  match r.handling with
  | some x => if x.sev = .moduleFatal || x.follow then r else { r with handling := none }
  | none => r

/-- The errors that wait for the flush that now begins. -/
def RecHalf.flushBegins (r : RecHalf) : RecHalf :=
  { r with handling := r.handling.map fun x => { x with follow := false } }

/-- The further flush that FOLLOW asks for begins (R371). -/
def State.startFollow (s : State) : State :=
  match s.evr.follow with
  | none => s
  | some (t, sev, code) =>
    let s1 := { s with evr := { s.evr with follow := none } }
    (((s1.modHalf .a RecHalf.flushBegins).modHalf .b RecHalf.flushBegins)).startFlush t sev code

/-- FLUSH_DONE: the images, the header and the superblock are written, the staged changes are applied, and a further flush
that is due begins; an erase that has waited goes on (R371, R373, R377). -/
def execFlushDone (s : State) : Host.Outcome State Fault Refusal :=
  match s.evr.flushing with
  | none => .next s
  | some f =>
    let n := s.evr.nextseq
    let slot := slotOffset (n.toNat % 7)
    let entry := if f.trigger = .fallow then fallowEntry false f.tcode f.row else superEntry s.evr.blackbox
    let s1 := ((s.bbWrite (slot + 0x1000) (f.bufA.image ++ f.bufB.image)).bbWrite slot (s.slotHeader f n)).bbWrite
      (n.toNat % 2 * 0x8000) (superBytes (n + 1) entry)
    let s2 := { s1 with evr := { s1.evr with flushing := none, nextseq := n + 1 } }.irqEvent 1
    let s3 := ((s2.applyStaged.modHalf .a RecHalf.flushed).modHalf .b RecHalf.flushed)
    match s3.evr.erase with
    | some _ => .next { s3 with evr := { s3.evr with erase := some .headers } }
    | none => .next s3.startFollow

/-- BLACK_BOX_ERASE_STEP: the header clear, the superblock write or the zeroing of the slots ends (R377). -/
def execBlackBoxEraseStep (s : State) : Host.Outcome State Fault Refusal :=
  match s.evr.erase with
  | none => .next s
  | some .waitFlush => .next s
  | some .headers =>
    let s1 := (s.bbWrite 0 (zeros 0x8000)).bbWrite 0x8000 (zeros 0x8000)
    let s2 := s1.forEach (List.range 7) fun s k => s.bbWrite (slotOffset k) (zeros 0x1000)
    .next { s2 with evr := { s2.evr with erase := some .superblock } }
  | some .superblock =>
    let s1 := s.bbWrite 0 (superBytes 0 [0, 0, 0])
    if s.evr.fallow then .next { s1 with evr := { s1.evr with erase := none, nextseq := 0 } }.startFollow
    else .next { s1 with evr := { s1.evr with erase := some .slots, nextseq := 0 } }
  | some .slots =>
    let s1 := s.forEach (List.range 7) fun s k => s.bbWrite (slotOffset k + 0x1000) (zeros 0x80000)
    .next { s1 with evr := { s1.evr with erase := none } }.startFollow

end Sys2Proof.Machine
end

