-- ==== Sys2Proof/Machine/Load.lean ====
section
/-! DEFINITION. Starting a plan (R176): emptying the sync state, clearing the plots, the checks of the image, the route table
(R257), and the beginning of the first row. -/

namespace Sys2Proof.Machine

/-! ### Clearing (R176, R210, R310) -/

/-- A plot is cleared: position, pass, stream, watch, stop records, kept tiles, Rake register and fail vector (R176). -/
def Plot.clear (q : Plot) : Plot :=
  { q with
    numctl := 0, kept := 0, passes := [], writeouts := [], harSpilled := false, drlSpilled := false, harStopped := false
    drlStopped := false, harStopreq := false, drlStopreq := false, failvec := 0, stream := none, rake := .cleared
    rakeHeld := false, tilling := 0, movers := Vector.replicate 2 [], held := [], seq := .reset
    drlSpillbase := q.drlSpillnext.getD q.drlSpillbase, drlSpillnext := none }

/-- A sync unit is emptied (R210). -/
def SyncDie.empty (u : SyncDie) : SyncDie :=
  { u with queues := Vector.replicate 4096 [], watches := [], regs := [], withdraws := [], dbgWithdraws := [], inbox := [],
           tally := [], inbound := [] }

/-- A debugger watch whose unit is emptied is withdrawn. -/
def DbgWatch.emptied (w : DbgWatch) : DbgWatch := if w.reg then { w with reg := false, outcome := .withdrawn } else w

/-- The sync state, the token sequence counts and the pair tables are emptied (R210, R246). -/
def State.emptySync (s : State) : State :=
  let f : Vector DbgWatch 4 → Vector DbgWatch 4 := fun v => v.map DbgWatch.emptied
  { s with
    sync := s.sync.map SyncDie.empty
    dbg := { s.dbg with watches := s.dbg.watches.map f }
    job := { s.job with tokens := [], tseqs := [] }
    rcv := { s.rcv with tokens := [] }
    kuf := { s.kuf with tx := [], rx := [], inbox := [], colls := [], remote := [], adds := [] } }

/-- What an accepted START or restart clears before its checks (R176, R280, R310, R314): the plan is checked next. -/
def State.clearPlan (s : State) : State :=
  let s1 := s.emptySync
  let fresh : KufPort → KufPort := fun x => { x with identOk := false }
  let s2 : State := { s1 with
    plots := s1.plots.map Plot.clear
    kuf := { s1.kuf with ports := s1.kuf.ports.map fresh }
    job := { s1.job with loaderr := 0, hdr := none, active := [], ended := [], haltat := false, haltnext := false,
                         complete := false, ups := [], haltreq := false, upSent := false, stepAge := 0, waitAge := 0,
                         abortDue := none, haltNote := false }
    fb := { s1.fb with voteReady := none, allocDone := false }
    rcv := { s1.rcv with feed := 0, mode := 0, pairing := none, feedWait := none, waitReturn := none, copy := none,
                         copied := false, verify := 0, checkpoint := false }
    dbg := { s1.dbg with mapDue := none } }
  s2.setPlan .checking .none

/-! ### The plan header (R157) -/

/-- A 48-bit field whose low word stands at an offset. -/
def long48 (b : List Byte) (off : Nat) : Nat := (wordAt b off).toNat + bits (wordAt b (off + 4)) 15 0 * 2 ^ 32

/-- The plan header of an image. -/
def PlanHdr.ofBytes (b : List Byte) : PlanHdr :=
  { planid := BitVec.ofNat 64 ((wordAt b 0x08).toNat + (wordAt b 0x0C).toNat * 2 ^ 32), modules := bits (wordAt b 0x10) 31 16,
    node := BitVec.ofNat 12 (bits (wordAt b 0x10) 11 0), rowfirst := BitVec.ofNat 48 (long48 b 0x14),
    rowlast := BitVec.ofNat 48 (long48 b 0x1C), flt := long48 b 0x24, route := long48 b 0x2C,
    buddyint := (wordAt b 0x34).toNat, stepqueue := BitVec.ofNat 15 (bits (wordAt b 0x38) 14 0) }

/-- The 256 bytes of the header of the image at PLT_PLANBASE. -/
def State.headerBytes (s : State) : List Byte := s.memBytes s.job.planbase.toNat 256

/-! ### The checks of R176 -/

/-- An entry of the plot table (R158): the three offsets, and ACTIVE. -/
def State.plotEntry (s : State) (p : PlotIx) : Nat × Nat × Nat × Bool :=
  let b := s.memBytes (s.imageAddr (0x100 + 16 * p.val)) 16
  ((wordAt b 0).toNat, (wordAt b 4).toNat, (wordAt b 8).toNat, bit (wordAt b 12) 31)

/-- Check 5 on an active entry. -/
def State.entryOk (s : State) (p : PlotIx) : Bool :=
  let (pro, body, epi, active) := s.plotEntry p
  !active || (pro % 16 = 0 && body % 16 = 0 && epi % 16 = 0 && decide (pro ≤ body) && (decide (epi < pro) || decide (body < epi))
    && [pro, body, epi].all fun o => s.rangeGuarded (s.imageAddr o) 16)

/-- The header of an FLT holds no reserved or out-of-range value (R102, R104). -/
def FltHdr.valid (h : FltHdr) : Bool :=
  decide (1 ≤ h.entries) && decide (h.entries ≤ 512) && h.reservedZero && decide (h.unitbytes ≠ 0) && h.unitbytes % 65536 = 0
    && h.resbase % 65536 = 0

/-- An FLT entry passes check 6 (R104). -/
def FltEntry.valid (e : FltEntry) (restart : Bool) : Bool :=
  decide (e.rank ≤ 64) && e.reservedZero && e.sound && decide (if restart then e.state ≤ 2 else e.state = 0)

/-- The index of the first bad entry of the FLT; 0 when its header is bad (R104). -/
def State.fltBad (s : State) (a : Nat) (restart : Bool) : Option Nat :=
  if a = 0 then none
  else
    let h := s.fltHdrAt a
    if !h.valid then some 0 else (List.range h.entries).find? fun n => !(s.fltEntryAt a n).valid restart

/-- Check 4: placement in guarded regions. -/
def State.placed (s : State) (h : PlanHdr) : Bool :=
  s.rangeGuarded s.job.planbase.toNat (0x100 + 640 * 16)
    && (h.flt = 0 || (s.rangeGuarded h.flt 64 && s.rangeGuarded h.flt (64 + 32 * (s.fltHdrAt h.flt).entries)))
    && s.rangeGuarded h.route 64

/-- The checks of R176 in order: the first failure as LOADERR and the object that it names. -/
def State.loadCheck (s : State) (restart : Bool) : Option (Nat × Nat) :=
  let base := s.job.planbase.toNat
  let b := s.headerBytes
  let h := PlanHdr.ofBytes b
  if wordAt b 0 ≠ 0x5A48504C#32 || bits (wordAt b 4) 15 0 ≠ 1 then some (1, base)
  else if wordAt b 0xFC ≠ crc32 (b.take 0xFC) then some (2, base)
  else if h.node ≠ s.kuf.node then some (3, h.node.toNat)
  else if !s.placed h then some (4, base)
  else
    match allPlots.find? fun p => !s.entryOk p with
    | some p => some (5, p.val)
    | none =>
      match s.fltBad h.flt restart with
      | some n => some (6, n)
      | none => none

/-- A failed check leaves the module idle, with LOADERR and a record of recoverable severity (R176, R359). -/
def State.loadFail (s : State) (n obj : Nat) : State :=
  let s1 := { s with job := { s.job with loaderr := BitVec.ofNat 4 n } }.setPlan .idle .none
  s1.raiseLead { s1.mkErr 0x0206 .recoverable srcService obj [n] with need := 0 }

/-- A job-fatal error of a start. -/
def State.startFatal (s : State) (code : BitVec 16) (obj : Nat) (det : List Nat) : State :=
  s.raiseLead { s.mkErr code .jobFatal srcService obj det with need := 4 }

/-! ### The route table (R257, R262) -/

/-- The schedule of a collective entry. -/
def routeSteps (b : List Byte) (n off : Nat) : List (W32 × W32) :=
  (List.range n).map fun i => (wordAt b (off + 8 * i), wordAt b (off + 8 * i + 4))

/-- A schedule step holds no reserved value. -/
def stepOk (x : W32 × W32) : Bool :=
  decide (1 ≤ bits x.1 31 28) && decide (bits x.1 31 28 ≤ 3) && bits x.1 19 12 = 0 && x.2 = 0

/-- The offset of the first entry with a reserved value. -/
def routeReserved (b : List Byte) : Option Nat :=
  let w := fun o => wordAt b o
  let checks : List (Nat × Bool) :=
    [(4, bits (w 4) 31 16 = 0), (8, bits (w 8) 31 12 = 0), (0xC, bits (w 0xC) 31 6 = 0 && bits (w 0xC) 5 0 ≠ 0)]
  let head := checks.find? fun x => !x.2
  match head with
  | some x => some x.1
  | none =>
    match (List.range 10).find? fun i => w (0x14 + 4 * i) ≠ 0 with
    | some i => some (0x14 + 4 * i)
    | none =>
      let ports := (List.range 8).find? fun p =>
        bits (w (0x40 + 8 * p)) 30 27 ≠ 0 || bits (w (0x40 + 8 * p)) 23 12 ≠ 0 || w (0x44 + 8 * p) ≠ 0
      match ports with
      | some p => some (0x40 + 8 * p)
      | none =>
        match (List.range 512).find? fun n => bits (w (0x80 + 4 * n)) 30 27 ≠ 0 || bits (w (0x80 + 4 * n)) 19 0 ≠ 0 with
        | some n => some (0x80 + 4 * n)
        | none =>
          let colls := (List.range 4096).find? fun i =>
            let e := w (0x880 + 4 * i)
            bit e 31 && (bits e 30 24 = 0 || (routeSteps b (bits e 30 24) (bits e 23 0)).any fun x => !stepOk x)
          colls.map fun i => 0x880 + 4 * i

/-- The route table of its bytes. -/
def RouteTable.ofBytes (b : List Byte) : RouteTable :=
  let w := fun o => wordAt b o
  let port : Fin 8 → RoutePort := fun p =>
    let e := w (0x40 + 8 * p.val)
    { used := bit e 31, nbrPort := BitVec.ofNat 3 (bits e 26 24), nbrNode := BitVec.ofNat 12 (bits e 11 0) }
  let dest : Nat → Option RouteDest := fun n =>
    let e := w (0x80 + 4 * n)
    if bit e 31 then
      some { node := n, primary := Fin.ofNat 8 (bits e 26 24), altValid := bit e 23, alt := Fin.ofNat 8 (bits e 22 20),
             useAlt := false }
    else none
  let coll : Nat → Option (Nat × List CollStep) := fun i =>
    let e := w (0x880 + 4 * i)
    if bit e 31 then
      some (i, (routeSteps b (bits e 30 24) (bits e 23 0)).map fun x =>
        { op := BitVec.ofNat 4 (bits x.1 31 28), peerstep := BitVec.ofNat 8 (bits x.1 27 20),
          node := BitVec.ofNat 12 (bits x.1 11 0) })
    else none
  { node := BitVec.ofNat 12 (bits (w 8) 11 0), maxHops := BitVec.ofNat 6 (bits (w 0xC) 5 0), ports := Vector.ofFn port,
    dests := (List.range 512).filterMap dest, colls := (List.range 4096).filterMap coll }

/-- A destination whose primary is not ACTIVE when the table is read uses its alternate (R260). -/
def State.routeNow (s : State) (t : RouteTable) : RouteTable :=
  let f : RouteDest → RouteDest := fun d => { d with useAlt := (s.kport d.primary).altuse }
  { t with dests := t.dests.map f }

/-- Reads the route table, or gives the offset of the first bad entry (R257).  DEDUCED: a TABLEN that does not hold the
layout's fixed part, 0x4880 bytes, is bad at 0x10 (log 40). -/
def State.readRoutes (s : State) (a : Nat) : Except Nat RouteTable :=
  let len := (s.memWord (a + 0x10)).toNat
  let b := s.memBytes a len
  if wordAt b 0 ≠ 0x4B555254#32 then .error 0
  else if bits (wordAt b 4) 15 0 ≠ 1 then .error 4
  else if len < 0x4880 then .error 0x10
  else if wordAt b 0x3C ≠ crc32 ((b.take len).drop 0x40) then .error 0x3C
  else if bits (wordAt b 8) 11 0 ≠ s.kuf.node.toNat then .error 8
  else
    match routeReserved b with
    | some o => .error o
    | none => if s.rangeGuarded a len then .ok (s.routeNow (.ofBytes b)) else .error 0x10

/-! ### Beginning the first row (R176, R310) -/

/-- Units in use: RESUNITS of the entries whose STATE is ZE8 (R115). -/
def State.fltUsed (s : State) : Nat :=
  match s.fltBase with
  | some a =>
    ((List.range s.fltEntries).map fun n =>
      let e := s.fltEntryAt a n
      if e.state = 2 then e.resunits else 0).sum
  | none => 0

/-- Entries of the FLT in a STATE. -/
def State.fltCount (s : State) (st : Nat) : Nat :=
  match s.fltBase with
  | some a => ((List.range s.fltEntries).filter fun n => (s.fltEntryAt a n).state = st).length
  | none => 0

/-- The allocator's figures at a start (R115, R116). -/
def State.countReserve (s : State) : State :=
  let cap := match s.fltBase with
    | some a => (s.fltHdrAt a).rescap
    | none => 0
  let used := s.fltUsed
  { s with fb := { s.fb with used := used, resfree := BitVec.ofNat 16 (cap + s.fb.extra.toNat - used),
                             pendingN := BitVec.ofNat 10 (s.fltCount 1), switchedN := BitVec.ofNat 10 (s.fltCount 2) } }

/-- A plot begins its prologue, or its body where the prologue is empty (R177). -/
def State.beginPlot (s : State) (p : PlotIx) (row : Row) : State :=
  let (pro, body, epi, _) := s.plotEntry p
  let st : SeqState := if pro = body then .body else .prologue
  (s.modSeq p fun _ => { Seq.reset with state := st, part := st, row := row, prologue := pro, body := body, epilogue := epi }).seqAt
    p pro

/-- The row count is set and every active plot begins; a restart is a sowing barrier (R176, R310, R341). -/
def State.beginRows (s : State) (row : Row) (restart : Bool) : State :=
  let s1 := { s.countReserve with job := { s.job with row := row, ended := [] } }.setPlan .running .none
  let s2 := s1.forEach s1.job.active fun s p => s.beginPlot p row
  if restart then s2.sowBarrier else s2

end Sys2Proof.Machine
end

