-- ==== Sys2Proof/Machine/MemRows.lean ====
section
/-! DEFINITION. Events of the memory system (chapter 08): the ring's links, the scrubber, refresh and the package sensors,
and the end of a slice's mode change. -/

namespace Sys2Proof.Machine

/-! ### The headland (R187) -/

/-- RING_TRANSFER: a transfer on a link and direction passes its CRC, or fails it and is sent again; the fifteenth failure in
a row is module-fatal (R187). -/
def execRingTransfer (link : Fin 8) (ascending : Bool) (crcOk : Bool) (s : State) : Host.Outcome State Fault Refusal :=
  let i := 2 * link.val + b2n ascending
  let n := if crcOk then 0 else s.mem.ringFails.toList.getD i 0 + 1
  let f : Nat → Nat → Nat := fun j x => if j = i then n else x
  let s1 := { s with mem := { s.mem with ringFails := s.mem.ringFails.mapIdx f } }
  if n = 15 && !s.evr.fallow then
    .next (s1.raise (halfOfDie link) (s1.mkErr 0x0306 .moduleFatal srcRing link.val [b2n ascending]))
  else .next s1

/-! ### The scrubber (R205) -/

/-- The scrubber may read a block: scrubbing runs, and the block is guarded DRAM data. -/
def State.scrubs (s : State) (a : Nat) : Bool :=
  s.mem.scrubPeriod ≠ 0 && s.mem.layState ≠ 1 && s.sbd.state = .ready && !s.evr.fallow && (sliceOf a).isNone && s.isGuarded a

/-- SCRUB_READ: the scrubber reads the block that holds an address at its home, where new wrong bytes may have appeared; it
corrects or reports under R203. -/
def execScrubRead (addr : Nat) (wrongBytes : Nat) (s : State) : Host.Outcome State Fault Refusal :=
  if !s.scrubs addr then .next s
  else
    let b := blockOf addr
    let d := s.homeOf b
    let (_, s1) := (s.inject b wrongBytes).homeRead .scrubber b 64
    .next (s1.modDie d fun x => { x with scrubq := w32 (localOf b / 256) })

/-! ### Refresh and package sensors (R200, R201) -/

/-- A package. -/
def State.pkg (s : State) (p : PkgIx) : Package := s.mem.pkgs.get p

/-- Changes a package. -/
def State.modPkg (s : State) (p : PkgIx) (f : Package → Package) : State :=
  { s with mem := { s.mem with pkgs := s.mem.pkgs.set p.val (f (s.pkg p)) } }

/-- The module's step at a temperature in 0.1 C (R200). -/
def refreshStep (t : Int) : BitVec 2 := if t < 850 then 0 else if t ≤ 950 then 1 else 2

/-- The refresh multiple in force: the larger of the module's step and MR4's demand (R200). -/
def Package.multiple (p : Package) : BitVec 2 := if p.step.toNat < p.demand.toNat then p.demand else p.step

/-- MR4_READ: the devices of a package report the refresh rate that they demand (R200). -/
def execMr4Read (pkg : PkgIx) (demand : BitVec 2) (s : State) : Host.Outcome State Fault Refusal :=
  .next (s.modPkg pkg fun p => { p with demand := demand })

/-- A notice about a package (R201). -/
def State.pkgErr (s : State) (pkg : PkgIx) (code : BitVec 16) (sev : Severity) (t : Int) : State :=
  s.raise (halfOfDie (dieOfPkg pkg)) (s.mkErr code sev srcMemory pkg.val [(t % 2 ^ 16).toNat])

/-- PACKAGE_SENSOR_READING: a valid reading of a package sensor, corrected by POFF (R396). The step rises at once; 105 C is a
notice, and 110 C is module-fatal (R200, R201). -/
def execPackageSensorReading (pkg : PkgIx) (tenths : Int) (s : State) : Host.Outcome State Fault Refusal :=
  let t := tenths + s.sbd.calib.poff.get pkg
  let s1 := s.modPkg pkg fun p =>
    { p with reading := some t, invalid := false,
             step := if p.step.toNat < (refreshStep t).toNat then refreshStep t else p.step }
  if s.evr.fallow then .next s1
  else if 1100 ≤ t then .next (s1.pkgErr pkg 0x0305 .moduleFatal t)
  else if 1050 ≤ t then .next (s1.pkgErr pkg 0x0304 .notice t)
  else .next s1

/-- REFRESH_STEP_FALL: the step falls by one once the package has stayed 3 C below its threshold for 100 ms (R200). -/
def execRefreshStepFall (pkg : PkgIx) (s : State) : Host.Outcome State Fault Refusal :=
  let p := s.pkg pkg
  match p.reading with
  | none => .next s
  | some t =>
    let fall := !p.invalid && ((p.step = 2 && decide (t ≤ 920)) || (p.step = 1 && decide (t ≤ 820)))
    if fall then .next (s.modPkg pkg fun p => { p with step := p.step - 1 }) else .next s

/-- PACKAGE_SENSOR_TIMEOUT: no valid reading for 100 ms counts as above 95 C, with a notice (R201). -/
def execPackageSensorTimeout (pkg : PkgIx) (s : State) : Host.Outcome State Fault Refusal :=
  let s1 := s.modPkg pkg fun p => { p with invalid := true, step := 2 }
  if s.evr.fallow then .next s1
  else .next (s1.raise (halfOfDie (dieOfPkg pkg)) (s1.mkErr 0x0304 .notice srcMemory pkg.val []))

/-! ### Slices (R199) -/

/-- A sparse store without the bytes from lo up to hi. -/
def clearCells (m : List Host.Cell) (lo hi : Nat) : List Host.Cell := m.filter fun x => decide (x.1 < lo) || decide (hi ≤ x.1)

/-- Slice k holds zeros without errors. -/
def State.clearSlice (s : State) (k : Nat) : State :=
  let lo := 0x020000000000 + k * 0x02000000
  let hi := lo + 0x02000000
  { s with mem := { s.mem with cells := clearCells s.mem.cells lo hi,
                               bad := s.mem.bad.filter fun x => decide (x.1 < lo) || decide (hi ≤ x.1) } }

/-- The slices of a die that a change concerns, as bits. -/
def changedSlices (old new : BitVec 12) : List Nat := (List.range 12).filter fun j => old.getLsbD j != new.getLsbD j

/-- The change of a die's slice modes is done: dirty lines are written back, the slices that changed hold nothing of before,
and the new modes are in force (R199). A trace that spills into such a slice is disabled (R436). -/
def State.sliceModeDone (s : State) (d : DieIx) : State :=
  match (s.die d).slicenext with
  | none => s
  | some m =>
    let js := changedSlices (s.die d).slicemode m
    let s1 := s.forEach (s.die d).cache fun s c => s.writeBack .scrubber c
    let s2 := s1.forEach js fun s j => s.clearSlice (12 * d.val + j)
    let s3 := s2.modDie d fun x => { x with slicemode := m, slicenext := none, cache := [] }
    s3.modTrace d fun t =>
      if t.spill && decide (t.slice.toNat ∈ js) then { t with en := false, arm := false, state := .off } else t

end Sys2Proof.Machine
end

