-- ==== Sys2Proof/Machine/Survive.lean ====
section
/-! DEFINITION. Surviving failure (chapter 13): the buddy list and the feed check, buddy copies and host checkpoints, returns
and their verification, and with them the start and the restart of a plan (R176, R310). -/

namespace Sys2Proof.Machine

/-! ### The buddy list (R311-R313) -/

/-- The extents of a list of entries at an offset of its bytes: addresses and lengths. -/
def extentsOf (b : List Byte) (off n : Nat) : List (Nat × Nat) :=
  (List.range n).map fun e => (long48 b (off + 16 * e), long48 b (off + 16 * e + 8))

/-- Bytes of the FLT in the state, padded to a multiple of 256 B; 0 when the plan has no FLT (R312). -/
def State.fltState (s : State) : Nat :=
  match s.fltBase with
  | some _ => (64 + 32 * s.fltEntries + 255) / 256 * 256
  | none => 0

/-- Bytes of the state (R312). -/
def State.stateSize (s : State) (ext : List (Nat × Nat)) : Nat := s.fltState + (ext.map (·.2)).sum

/-- Two ranges share a byte. -/
def overlap (x y : Nat × Nat) : Bool := decide (x.1 < y.1 + y.2) && decide (y.1 < x.1 + x.2)

/-- Some two of the ranges overlap. -/
def anyOverlap : List (Nat × Nat) → Bool
  | [] => false
  | x :: r => r.any (overlap x) || anyOverlap r

/-- The pairing that a buddy list at an address names, and its entries as bytes. -/
def Pairing.ofBytes (b : List Byte) : Pairing :=
  let w2 := wordAt b 8
  let w3 := wordAt b 0xC
  { holder := BitVec.ofNat 12 (bits w2 31 20), channel := BitVec.ofNat 8 (bits w2 19 12),
    replica := if bit w3 31 then some (BitVec.ofNat 12 (bits w2 11 0)) else none, bqueue := BitVec.ofNat 15 (bits w3 14 0),
    dst := long48 b 0x10, slotbytes := long48 b 0x18, extents := extentsOf b 0x100 (bits (wordAt b 4) 31 16) }

/-- Bytes of the buddy list at PLT_BUDDYLIST, entries included. -/
def State.listBytes (s : State) : List Byte :=
  let a := s.rcv.buddylist.toNat
  s.memBytes a (0x100 + 16 * bits (s.memWord (a + 4)) 31 16)

/-- The offset of the first bad field of the buddy list (R313), in the order of R313's conditions. -/
def State.listBad (s : State) (h : PlanHdr) : Option Nat :=
  let a := s.rcv.buddylist.toNat
  let b := s.listBytes
  let p := Pairing.ofBytes b
  let w := fun o => wordAt b o
  let n := p.extents.length
  let checks : List (Nat × Bool) :=
    [(0, w 0 = 0x42554459#32), (4, bits (w 4) 15 0 = 1), (0x7C, w 0x7C = crc32 (b.take 0x7C ++ b.drop 0x100)),
     (0xC, bits (w 0xC) 30 15 = 0), (0x14, bits (w 0x14) 31 16 = 0), (0x1C, bits (w 0x1C) 31 16 = 0),
     (0x20, (List.range 23).all fun i => w (0x20 + 4 * i) = 0)]
  let entries : List (Nat × Bool) := (List.range n).map fun e =>
    (0x100 + 16 * e, bits (w (0x104 + 16 * e)) 31 16 = 0 && bits (w (0x10C + 16 * e)) 31 16 = 0)
  let place : List (Nat × Bool) := (0, s.rangeGuarded a (0x100 + 16 * n)) ::
    (List.range n).map fun e => (0x100 + 16 * e, match p.extents.getD e (0, 0) with | (x, l) => s.rangeGuarded x l)
  let rest : List (Nat × Bool) :=
    [(0x100, !anyOverlap ((a, 0x100 + 16 * n) :: p.extents)),
     (8, decide (p.holder ≠ s.kuf.node) && decide (p.holder.toNat < h.modules)), (8, decide (p.replica ≠ some s.kuf.node)),
     (0xC, decide (p.bqueue.toNat ∉ s.stepQueues)), (0x18, decide (0x4100 + s.stateSize p.extents ≤ p.slotbytes))]
  ((checks ++ entries ++ place ++ rest).find? fun x => !x.2).map (·.1)

/-! ### The feed check (R314, R315) -/

/-- A buddy token: a payload with the sender's feed and node, byte count 0 (R315). -/
def State.sendBuddy (s : State) (type : Nat) (node : BitVec 12) (p : Pairing) : State :=
  s.sendToken node p.channel p.bqueue (w32 (type * 2 ^ 28 + s.pins.feedid.toNat * 2 ^ 24 + s.kuf.node.toNat))

/-- A pairing begins: FEED_ID is sampled, and a FEEDQUERY goes to the holder (R314). -/
def State.beginPairing (s : State) (f : FeedCheck) : State :=
  { s with rcv := { s.rcv with feedWait := some f, feedAge := 0, ownfeed := s.pins.feedid } }.sendBuddy 1 f.pairing.holder
    f.pairing

/-- What follows the feed check of a start: the rows, or first the return that a restart waits for (R310). -/
def State.afterFeed (s : State) (f : FeedCheck) : State :=
  if f.bySet then s
  else if f.restore then { s with rcv := { s.rcv with waitReturn := some f.row, verify := 3 } }
  else s.beginRows f.row f.restart

/-- A pairing takes force in a MODE (R314). -/
def State.pairWith (s : State) (f : FeedCheck) (mode : BitVec 2) : State :=
  let key := some (f.pairing.holder, f.pairing.dst)
  ({ s with rcv := { s.rcv with pairing := some f.pairing, mode := mode, slotKey := key,
                                slots := if s.rcv.slotKey = key then s.rcv.slots else Vector.replicate 2 none } }).afterFeed f

/-- BUDDY_SAME_FEED: both nodes and both values (R314, R359). -/
def State.sameFeed (s : State) (f : FeedCheck) (sev : Severity) : State :=
  s.raiseLead { s.mkErr 0x0601 sev srcEngine (s.kuf.node.toNat + f.pairing.holder.toNat * 2 ^ 32)
    [s.rcv.ownfeed.toNat, s.rcv.holdfeed.toNat] with need := if sev = .jobFatal then 4 else 0 }

/-- The feed check settles (R314): distinct feeds pair; shared feeds follow the policy. -/
def State.settleFeed (s : State) (f : FeedCheck) (reply : Option (BitVec 4)) : State :=
  let own := s.rcv.ownfeed
  let distinct := match reply with
    | some v => v ≠ own && v ≠ 0 && own ≠ 0
    | none => false
  let s1 := { s with rcv := { s.rcv with
    feedWait := none, holdfeed := reply.getD s.rcv.holdfeed,
    feed := if distinct then 1 else if reply.isSome then 2 else 3 } }
  if distinct then s1.pairWith f 1
  else match s1.rcv.policy.toNat with
    | 1 => (s1.sameFeed f .recoverable).pairWith f 2
    | 2 => (s1.sameFeed f .recoverable).pairWith f 3
    | _ => s1.sameFeed f (if f.bySet then .recoverable else .jobFatal)

/-- The oldest token of the buddy queue, when its type is one of these; it is consumed (R315). -/
def State.takeBuddy (s : State) (mine : Nat → Bool) : Option (EngineTok × State) :=
  match s.rcv.tokens with
  | t :: _ => if mine (bits t.payload 31 28) && !s.evr.fallow then some (t, s.engineTake t) else none
  | [] => none

/-- FEEDQUERY: answered with a FEEDREPLY to the querying node; a token of no known type is discarded with a notice (R315). -/
def execFeedquery (s : State) : Host.Outcome State Fault Refusal :=
  match s.takeBuddy fun t => t ≠ 2 && t ≠ 3 with
  | none => .next s
  | some (t, s1) =>
    if bits t.payload 31 28 ≠ 1 then .next (s1.noticeFrom srcEngine 0x0C t.src.toNat [])
    else
      let node := BitVec.ofNat 12 (bits t.payload 11 0)
      let list := Pairing.ofBytes s1.listBytes
      let p := (s1.rcv.feedWait.map (·.pairing) <|> s1.rcv.pairing).getD list
      if (s1.routeOf node).isNone then .next s1 else .next (s1.sendBuddy 2 node p)

/-- FEEDREPLY: settles a feed check that waits (R314). -/
def execFeedreply (s : State) : Host.Outcome State Fault Refusal :=
  match s.takeBuddy fun t => t = 2 with
  | none => .next s
  | some (t, s1) =>
    match s1.rcv.feedWait with
    | none => .next s1
    | some f => .next (s1.settleFeed f (some (BitVec.ofNat 4 (bits t.payload 27 24))))

/-- FEED_CHECK_TIMEOUT: no reply within DEFAULTUS (R314). -/
def execFeedCheckTimeout (s : State) : Host.Outcome State Fault Refusal :=
  match s.rcv.feedWait with
  | none => .next s
  | some f =>
    if s.evr.fallow || s.rcv.feedAge < s.smod.defaultus.toNat * 1000 then .next s else .next (s.settleFeed f none)

/-! ### The state and its digest (R312) -/

/-- The ranges of the state in order; the FLT's own bytes come first, and `pad` zero bytes after them. -/
def State.stateRanges (s : State) (ext : List (Nat × Nat)) : List (Nat × Nat × Nat) :=
  (match s.fltBase with
   | some a => let n := 64 + 32 * s.fltEntries; [(a, n, s.fltState - n)]
   | none => []) ++ ext.map fun x => (x.1, x.2, 0)

/-- The bytes of the state, or none where a block cannot be delivered (R204, R312). -/
def State.readState (s : State) (ext : List (Nat × Nat)) : Option (List Byte) × State :=
  (s.stateRanges ext).foldl (fun (acc : Option (List Byte) × State) x =>
    match acc.1 with
    | none => acc
    | some l =>
      match acc.2.readRange .kufort x.1 x.2.1 with
      | (.ok b, s1) => (some (l ++ b ++ zeros x.2.2), s1)
      | (.error _, s1) => (none, s1)) (some [], s)

/-! ### Copies (R316, R317) -/

/-- The slot that a copy at a row takes: not the one that holds the latest complete copy of an earlier row; where neither
holds one, the slots alternate from slot 0 (R316). -/
def State.copySlot (s : State) (h : PlanHdr) : Nat :=
  let row := s.job.row
  let r : Fin 2 → Nat := fun k => match s.rcv.slots.get k with
    | some x => if x < row then x.toNat + 1 else 0
    | none => 0
  if r 0 = 0 ∧ r 1 = 0 then ((row.toNat - h.rowfirst.toNat + 1) / h.buddyint - 1) % 2 else if r 0 < r 1 then 0 else 1

/-- Writes a block of the copy's traffic: one data write per granule (R252, R316). -/
def State.sendBlock (s : State) (node : BitVec 12) (ch : BitVec 8) (ann : Option (DieIx × BitVec 16)) (a : Nat) (b : List Byte) :
    State :=
  (granulePieces (b.length / 256 + 2) a b.length).foldl (fun s x =>
    (s.sendData node ch x.1 ann ((b.drop (x.1 - a)).take x.2)).2) s

/-- The 128 bytes of a copy header (R316). -/
def State.copyHeader (s : State) (c : CopyRun) (h : PlanHdr) (extents : Nat) : List Byte :=
  let b := bytesOfWords [
      0x42435059#32, w32 (s.kuf.node.toNat * 2 ^ 20 + s.rcv.ownfeed.toNat * 2 ^ 16 + 1), w32 c.row.toNat,
      w32 (s.fb.extra.toNat * 2 ^ 16 + c.row.toNat / 2 ^ 32), w32 c.bytes, w32 (extents * 2 ^ 16 + c.bytes / 2 ^ 32),
      w32 h.planid.toNat, w32 (h.planid.toNat / 2 ^ 32)] ++ bytesOfNat 48 c.digest.toNat ++ zeros 0x28
  let k := crc32 b
  b ++ bytesOfWords [k, ~~~k]

/-- Every message of the pair to the holder is acknowledged (R247). -/
def State.pairQuiet (s : State) (node : BitVec 12) (ch : BitVec 8) : Bool :=
  match s.txPair node ch with
  | some x => x.buffer.isEmpty
  | none => true

/-- A copy can begin: the row is done but for it (R271, R316). -/
def State.copyReady (s : State) (h : PlanHdr) : Bool :=
  s.job.state = .running && !s.evr.fallow && h.copyDue s.job.row && !s.rcv.copied && s.rcv.copy.isNone && s.plotsDone && s.allocated

/-- BUDDY_COPY: the due copy's extent entries and state go to the holder's slot; under host checkpoints the row makes a halt
request and records the digest (R316, R317). -/
def execBuddyCopy (s : State) : Host.Outcome State Fault Refusal :=
  match s.job.hdr, s.rcv.pairing with
  | some h, some p =>
    if !s.copyReady h then .next s
    else
      let (st, s1) := s.readState p.extents
      match st with
      | none => .next s1
      | some b =>
        let digest := digest384 b
        match s.rcv.mode.toNat with
        | 3 =>
          .next { s1 with rcv := { s1.rcv with checkpoint := true, copied := true, statedig := digest, copyrow := some s.job.row } }
        | 1 =>
          let k := s1.copySlot h
          let a := p.dst + k * p.slotbytes
          let entries := (s1.listBytes).drop 0x100
          let s2 := { s1 with rcv := { s1.rcv with
            copy := some { row := s1.job.row, slot := k, digest := digest, bytes := b.length, hdrSent := false } } }
          .next ((s2.sendBlock p.holder p.channel none (a + 0x100) entries).sendBlock p.holder p.channel none (a + 0x4100) b)
        | _ => .next s
  | _, _ => .next s

/-- BUDDY_COPY_HEADER: with every write acknowledged, the header is written; with that acknowledged, the copy is complete
(R316). -/
def execBuddyCopyHeader (s : State) : Host.Outcome State Fault Refusal :=
  match s.rcv.copy, s.job.hdr, s.rcv.pairing with
  | some c, some h, some p =>
    if s.evr.fallow || !s.pairQuiet p.holder p.channel then .next s
    else if c.hdrSent then
      .next { s with rcv := { s.rcv with copy := none, copied := true, copyrow := some c.row, statedig := c.digest,
                                         slots := s.rcv.slots.set (c.slot % 2) (some c.row) } }
    else
      let s1 := { s with rcv := { s.rcv with copy := some { c with hdrSent := true } } }
      .next (s1.sendBlock p.holder p.channel none (p.dst + c.slot * p.slotbytes) (s.copyHeader c h p.extents.length))
  | _, _, _ => .next s

/-! ### Returns (R318, R319) -/

/-- A copy header is complete: MAGIC, CRC and CRCC match (R316). -/
def headerOk (b : List Byte) : Bool :=
  wordAt b 0 = 0x42435059#32 && wordAt b 0x78 = crc32 (b.take 0x78) && wordAt b 0x7C = ~~~(wordAt b 0x78)

/-- The owner and the row of a copy header. -/
def headerOwner (b : List Byte) : Nat := bits (wordAt b 4) 31 20
def headerRow (b : List Byte) : Nat := (wordAt b 8).toNat + bits (wordAt b 0xC) 15 0 * 2 ^ 32

/-- The slot of the holding area at PLT_RETBASE with a complete copy of an owner at row RESTARTROW - 1 (R318). -/
def State.heldSlot (s : State) (owner : BitVec 12) : Option Nat :=
  let size := ((s.rcv.pairing).getD (Pairing.ofBytes s.listBytes)).slotbytes
  ([0, 1] : List Nat).map (fun k => s.rcv.retbase.toNat + k * size) |>.find? fun a =>
    let b := s.memBytes a 128
    headerOk b && headerOwner b = owner.toNat && headerRow b + 1 = s.rcv.restartrow.toNat

/-- An accepted RETURN: the slot is found, or RESULT says that there is none (R318). -/
def State.beginReturn (s : State) (owner target : BitVec 12) : State :=
  let s1 := { s with rcv := { s.rcv with owner := owner, target := target } }
  match s1.heldSlot owner with
  | none => { s1 with rcv := { s1.rcv with result := 2 } }
  | some a =>
    let ch := ((s.rcv.pairing).getD (Pairing.ofBytes s.listBytes)).channel
    { s1 with rcv := { s1.rcv with ret := some { target := target, channel := ch, slotAddr := a, sent := false } } }

/-- Ends a return with a RESULT. -/
def State.endReturn (s : State) (r : BitVec 2) : State := { s with rcv := { s.rcv with ret := none, result := r } }

/-- RETURN_PROGRESS: the header and the state go to the target as announced writes, then RETURNDONE; once they are
acknowledged the return is done. A target without a route ends it (R318). -/
def execReturnProgress (s : State) : Host.Outcome State Fault Refusal :=
  match s.rcv.ret with
  | none => .next s
  | some r =>
    if s.evr.fallow then .next s
    else if (s.routeOf r.target).isNone then .next (s.endReturn 2)
    else if r.sent then (if s.pairQuiet r.target r.channel then .next (s.endReturn 1) else .next s)
    else
      let p := (s.rcv.pairing).getD (Pairing.ofBytes s.listBytes)
      let die := dieOfQueue p.bqueue
      let head := s.memBytes r.slotAddr 128
      let bytes := long48 head 0x10
      let ext := extentsOf (s.memBytes (r.slotAddr + 0x100) (16 * bits (wordAt head 0x14) 31 16)) 0 (bits (wordAt head 0x14) 31 16)
      let flt := match s.job.hdr with
        | some h => h.flt
        | none => long48 s.headerBytes 0x24
      let parts := (if flt = 0 then [] else [(flt, bytes - (ext.map (·.2)).sum)]) ++ ext
      let (t, s1) := s.takeTseq r.target r.channel die
      let ann := some (die, t)
      let s2 := s1.sendBlock r.target r.channel ann (s.rcv.buddylist.toNat + 0x80) head
      let (s3, _) := parts.foldl (fun (acc : State × Nat) x =>
        match acc.1.readRange .kufort (r.slotAddr + 0x4100 + acc.2) x.2 with
        | (.ok b, s') => (s'.sendBlock r.target r.channel ann x.1 b, acc.2 + x.2)
        | (.error _, s') => (s'.endReturn 2, acc.2 + x.2)) (s2, 0)
      match s3.rcv.ret with
      | none => .next s3
      | some _ =>
        let (_, s4) := s3.sendTokenSeq r.target r.channel p.bqueue (w32 (3 * 2 ^ 28 + s.kuf.node.toNat)) (128 + bytes) t
        .next { s4 with rcv := { s4.rcv with ret := some { r with sent := true } } }

/-- The first check of R319 that a return fails, numbered from 1 in the order of the rule. -/
def State.returnBad (s : State) (head : List Byte) (row : Row) (digest : Option (BitVec 384)) : Option Nat :=
  let replica := match s.rcv.pairing with
    | some p => p.replica
    | none => none
  let owner := headerOwner head
  if !(wordAt head 0x78 = crc32 (head.take 0x78) && wordAt head 0x7C = ~~~(wordAt head 0x78)) then some 1
  else if !(owner = s.kuf.node.toNat || some owner = replica.map (·.toNat)) then some 2
  else if (wordAt head 0x18).toNat + (wordAt head 0x1C).toNat * 2 ^ 32 ≠ s.planid then some 3
  else if headerRow head + 1 ≠ row.toNat then some 4
  else if digest ≠ some (BitVec.ofNat 384 (natOfBytes ((head.drop 0x20).take 48))) then some 5
  else none

/-- RETURNDONE: the target verifies the return, and its restart goes on or fails; one that no restart waits for is discarded
with a notice (R319). -/
def execReturndone (s : State) : Host.Outcome State Fault Refusal :=
  match s.takeBuddy fun t => t = 3 with
  | none => .next s
  | some (t, s1) =>
    match s1.rcv.waitReturn with
    | none => .next (s1.noticeFrom srcEngine 0x0C 0 [])
    | some row =>
      let head := s1.memBytes (s1.rcv.buddylist.toNat + 0x80) 128
      let ext := match s1.rcv.pairing with
        | some p => p.extents
        | none => []
      let (st, s2) := s1.readState ext
      let digest := st.map digest384
      match s2.returnBad head row digest, digest with
      | none, some d =>
        .next ({ s2 with
          fb := { s2.fb with extra := BitVec.ofNat 16 (bits (wordAt head 0xC) 31 16) }
          rcv := { s2.rcv with verify := 1, statedig := d, waitReturn := none } }.beginRows row true)
      | bad, _ =>
        let s3 := { s2 with rcv := { s2.rcv with verify := 2, waitReturn := none } }
        .next (s3.startFatal 0x0602 (s3.kuf.node.toNat + bits t.payload 11 0 * 2 ^ 32) [bad.getD 5])

/-! ### Starting and restarting (R176, R310) -/

/-- After the checks and the route table: R268, R269, the buddy list and the feed check, then the rows (R310, R313, R314). -/
def State.pairForStart (s : State) (h : PlanHdr) (row : Row) (restart restore : Bool) : State :=
  if h.modules ≤ s.kuf.node.toNat then s.startFatal 0x0503 s.kuf.node.toNat [h.modules]
  else if 4093 < h.stepqueue.toNat % 4096 then s.startFatal 0x0202 (objQueue h.stepqueue.toNat) []
  else if h.buddyint = 0 then
    if restore then s.startFatal 0x0602 row.toNat [] else s.beginRows row restart
  else
    match s.listBad h with
    | some o => s.startFatal 0x0602 s.rcv.buddylist.toNat [o]
    | none => s.beginPairing { pairing := Pairing.ofBytes s.listBytes, bySet := false, restart := restart, row := row,
                                     restore := restore }

/-- The checks of R176 and the route table (R257). -/
def State.runChecks (s : State) (restart : Option (Row × Bool)) : State :=
  match s.loadCheck restart.isSome with
  | some (n, obj) => s.loadFail n obj
  | none =>
    let h := PlanHdr.ofBytes s.headerBytes
    let act := allPlots.filter fun p => (s.plotEntry p).2.2.2
    let s1 := { s with job := { s.job with hdr := some h, active := act }
                       sbd := { s.sbd with planDigest := digest384 s.headerBytes } }
    match s1.readRoutes h.route with
    | .error o => { s1 with job := { s1.job with loaderr := 7 }, kuf := { s1.kuf with route := none } }.startFatal 0x0206 h.route [o]
    | .ok t =>
      let s2 := { s1 with kuf := { s1.kuf with route := some t } }.identityRequests
      match restart with
      | none => s2.pairForStart h h.rowfirst false false
      | some (row, restore) => s2.pairForStart h row true restore

/-- An accepted START (R115, R176). While DRAM is being initialised the checks wait (R197). -/
def State.startPlan (s : State) : State :=
  let s1 := { s with fb := { s.fb with extra := 0 }, rcv := { s.rcv with slotKey := none } }.clearPlan
  if s1.mem.layState = 1 then s1 else s1.runChecks none

/-- An accepted restart (R310, R324). -/
def State.restartPlan (s : State) (restore : Bool) : State :=
  let s1 := { s with rcv := { s.rcv with restore := restore, need := 0 } }.clearPlan
  if s1.mem.layState = 1 then { s1 with rcv := { s1.rcv with waitReturn := some s1.rcv.restartrow } }
  else s1.runChecks (some (s1.rcv.restartrow, restore))

/-- RESTARTROW lies from ROWFIRST to ROWLAST of the image at PLT_PLANBASE (R310). -/
def State.restartRowOk (s : State) : Bool :=
  let h := PlanHdr.ofBytes s.headerBytes
  decide (h.rowfirst.toNat ≤ s.rcv.restartrow.toNat) && decide (s.rcv.restartrow.toNat ≤ h.rowlast.toNat)

/-- An accepted SET: the list is checked and the pairing begins; a list that fails leaves the pairing in force and a notice
(R313, R314). A plan without a buddy interval has no pairing to set. -/
def State.setPairing (s : State) : State :=
  match s.job.hdr with
  | none => s
  | some h =>
    if h.buddyint = 0 then s
    else
      match s.listBad h with
      | some _ => s.noticeFrom srcEngine 0x0C 0 []
      | none => s.beginPairing { pairing := Pairing.ofBytes s.listBytes, bySet := true, restart := false, row := s.job.row,
                                    restore := false }

/-- ABORT: a job-fatal error on every plot that runs the plan (R181). -/
def State.abortPlan (s : State) : State :=
  s.forEach (s.job.active.filter fun p => decide (p ∉ s.job.ended)) fun s p => s.fatal p (s.plot p).pos 0x0207 0 []

/-- The initialisation of DRAM ends: every granule holds zeros with valid codes, and a start that has waited is checked
(R197). -/
def State.layoutInitDone (s : State) : State :=
  if s.mem.layState ≠ 1 then s
  else
    let s1 := { s with mem := { s.mem with
      layState := 0, layReason := 0
      cells := clearCells s.mem.cells 0 0x020000000000, bad := s.mem.bad.filter fun x => decide (0x020000000000 ≤ x.1) } }
    if s1.job.state = .checking && s1.job.hdr.isNone then
      match s1.rcv.waitReturn with
      | none => s1.runChecks none
      | some row => { s1 with rcv := { s1.rcv with waitReturn := none } }.runChecks (some (row, s1.rcv.restore))
    else s1

end Sys2Proof.Machine
end

