-- ==== Sys2Proof/Machine/Ecdsa.lean ====
section
/-! DEFINITION. Checking an ECDSA signature on curve P-384 (R385, with the constants of FIPS 186-5: log entry 24), in plain
affine arithmetic. -/

namespace Sys2Proof.Machine

/-- The field's prime. -/
def p384P : Nat := 2 ^ 384 - 2 ^ 128 - 2 ^ 96 + 2 ^ 32 - 1

/-- The curve's constant b; its constant a is -3. -/
def p384B : Nat :=
  0xb3312fa7e23ee7e4988e056be3f82d19181d9c6efe8141120314088f5013875ac656398d8a2ed19d2a85c8edd3ec2aef

/-- The order of the base point. -/
def p384N : Nat :=
  0xffffffffffffffffffffffffffffffffffffffffffffffffc7634d81f4372ddf581a0db248b0a77aecec196accc52973

/-- A point of the curve: affine coordinates, `none` at infinity. -/
abbrev Point := Option (Nat × Nat)

/-- The base point. -/
def p384G : Point :=
  some (0xaa87ca22be8b05378eb1c71ef320ad746e1d3b628ba79b9859f741e082542a385502f25dbf55296c3a545e3872760ab7,
    0x3617de4a96262c6f5d9e98bf9292dc29f8f41dbd289a147ce9da3113b5f0b8c00a60b1ce1d7e819d7a431d7c90ea0e5f)

/-- x to the power e mod m, over the n low bits of e. -/
def powMod (m : Nat) : Nat → Nat → Nat → Nat
  | 0, _, _ => 1 % m
  | n + 1, x, e =>
    let r := powMod m n (x * x % m) (e / 2)
    if e % 2 = 1 then r * x % m else r

/-- The inverse of x modulo a prime m. -/
def invMod (m x : Nat) : Nat := powMod m 384 (x % m) (m - 2)

/-- Subtraction modulo m. -/
def subMod (m x y : Nat) : Nat := (x % m + m - y % m) % m

/-- The third point of a line of slope k through two points. -/
def chord (k x1 y1 x2 : Nat) : Nat × Nat :=
  let x3 := subMod p384P (k * k) (x1 + x2)
  (x3, subMod p384P (k * subMod p384P x1 x3) y1)

/-- Doubles a point. -/
def Point.double : Point → Point
  | none => none
  | some (x, y) =>
    if y = 0 then none
    else some (chord (subMod p384P (3 * x * x) 3 * invMod p384P (2 * y) % p384P) x y x)

/-- Adds two points. -/
def Point.plus : Point → Point → Point
  | none, q => q
  | p, none => p
  | some (x1, y1), some (x2, y2) =>
    if x1 = x2 then (if y1 = y2 then Point.double (some (x1, y1)) else none)
    else some (chord (subMod p384P y2 y1 * invMod p384P (subMod p384P x2 x1) % p384P) x1 y1 x2)

/-- k times a point, over the n low bits of k. -/
def Point.times : Nat → Nat → Point → Point
  | 0, _, _ => none
  | n + 1, k, q =>
    let r := Point.times n (k / 2) q.double
    if k % 2 = 1 then r.plus q else r

/-- A public key is a point of the curve. -/
def onCurve (x y : Nat) : Bool :=
  decide (x < p384P) && decide (y < p384P) && y * y % p384P = (x * x * x + (p384P - 3) * x + p384B) % p384P

/-- A signature (r, s) over a digest is valid under a public key (FIPS 186-5). -/
def ecdsaOk (x y r s digest : Nat) : Bool :=
  let w := invMod p384N s
  onCurve x y && decide (1 ≤ r) && decide (r < p384N) && decide (1 ≤ s) && decide (s < p384N)
    && (match (Point.times 384 (digest * w % p384N) p384G).plus (Point.times 384 (r * w % p384N) (some (x, y))) with
        | some (x1, _) => x1 % p384N = r
        | none => false)

end Sys2Proof.Machine
end

