-- ==== Sys2Proof/Machine/Power.lean ====
section
/-! DEFINITION. Clocks and power (chapter 14): operating points, the power controller's period, frequency changes, the energy
model, and the pins of the supply and of POWER_ENVELOPE (chapter 19). -/

namespace Sys2Proof.Machine

/-! ### Voltage and codes (R330-R332) -/

/-- The voltage of a code on a curve, in 5 mV, rounded up (R330). -/
def voltageOf : List (Nat × Nat) → Nat → Nat
  | (f0, v0) :: (f1, v1) :: r, f =>
    if f ≤ f1 then (if f ≤ f0 then v0 else v0 + ((v1 - v0) * (f - f0) + (f1 - f0) - 1) / Nat.max (f1 - f0) 1)
    else voltageOf ((f1, v1) :: r) f
  | [(_, v)], _ => v
  | [], _ => 0

/-- Strips of a die. -/
def stripsOf (d : DieIx) : List StripIx := allStrips.filter fun i => dieOfStrip i = d

/-- The code that a strip's rail must carry now: the higher of its code in force and of a rise in progress. -/
def Strip.railCode (x : Strip) : Nat :=
  match x.changing with
  | some n => Nat.max x.eff.toNat n.toNat
  | none => x.eff.toNat

/-- The voltage that a die's rail shall have (R331, R333). -/
def State.railTarget (s : State) (d : DieIx) : Nat :=
  let f := (stripsOf d).foldl (fun m i => Nat.max m (s.strip i).railCode) 32
  voltageOf (s.sbd.calib.curves.get d) f

/-- A strip's target (R332). -/
def State.targetCode (s : State) (i : StripIx) : Nat :=
  (if s.pwr.tmode then (s.strip i).freq else s.pwr.tfreq).toNat

/-- A level below the floor is a duty at the floor: 31 is 15 sixteenths, 17 is one (R332, R337). -/
def dutyOf (level : Nat) : Nat := if level < 32 then level - 16 else 16

/-- The envelope budget in use; none while the pin is ignored or has given no reading (R336). -/
def Pwr.budget (p : Pwr) : Option Nat :=
  if !bit p.cfg 31 then none
  else if p.envfail then some (bits p.cfg 11 0)
  else p.env.map BitVec.toNat

/-- Peak and sustained bounds in force (R335, R336). -/
def Pwr.peakBound (p : Pwr) : Nat :=
  match p.budget with
  | some e => Nat.min (bits p.cap 11 0) e
  | none => bits p.cap 11 0
def Pwr.sustBound (p : Pwr) : Nat :=
  match p.budget with
  | some e => Nat.min (bits p.cap 27 16) e
  | none => bits p.cap 27 16

/-- The limits on a strip's code, each with its LIMIT code (R332, R348). -/
def State.limits (s : State) (i : StripIx) : List (Nat × Nat) :=
  let x := s.strip i
  let env := match s.pwr.budget with
    | some e => decide (e < bits s.pwr.cap 27 16) || decide (e < bits s.pwr.cap 11 0)
    | none => false
  [(s.targetCode i, 0), (x.capfreq.toNat, 1),
    (if s.pwr.level.toNat = 32 then s.pwr.powerDuty.toNat + 16 else s.pwr.level.toNat, if env then 3 else 2),
    (x.thermal.toNat, 4), ((s.pwr.pkglevel.get (dieOfStrip i)).toNat, 5)]
    ++ (if s.job.slowNow && s.job.complete then [(32, 6)] else [])

/-- The lowest limit; of equal ones the first in the order of their codes (log entry 20). -/
def lowestLimit : List (Nat × Nat) → Nat × Nat
  | [] => (120, 0)
  | [x] => x
  | x :: y :: r => if y.1 < x.1 then lowestLimit (y :: r) else lowestLimit (x :: r)

/-- Decides a strip's code and duty from its limits; the duty acts at once, the code by a change (R332-R334). -/
def State.decideCode (s : State) (i : StripIx) : State :=
  let (l, why) := lowestLimit (s.limits i)
  s.modStrip i fun x =>
    { x with decided := BitVec.ofNat 7 (Nat.max l 32), duty := BitVec.ofNat 5 (dutyOf l), limit := BitVec.ofNat 3 why }

/-! ### The energy model (R342, R343) -/

/-- A term on a rail of v units of 5 mV, in 0.25 pJ: the die rail scales with (V / 0.62 V)². -/
def railTerm (kind v n c : Nat) : Nat := if kind ≤ 11 then n * c * v * v / (124 * 124) else n * c

/-- An amount behind the regulators (R342): η is ETA / 1,024. -/
def Calib.input (k : Calib) (e : Nat) : Nat := e * 1024 / Nat.max k.eta 1

/-- Attributes energy in 0.25 pJ to a plot's position: the row's table (R369) and counter 0x16 (R428). -/
def State.attribute (s : State) (p : PlotIx) (layer oper : Id16) (e : Nat) : State :=
  let l := s.evr.rowEnergy.map fun x => ((x.1, x.2.1, x.2.2.1), x.2.2.2)
  let l' : List ((Half × Id16 × Id16) × Nat) := addTo l (halfOfDie (dieOfPlot p), layer, oper) e
  let s1 : State := { s with evr := { s.evr with rowEnergy := l'.map fun x => (x.1.1, x.1.2.1, x.1.2.2, x.2) } }
  s1.count p { row := s.job.row, layer := layer, oper := oper, passno := 0 } 0x16 (e / 4000)

/-- The event terms of an interval (R342, R343). -/
def State.eventEnergy (s : State) : Nat × State :=
  let k := s.sbd.calib
  (s.pwr.events.foldl (fun (acc : Nat × State) x =>
    let d := dieOfPlot x.1
    let c := (k.coef.get d).toList.getD x.2.2.2.1 0
    let e := k.input (railTerm x.2.2.2.1 (s.pwr.rails.get d).toNat x.2.2.2.2 c)
    (acc.1 + e, acc.2.attribute x.1 x.2.1 x.2.2.1 e)) (0, s))

/-- The cycle, leakage and tilling terms of a strip in an interval of 10 us, in eighths to its plots (R342, R343). -/
def State.stripEnergy (s : State) (i : StripIx) : Nat × State :=
  let k := s.sbd.calib
  let d := dieOfStrip i
  let x := s.strip i
  let v := (s.pwr.rails.get d).toNat
  let cycles := if x.stopped then 0 else 250 * x.eff.toNat * x.duty.toNat / 16
  let clock := railTerm 11 v cycles ((k.coef.get d).toList.getD 11 0)
  let leak := 2000 * v * k.i85.get i * Config.leakFactor (x.temp - 850) (k.ddouble.get d) / 65536
  let eighth := k.input ((clock + leak) / 8)
  (List.range 8).foldl (fun (acc : Nat × State) n =>
    let p : PlotIx := Fin.ofNat 640 (8 * i.val + n)
    let q := acc.2.plot p
    let till := if q.seq.waiting && q.stream.isNone then
        k.input (railTerm 7 v (cycles * q.tilling / 16) ((k.coef.get d).toList.getD 7 0)) else 0
    (acc.1 + eighth + till, acc.2.attribute p q.seq.layer q.seq.oper (eighth + till))) (0, s)

/-- The model's energy of an interval, attributed (R342, R343). -/
def State.energyInterval (s : State) : State :=
  let (e1, s1) := s.eventEnergy
  let (e2, s2) := allStrips.foldl (fun (acc : Nat × State) i =>
    let (e, s') := acc.2.stripEnergy i
    (acc.1 + e, s')) (0, s1)
  let fix := s.sbd.calib.input (4000000 * s.sbd.calib.pfix)
  let l := s2.evr.rowEnergy.map fun x => ((x.1, x.2.1, x.2.2.1), x.2.2.2)
  let l' : List ((Half × Id16 × Id16) × Nat) := addTo l (s.lead, 0xFFFF#16, 0xFFFF#16) fix
  { s2 with
    evr := { s2.evr with rowEnergy := l'.map fun x => (x.1.1, x.1.2.1, x.1.2.2, x.2) }
    pwr := { s2.pwr with events := [], modelSum := s2.pwr.modelSum + e1 + e2 + fix } }

/-! ### The control period (R335-R338) -/

/-- A reading of the input sensor in W, corrected by SGAIN and SOFF and rounded down (R395, log entry 20). -/
def Calib.sensor (k : Calib) (w : Nat) : Nat :=
  (((w : Int) * (65536 + k.sgain) * 10 + k.soff * 65536) / 655360).toNat

/-- The mean of readings, rounded down. -/
def mean (l : List Nat) : Nat := l.sum / Nat.max l.length 1

/-- A strip's temperature and its thermal level after a reading (R337). -/
def Strip.thermalStep (x : Strip) (target : Nat) (t : Int) : Strip :=
  let age := x.thermAge + 1
  if (target : Int) * 10 ≤ t && decide (10 ≤ age) && decide (17 < x.thermal.toNat) then
    { x with temp := t, thermal := x.thermal - 1, thermAge := 0 }
  else if t ≤ (target : Int) * 10 - 30 && decide (100 ≤ age) && decide (x.thermal.toNat < 120) then
    { x with temp := t, thermal := x.thermal + 1, thermAge := 0 }
  else { x with temp := t, thermAge := age }

/-- A die's package level after a period (R338). -/
def State.packageStep (s : State) (d : DieIx) : State :=
  let ts := (List.range 3).map fun i => (s.pkg (Fin.ofNat 24 (3 * d.val + i))).reading
  let hot := ts.any fun t => match t with | some t => decide (1050 ≤ t) | none => false
  let cool := ts.all fun t => match t with | some t => decide (t ≤ 1020) | none => false
  let age := s.pwr.pkgAge.get d + 1
  let lv := s.pwr.pkglevel.get d
  let put := fun (l : BitVec 7) (a : Nat) =>
    { s with pwr := { s.pwr with pkglevel := s.pwr.pkglevel.set d.val l, pkgAge := s.pwr.pkgAge.set d.val a } }
  if hot && decide (100 ≤ age) && decide (17 < lv.toNat) then put (lv - 1) 0
  else if cool && decide (1000 ≤ age) && decide (lv.toNat < 120) then put (lv + 1) 0
  else put lv age

/-- The level L that the controller sets to keep its limits. R332 to R336 state the limits and no rule for L, so it is a free
value from 32 to 120, with a free duty at the floor, and so is the limit that is said to set it (log entry 1). -/
def State.setLevel (s : State) : State :=
  let (v, s1) := s.free
  let l := 32 + v % 89
  { s1 with pwr := { s1.pwr with
      level := BitVec.ofNat 7 l
      powerDuty := BitVec.ofNat 5 (if l = 32 then 1 + v / 89 % 16 else 16)
      peaklim := decide (l < 120) && decide (v / 1424 % 2 = 1)
      sustlim := decide (l < 120) && decide (v / 2848 % 2 = 1) } }

/-- The envelope cannot be met: every strip stands at the floor with duty 1 and the reading is above the bound (R336). -/
def State.checkUnmet (s : State) (w : Nat) : State :=
  match s.pwr.budget with
  | none => { s with pwr := { s.pwr with envunmet := false } }
  | some e =>
    let floor := s.pwr.strips.toList.all fun x => x.eff = 32 && x.duty = 1
    let bad := floor && decide (e < w)
    let s1 := { s with pwr := { s.pwr with envunmet := bad } }
    if bad && !s.pwr.envunmet then s1.noticeFrom srcPower 0x06 (e + w * 2 ^ 32) [] else s1

/-- The strips' temperatures as read, before the power controller runs (R380 step 9). -/
def State.readTemps (s : State) (r : PowerReadings) : State :=
  s.forEach r.strips fun s x =>
    let i : StripIx := Fin.ofNat 80 x.1
    s.modStrip i fun y => { y with temp := x.2 + s.sbd.calib.toff.get i }

/-- POWER_CONTROL_PERIOD: the period of 10 us of the power controller (R335-R338, R342, R343). From step 9 of start-up the
strips' sensors are read; the controller runs from ready. -/
def execPowerControlPeriod (r : PowerReadings) (s : State) : Host.Outcome State Fault Refusal :=
  if s.evr.fallow || !s.pwr.railsOn then .next s
  else if s.sbd.state ≠ .ready then .next (if 9 ≤ s.sbd.step.toNat then s.readTemps r else s)
  else
    let w := s.sbd.calib.sensor r.inputW
    let hist := (w :: s.pwr.history).take 100000
    let win := mean (hist.take 100)
    let win16 := BitVec.ofNat 16 win
    let s1 := { s with pwr := { s.pwr with
      history := hist, win := win16, sust := BitVec.ofNat 16 (mean hist),
      maxwin := if s.pwr.maxwin < win16 then win16 else s.pwr.maxwin,
      sensorSum := s.pwr.sensorSum + w, periods := s.pwr.periods + 1 } }
    let tgt := bits s.pwr.cfg 30 24
    let s2 := s1.forEach r.strips fun s x =>
      let i : StripIx := Fin.ofNat 80 x.1
      s.modStrip i fun y => y.thermalStep tgt (x.2 + s.sbd.calib.toff.get i)
    let s3 := (s2.forEach allDies fun s d => s.packageStep d).setLevel
    let s4 := s3.forEach allStrips fun s i =>
      let s' := (s.decideCode i).modStrip i fun x => { x with changeAge := x.changeAge + 1 }
      if (s'.strip i).eff.toNat < s'.targetCode i then s'.rowAdd 3 i.val 10 else s'
    .next ((s4.checkUnmet w).energyInterval)

/-- MODEL_DEVIATION_CHECK: over 1 s, the model's mean power against the sensor's (R344). -/
def execModelDeviationCheck (s : State) : Host.Outcome State Fault Refusal :=
  if s.pwr.periods < 100000 || s.evr.fallow then .next s
  else
    let m := s.pwr.modelSum / (s.pwr.periods * 40000000)
    let w := s.pwr.sensorSum / s.pwr.periods
    let s1 := { s with pwr := { s.pwr with modelw := BitVec.ofNat 16 m, sensew := BitVec.ofNat 16 w, modelSum := 0,
                                           sensorSum := 0, periods := 0 } }
    let diff := if m < w then w - m else m - w
    if bits s.pwr.cfg 23 16 * w < 100 * diff then .next (s1.noticeFrom srcPower 0x07 (m % 2 ^ 16 * 2 ^ 16 + w % 2 ^ 16) []) else .next s1

/-! ### Frequency changes (R333, R334) -/

/-- Counts an event of a strip at its plots, tagged as R343 tags a strip's cycles. -/
def State.countStrip (s : State) (i : StripIx) (ev n : Nat) : State :=
  s.forEach (List.range 8) fun s k =>
    let p : PlotIx := Fin.ofNat 640 (8 * i.val + k)
    s.count p (s.plot p).pos ev n

/-- FREQUENCY_CHANGE_START: a decided code leads to a change; a lower code, or one that the rail already carries, stops the
strip at once (R333, R334). -/
def execFrequencyChangeStart (i : StripIx) (s : State) : Host.Outcome State Fault Refusal :=
  let x := s.strip i
  let soon := x.changeAge < 2 && !(x.decided.toNat < x.eff.toNat && s.pwr.peaklim)
  if x.decided = x.eff || x.changing.isSome || soon || s.evr.fallow || !s.pwr.railsOn then .next s
  else
    let d := dieOfStrip i
    let up := decide (x.eff.toNat < x.decided.toNat)
      && decide ((s.pwr.rails.get d).toNat < voltageOf (s.sbd.calib.curves.get d) x.decided.toNat)
    .next ((s.modStrip i fun x => { x with changing := some x.decided, stopped := !up, changeAge := 0 }).countStrip i 0x10 1)

/-- RAIL_SLEW_DONE: the die rail has the voltage that R331 gives; a strip that waited for a rise stops now (R333). -/
def execRailSlewDone (d : DieIx) (s : State) : Host.Outcome State Fault Refusal :=
  if s.evr.fallow || !s.pwr.railsOn then .next s
  else
    let s1 := { s with pwr := { s.pwr with rails := s.pwr.rails.set d.val (BitVec.ofNat 8 (s.railTarget d)) } }
    .next (s1.forEach (stripsOf d) fun s i =>
      s.modStrip i fun x => if x.changing.isSome then { x with stopped := true } else x)

/-- STRIP_RESTART: 256 cycles of the new code after its stop, the strip runs on at it (R333). -/
def execStripRestart (i : StripIx) (s : State) : Host.Outcome State Fault Refusal :=
  let x := s.strip i
  match x.changing with
  | none => .next s
  | some n =>
    if !x.stopped || s.evr.fallow then .next s
    else
      let s1 := s.modStrip i fun x => { x with eff := n, changing := none, stopped := false }
      .next (s1.traceDie (dieOfStrip i) 0x08 i.val (x.eff.toNat * 256 + n.toNat))

/-! ### Droop and trips (R325, R339) -/

/-- SUPPLY_DROOP: the supply of a strip sags and some of its cycles are stretched; no result changes (R325, R326). A stopped
strip has no cycle to stretch (R345). -/
def execSupplyDroop (i : StripIx) (cycles : Nat) (s : State) : Host.Outcome State Fault Refusal :=
  if (s.strip i).stopped || s.evr.fallow then .next s
  else .next ((s.rowAdd 2 i.val cycles).countStrip i 0x0E cycles)

/-- CORE_RAIL_LOW: a core rail below 0.45 V for 1 us is module-fatal (R325). -/
def execCoreRailLow (d : DieIx) (s : State) : Host.Outcome State Fault Refusal :=
  if s.evr.fallow then .next s
  else .next (s.raise (halfOfDie d) (s.mkErr 0x0701 .moduleFatal srcPower d.val []))

/-- THERMAL_TRIP: a strip's hardware trip at 115 C: every strip stops, THERM_TRIP_N is driven low, and the error is
module-fatal (R339). The comparators are not shifted by TOFF (R396). A change in progress is abandoned (R345). -/
def execThermalTrip (i : StripIx) (tenths : Int) (s : State) : Host.Outcome State Fault Refusal :=
  if tenths < 1150 then .next s
  else
    let f : Strip → Strip := fun x => { x with stopped := true, changing := none }
    let s1 := { s with pwr := { s.pwr with strips := s.pwr.strips.map f }, pins := { s.pins with thermTripN := false } }
    let s2 := s1.modStrip i fun x => { x with temp := tenths }
    if s.evr.fallow then .next s2
    else .next (s2.raise (halfOfDie (dieOfStrip i)) (s2.mkErr 0x0702 .moduleFatal srcPower i.val [(tenths % 2 ^ 16).toNat]))

/-! ### POWER_ENVELOPE (R336, R455) -/

/-- A sample in W, rounded down (R455). -/
def envWatts (mv : Nat) : Nat := mv * 6 / 5

/-- ENVELOPE_READING: consecutive samples of the pin, in mV. Sixteen valid ones within 25 W of one another pass the filter,
and their mean is the reading; an invalid sample leaves no valid reading (R336, R455). -/
def execEnvelopeReading (millivolts : List Nat) (s : State) : Host.Outcome State Fault Refusal :=
  let ws := (millivolts.drop (millivolts.length - 16)).map envWatts
  let valid := ws.all fun w => decide (600 ≤ w) && decide (w ≤ 3000)
  let hi := ws.foldl Nat.max 0
  let lo := ws.foldl Nat.min 3001
  if !valid then .next { s with pwr := { s.pwr with envvalid := false } }
  else if ws.length = 16 && decide (hi ≤ lo + 25) then
    .next { s with pwr := { s.pwr with env := some (BitVec.ofNat 12 (mean ws)), envvalid := true, envfail := false } }
  else .next s

/-- ENVELOPE_INVALID_TIMEOUT: no valid reading for 100 ms: ENVDEF is used, with a notice (R336). -/
def execEnvelopeInvalidTimeout (s : State) : Host.Outcome State Fault Refusal :=
  if s.pwr.envvalid || s.pwr.envfail || !bit s.pwr.cfg 31 || s.evr.fallow then .next s
  else
    let s1 := { s with pwr := { s.pwr with envfail := true } }
    .next (s1.noticeFrom srcPower 0x06 0 [])

/-! ### Barriers (R340, R341) -/

/-- TILLING_INTENSITY_STEP: the intensity of a plot's tilling load falls by one sixteenth, during a long wait or after its
end; where a sowing slot applies, the fall after the wait starts at the slot (R149, R340). -/
def execTillingIntensityStep (p : PlotIx) (s : State) : Host.Outcome State Fault Refusal :=
  let q := s.plot p
  if q.tilling = 0 || !s.clocked p || (!q.seq.waiting && q.seq.sowing) then .next s
  else .next (s.modPlot p fun q => { q with tilling := q.tilling - 1 })

/-- SOWING_SLOT: the slot of a strip has come: its sequencers may begin their first command after the barrier (R341). -/
def execSowingSlot (i : StripIx) (s : State) : Host.Outcome State Fault Refusal :=
  .next (s.forEach (List.range 8) fun s n =>
    s.modSeq (Fin.ofNat 640 (8 * i.val + n)) fun q => { q with sowing := false })

/-! ### FEED_ID (R454) -/

/-- FEED_ID_CHANGE: FEED_ID has held a value for 10 ms, which the module keeps; a change after a pairing is a notice. -/
def execFeedIdChange (v : BitVec 4) (s : State) : Host.Outcome State Fault Refusal :=
  let old := s.pins.feedid
  let s1 := { s with pins := { s.pins with feedid := v, feedKept := true } }
  if s.rcv.pairing.isSome && v ≠ old && !s.evr.fallow then
    .next (s1.notice 0x09 0 [old.toNat * 16 + v.toNat])
  else .next s1

end Sys2Proof.Machine
end

