-- ==== Sys2Proof/Machine/Regs.lean ====
section
/-! DEFINITION. The registers of BAR0: their places (R409-R411), their access codes (R13), the ranges of their fields, and
what each reads. -/

namespace Sys2Proof.Machine

/-! ### The registers -/

/-- A register, or one 32-bit word of a wider one: `hi` says the high word, `w` and `i` the word. -/
inductive Reg where
  -- module-wide plot block
  | planbase (hi : Bool) | planctl | planstat | jobcfg | jobctl | stepstat | jobrow (hi : Bool) | haltrow (hi : Bool)
  | restart | restartrow (hi : Bool) | buddylist (hi : Bool) | buddyctl | buddystat | recovstat | lastguard (hi : Bool)
  | copyrow (hi : Bool) | statedig (i : Nat) | retbase (hi : Bool)
  -- module-wide Harrow block
  | fbcfg | fbres | fbstat (hi : Bool) | fbrow (hi : Bool) | fblast (i : Nat)
  -- module-wide MEM and SYN blocks
  | layout | laystat | scrubcfg | hashmask (b : Fin 6) | rgn (n : Fin 16)
  | tocfg | dumpbase (hi : Bool) | dumpstat | dumpctl
  -- KUF, CLK, PWR and EVR blocks
  | kufnode | kufpairs | dupmsg | resent | inbox | portstat (k : KPort) | feccnt (k : KPort) | fecunc (k : KPort)
  | crccnt (k : KPort) | retrains (k : KPort) | portctl (k : KPort)
  | target | strip (i : StripIx) | stripstat (i : StripIx)
  | pwrcap | pwrcfg | pwrtill | pwrsow | pwrstatus | pwrinput | peakwin | pwrmodel
  | evrctl | evrstatus | pairmis | rulebrk | datahost | lost | qcfg (q : Fin 8)
  -- SBD block
  | sbdstatus | sbdseq | arba (compl : Bool) | arbb (compl : Bool) | arbres | flashctl | flashaddr (hi : Bool) | flashstat
  | recov | resetctl
  -- PCI blocks
  | link (h : HostPort) | irqen (h : HostPort) | irqcause (h : HostPort) | bar2err (h : HostPort) (hi : Bool)
  | win (h : HostPort) (w : Fin 8) | msix (h : HostPort) (i : Fin 16) | pba (h : HostPort) (hi : Bool)
  -- module-wide DBG block
  | cntctl | snapbase (hi : Bool) | stopmap (hi : Bool) | trigall
  -- stack windows
  | refstat (d : DieIx) | cecnt (d : DieIx) | uecnt (d : DieIx) | errlog (d : DieIx) (hi : Bool) | scrubq (d : DieIx)
  | slicemode (d : DieIx) | slicestat (d : DieIx)
  | qcmd (d : DieIx) | qdata (d : DieIx) | qres (d : DieIx) | qread (d : DieIx) | synuse (d : DieIx) | tallyuse (d : DieIx)
  | dupcnt (d : DieIx) | ovflog (d : DieIx)
  | trcctl (d : DieIx) | trckind (d : DieIx) | trig (d : DieIx) | trigval (d : DieIx) | trcstat (d : DieIx)
  | trclost (d : DieIx) | trcpage (d : DieIx) | dbgwatch (d : DieIx) (n : Fin 4) | wstat (d : DieIx) (n : Fin 4)
  | trcwin (d : DieIx) (i : Nat)
  -- plot windows
  | numctl (p : PlotIx) | fpflags (p : PlotIx) | seqstate (p : PlotIx) | seqpc (p : PlotIx) | seqrow (p : PlotIx) (hi : Bool)
  | seqop (p : PlotIx) | waitpay (p : PlotIx) | waitinfo (p : PlotIx)
  | harstatus (p : PlotIx) | harkpos (p : PlotIx) | harctl (p : PlotIx) | harspillbase (p : PlotIx) | harparretry (p : PlotIx)
  | chklast (p : PlotIx) | chkcnt (p : PlotIx)
  | drlstatus (p : PlotIx) | sflags (p : PlotIx) | firstinv (p : PlotIx) | drlparretry (p : PlotIx) | tillpar (p : PlotIx)
  | drlctl (p : PlotIx) | drlspillbase (p : PlotIx) | rakstatus (p : PlotIx) | rakterms (p : PlotIx) (hi : Bool)
  | pctl (p : PlotIx) | psaddr (p : PlotIx) | psdata (p : PlotIx) | rakeimg (p : PlotIx) (i : Nat)
  | cntsel (p : PlotIx) (n : Fin 8) | cnttag (p : PlotIx) (n : Fin 8) | cnt (p : PlotIx) (n : Fin 8) (hi : Bool)
  -- read-only windows, by byte offset
  | live (o : Nat) | blackbox (o : Nat)
  deriving DecidableEq, Repr

/-- An access code (R13). -/
inductive AccCode where
  | rw | ro | w1c | rwp | rc
  deriving DecidableEq, Repr

/-- What stands at a word of BAR0: the register, its access code, and whether the word is the complement of an RWP
register. -/
structure Place where
  reg : Reg
  acc : AccCode
  compl : Bool
  deriving DecidableEq, Repr

/-- A block: places by offset. -/
abbrev Block := List (Nat × Place)

/-- A word with an access code. -/
def one (o : Nat) (a : AccCode) (r : Reg) : Block := [(o, { reg := r, acc := a, compl := false })]

/-- The two words of an RWP register (R13). -/
def pair (o : Nat) (r : Reg) : Block :=
  [(o, { reg := r, acc := .rwp, compl := false }), (o + 4, { reg := r, acc := .rwp, compl := true })]

/-- A 48-bit or 64-bit RWP register: its low word's pair, then its high word's (R180). -/
def wide (o : Nat) (r : Bool → Reg) : Block := pair o (r false) ++ pair (o + 8) (r true)

/-- The low and the high word of a 64-bit register. -/
def long (o : Nat) (a : AccCode) (r : Bool → Reg) : Block := one o a (r false) ++ one (o + 4) a (r true)

/-- n registers, `step` bytes apart. -/
def each (n step : Nat) (f : Nat → Nat → Block) : Block := (List.range n).flatMap fun i => f (step * i) i

/-- The module-wide plot block (R180-R182, R290-R293, R323, R324). -/
def pltBlock : Block :=
  wide 0x00 .planbase ++ pair 0x10 .planctl ++ one 0x18 .ro .planstat ++ pair 0x20 .jobcfg ++ pair 0x28 .jobctl
    ++ one 0x30 .ro .stepstat ++ long 0x38 .ro .jobrow ++ wide 0x40 .haltrow ++ pair 0x50 .restart ++ wide 0x58 .restartrow
    ++ wide 0x68 .buddylist ++ pair 0x78 .buddyctl ++ one 0x80 .ro .buddystat ++ one 0x84 .ro .recovstat
    ++ long 0x88 .ro .lastguard ++ long 0x90 .ro .copyrow ++ each 12 4 (fun o i => one (0xA0 + o) .ro (.statedig i))
    ++ wide 0xD0 .retbase

/-- The module-wide Harrow block (R110, R115, R116). -/
def harBlock : Block :=
  pair 0x00 .fbcfg ++ pair 0x08 .fbres ++ long 0x10 .ro .fbstat ++ long 0x18 .ro .fbrow
    ++ each 16 4 fun o i => one (0x40 + o) .ro (.fblast i)

/-- The module-wide MEM block (R206). -/
def memBlock : Block :=
  pair 0x00 .layout ++ one 0x08 .ro .laystat ++ pair 0x10 .scrubcfg
    ++ each 6 8 (fun o i => pair (0x40 + o) (.hashmask (Fin.ofNat 6 i)))
    ++ each 16 8 fun o i => pair (0x100 + o) (.rgn (Fin.ofNat 16 i))

/-- The module-wide SYN block (R233). -/
def synBlock : Block := pair 0x00 .tocfg ++ wide 0x08 .dumpbase ++ one 0x18 .ro .dumpstat ++ pair 0x20 .dumpctl

/-- The KUF block (R265, R266). -/
def kufBlock : Block :=
  pair 0x00 .kufnode ++ one 0x08 .ro .kufpairs ++ one 0x10 .rc .dupmsg ++ one 0x14 .rc .resent ++ one 0x18 .ro .inbox
    ++ each 8 0x40 fun o i =>
      let k : KPort := Fin.ofNat 8 i
      one (0x100 + o) .ro (.portstat k) ++ one (0x104 + o) .rc (.feccnt k) ++ one (0x108 + o) .rc (.fecunc k)
        ++ one (0x10C + o) .rc (.crccnt k) ++ one (0x110 + o) .rc (.retrains k) ++ pair (0x118 + o) (.portctl k)

/-- The CLK block (R346-R348). -/
def clkBlock : Block :=
  pair 0x00 .target ++ each 80 8 (fun o i => pair (0x100 + o) (.strip (Fin.ofNat 80 i)))
    ++ each 80 4 fun o i => one (0x400 + o) .ro (.stripstat (Fin.ofNat 80 i))

/-- The PWR block (R349-R352). -/
def pwrBlock : Block :=
  pair 0x00 .pwrcap ++ pair 0x08 .pwrcfg ++ pair 0x10 .pwrtill ++ pair 0x18 .pwrsow ++ one 0x20 .ro .pwrstatus
    ++ one 0x24 .ro .pwrinput ++ one 0x28 .rc .peakwin ++ one 0x2C .ro .pwrmodel

/-- The EVR block (R374-R376). -/
def evrBlock : Block :=
  pair 0x00 .evrctl ++ one 0x08 .ro .evrstatus ++ one 0x10 .rc .pairmis ++ one 0x14 .rc .rulebrk ++ one 0x18 .rc .datahost
    ++ one 0x1C .rc .lost ++ each 8 8 fun o i => pair (0x40 + o) (.qcfg (Fin.ofNat 8 i))

/-- The SBD block (R401). -/
def sbdBlock : Block :=
  one 0x00 .ro .sbdstatus ++ one 0x04 .ro .sbdseq ++ long 0x10 .ro .arba ++ long 0x18 .ro .arbb ++ one 0x20 .ro .arbres
    ++ pair 0x30 .flashctl ++ wide 0x38 .flashaddr ++ one 0x48 .ro .flashstat ++ pair 0x50 .recov ++ pair 0x58 .resetctl

/-- The PCI block of a port (R418, R426). -/
def pciBlock (h : HostPort) : Block :=
  one 0x00 .ro (.link h) ++ pair 0x08 (.irqen h) ++ one 0x10 .rc (.irqcause h) ++ long 0x18 .ro (.bar2err h)
    ++ each 8 8 (fun o i => pair (0x100 + o) (.win h (Fin.ofNat 8 i)))
    ++ each 16 4 (fun o i => one (0x1000 + o) .rw (.msix h (Fin.ofNat 16 i))) ++ long 0x1800 .ro (.pba h)

/-- The module-wide DBG block (R446). -/
def dbgBlock : Block := pair 0x00 .cntctl ++ wide 0x08 .snapbase ++ wide 0x18 .stopmap ++ pair 0x28 .trigall

/-- A stack's MEM, BST, SYN and DBG blocks (R207, R234, R447). -/
def stackMem (d : DieIx) : Block :=
  one 0x00 .ro (.refstat d) ++ one 0x04 .rc (.cecnt d) ++ one 0x08 .rc (.uecnt d) ++ long 0x10 .ro (.errlog d)
    ++ one 0x18 .ro (.scrubq d)
def stackBst (d : DieIx) : Block := pair 0x00 (.slicemode d) ++ one 0x08 .ro (.slicestat d)
def stackSyn (d : DieIx) : Block :=
  pair 0x00 (.qcmd d) ++ pair 0x08 (.qdata d) ++ one 0x10 .ro (.qres d) ++ one 0x14 .ro (.qread d)
    ++ one 0x18 .ro (.synuse d) ++ one 0x1C .ro (.tallyuse d) ++ one 0x20 .rc (.dupcnt d) ++ one 0x24 .ro (.ovflog d)
def stackDbg (d : DieIx) : Block :=
  pair 0x00 (.trcctl d) ++ pair 0x08 (.trckind d) ++ pair 0x10 (.trig d) ++ pair 0x18 (.trigval d)
    ++ one 0x20 .ro (.trcstat d) ++ one 0x24 .rc (.trclost d) ++ one 0x28 .rw (.trcpage d)
    ++ each 4 16 fun o i => pair (0x30 + o) (.dbgwatch d (Fin.ofNat 4 i)) ++ one (0x38 + o) .ro (.wstat d (Fin.ofNat 4 i))

/-- A plot window (R411): PLT, HAR, DRL, RAK and DBG registers. -/
def plotBlock (p : PlotIx) : Block :=
  one 0x100 .ro (.numctl p) ++ one 0x104 .w1c (.fpflags p) ++ one 0x110 .ro (.seqstate p) ++ one 0x114 .ro (.seqpc p)
    ++ long 0x118 .ro (.seqrow p) ++ one 0x120 .ro (.seqop p) ++ one 0x130 .ro (.waitpay p) ++ one 0x134 .ro (.waitinfo p)
    ++ one 0x1000 .ro (.harstatus p) ++ one 0x1004 .ro (.harkpos p) ++ pair 0x1008 (.harctl p) ++ pair 0x1010 (.harspillbase p)
    ++ one 0x1018 .rc (.harparretry p) ++ one 0x1020 .ro (.chklast p) ++ one 0x1024 .rc (.chkcnt p)
    ++ one 0x2000 .ro (.drlstatus p) ++ one 0x2004 .ro (.sflags p) ++ one 0x2008 .ro (.firstinv p)
    ++ one 0x200C .rc (.drlparretry p) ++ one 0x2010 .rc (.tillpar p) ++ pair 0x2018 (.drlctl p) ++ pair 0x2020 (.drlspillbase p)
    ++ one 0x3000 .ro (.rakstatus p) ++ long 0x3008 .ro (.rakterms p)
    ++ pair 0x4000 (.pctl p) ++ pair 0x4008 (.psaddr p) ++ one 0x4010 .rw (.psdata p)
    ++ each 32 4 (fun o i => one (0x4100 + o) .ro (.rakeimg p i))
    ++ each 8 16 (fun o i => pair (0x4200 + o) (.cntsel p (Fin.ofNat 8 i)) ++ pair (0x4208 + o) (.cnttag p (Fin.ofNat 8 i)))
    ++ each 8 8 fun o i => long (0x4300 + o) .ro (.cnt p (Fin.ofNat 8 i))

/-- The place at an offset of a block. -/
def Block.at (b : Block) (o : Nat) : Option Place := (b.find? fun x => x.1 = o).map (·.2)

/-- The module-wide blocks of BAR0, 64 KiB each (R409). -/
def moduleBlock (n : Nat) : Block :=
  match n with
  | 0 => pltBlock
  | 1 => harBlock
  | 2 => memBlock
  | 3 => synBlock
  | 4 => kufBlock
  | 5 => clkBlock
  | 6 => pwrBlock
  | 7 => evrBlock
  | 8 => sbdBlock
  | 9 => pciBlock .a
  | 10 => pciBlock .b
  | 11 => dbgBlock
  | _ => []

/-- The place at an offset of a stack window (R410). -/
def stackAt (s o : Nat) : Option Place :=
  let d : DieIx := Fin.ofNat 8 s
  if o < 0x10000 then (stackMem d).at o
  else if o < 0x20000 then (stackBst d).at (o - 0x10000)
  else if o < 0x30000 then (stackSyn d).at (o - 0x20000)
  else if o < 0x40000 then
    (if 0x38000 ≤ o then some { reg := .trcwin d ((o - 0x38000) / 4), acc := .ro, compl := false }
     else (stackDbg d).at (o - 0x30000))
  else if 0x180000 ≤ o then (plotBlock (Fin.ofNat 640 (80 * s + (o - 0x180000) / 0x8000))).at ((o - 0x180000) % 0x8000)
  else none

/-- The place at a word of BAR0; none at a reserved address and in the token window (R409). -/
def placeAt (o : Nat) : Option Place :=
  if o < 0xC0000 then (moduleBlock (o / 0x10000)).at (o % 0x10000)
  else if 0x100000 ≤ o ∧ o < 0x180000 then some { reg := .live (o - 0x100000), acc := .ro, compl := false }
  else if 0x400000 ≤ o ∧ o < 0x800000 then some { reg := .blackbox (o - 0x400000), acc := .ro, compl := false }
  else if 0x1000000 ≤ o ∧ o < 0x3000000 then stackAt ((o - 0x1000000) / 0x400000) ((o - 0x1000000) % 0x400000)
  else none

/-- The PCI block that an offset lies in. -/
def pciOf (o : Nat) : Option HostPort :=
  if o / 0x10000 = 9 then some .a else if o / 0x10000 = 10 then some .b else none

/-- The register that a word belongs to: the words of a wide register are one register (R12, R14). -/
def Reg.key : Reg → Reg
  | .planbase _ => .planbase false
  | .haltrow _ => .haltrow false
  | .restartrow _ => .restartrow false
  | .buddylist _ => .buddylist false
  | .retbase _ => .retbase false
  | .dumpbase _ => .dumpbase false
  | .flashaddr _ => .flashaddr false
  | .snapbase _ => .snapbase false
  | .stopmap _ => .stopmap false
  | r => r

/-! ### Fields (R15, R387) -/

/-- A field with its range and its seedbed default; a reserved field has the range 0. -/
structure Field where
  hi : Nat
  lo : Nat
  min : Nat
  max : Nat
  dflt : Nat
  deriving DecidableEq, Repr

/-- A reserved field. -/
def rsv (hi lo : Nat) : Field := { hi := hi, lo := lo, min := 0, max := 0, dflt := 0 }
/-- A field that takes every value. -/
def anyF (hi lo d : Nat) : Field := { hi := hi, lo := lo, min := 0, max := 2 ^ (hi + 1 - lo) - 1, dflt := d }
/-- A field with a range. -/
def rng (hi lo mn mx d : Nat) : Field := { hi := hi, lo := lo, min := mn, max := mx, dflt := d }

/-- A word's field is in range. -/
def Field.ok (f : Field) (v : W32) : Bool := decide (f.min ≤ bits v f.hi f.lo) && decide (bits v f.hi f.lo ≤ f.max)

/-- The fields of a register that can break a rule; fields that a word leaves out take every value. -/
def Reg.fields : Reg → List Field
  | .planbase false => [rsv 11 0]
  | .planbase true => [rsv 31 16]
  | .planctl => [rsv 31 2]
  | .jobcfg => [anyF 31 31 0, rsv 30 26, rng 25 0 1 60000000 60000000]
  | .jobctl => [rsv 31 4]
  | .haltrow true => [rsv 31 16]
  | .restart => [rsv 31 2]
  | .restartrow true => [rsv 31 16]
  | .buddylist false => [rsv 7 0]
  | .buddylist true => [rsv 31 16]
  | .buddyctl => [rsv 29 24]
  | .retbase false => [rsv 15 0]
  | .retbase true => [rsv 31 16]
  | .fbcfg => [anyF 31 31 1, rsv 30 28, rng 27 16 1 4095 512, anyF 15 0 0x290]
  | .fbres => [rsv 31 16]
  | .layout => [rsv 30 14, anyF 13 13 0, anyF 12 12 0, rsv 11 11]
  | .scrubcfg => [rsv 31 8, rng 7 0 0 168 24]
  | .hashmask b => [rsv 31 25, anyF 24 0 (defaultMasks.get b).toNat]
  | .rgn _ => [anyF 31 31 0, anyF 30 30 0, anyF 29 29 0, rsv 28 22, anyF 21 11 0, anyF 10 0 0]
  | .tocfg => [rng 31 30 1 3 3, rsv 29 26, rng 25 0 1 60000000 10000000]
  | .dumpbase _ => [rsv 31 16]
  | .dumpctl => [rsv 31 2]
  | .qcmd _ => [rng 31 28 1 5 0, rsv 27 12]
  | .kufnode => [rsv 31 12, rng 11 0 0 511 0]
  | .portctl _ => [rsv 31 2]
  | .target => [anyF 31 31 0, rsv 30 7, rng 6 0 32 120 80]
  | .strip _ => [rsv 31 15, rng 14 8 32 120 120, rsv 7 7, rng 6 0 32 120 80]
  | .pwrcap => [rsv 31 28, rng 27 16 600 2400 2400, rsv 15 12, rng 11 0 600 3000 2800]
  | .pwrcfg => [anyF 31 31 1, rng 30 24 70 100 95, rng 23 16 1 100 10, rsv 15 12, rng 11 0 600 3000 1200]
  | .pwrtill => [anyF 31 28 10, anyF 27 16 100, rng 15 8 1 255 50, rng 7 0 1 255 20]
  | .pwrsow => [anyF 31 31 1, rsv 30 10, rng 9 0 0 1000 50]
  | .evrctl => [rsv 28 8, anyF 7 0 0x13]
  | .qcfg _ => [rng 31 30 0 2 0, anyF 29 25 0, rng 24 12 1 8191 1, anyF 11 0 0]
  | .slicemode _ => [rsv 31 12, anyF 11 0 0xFC0]
  | .flashctl => [rng 31 28 1 3 0, rsv 27 0]
  | .flashaddr false => [rsv 11 0]
  | .flashaddr true => [rsv 31 16]
  | .recov => [rsv 31 2]
  | .resetctl => [rsv 31 1]
  | .irqen _ => [rsv 31 4]
  | .win _ _ => [rsv 30 18]
  | .cntctl => [rsv 28 16, rng 15 0 1 65535 1]
  | .snapbase false => [rsv 11 0]
  | .snapbase true => [rsv 31 16]
  | .stopmap false => [rsv 11 0]
  | .stopmap true => [rsv 30 16]
  | .trigall => [rsv 31 2]
  | .trcctl _ => [rng 29 28 0 2 0, rng 27 24 1 15 8, rng 22 19 0 11 0, rsv 18 0]
  | .trig _ => [rng 31 28 0 4 0, rsv 27 0]
  | .trcpage _ => [rsv 31 5]
  | .dbgwatch _ _ => [rsv 29 19, rng 18 12 1 64 1]
  | .harctl _ => [rsv 31 1]
  | .harspillbase _ => [rsv 31 21, rsv 5 0, rng 20 0 0 0x1F7FC0 0x1F7FC0]
  | .drlctl _ => [rsv 31 1]
  | .drlspillbase _ => [rsv 31 21, rsv 5 0, rng 20 0 0 0x1FFF40 0x1F7F00]
  | .pctl _ => [rsv 31 3]
  | .psaddr _ => [rsv 31 21, rsv 1 0]
  | .cntsel _ _ => [rsv 27 16, rng 7 0 0 0x16 0]
  | _ => []

/-- Every field of a word is in range, and the rule between PEAK and SUSTAIN holds (R349). -/
def Reg.wordOk (r : Reg) (v : W32) : Bool :=
  r.fields.all (fun f => f.ok v) && (r ≠ .pwrcap || decide (bits v 27 16 ≤ bits v 11 0))

/-! ### Values -/

/-- The low or the high word of a number. -/
def halfWord (n : Nat) (hi : Bool) : W32 := if hi then w32 (n / 2 ^ 32) else w32 n

/-- The code of PLT_PLANSTAT.STATE: a plan that is halted now still reads as running (R182, R283). -/
def Job.stateCode (j : Job) : Nat :=
  match j.state with
  | .idle => 0
  | .checking => 1
  | .running => 2
  | .halted => if j.halt = .boundary then 3 else 2
  | .ended => 4
  | .failed => 5

/-- The code of PLT_STEPSTAT.HALT (R292). -/
def HaltState.code : HaltState → Nat
  | .none => 0
  | .boundary => 1
  | .now => 2
  | .aborted => 3

/-- PLT_PLANSTAT (R182). -/
def State.planstat (s : State) : W32 :=
  w32 (s.job.stateCode * 2 ^ 28 + s.job.loaderr.toNat * 2 ^ 24
    + (s.job.active.filter fun p => decide (p ∉ s.job.ended)).length)

/-- PLT_STEPSTAT (R292). PHASE 0b01 runs from completion to the up token, 0b10 to the down token. -/
def State.stepstat (s : State) : W32 :=
  let phase := if !s.job.complete then 0 else if s.job.upSent then 2 else 1
  let left := if s.running then (s.children.filter fun c => !s.hasUp c).length else 0
  w32 (s.job.halt.code * 2 ^ 30 + phase * 2 ^ 28 + left * 2 ^ 24 + s.job.lastnode.toNat)

/-- PLT_BUDDYSTAT (R324). -/
def Recovery.buddystat (r : Recovery) : W32 :=
  w32 (r.feed.toNat * 2 ^ 30 + r.mode.toNat * 2 ^ 28 + b2n r.copy.isSome * 2 ^ 27 + b2n r.ret.isSome * 2 ^ 26
    + r.verify.toNat * 2 ^ 24 + r.result.toNat * 2 ^ 22 + r.policy.toNat * 2 ^ 20 + r.ownfeed.toNat * 2 ^ 12
    + r.holdfeed.toNat * 2 ^ 8)

/-- SBD_STATUS.STATE (R401). -/
def SbdState.code : SbdState → Nat
  | .starting => 0
  | .recovery => 1
  | .checking => 2
  | .ready => 3
  | .fallow => 4

/-- SBD_STATUS (R401). -/
def Sbd.status (x : Sbd) : W32 :=
  w32 (x.state.code * 2 ^ 28 + x.step.toNat * 2 ^ 24 + x.recreason.toNat * 2 ^ 20 + b2n x.caldef * 2 ^ 19
    + b2n x.cfgdef * 2 ^ 18 + b2n x.seqmix * 2 ^ 17 + b2n (x.ctlhost = .b) * 2 ^ 16)

/-- SBD_ARBRES (R401). -/
def Sbd.arbres (x : Sbd) : W32 :=
  let w := match x.winner with
    | none => 0
    | some .a => 1
    | some .b => 2
  w32 (w * 2 ^ 30 + b2n x.latched * 2 ^ 29 + b2n x.pending.isSome * 2 ^ 28)

/-- EVR_STATUS (R375); an erase shows as a flush (R377). -/
def State.evrstatus (s : State) : W32 :=
  let other : Half := if s.lead = .a then .b else .a
  w32 (b2n (s.evr.flushing.isSome || s.evr.erase.isSome) * 2 ^ 31 + b2n s.evr.follow.isSome * 2 ^ 30
    + b2n s.evr.fallow * 2 ^ 29 + b2n s.evr.flushfail * 2 ^ 28 + (s.half s.lead).pending.length * 2 ^ 23
    + (s.half other).pending.length * 2 ^ 18 + s.evr.nextseq.toNat % 2 ^ 16)

/-- PWR_INPUT (R352). -/
def Pwr.input (p : Pwr) : W32 := w32 (p.sust.toNat * 2 ^ 16 + p.win.toNat)

/-- PWR_STATUS (R352). -/
def Pwr.status (p : Pwr) : W32 :=
  w32 (b2n p.envunmet * 2 ^ 31 + b2n p.envfail * 2 ^ 30 + b2n p.peaklim * 2 ^ 29 + b2n p.sustlim * 2 ^ 28
    + b2n (p.strips.toList.any fun x => decide (x.thermal.toNat < 120)) * 2 ^ 27
    + b2n (p.pkglevel.toList.any fun x => decide (x.toNat < 120)) * 2 ^ 26 + p.budget.getD 0)

/-- Whole degrees, rounded down, in 8 bits. -/
def degrees (t : Int) : Nat := (t / 10).toNat % 256

/-- CLK_STRIPSTAT of a strip (R348). -/
def State.stripstat (s : State) (i : StripIx) : W32 :=
  let x := s.strip i
  w32 (x.eff.toNat * 2 ^ 25 + x.duty.toNat * 2 ^ 20 + x.limit.toNat * 2 ^ 17 + b2n x.changing.isSome * 2 ^ 16
    + degrees x.temp * 2 ^ 8 + (s.pwr.rails.get (dieOfStrip i)).toNat)

/-- The state code of a port (R238). -/
def PortState.code : PortState → Nat
  | .down => 0
  | .signal => 1
  | .equalise => 2
  | .align => 3
  | .ident => 4
  | .active => 5
  | .failed => 6
  | .mismatch => 7

/-- KUF_PORTSTAT (R266). -/
def KufPort.stat (x : KufPort) : W32 :=
  w32 (x.state.code * 2 ^ 28 + b2n x.altuse * 2 ^ 27 + x.nbrPort.toNat * 2 ^ 24 + x.nbrNode.toNat)

/-- A port names the control host once the configuration block is loaded (R386, R406, R426). -/
def State.isControl (s : State) (h : HostPort) : Bool := s.sbd.ctlhost = h && decide (9 ≤ s.sbd.step.toNat)

/-- BAR2 maps the recovery window: in recovery mode (R392, R393). -/
def State.recwin (s : State) : Bool := s.sbd.state = .recovery || s.sbd.state = .checking

/-- PCI_LINK (R426). -/
def State.linkWord (s : State) (h : HostPort) : W32 :=
  let x := s.pci h
  w32 (x.speed.toNat * 2 ^ 28 + x.width.toNat * 2 ^ 24 + b2n x.flit * 2 ^ 23 + b2n (s.isControl h) * 2 ^ 22
    + b2n s.recwin * 2 ^ 21 + x.eid.toNat)

/-- Bits of the arrays that a list of array masks names. -/
def orMasks (l : List (BitVec 4)) : Nat := (l.foldl (fun a b => a ||| b) 0).toNat

/-- HAR_STATUS (R93); where the sowing front stands is a timing, so FRONTACT and FRONT are free (log entry 10). -/
def Plot.harstatus (q : Plot) (v : Nat) : W32 :=
  let act := decide (2 ≤ q.passes.length) && decide (v % 2 = 1)
  w32 (v / 2 % 32 * 2 ^ 21 + b2n act * 2 ^ 20 + b2n q.harSpilled * 2 ^ 19 + b2n q.harStopped * 2 ^ 18
    + orMasks (q.passes.map fun a => a.desc.arrays) * 2 ^ 12 + orMasks (q.writeouts.map fun w => w.arrays) * 2 ^ 8
    + q.kept.toNat)

/-- HAR_KPOS (R94): how far the newest pass has entered is a timing, so the value is free up to its K (log entry 10). -/
def Plot.harkpos (q : Plot) (v : Nat) : W32 :=
  match q.passes.getLast? with
  | none => 0
  | some a => w32 (v % Nat.max a.desc.k 1)

/-- Tilling load runs (R340). -/
def Plot.tills (q : Plot) : Bool := q.tilling ≠ 0 && q.seq.waiting && q.stream.isNone

/-- DRL_STATUS (R151); how far a stream has come is a timing, so EPOS is a free stop unit of it (log entry 10). -/
def Plot.drlstatus (q : Plot) (v : Nat) : W32 :=
  let epos := match q.stream with
    | none => 0
    | some a =>
      let u := Nat.max a.desc.stopUnit 1
      (v % (a.desc.count / u + 1) * u) % 2 ^ 22
  w32 (b2n q.tills * 2 ^ 26 + b2n q.drlSpilled * 2 ^ 25 + b2n q.drlStopped * 2 ^ 24 + b2n q.rakeHeld * 2 ^ 23
    + b2n q.stream.isSome * 2 ^ 22 + epos)

/-- The debugger may read and write the plot store and read the Rake register (R441). -/
def Plot.debuggable (q : Plot) : Bool :=
  (q.seq.state = .idle || q.seq.state = .stopped || q.seq.state = .ended || q.seq.state = .failed)
    && q.passes.isEmpty && q.writeouts.isEmpty && q.stream.isNone

/-- The outcome code of a debugger watch (R447). -/
def DbgOutcome.code : DbgOutcome → Nat
  | .none => 0
  | .released => 1
  | .timedOut => 2
  | .withdrawn => 3
  | .refused => 4

/-- DBG_TRCSTAT (R447). -/
def TraceDie.stat (t : TraceDie) : W32 :=
  let st := match t.state with
    | .off => 0
    | .armed => 1
    | .triggered => 2
    | .ended => 3
  w32 (st * 2 ^ 30 + b2n t.wrapped * 2 ^ 21 + b2n t.trigvalid * 2 ^ 20 + t.wridx % 2 ^ 20)

/-- A word of the on-die trace buffer on the page in the window (R432, R447). -/
def TraceDie.window (t : TraceDie) (i : Nat) : W32 :=
  let n := t.page.toNat * 1024 + i / 8
  let r := if n = 32767 then t.trigrec else (t.ring.find? fun x => x.1 = n).map (·.2)
  match r with
  | some x => wordAt x.bytes (4 * (i % 8))
  | none => 0

/-- SYN_USE: INBOUND reads 0x3FF when all 512 entries are used with pending tallies (R234). -/
def SyncDie.use (u : SyncDie) : W32 :=
  let full := decide (512 ≤ u.inbound.length)
    && u.inbound.all fun e => u.tally.any fun t => t.node = e.node && t.channel = e.channel
  w32 (u.watches.length % 2048 * 2 ^ 10 + (if full then 0x3FF else u.inbound.length % 1024))

/-- MEM_REFSTAT (R207). -/
def State.refstat (s : State) (d : DieIx) : W32 :=
  let m := fun (i : Nat) => (s.pkg (Fin.ofNat 24 (3 * d.val + i))).multiple.toNat
  w32 (m 2 * 16 + m 1 * 4 + m 0)

/-- MEM_LAYOUT (R206). -/
def Layout.word (l : Layout) : W32 := w32 (b2n l.masks * 2 ^ 13 + b2n l.mode * 2 ^ 12 + l.guardu)

/-- DBG_TRCCTL (R447). -/
def TraceDie.ctl (t : TraceDie) : W32 :=
  w32 (b2n t.en * 2 ^ 31 + b2n t.arm * 2 ^ 30 + t.mode.toNat * 2 ^ 28 + t.pos.toNat * 2 ^ 24 + b2n t.spill * 2 ^ 23
    + t.slice.toNat * 2 ^ 19)

/-- A word of the Rake register's image; the number of a loose register is the free value v (R140, log entry 17). -/
def Plot.rakeimg (q : Plot) (i v : Nat) : W32 :=
  wordAt (if q.rake.loose then q.rake.imageOf v else q.rake.image) (4 * i)

/-- The value of a register; `v` is the free value of the registers that read a timing. -/
def State.regValue (s : State) (v : Nat) : Reg → W32
  | .planbase hi => halfWord s.job.planbase.toNat hi
  | .planctl => 0
  | .planstat => s.planstat
  | .jobcfg => w32 (b2n s.job.waitslow * 2 ^ 31 + s.job.steptous.toNat)
  | .jobctl => w32 (b2n (s.job.halt = .now) * 8 + b2n s.job.haltat * 2 + b2n s.job.haltnext)
  | .stepstat => s.stepstat
  | .jobrow hi => halfWord s.job.row.toNat hi
  | .haltrow hi => halfWord s.job.haltrow.toNat hi
  | .restart => w32 (b2n s.rcv.restore * 2)
  | .restartrow hi => halfWord s.rcv.restartrow.toNat hi
  | .buddylist hi => halfWord s.rcv.buddylist.toNat hi
  | .buddyctl => w32 (s.rcv.target.toNat * 2 ^ 12 + s.rcv.owner.toNat)
  | .buddystat => s.rcv.buddystat
  | .recovstat => w32 (s.rcv.need.toNat * 2 ^ 28)
  | .lastguard hi => halfWord s.rcv.lastguard.toNat hi
  | .copyrow hi => match s.rcv.copyrow with
    | some r => halfWord (2 ^ 63 + r.toNat) hi
    | none => 0
  | .statedig i => w32 (s.rcv.statedig.toNat >>> (32 * i))
  | .retbase hi => halfWord s.rcv.retbase.toNat hi
  | .fbcfg => s.fb.fbcfg
  | .fbres => w32 s.fb.extra.toNat
  | .fbstat hi => halfWord (s.fb.resfree.toNat * 2 ^ 48 + s.fb.pendingN.toNat * 2 ^ 32 + s.fb.switchedN.toNat * 2 ^ 16) hi
  | .fbrow hi => halfWord s.fb.fbrow.toNat hi
  | .fblast i => w32 (s.fb.fblast.toNat >>> (32 * i))
  | .layout => s.mem.regs.word
  | .laystat => w32 (s.mem.layState.toNat * 2 ^ 28 + s.mem.layReason.toNat * 2 ^ 24
      + s.mem.inForce.dataMib s.sbd.order % 2 ^ 21)
  | .scrubcfg => w32 s.mem.scrubPeriod.toNat
  | .hashmask b => w32 (s.mem.regs.hash.get b).toNat
  | .rgn n => s.mem.regs.rgn.get n
  | .tocfg => w32 (s.smod.action.toNat * 2 ^ 30 + s.smod.defaultus.toNat)
  | .dumpbase hi => w32 (if hi then s.smod.dumpbase.toNat / 2 ^ 32 else s.smod.dumpbase.toNat / 2 ^ 16 % 2 ^ 16)
  | .dumpstat => w32 (b2n s.smod.held * 2 ^ 31 + s.smod.trigger.toNat * 2 ^ 28 + b2n s.smod.writing * 2 ^ 27
      + s.smod.suppressed.toNat)
  | .dumpctl => 0
  | .kufnode => w32 s.kuf.node.toNat
  | .kufpairs => w32 (s.kuf.tx.length % 2 ^ 16 * 2 ^ 16 + s.kuf.rx.length % 2 ^ 16)
  | .dupmsg => s.kuf.dupmsg
  | .resent => s.kuf.resent
  | .inbox => w32 (Nat.min s.kuf.inbox.length 0xFF)
  | .portstat k => (s.kport k).stat
  | .feccnt k => (s.kport k).corr
  | .fecunc k => (s.kport k).uncorr
  | .crccnt k => w32 ((s.kport k).crcfail.toNat * 2 ^ 16 + (s.kport k).replays.toNat)
  | .retrains k => w32 (s.kport k).retrains.toNat
  | .portctl k => w32 (b2n (s.kport k).enable)
  | .target => w32 (b2n s.pwr.tmode * 2 ^ 31 + s.pwr.tfreq.toNat)
  | .strip i => w32 ((s.strip i).capfreq.toNat * 2 ^ 8 + (s.strip i).freq.toNat)
  | .stripstat i => s.stripstat i
  | .pwrcap => s.pwr.cap
  | .pwrcfg => s.pwr.cfg
  | .pwrtill => s.pwr.till
  | .pwrsow => s.pwr.sow
  | .pwrstatus => s.pwr.status
  | .pwrinput => s.pwr.input
  | .peakwin => w32 s.pwr.maxwin.toNat
  | .pwrmodel => w32 (s.pwr.modelw.toNat * 2 ^ 16 + s.pwr.sensew.toNat)
  | .evrctl => w32 s.evr.qen.toNat
  | .evrstatus => s.evrstatus
  | .pairmis => s.evr.pairmis
  | .rulebrk => s.evr.rulebrk
  | .datahost => s.evr.datahost
  | .lost => s.evr.lost
  | .qcfg q => s.evr.qcfg.get q
  | .sbdstatus => s.sbd.status
  | .sbdseq => s.sbd.seq
  | .arba c => if c then s.sbd.claimAC else s.sbd.claimA
  | .arbb c => if c then s.sbd.claimBC else s.sbd.claimB
  | .arbres => s.sbd.arbres
  | .flashctl => w32 (s.sbd.flashop.toNat * 2 ^ 28)
  | .flashaddr hi => halfWord s.sbd.flashaddr.toNat hi
  | .flashstat => w32 (b2n s.sbd.busy.isSome * 2 ^ 31 + s.sbd.result.toNat * 2 ^ 28)
  | .recov => w32 (b2n s.sbd.program * 2)
  | .resetctl => 0
  | .link h => s.linkWord h
  | .irqen h => w32 (s.pci h).irqen.toNat
  | .irqcause h => w32 (s.pci h).irqcause.toNat
  | .bar2err h hi => if hi then w32 ((s.pci h).errClass.toNat * 2 ^ 30 + (s.pci h).errAddr.toNat / 2 ^ 32)
      else w32 (s.pci h).errAddr.toNat
  | .win h w => (s.pci h).wins.get w
  | .msix h i => (s.pci h).msix.get i
  | .pba h hi => if hi then 0 else w32 (s.pci h).pba.toNat
  | .cntctl => w32 (b2n s.dbg.count * 2 ^ 31 + b2n s.dbg.snap * 2 ^ 30 + s.dbg.rows.toNat)
  | .snapbase hi => halfWord s.dbg.snapbase.toNat hi
  | .stopmap hi => halfWord (b2n s.dbg.stopmapEn * 2 ^ 63 + s.dbg.stopmap.toNat) hi
  | .trigall => w32 (b2n s.dbg.spread * 2)
  | .refstat d => s.refstat d
  | .cecnt d => (s.die d).cecnt
  | .uecnt d => w32 ((s.die d).uecnt.toNat * 2 ^ 16 + (s.die d).decnt.toNat)
  | .errlog d hi => if hi then w32 ((s.die d).errClass.toNat * 2 ^ 30 + (s.die d).errSource.toNat * 2 ^ 27
        + (s.die d).errChannel.toNat * 2 ^ 16 + (s.die d).errAddr.toNat / 2 ^ 32)
      else w32 (s.die d).errAddr.toNat
  | .scrubq d => (s.die d).scrubq
  | .slicemode d => w32 ((s.die d).slicenext.getD (s.die d).slicemode).toNat
  | .slicestat d => w32 (b2n (s.die d).slicenext.isSome)
  | .qcmd d => w32 ((s.unit d).qop.toNat * 2 ^ 28 + (s.unit d).qqueue.toNat)
  | .qdata d => (s.unit d).qdata
  | .qres d => w32 (b2n (s.unit d).qbusy * 2 ^ 31 + (s.unit d).qresult.toNat * 2 ^ 28 + (s.unit d).qearly.toNat * 2 ^ 7
      + (s.unit d).qcount.toNat)
  | .qread d => (s.unit d).qread
  | .synuse d => (s.unit d).use
  | .tallyuse d => w32 ((s.unit d).tally.length % 2048)
  | .dupcnt d => (s.unit d).dupcnt
  | .ovflog d => w32 ((s.unit d).ovfKind.toNat * 2 ^ 29 + (s.unit d).ovfQueue.toNat)
  | .trcctl d => (s.trace d).ctl
  | .trckind d => (s.trace d).kinds
  | .trig d => w32 ((s.trace d).src.toNat * 2 ^ 28)
  | .trigval d => (s.trace d).trigval
  | .trcstat d => (s.trace d).stat
  | .trclost d => w32 ((s.trace d).full.toNat * 2 ^ 16 + (s.trace d).throttled.toNat)
  | .trcpage d => w32 (s.trace d).page.toNat
  | .dbgwatch d n =>
      let w := (s.dbg.watches.get d).get n
      w32 (b2n w.reg * 2 ^ 31 + w.n.toNat * 2 ^ 12 + w.queue.toNat)
  | .wstat d n =>
      let w := (s.dbg.watches.get d).get n
      w32 (w.outcome.code * 2 ^ 29 + w.count.toNat)
  | .trcwin d i => (s.trace d).window i
  | .numctl p => w32 (s.plot p).numctl.toNat
  | .fpflags p => w32 (s.plot p).fpflags.toNat
  | .seqstate p => w32 ((s.plot p).seq.state.code * 2 ^ 28 + b2n (s.plot p).seq.waiting * 2 ^ 27)
  | .seqpc p => (s.plot p).seq.pc
  | .seqrow p hi => halfWord ((s.plot p).seq.passno.toNat * 2 ^ 48 + (s.plot p).seq.row.toNat) hi
  | .seqop p => w32 ((s.plot p).seq.layer.toNat * 2 ^ 16 + (s.plot p).seq.oper.toNat)
  | .waitpay p => (s.plot p).waitpay
  | .waitinfo p => (s.plot p).waitinfo
  | .harstatus p => (s.plot p).harstatus v
  | .harkpos p => (s.plot p).harkpos v
  | .harctl p => w32 (b2n (s.plot p).harStopreq)
  | .harspillbase p => w32 (s.plot p).harSpillbase.toNat
  | .harparretry p => w32 (s.plot p).harParretry.toNat
  | .chklast p => (s.plot p).chklast
  | .chkcnt p => (s.plot p).chkcnt
  | .drlstatus p => (s.plot p).drlstatus v
  | .sflags p => w32 (s.plot p).sflags.toNat
  | .firstinv p => (s.plot p).firstinv
  | .drlparretry p => w32 (s.plot p).drlParretry.toNat
  | .tillpar p => w32 (s.plot p).drlTillpar.toNat
  | .drlctl p => w32 (b2n (s.plot p).drlStopreq)
  | .drlspillbase p => w32 ((s.plot p).drlSpillnext.getD (s.plot p).drlSpillbase).toNat
  | .rakstatus p => w32 (bits (s.plot p).rake.status 7 0)
  | .rakterms p hi => halfWord (s.plot p).rake.terms.toNat hi
  | .pctl p => w32 (b2n (s.plot p).seq.byStop)
  | .psaddr p => w32 (s.plot p).psaddr.toNat
  | .psdata p => wordAt (s.psRead p (s.plot p).psaddr.toNat 4) 0
  | .rakeimg p i => (s.plot p).rakeimg i v
  | .cntsel p n => ((s.plot p).counters.get n).sel
  | .cnttag p n => ((s.plot p).counters.get n).tag
  | .cnt p n hi => halfWord ((s.plot p).counters.get n).value.toNat hi
  | .live o => wordAt (if o < 0x40000 then s.evr.halfA.image else s.evr.halfB.image) (o % 0x40000)
  | .blackbox o => wordAt (cellsGet 0 s.evr.blackbox o 4) 0

/-! ### Reading a word -/

/-- What a read does to the counters of timings before it (R430): they move on. -/
def Reg.counterPlot : Reg → Option PlotIx
  | .cnt p _ _ => some p
  | _ => none

/-- The value reads a timing, which takes a free value. -/
def Reg.timing : Reg → Bool
  | .harstatus _ => true
  | .harkpos _ => true
  | .drlstatus _ => true
  | .rakeimg _ _ => true
  | _ => false

/-- The value of a register and the state after its free value, if it takes one. -/
def State.takeValue (s : State) (r : Reg) : W32 × State :=
  let s1 := match r.counterPlot with
    | some p => s.settle p
    | none => s
  if r.timing then
    let (v, s2) := s1.free
    (s1.regValue v r, s2)
  else (s1.regValue 0 r, s1)

/-- Clears what an RC register has read (R13). -/
def State.clearReg (s : State) : Reg → State
  | .dupmsg => { s with kuf := { s.kuf with dupmsg := 0 } }
  | .resent => { s with kuf := { s.kuf with resent := 0 } }
  | .feccnt k => s.modKport k fun x => { x with corr := 0 }
  | .fecunc k => s.modKport k fun x => { x with uncorr := 0 }
  | .crccnt k => s.modKport k fun x => { x with crcfail := 0, replays := 0 }
  | .retrains k => s.modKport k fun x => { x with retrains := 0 }
  | .peakwin => { s with pwr := { s.pwr with maxwin := 0 } }
  | .pairmis => { s with evr := { s.evr with pairmis := 0 } }
  | .rulebrk => { s with evr := { s.evr with rulebrk := 0 } }
  | .datahost => { s with evr := { s.evr with datahost := 0 } }
  | .lost => { s with evr := { s.evr with dropped := 0, nestovf := 0, histspill := 0 } }
  | .irqcause h => s.modPci h fun x => { x with irqcause := 0 }
  | .cecnt d => s.modDie d fun x => { x with cecnt := 0 }
  | .uecnt d => s.modDie d fun x => { x with uecnt := 0, decnt := 0 }
  | .dupcnt d => s.modUnit d fun u => { u with dupcnt := 0 }
  | .trclost d => s.modTrace d fun t => { t with full := 0, throttled := 0 }
  | .harparretry p => s.modPlot p fun q => { q with harParretry := 0 }
  | .chkcnt p => s.modPlot p fun q => { q with chkcnt := 0 }
  | .drlparretry p => s.modPlot p fun q => { q with drlParretry := 0 }
  | .tillpar p => s.modPlot p fun q => { q with drlTillpar := 0 }
  | _ => s

/-! ### Storing a word -/

/-- A 48-bit value with a new low or high word. -/
def put48 (old : BitVec 48) (hi : Bool) (v : W32) : BitVec 48 :=
  if hi then BitVec.ofNat 48 (v.toNat % 2 ^ 16 * 2 ^ 32 + old.toNat % 2 ^ 32)
  else BitVec.ofNat 48 (old.toNat / 2 ^ 32 * 2 ^ 32 + v.toNat)

/-- Stores the fields of an RWP or RW word that hold a value. Fields that act on a write of 1 and read 0 are not stored. -/
def State.storeReg (s : State) (r : Reg) (v : W32) : State :=
  match r with
  | .planbase hi => { s with job := { s.job with planbase := put48 s.job.planbase hi v } }
  | .jobcfg => { s with job := { s.job with waitslow := bit v 31, steptous := BitVec.ofNat 26 v.toNat } }
  | .jobctl => { s with job := { s.job with haltat := bit v 1, haltnext := bit v 0 } }
  | .haltrow hi => { s with job := { s.job with haltrow := put48 s.job.haltrow hi v } }
  | .restart => { s with rcv := { s.rcv with restore := bit v 1 } }
  | .restartrow hi => { s with rcv := { s.rcv with restartrow := put48 s.rcv.restartrow hi v } }
  | .buddylist hi => { s with rcv := { s.rcv with buddylist := put48 s.rcv.buddylist hi v } }
  | .buddyctl => { s with rcv := { s.rcv with target := BitVec.ofNat 12 (bits v 23 12), owner := BitVec.ofNat 12 (bits v 11 0) } }
  | .retbase hi => { s with rcv := { s.rcv with retbase := put48 s.rcv.retbase hi v } }
  | .fbcfg => { s with fb := { s.fb with fbcfg := v } }
  | .fbres => { s with fb := { s.fb with extra := BitVec.ofNat 16 v.toNat } }
  | .layout =>
    { s with mem := { s.mem with regs := { s.mem.regs with masks := bit v 13, mode := bit v 12, guardu := bits v 10 0 } } }
  | .scrubcfg => { s with mem := { s.mem with scrubPeriod := BitVec.ofNat 8 v.toNat } }
  | .hashmask b =>
    { s with mem := { s.mem with regs := { s.mem.regs with hash := s.mem.regs.hash.set b.val (BitVec.ofNat 25 v.toNat) } } }
  | .rgn n => { s with mem := { s.mem with regs := { s.mem.regs with rgn := s.mem.regs.rgn.set n.val v } } }
  | .tocfg =>
    { s with smod := { s.smod with action := BitVec.ofNat 2 (bits v 31 30), defaultus := BitVec.ofNat 26 v.toNat } }
  | .dumpbase hi =>
    let old := s.smod.dumpbase.toNat
    let n := if hi then bits v 15 0 * 2 ^ 32 + old % 2 ^ 32 else old / 2 ^ 32 * 2 ^ 32 + bits v 15 0 * 2 ^ 16
    { s with smod := { s.smod with dumpbase := BitVec.ofNat 48 n } }
  | .qcmd d => s.modUnit d fun u =>
      { u with qop := BitVec.ofNat 4 (bits v 31 28), qqueue := BitVec.ofNat 12 (bits v 11 0), qbusy := true }
  | .qdata d => s.modUnit d fun u => { u with qdata := v }
  | .kufnode => { s with kuf := { s.kuf with node := BitVec.ofNat 12 v.toNat } }
  | .portctl k => s.modKport k fun x => { x with enable := bit v 0 }
  | .target => { s with pwr := { s.pwr with tmode := bit v 31, tfreq := BitVec.ofNat 7 v.toNat } }
  | .strip i => s.modStrip i fun x => { x with capfreq := BitVec.ofNat 7 (bits v 14 8), freq := BitVec.ofNat 7 (bits v 6 0) }
  | .pwrcap => { s with pwr := { s.pwr with cap := v } }
  | .pwrcfg => { s with pwr := { s.pwr with cfg := v } }
  | .pwrtill => { s with pwr := { s.pwr with till := v } }
  | .pwrsow => { s with pwr := { s.pwr with sow := v } }
  | .evrctl => { s with evr := { s.evr with qen := BitVec.ofNat 8 v.toNat } }
  | .qcfg q => { s with evr := { s.evr with qcfg := s.evr.qcfg.set q.val v } }
  | .slicemode d => s.modDie d fun x => { x with slicemode := BitVec.ofNat 12 v.toNat }
  | .flashctl => { s with sbd := { s.sbd with flashop := BitVec.ofNat 4 (bits v 31 28) } }
  | .flashaddr hi => { s with sbd := { s.sbd with flashaddr := put48 s.sbd.flashaddr hi v } }
  | .recov => { s with sbd := { s.sbd with program := bit v 1 } }
  | .irqen h => s.modPci h fun x => { x with irqen := BitVec.ofNat 4 v.toNat }
  | .win h w => s.modPci h fun x => { x with wins := x.wins.set w.val v }
  | .msix h i => s.modPci h fun x => { x with msix := x.msix.set i.val v }
  | .cntctl => { s with dbg := { s.dbg with count := bit v 31, snap := bit v 30, rows := BitVec.ofNat 16 v.toNat } }
  | .snapbase hi => { s with dbg := { s.dbg with snapbase := put48 s.dbg.snapbase hi v } }
  | .stopmap hi =>
    { s with dbg := { s.dbg with stopmap := put48 s.dbg.stopmap hi v, stopmapEn := if hi then bit v 31 else s.dbg.stopmapEn } }
  | .trigall => { s with dbg := { s.dbg with spread := bit v 1 } }
  | .trckind d => s.modTrace d fun t => { t with kinds := v }
  | .trig d => s.modTrace d fun t => { t with src := BitVec.ofNat 4 (bits v 31 28) }
  | .trigval d => s.modTrace d fun t => { t with trigval := v }
  | .trcpage d => s.modTrace d fun t => { t with page := BitVec.ofNat 5 v.toNat }
  | .dbgwatch d n =>
    s.modDbgWatch d n fun w => { w with n := BitVec.ofNat 7 (bits v 18 12), queue := BitVec.ofNat 12 (bits v 11 0) }
  | .harspillbase p => s.modPlot p fun q => { q with harSpillbase := BitVec.ofNat 21 v.toNat }
  | .drlspillbase p => s.modPlot p fun q =>
      if q.seq.stopping.isSome then { q with drlSpillnext := some (BitVec.ofNat 21 v.toNat) }
      else { q with drlSpillbase := BitVec.ofNat 21 v.toNat, drlSpillnext := none }
  | .psaddr p => s.modPlot p fun q => { q with psaddr := BitVec.ofNat 21 v.toNat }
  | .cntsel p n =>
    (s.settle p).modPlot p fun q => { q with counters := q.counters.set n.val { q.counters.get n with sel := v } }
  | .cnttag p n =>
    (s.settle p).modPlot p fun q => { q with counters := q.counters.set n.val { q.counters.get n with tag := v } }
  | _ => s

end Sys2Proof.Machine
end

