-- ==== Sys2Proof/Machine/Startup.lean ====
section
/-! DEFINITION. Start-up and the seedbed image (chapter 16): the checks of an image, the load of the configuration block and of
the calibration table, half arbitration, recovery, flash operations, resets and the pins that cause them (chapter 19). -/

namespace Sys2Proof.Machine

/-! ### The image (R383-R385) -/

/-- A source of image bytes: n bytes from an offset. -/
abbrev Bytes := Nat → Nat → List Byte

/-- The flash as a source of bytes (R383). -/
def Sbd.flashBytes (x : Sbd) : Bytes := fun o n => cellsGet 0xFF x.flash o n

/-- The ORDER bit of an order code. -/
def orderBit : OrderCode → Nat
  | .m1152 => 0
  | .m576 => 1

/-- The fields of an image header hold stated values, and LENGTH and FWLEN lie in range (R384, R385 items 1 and 2). -/
def headerFieldsOk (o : OrderCode) (b : List Byte) : Bool :=
  let w := fun k => wordAt b k
  let len := (w 0x0C).toNat
  let fw := (w 0x10).toNat
  w 0 = 0x53424544#32 && w 4 = 1 && w 8 ≠ 0 && len % 4096 = 0 && decide (0x20000 ≤ len) && decide (len ≤ 0x1000000)
    && fw ≠ 0 && decide (0x10000 + fw ≤ len) && w 0x14 = 0xB0#32 && w 0x18 = w32 (orderBit o)
    && ((b.drop 0x1C).take 0xE4).all (fun x => x = 0) && (b.drop 0x1C0).all fun x => x = 0xFF

/-- The slot of the key store that holds a digest and is enabled (R385 item 3). -/
def keyEnabled (keys : Vector KeySlot 4) (d : BitVec 384) : Bool := keys.toList.any fun k => k.enabled && k.digest = d

/-- SEQ of a valid image and the digest that its signature signs (R385). -/
def imageValid (o : OrderCode) (keys : Vector KeySlot 4) (rd : Bytes) : Option (W32 × BitVec 384) :=
  let b := rd 0 0x1000
  let pub := (b.drop 0x100).take 96
  let num := fun (k : Nat) => bigEndian ((b.drop k).take 48)
  if !headerFieldsOk o b || !keyEnabled keys (digest384 pub) then none
  else
    let h := sha384 (b.take 0x100 ++ rd 0x1000 ((wordAt b 0x0C).toNat - 0x1000))
    if ecdsaOk (num 0x100) (num 0x130) (num 0x160) (num 0x190) (bigEndian h) then
      some (wordAt b 8, BitVec.ofNat 384 (natOfBytes h))
    else none

/-- The recovery window of a port: base-store slice 0 of base die 0 or 4 (R393). -/
def recoveryBase : HostPort → Nat
  | .a => 0x020000000000
  | .b => 0x020000000000 + 48 * 0x02000000

/-- The copy of a half's service controller. -/
def Sbd.copy (x : Sbd) : Half → Option (W32 × BitVec 384)
  | .a => x.copyA
  | .b => x.copyB

/-- A half's service controller takes a copy, and claims with its SEQ and the complement (R389). -/
def Sbd.setCopy (x : Sbd) (h : Half) (c : Option (W32 × BitVec 384)) : Sbd :=
  match h with
  | .a => { x with copyA := c }
  | .b => { x with copyB := c }

/-- A claim of a half (R389). -/
def Sbd.setClaim (x : Sbd) (h : Half) (seq : W32) : Sbd :=
  match h with
  | .a => { x with claimA := seq, claimAC := ~~~seq }
  | .b => { x with claimB := seq, claimBC := ~~~seq }

/-- A half's claim; one whose complement does not match is absent (R389). -/
def Sbd.claim (x : Sbd) : Half → Option W32
  | .a => if x.claimAC = ~~~x.claimA then some x.claimA else none
  | .b => if x.claimBC = ~~~x.claimB then some x.claimB else none

/-- The other half. -/
def otherHalf : Half → Half
  | .a => .b
  | .b => .a

/-- Reads the flash and checks the image: a valid copy is claimed (R380 steps 4 to 6, R389, R391). -/
def Sbd.readImage (x : Sbd) (h : Half) : Sbd :=
  let c := imageValid x.order x.keys x.flashBytes
  match c with
  | some (seq, _) => (x.setCopy h c).setClaim h seq
  | none => x.setCopy h none

/-! ### The configuration block (R386, R387) -/

/-- Where a word of the configuration block goes. -/
inductive CfgTarget where
  | control | buddy | enables | layout | reg (r : Reg) | unused
  deriving DecidableEq, Repr

/-- The target of the word at an offset of the configuration block (R386). -/
def cfgTarget (o : Nat) : CfgTarget :=
  if o = 0 then .control
  else if o = 0x04 then .reg .kufnode
  else if o = 0x08 then .reg .target
  else if o = 0x0C then .reg .pwrcap
  else if o = 0x10 then .reg .pwrcfg
  else if o = 0x14 then .reg .pwrtill
  else if o = 0x18 then .reg .pwrsow
  else if o = 0x1C then .reg .tocfg
  else if o = 0x20 then .reg (.dumpbase false)
  else if o = 0x24 then .reg (.dumpbase true)
  else if o = 0x28 then .reg .jobcfg
  else if o = 0x2C then .buddy
  else if o = 0x30 then .reg .fbcfg
  else if o = 0x34 then .layout
  else if o = 0x38 then .reg .scrubcfg
  else if o = 0x3C then .reg .evrctl
  else if o = 0x40 then .enables
  else if o < 0x5C then .reg (.hashmask (Fin.ofNat 6 ((o - 0x44) / 4)))
  else if o < 0x60 then .unused
  else if o < 0xA0 then .reg (.rgn (Fin.ofNat 16 ((o - 0x60) / 4)))
  else if o < 0xC0 then .reg (.slicemode (Fin.ofNat 8 ((o - 0xA0) / 4)))
  else if o < 0xE0 then .reg (.qcfg (Fin.ofNat 8 ((o - 0xC0) / 4)))
  else if 0x100 ≤ o ∧ o < 0x240 then .reg (.strip (Fin.ofNat 80 ((o - 0x100) / 4)))
  else .unused

/-- The fields of a word of the configuration block. GUARDU has its range and default here (R206). -/
def CfgTarget.fields (o : OrderCode) : CfgTarget → List Field
  | .control => [rsv 30 0]
  | .buddy => [rsv 31 22, rng 21 20 0 2 0, rsv 19 0]
  | .enables => [rsv 31 8]
  | .layout => [rsv 30 14, anyF 13 13 0, anyF 12 12 0, rsv 11 11, rng 10 0 1 (units o) (Layout.seedbed o).guardu]
  | .reg r => r.fields
  | .unused => [rsv 31 0]

/-- Bits that the load ignores: APPLY, and FLUSH, CLEARHIST and BBERASE (R386). -/
def CfgTarget.ignored : CfgTarget → W32
  | .layout => 0x80000000
  | .reg .evrctl => 0xE0000000
  | _ => 0

/-- A word with another value in a field. -/
def Field.put (f : Field) (v : W32) (n : Nat) : W32 := w32 (v.toNat - bits v f.hi f.lo * 2 ^ f.lo + n * 2 ^ f.lo)

/-- A word after the defaults of its fields, and the values that were out of range (R387). -/
def loadFields (fs : List Field) (v : W32) : W32 × List Nat :=
  fs.foldl (fun acc f => if f.ok v then acc else (f.put acc.1 f.dflt, acc.2 ++ [bits v f.hi f.lo])) (v, [])

/-- Rules between fields: a breach sets every field of the rule to its default (R387; R349, R206). -/
def CfgTarget.between (t : CfgTarget) (v : W32) : W32 × List Nat :=
  match t with
  | .reg .pwrcap =>
    if bits v 11 0 < bits v 27 16 then (w32 (2400 * 2 ^ 16 + 2800), [bits v 27 16, bits v 11 0]) else (v, [])
  | .reg (.rgn _) =>
    if bit v 31 && bits v 10 0 = 0 then (v &&& 0x7FFFFFFF, [0]) else (v, [])
  | _ => (v, [])

/-- A word as it is loaded, and the values that took a default. -/
def CfgTarget.load (o : OrderCode) (t : CfgTarget) (v : W32) : W32 × List Nat :=
  let (w, bad) := loadFields (t.fields o) (v &&& ~~~t.ignored)
  let (w2, bad2) := t.between w
  (w2, bad ++ bad2)

/-- Stores a loaded word. -/
def State.storeCfg (s : State) (t : CfgTarget) (v : W32) : State :=
  match t with
  | .control => { s with sbd := { s.sbd with ctlhost := if bit v 31 then .b else .a } }
  | .buddy => { s with rcv := { s.rcv with policy := BitVec.ofNat 2 (bits v 21 20) } }
  | .enables => s.forEach allPorts fun s k => s.modKport k fun x => { x with enable := bit v k.val }
  | .layout => s.storeReg .layout v
  | .reg r => s.storeReg r v
  | .unused => s

/-- A notice that a word of the flash took a default: its flash offset, and the value read (R387). -/
def State.defaulted (s : State) (off v : Nat) : State := s.notice 5 off [v]

/-- Notices of a word's defaults, and CFGDEF (R387). -/
def State.cfgNotices (s : State) (off : Nat) (bad : List Nat) : State :=
  let s1 := s.forEach bad fun s v => s.defaulted off v
  if bad.isEmpty then s1 else { s1 with sbd := { s1.sbd with cfgdef := true } }

/-! ### Layouts (R196, R197) -/

/-- The explicit table covers the module without gaps: each valid entry begins where the one before it ends, the first at 0,
and no invalid entry stands between valid ones (R196). -/
def regionsJoin (us : Nat) : Nat → List Region → Bool
  | at_, [] => at_ = us
  | at_, r :: rest => r.base = at_ && regionsJoin us (at_ + r.size) rest

/-- The valid entries stand together. -/
def validRun (l : List W32) : Bool :=
  ((l.dropWhile fun w => !bit w 31).dropWhile fun w => bit w 31).all fun w => !bit w 31

/-- The REASON for which a layout is refused, if it is (R197, R206). -/
def Layout.refusal (l : Layout) (o : OrderCode) : Option Nat :=
  let valid := l.rgn.toList.filter fun w => bit w 31
  let reserved := if l.mode then valid.any fun w => bits w 28 22 ≠ 0 || bits w 10 0 = 0
    else l.guardu = 0 || decide (units o < l.guardu)
  if reserved then some 1
  else if l.mode && !(validRun l.rgn.toList && regionsJoin (units o) 0 (l.regions o)) then some 2
  else if !(l.regions o).any fun r => r.guarded then some 3
  else if l.masksInUse.toList.any fun m => m = 0 then some 4
  else none

/-! ### Loading at step 8 (R387, R388, R397) -/

/-- The range and the default of a memory timing (R388). -/
def timingField (i : Nat) : List Field :=
  let r := ([(40, 400, 72), (40, 400, 72), (80, 800, 168), (200, 4000, 1120), (4000, 32000, 15600), (60, 400, 136),
    (40, 400, 80)] : List (Nat × Nat × Nat))
  match r[i]? with
  | some (lo, hi, d) => [rsv 31 16, rng 15 0 lo hi d]
  | none => [rsv 31 0]

/-- The image that the lead half runs: the flash's, or one that was pushed through the recovery window of its half's port
(R393). -/
def State.imageSource (s : State) : Bytes := fun o n =>
  match s.sbd.pushed with
  | some h => if s.sbd.winner = some (halfOfPort h) then s.memBytes (recoveryBase h + o) n else s.sbd.flashBytes o n
  | none => s.sbd.flashBytes o n

/-- Loads the word at an offset of the configuration block; the words loaded so far are in the other component. -/
def State.loadCfgWord (x : List W32 × State) (i : Nat) : List W32 × State :=
  let (ws, s) := x
  let t := cfgTarget (4 * i)
  let off := 0x1000 + 4 * i
  let (v, bad) := t.load s.sbd.order (wordAt (s.imageSource off 4) 0)
  (ws ++ [v], (s.storeCfg t v).cfgNotices off bad)

/-- Loads the word at an offset of the memory timing block. -/
def State.loadTimingWord (x : List W32 × State) (i : Nat) : List W32 × State :=
  let (ws, s) := x
  let off := 0x2000 + 4 * i
  let (v, bad) := loadFields (timingField i) (wordAt (s.imageSource off 4) 0)
  let s1 := if h : i < 7 then { s with sbd := { s.sbd with timings := s.sbd.timings.set i v.toNat } } else s
  (ws ++ [v], s1.cfgNotices off bad)

/-- A seedbed layout that breaks R196 is replaced by the default layout, with an entry (R197, R387). -/
def State.checkSeedLayout (s : State) : State :=
  match s.mem.regs.refusal s.sbd.order with
  | none => s
  | some _ =>
    let old := s.mem.regs.word
    let s1 := { s with mem := { s.mem with regs := .seedbed s.sbd.order } }
    s1.cfgNotices 0x1034 [old.toNat]

/-- Loads the configuration block and the timing block (R386-R388). -/
def State.loadConfig (s : State) : State :=
  let (ws1, s1) := (List.range 1024).foldl State.loadCfgWord ([], s)
  let (ws2, s2) := (List.range 1024).foldl State.loadTimingWord ([], s1)
  let s3 := s2.checkSeedLayout
  { s3 with sbd := { s3.sbd with cfgDigest := some (digest384 (bytesOfWords (ws1 ++ ws2))) } }

/-- A calibration field: its offset and width in bytes, whether it is signed, its range and its default. Reserved fields have
the range 0. -/
structure CalField where
  off : Nat
  width : Nat
  signed : Bool
  min : Int
  max : Int
  dflt : Int
  deriving DecidableEq, Repr

/-- A 16-bit field of the table. -/
def calHalf (off : Nat) (signed : Bool) (mn mx d : Int) : CalField :=
  { off := off, width := 2, signed := signed, min := mn, max := mx, dflt := d }
/-- A reserved field. -/
def calRsv (off width : Nat) : CalField := { off := off, width := width, signed := false, min := 0, max := 0, dflt := 0 }

/-- The fields of a die record, without its curve (R395, R396). -/
def dieFields (d : Nat) : List CalField :=
  let b := 0x40 + 0x80 * d
  ((List.range 15).map fun k => calHalf (b + 0x20 + 2 * k) false 1 65535 ((Calib.default.coef.toList.getD d (Vector.replicate 15 1)).toList.getD k 1))
    ++ [calRsv (b + 0x3E) 2, calHalf (b + 0x40) false 100 400 220, calRsv (b + 0x42) 2]
    ++ (List.range 15).map fun k => calRsv (b + 0x44 + 4 * k) 4

/-- The fields of the table outside the curves (R395, R396). -/
def calFields : List CalField :=
  ((List.range 13).map fun k => calRsv (0x0C + 4 * k) 4) ++ (List.range 8).flatMap dieFields
    ++ ((List.range 80).flatMap fun s => [calHalf (0x440 + 4 * s) true (-100) 100 0, calHalf (0x442 + 4 * s) false 10 1000 250])
    ++ ((List.range 24).map fun p => calHalf (0x580 + 2 * p) true (-100) 100 0)
    ++ [calHalf 0x5B0 false 1000 10000 4200, calHalf 0x5B2 false 820 1020 942, calHalf 0x5B4 true (-500) 500 0,
        calHalf 0x5B6 true (-3277) 3277 0]

/-- The bytes of a field as a number. -/
def CalField.raw (f : CalField) (b : List Byte) : Nat := natOfBytes ((b.drop f.off).take f.width)

/-- The value of a field. -/
def CalField.value (f : CalField) (b : List Byte) : Int :=
  let n := f.raw b
  if f.signed && decide (0x8000 ≤ n) then (n : Int) - 0x10000 else n

/-- A field is in range. -/
def CalField.ok (f : CalField) (b : List Byte) : Bool := decide (f.min ≤ f.value b) && decide (f.value b ≤ f.max)

/-- The points of a die's curve as (F, V), used or not. -/
def curvePoints (b : List Byte) (d : Nat) : List (Nat × Nat) :=
  (List.range 8).map fun j =>
    let w := wordAt b (0x40 + 0x80 * d + 4 * j)
    (bits w 22 16, bits w 7 0)

/-- The used points of a curve. -/
def usedPoints (l : List (Nat × Nat)) : List (Nat × Nat) := l.filter fun x => x.1 ≠ 0

/-- F rises strictly and V does not fall. -/
def curveRises : List (Nat × Nat) → Bool
  | x :: y :: r => decide (x.1 < y.1) && decide (x.2 ≤ y.2) && curveRises (y :: r)
  | _ => true

/-- A curve is in range (R396). -/
def curveOk (l : List (Nat × Nat)) : Bool :=
  let u := usedPoints l
  (l.take u.length).all (fun x => x.1 ≠ 0) && (u.head?.map (·.1)) = some 32 && (u.getLast?.map (·.1)) = some 120
    && u.all (fun x => decide (96 ≤ x.2) && decide (x.2 ≤ 180)) && curveRises u

/-- The bytes of the default curve (R396). -/
def defaultCurve : List Byte := bytesOfWords [w32 (32 * 2 ^ 16 + 100), w32 (80 * 2 ^ 16 + 124), w32 (120 * 2 ^ 16 + 170), 0, 0, 0, 0, 0]

/-- A die's curve after R397: reserved bits are 0, and a curve that breaks its range is replaced as a whole. -/
def loadCurve (x : List Byte × State) (d : Nat) : List Byte × State :=
  let base := 0x40 + 0x80 * d
  let step := fun (x : List Byte × State) (j : Nat) =>
    let (b, s) := x
    let w := wordAt b (base + 4 * j)
    let (v, bad) := loadFields [rsv 31 23, rsv 15 8] w
    (patch b (base + 4 * j) (bytesOfWord v), s.forEach bad fun s n => s.defaulted (0x1000000 + base + 4 * j) n)
  let (b, s) := (List.range 8).foldl step x
  if curveOk (curvePoints b d) then (b, s)
  else (patch b base defaultCurve, s.defaulted (0x1000000 + base) (wordAt b base).toNat)

/-- A field of the table after R397. -/
def loadCalField (x : List Byte × State) (f : CalField) : List Byte × State :=
  let (b, s) := x
  if f.ok b then x
  else (patch b f.off (bytesOfNat f.width (f.dflt % 2 ^ 32).toNat), s.defaulted (0x1000000 + f.off / 4 * 4) (f.raw b))

/-- The calibration values of a table's bytes (R395). -/
def Calib.ofBytes (b : List Byte) : Calib :=
  let u := fun (o : Nat) => natOfBytes ((b.drop o).take 2)
  let i := fun (o : Nat) => (calHalf o true 0 0 0).value b
  { curves := Vector.ofFn fun (d : Fin 8) => usedPoints (curvePoints b d.val)
    coef := Vector.ofFn fun (d : Fin 8) => Vector.ofFn fun (k : Fin 15) => u (0x60 + 0x80 * d.val + 2 * k.val)
    ddouble := Vector.ofFn fun (d : Fin 8) => u (0x80 + 0x80 * d.val)
    i85 := Vector.ofFn fun (s : Fin 80) => u (0x442 + 4 * s.val)
    toff := Vector.ofFn fun (s : Fin 80) => i (0x440 + 4 * s.val)
    poff := Vector.ofFn fun (p : Fin 24) => i (0x580 + 2 * p.val)
    eta := u 0x5B2, pfix := u 0x5B0, sgain := i 0x5B6, soff := i 0x5B4 }

/-- MAGIC, FORMAT and CRC of a calibration table hold (R395, R397). -/
def calibSound (b : List Byte) : Bool :=
  let c := crc32 (b.take 0xFFF8)
  wordAt b 0 = 0x5A43414C#32 && bits (wordAt b 4) 15 0 = 1 && wordAt b 0xFFF8 = c && wordAt b 0xFFFC = ~~~c

/-- A table also keeps every range of R396 (R398). -/
def calibInRange (b : List Byte) : Bool :=
  calibSound b && (calFields.all fun f => f.min = f.max || f.ok b) && (List.range 8).all fun d => curveOk (curvePoints b d)

/-- Loads the calibration table, or takes its defaults (R397). -/
def State.loadCalib (s : State) : State :=
  let b := s.sbd.flashBytes 0x1000000 0x10000
  if calibSound b then
    let (b1, s1) := (List.range 8).foldl loadCurve (b, s)
    let (b2, s2) := calFields.foldl loadCalField (b1, s1)
    { s2 with sbd := { s2.sbd with calib := .ofBytes b2, calDigest := some (digest384 b2) } }
  else
    let s1 := { s with sbd := { s.sbd with calib := .default, caldef := true, calDigest := none } }
    s1.raiseLead { s1.mkErr 0x0901 .recoverable srcService 0 [5] with need := 0 }

/-! ### Resets (R378, R379) -/

/-- The new contents of the flash after an image has been programmed (R393 step 5). -/
def programImage (fl : List Host.Cell) (b : List Byte) : List Host.Cell := cellsBlit 0xFF fl 0 b

/-- Where the image of a flash operation lies in device memory. -/
def FlashOp.source : FlashOp → Nat
  | .image a => a
  | .calWrite a => a
  | .calRead a => a
  | .pushed h _ => recoveryBase h

/-- The image of a flash operation. -/
def State.sourceBytes (s : State) (f : FlashOp) : Bytes := fun o n => s.memBytes (f.source + o) n

/-- The bytes that an operation of an image writes to the flash. -/
def State.imageBytes (s : State) (f : FlashOp) : List Byte :=
  let rd := s.sourceBytes f
  rd 0 (wordAt (rd 0x0C 4) 0).toNat

/-- The table that a calibration write programs (R398 step 3). -/
def State.calibBytes (s : State) (f : FlashOp) : List Byte :=
  let b := s.sourceBytes f 0 0x10000
  let w4 := bits (wordAt b 4) 15 0 + 2 ^ 16
  let b1 := (patch (patch b 4 (bytesOfNat 4 w4)) 8 (bytesOfNat 4 ((wordAt b 8).toNat + 1))).take 0xFFF8
  let c := crc32 b1
  b1 ++ bytesOfWords [c, ~~~c]

/-- The operation writes the flash: its checks hold. -/
def State.flashWrites (s : State) (f : FlashOp) : Bool :=
  match f with
  | .image _ => (imageValid s.sbd.order s.sbd.keys (s.sourceBytes f)).isSome
  | .calWrite _ => calibInRange (s.sourceBytes f 0 0x10000)
  | .calRead _ => false
  | .pushed _ program => program && (imageValid s.sbd.order s.sbd.keys (s.sourceBytes f)).isSome

/-- A flash operation that a reset or the end of the supply cuts short: the flash is unchanged, or it is erased and holds a
free part of what was to be programmed. No valid image or table then remains (R394, R399). -/
def State.cutFlash (s : State) : State :=
  match s.sbd.busy with
  | none => s
  | some f =>
    let s1 := { s with sbd := { s.sbd with busy := none } }
    if !s.flashWrites f then s1
    else
      let (v, s2) := s1.free
      if v = 0 then s2
      else
        let fl := match f with
          | .calWrite _ =>
            let b := (s.calibBytes f).take (v % 0xFFF9)
            cellsBlit 0xFF s.sbd.flash 0x1000000 (b ++ List.replicate (0x10000 - b.length) 0xFF)
          | _ =>
            let b := s.imageBytes f
            let body := (b.drop 0x1000).take (v % (b.length - 0x1000 + 1))
            let hole := List.replicate (b.length - 0x1000 - body.length) (0xFF : Byte)
            cellsBlit 0xFF s.sbd.flash 0 (List.replicate 0x1000 0xFF ++ body ++ hole)
        { s2 with sbd := { s2.sbd with flash := fl } }

/-- Pieces of the black box that a step of an erase zeroes (R377). -/
def EraseStep.pieces : EraseStep → List (Nat × Nat)
  | .waitFlush => []
  | .headers => [(0, 0x8000), (0x8000, 0x8000)] ++ (List.range 7).map fun k => (slotOffset k, 0x1000)
  | .superblock => []
  | .slots => (List.range 7).map fun k => (slotOffset k + 0x1000, 0x80000)

/-- An erase that is cut short has zeroed a free number of its pieces. -/
def State.cutErase (s : State) : State :=
  match s.evr.erase with
  | none => s
  | some e =>
    let (v, s1) := s.free
    let s2 := s1.forEach (e.pieces.take (v % (e.pieces.length + 1))) fun s x => s.bbWrite x.1 (zeros x.2)
    { s2 with evr := { s2.evr with erase := none } }

/-- Module reset: every register takes its reset value and start-up begins. The black box, the flash, the fuses and the levels
of the pins are kept (R378). -/
def State.rebooted (s : State) : State :=
  let k := (s.abandonFlush.cutErase).cutFlash
  let o := s.sbd.order
  { State.reset with
    pending := s.pending
    freeCtr := k.freeCtr
    smod := .reset o
    mem := .reset o
    evr := { Evr.reset with blackbox := k.evr.blackbox }
    sbd := { Sbd.reset with flash := k.sbd.flash, order := o, serial := s.sbd.serial, keys := s.sbd.keys,
                            planDigest := s.sbd.planDigest }
    pins := { s.pins with feedid := 0, feedKept := false, recoverySampled := true, ownerB := false, sbAddr := none,
                          sbPtr := 0, sbOut := 0 } }

/-- A module reset by any cause that acts while the rails are on. -/
def State.moduleReset (s : State) : State := if s.pwr.railsOn then s.rebooted else s

/-- A waiting request when its port is reset: a memory write keeps the device address that its window gave it, a read has no
one to answer, and register writes wait on (R405, R413). -/
def HeldReq.atReset (wins : Vector W32 8) : HeldReq → Option HeldReq
  | .write off data =>
    let w := wins.toList.getD (off / 2 ^ 34) 0
    if bit w 31 then some (.store (bits w 17 0 * 2 ^ 30 + off % 2 ^ 34) data) else none
  | .read _ _ => none
  | .regRead _ _ => none
  | q => some q

/-- The reset of a port: its link, its configuration space, its BARs and its PCI block. Writes and token writes that it has
received go on (R379, R405, R413). -/
def State.portReset (s : State) (h : HostPort) : State :=
  s.modPci h fun x => { Pci.reset with tokens := x.tokens, stalled := x.stalled.filterMap (HeldReq.atReset x.wins) }

/-- MODULE_RESET (R378). -/
def execModuleReset (s : State) : Host.Outcome State Fault Refusal := .next s.moduleReset

/-- PERST_BOTH: both PERST signals low for 1 ms (R378). -/
def execPerstBoth (s : State) : Host.Outcome State Fault Refusal :=
  .next { s with pins := { s.pins with perstA := false, perstB := false } }.moduleReset

/-- PERST_ONE: a PERST signal changes: low resets its own port (R379). -/
def execPerstOne (h : HostPort) (high : Bool) (s : State) : Host.Outcome State Fault Refusal :=
  let s1 : State := { s with pins := match h with
    | .a => { s.pins with perstA := high }
    | .b => { s.pins with perstB := high } }
  .next (if high then s1 else s1.portReset h)

/-! ### The supply (R382, R457, R458) -/

/-- PWR_FAIL_N is low, driven by the rack or by the module. -/
def Pins.failLow (p : Pins) : Bool := !p.pwrFailN || p.driveFail

/-- Start-up has not ended step 7: PWR_FAIL_N low holds it, and makes no record (R382). -/
def Sbd.early (x : Sbd) : Bool :=
  decide (x.step.toNat < 8) && (x.state = .starting || x.state = .recovery || x.state = .checking)

/-- A low of PWR_FAIL_N: class 0x0703 once step 7 has ended (R382, R458). -/
def State.powerFail (s : State) : State :=
  if !s.pwr.railsOn || s.sbd.early then s
  else s.raiseLead { s.mkErr 0x0703 .moduleFatal srcPower 0 [] with need := 0 }

/-- PWR_FAIL_N: the rack's level has changed. When the line reads high again a start-up that was held restarts, and a module
whose rails are off restarts when its input is above the start threshold (R382, R458, R463). -/
def execPwrFailN (high : Bool) (s : State) : Host.Outcome State Fault Refusal :=
  let s1 : State := { s with pins := { s.pins with pwrFailN := high } }
  if s.pins.failLow = s1.pins.failLow then .next s1
  else if s1.pins.failLow then .next s1.powerFail
  else if s1.pwr.railsOn then .next (if s1.sbd.early then s1.rebooted else s1)
  else .next (if s1.pins.supply then s1.rebooted else s1)

/-- SUPPLY_FAILURE_THRESHOLD: the module drives PWR_FAIL_N low (R457, R458). -/
def execSupplyFailureThreshold (s : State) : Host.Outcome State Fault Refusal :=
  let s1 : State := { s with pins := { s.pins with supply := false, driveFail := true } }
  .next (if s.pins.failLow then s1 else s1.powerFail)

/-- HOLD_UP_END: every rail is turned off (R458). A start-up that PWR_FAIL_N holds keeps its rails while its input is in
range (R382). What is not kept without supply is gone (R462). -/
def execHoldUpEnd (s : State) : Host.Outcome State Fault Refusal :=
  if !s.pins.failLow || !s.pwr.railsOn || (s.sbd.early && s.pins.supply) then .next s
  else
    let s1 := ((s.abandonFlush.cutErase).cutFlash.portReset .a).portReset .b
    .next { s1 with pwr := { s1.pwr with railsOn := false } }

/-- SUPPLY_RISE: the input has risen above the start threshold: a module reset, once PWR_FAIL_N is high. THERM_TRIP_N is held
low from here, and no plan has been started (R378, R456, R457). -/
def execSupplyRise (s : State) : Host.Outcome State Fault Refusal :=
  if s.pins.supply && s.pwr.railsOn then .next s
  else
    let s1 : State := { s with
      pins := { s.pins with supply := true, driveFail := false, thermTripN := false }
      sbd := { s.sbd with planDigest := 0 } }
    .next (if s1.pins.pwrFailN then s1.rebooted else s1)

/-! ### Start-up (R380-R382) -/

/-- Start-up runs: not in recovery, not fallow, not held by PWR_FAIL_N. -/
def State.startsUp (s : State) : Bool :=
  s.sbd.state = .starting && !s.evr.fallow && s.pwr.railsOn && !(s.pins.failLow && s.sbd.early)

/-- Start-up goes on with a step. -/
def State.toStep (s : State) (n : Nat) : State := { s with sbd := { s.sbd with step := BitVec.ofNat 4 n } }

/-- Step 7: the superblock's NEXTSEQ is loaded. With no valid superblock its value is free. -/
def State.loadNextseq (s : State) : State :=
  match superOffset s.evr.blackbox with
  | some o => { s with evr := { s.evr with nextseq := wordAt (cellsGet 0 s.evr.blackbox (o + 8) 4) 0 } }
  | none =>
    let (v, s1) := s.free
    { s1 with evr := { s1.evr with nextseq := w32 v } }

/-- Step 9: the strips run at the floor code, and the plot stores hold zeros (R184, R380). -/
def State.powerStrips (s : State) : State :=
  let f : Strip → Strip := fun x => { x with eff := 32, decided := 32, changing := none, stopped := false }
  let g : Plot → Plot := fun q => { q with store := [] }
  let v : Fin 8 → BitVec 8 := fun d => BitVec.ofNat 8 (voltageOf (s.sbd.calib.curves.get d) 32)
  { s with pwr := { s.pwr with strips := s.pwr.strips.map f, rails := Vector.ofFn v }, plots := s.plots.map g }

/-- Step 11: DRAM holds zeros under the seedbed layout, which is in force (R197). -/
def State.initMemory (s : State) : State :=
  { s with mem := { s.mem with
      inForce := s.mem.regs, layState := 0, layReason := 0, cells := clearCells s.mem.cells 0 0x020000000000
      bad := s.mem.bad.filter fun x => decide (0x020000000000 ≤ x.1) } }

/-- Step 12: the base-store slices hold zeros, and enabled ports start SIGNAL (R199, R238). -/
def State.initSlices (s : State) : State :=
  let s1 := s.forEach (List.range 96) fun s k => s.clearSlice k
  s1.forEach allPorts fun s k => s.modKport k fun x => if x.enable then x.fresh else x

/-- Step 13: the strips move to their targets, and the module is ready (R332, R380). -/
def State.becomeReady (s : State) : State :=
  let s1 := s.forEach allStrips fun s i => s.decideCode i
  let f : Strip → Strip := fun x => { x with eff := x.decided }
  let s2 : State := { s1 with pwr := { s1.pwr with strips := s1.pwr.strips.map f } }
  let v : Fin 8 → BitVec 8 := fun d => BitVec.ofNat 8 (s2.railTarget d)
  { s2 with pwr := { s2.pwr with rails := Vector.ofFn v } }.setSbd .ready

/-- The activity of a start-up step ends, and the next step begins (R380). -/
def State.stepEnds (s : State) : State :=
  match s.sbd.step.toNat with
  | 1 => s.toStep 2
  | 2 => { s with pins := { s.pins with recoverySampled := s.pins.recoveryN, ownerB := s.pins.halfStrap } }.toStep 3
  | 3 => s.toStep 4
  | 4 => s.toStep 5
  | 5 => { s with sbd := (s.sbd.readImage .a).readImage .b }.toStep 6
  | 6 => if s.sbd.latched && s.sbd.winner.isSome then s.toStep 7 else s
  | 7 => s.loadNextseq.toStep 8
  | 8 => (s.loadConfig.loadCalib).toStep 9
  | 9 => if s.pins.thermTripN then s.powerStrips.toStep 10 else s
  | 10 => s.toStep 11
  | 11 => s.initMemory.toStep 12
  | 12 => s.initSlices.toStep 13
  | 13 => s.becomeReady
  | _ => s

/-- STARTUP_STEP_DONE (R380). -/
def execStartupStepDone (s : State) : Host.Outcome State Fault Refusal := .next (if s.startsUp then s.stepEnds else s)

/-- STARTUP_STEP_OVERRUN: step 10 allows one further attempt; other overruns are module-fatal. Steps 3 and 9 have no bound
here (R382). -/
def execStartupStepOverrun (s : State) : Host.Outcome State Fault Refusal :=
  let n := s.sbd.step.toNat
  if !s.startsUp || n = 3 || n = 9 then .next s
  else if n = 10 && !s.sbd.retrained then .next { s with sbd := { s.sbd with retrained := true } }
  else .next (s.raiseLead { s.mkErr 0x0901 .moduleFatal srcService 0 [0x0C, n] with need := 0 })

/-- THERM_TRIP_RELEASE: every strip reads 100 C or less at step 9 (R339, R456). -/
def execThermTripRelease (s : State) : Host.Outcome State Fault Refusal :=
  if s.startsUp && s.sbd.step = 9 && s.pwr.strips.toList.all fun x => decide (x.temp ≤ 1000) then
    .next { s with pins := { s.pins with thermTripN := true } }
  else .next s

/-! ### Half arbitration (R389-R391) -/

/-- A claim of one half beats that of the other: a higher SEQ, or an equal one of half A (R389). -/
def claimWins (h : Half) (mine other : W32) : Bool := decide (other < mine) || (mine = other && h = .a)

/-- A half leads: the other half runs its image when it has none of its own, or when the image was pushed (R390, R393). -/
def Sbd.latch (x : Sbd) (h : Half) : Sbd :=
  let c := x.copy h
  let y := if (x.copy (otherHalf h)).isNone || x.pushed.isSome then x.setCopy (otherHalf h) c else x
  { y with winner := some h, latched := true, seq := (c.map (·.1)).getD 0, imageDigest := (c.map (·.2)).getD 0 }

/-- The module enters recovery mode (R392). -/
def State.recover (s : State) (reason : Nat) : State :=
  { s with sbd := { s.sbd with recreason := BitVec.ofNat 4 reason } }.setSbd .recovery

/-- HALF_ARBITRATION: both claims are present, or 100 ms have passed since the first (R389). RECOVERY_N low at step 2 enters
recovery mode, and is not examined once an image has been pushed (R392, R393). -/
def execHalfArbitration (timeout : Bool) (s : State) : Host.Outcome State Fault Refusal :=
  if !s.startsUp || s.sbd.step ≠ 6 || s.sbd.latched then .next s
  else if !s.pins.recoverySampled && s.sbd.pushed.isNone then .next (s.recover 1)
  else
    match s.sbd.claim .a, s.sbd.claim .b with
    | some a, some b => .next { s with sbd := s.sbd.latch (if claimWins .a a b then .a else .b) }
    | some _, none => .next (if timeout then { s with sbd := s.sbd.latch .a } else s)
    | none, some _ => .next (if timeout then { s with sbd := s.sbd.latch .b } else s)
    | none, none => .next (s.recover 2)

/-- The result changes to another half (R391): the former lead's notice holds both SEQ values. -/
def State.changeLead (s : State) (h : Half) : State :=
  let old := s.sbd.seq
  let new := (s.sbd.claim h).getD 0
  let s1 := s.raise s.lead (s.mkErr 0x0901 .notice srcService new.toNat [0x0C, old.toNat])
  { s1 with sbd := { s1.sbd with
      winner := some h, seq := new, pending := none, seqmix := s1.sbd.seqmix || old ≠ new
      imageDigest := ((s1.sbd.copy h).map (·.2)).getD s1.sbd.imageDigest } }

/-- WATCHDOG_EXPIRY: a service controller restarts, reads and checks the image again, and claims (R391). Without a valid copy it
takes the winner's image (R390). -/
def execWatchdogExpiry (h : Half) (s : State) : Host.Outcome State Fault Refusal :=
  if s.evr.fallow || !s.pwr.railsOn || s.sbd.step.toNat < 4 then .next s
  else
    let x := s.sbd.readImage h
    match s.sbd.winner, x.copy h with
    | some w, some (seq, _) =>
      let s1 := { s with sbd := x }
      if w = h || !claimWins h seq s.sbd.seq then .next s1
      else if s1.planIdle then .next (s1.changeLead h)
      else .next { s1 with sbd := { s1.sbd with pending := some h } }
    | some w, none => .next { s with sbd := x.setCopy h (s.sbd.copy w) }
    | none, _ => .next { s with sbd := x }

/-- LEAD_CHANGE: a pending result changes once no plan runs (R391). -/
def execLeadChange (s : State) : Host.Outcome State Fault Refusal :=
  match s.sbd.pending with
  | some h => .next (if s.planIdle && !s.evr.fallow then s.changeLead h else s)
  | none => .next s

/-! ### Flash operations (R393, R394, R398) -/

/-- A flash operation ends with a RESULT (R401). -/
def State.flashEnds (s : State) (result : Nat) : State :=
  { s with sbd := { s.sbd with busy := none, result := BitVec.ofNat 3 result } }

/-- The flash takes new contents, or the write fails and leaves a part of them (R401 RESULT 0x4). -/
def State.flashStore (s : State) (f : FlashOp) (fl : List Host.Cell) (ok : Bool) : State :=
  if ok then { s with sbd := { s.sbd with flash := fl } }.flashEnds 1
  else { s with sbd := { s.sbd with busy := some f } }.cutFlash.flashEnds 4

/-- A pushed image has been checked, and programmed when that was asked for (R393). -/
def State.pushDone (s : State) (h : HostPort) (program ok : Bool) : State :=
  let f : FlashOp := .pushed h program
  match imageValid s.sbd.order s.sbd.keys (s.sourceBytes f) with
  | none => { s with sbd := { s.sbd with busy := none } }.recover 3
  | some (seq, d) =>
    let s1 := if program then s.flashStore f (programImage s.sbd.flash (s.imageBytes f)) ok
      else { s with sbd := { s.sbd with busy := none } }
    let half := halfOfPort h
    { s1 with sbd := { (s1.sbd.setCopy half (some (seq, d))).setClaim half seq with pushed := some h } }.setSbd .starting

/-- FLASH_OPERATION_DONE: the checks and the programming of an operation end; `ok` is false when a flash write fails. -/
def execFlashOperationDone (ok : Bool) (s : State) : Host.Outcome State Fault Refusal :=
  match s.sbd.busy with
  | none => .next s
  | some f =>
    if !s.pwr.railsOn then .next s
    else
      match f with
      | .image a =>
        if !s.rangeGuarded a 0x1000 then .next (s.flashEnds 5)
        else
          let len := (wordAt (s.sourceBytes f 0x0C 4) 0).toNat
          if (imageValid s.sbd.order s.sbd.keys (s.sourceBytes f)).isNone then .next (s.flashEnds 2)
          else if !s.rangeGuarded a len then .next (s.flashEnds 5)
          else .next (s.flashStore f (programImage s.sbd.flash (s.imageBytes f)) ok)
      | .calWrite a =>
        if !s.rangeGuarded a 0x10000 then .next (s.flashEnds 5)
        else if !calibInRange (s.sourceBytes f 0 0x10000) then .next (s.flashEnds 3)
        else .next (s.flashStore f (cellsBlit 0xFF s.sbd.flash 0x1000000 (s.calibBytes f)) ok)
      | .calRead a =>
        if !s.rangeGuarded a 0x10000 then .next (s.flashEnds 5)
        else .next ((s.engineWrite a (s.sbd.flashBytes 0x1000000 0x10000)).flashEnds 1)
      | .pushed h program => .next (s.pushDone h program ok)

end Sys2Proof.Machine
end

