-- ==== Sys2Proof/Machine/RegWrite.lean ====
section
/-! DEFINITION. Accepted register writes: the rules of each register, and what a write does besides its stored fields. A write
that breaks a rule of its register has no result (R15). -/

namespace Sys2Proof.Machine

/-! ### Plans and jobs (R180, R181, R291, R310, R323) -/

/-- PLT_PLANCTL: ABORT and START (R181). -/
def State.writePlanctl (s : State) (v : W32) : Option State :=
  if bit v 0 && !s.planIdle then none
  else
    let s1 := if bit v 1 && s.running then s.abortPlan else s
    some (if bit v 0 then s1.startPlan else s1)

/-- PLT_JOBCTL (R283, R285, R287, R291). -/
def State.writeJobctl (s : State) (v : W32) : Option State :=
  let now := bit v 3
  let res := bit v 2
  if now && !(s.job.state = .running || s.job.state = .halted) then none
  else if res && !(s.job.halt = .boundary || s.job.halt = .now) then none
  else
    let s1 := s.storeReg .jobctl v
    let s2 := if now then s1.haltNow none else s1
    some (if res then s2.resumeJob else s2)

/-- PLT_RESTART (R310). -/
def State.writeRestart (s : State) (v : W32) : Option State :=
  if !bit v 0 then some (s.storeReg .restart v)
  else if (s.planIdle || s.job.halt ≠ .none) && s.restartRowOk then some (s.restartPlan (bit v 1))
  else none

/-- PLT_BUDDYCTL: SET and RETURN (R314, R318, R323). -/
def State.writeBuddyctl (s : State) (v : W32) : Option State :=
  let st := s.job.stateCode
  let set := bit v 31
  let ret := bit v 30
  let runs := s.job.state = .checking || s.job.state = .running
  if set && (st = 1 || st = 2) then none
  else if ret && (runs || s.rcv.ret.isSome) then none
  else
    let s1 := s.storeReg .buddyctl v
    let s2 := if set then s1.setPairing else s1
    some (if ret then s2.beginReturn s2.rcv.owner s2.rcv.target else s2)

/-- HAR_FBRES: at a halt at a row boundary, EXTRA grows, within 65,535 units (R115). -/
def State.writeFbres (s : State) (v : W32) : Option State :=
  let cap := match s.fltBase with
    | some a => (s.fltHdrAt a).rescap
    | none => 0
  if s.job.halt ≠ .boundary || v.toNat < s.fb.extra.toNat || 65535 < cap + v.toNat then none
  else
    let free := BitVec.ofNat 16 (s.fb.resfree.toNat + v.toNat - s.fb.extra.toNat)
    let s1 := s.storeReg .fbres v
    some ({ s1 with fb := { s1.fb with resfree := free } }.notice 0x0B 0 [])

/-! ### Memory (R197, R199) -/

/-- Applies the layout of the registers, or refuses it with a REASON and a notice (R197). -/
def State.applyLayout (s : State) : State :=
  match s.mem.regs.refusal s.sbd.order with
  | some n =>
    { s with mem := { s.mem with layState := 2, layReason := BitVec.ofNat 4 n } }.notice 5 0 []
  | none =>
    let f : BaseDie → BaseDie := fun x => { x with cache := [] }
    { s with mem := { s.mem with inForce := s.mem.regs, layState := 1, layReason := 0, dies := s.mem.dies.map f } }

/-- MEM_LAYOUT (R197, R206). -/
def State.writeLayout (s : State) (v : W32) : Option State :=
  if bit v 31 && !s.planIdle then none
  else
    let s1 := s.storeReg .layout v
    some (if bit v 31 then s1.applyLayout else s1)

/-- BST_SLICEMODE: the changed slices are busy until their change is done (R199, R207). -/
def State.writeSlicemode (s : State) (d : DieIx) (v : W32) : Option State :=
  if !s.planIdle then none
  else
    let m := BitVec.ofNat 12 v.toNat
    some (s.modDie d fun x =>
      { x with slicenext := if m = x.slicemode && x.slicenext.isNone then none else some m })

/-! ### Sync (R228, R230) -/

/-- SYN_DUMPCTL: REARM and REQ (R228, R233). -/
def State.writeDumpctl (s : State) (v : W32) : Option State :=
  if bit v 0 && s.smod.writing then none
  else
    let s1 := if bit v 0 then { s with smod := { s.smod with held := false, suppressed := 0 } } else s
    some (if bit v 1 then (s1.dump 3 0 none).2 else s1)

/-! ### Kufort (R256, R261, R266) -/

/-- KUF_NODE: a new number retrains every ACTIVE port (R256). -/
def State.writeNode (s : State) (v : W32) : Option State :=
  if !s.planIdle then none
  else
    let s1 := s.storeReg .kufnode v
    if s1.kuf.node = s.kuf.node then some s1
    else some (s1.forEach allPorts fun s k => if (s.kport k).state = .active then s.retrain k else s)

/-- Destination entries whose PRIMARY is a port use it again (R261). -/
def State.restoreRoutes (s : State) (k : KPort) : State :=
  let f : RouteDest → RouteDest := fun d => if d.primary = k then { d with useAlt := false } else d
  let s1 := s.modKport k fun x => { x with altuse := false }
  { s1 with kuf := { s1.kuf with route := s1.kuf.route.map fun t => { t with dests := t.dests.map f } } }

/-- A port takes an ENABLE: 0 to 1 starts SIGNAL, and 0 is DOWN (R238, R266). -/
def State.enablePort (s : State) (k : KPort) (on : Bool) : State :=
  let x := s.kport k
  if x.enable = on then s
  else if on then s.modKport k fun x => { x with enable := true }.fresh
  else
    let s1 := if x.state = .active then s.switchRoutes k else s
    s1.modKport k fun x => { { x with enable := false }.fresh with
      state := .down, txq := Vector.replicate 3 [], altuse := x.altuse }

/-- KUF_PORTCTL: RESTORE and ENABLE (R261, R266). -/
def State.writePortctl (s : State) (k : KPort) (v : W32) : Option State :=
  let may := (s.kport k).state = .active && (s.job.halt = .boundary || s.planIdle)
  if bit v 1 && !may then none
  else
    let s1 := if bit v 1 then s.restoreRoutes k else s
    some (s1.enablePort k (bit v 0))

/-! ### Recorder (R371, R374, R376, R377) -/

/-- Frees the histogram slots of both halves that a condition names. -/
def State.freeHist (s : State) (f : Hist → Bool) : State :=
  let g : RecHalf → RecHalf := fun r =>
    { r with hist := r.hist.map fun x => match x with
      | some h => if f h then none else some h
      | none => none }
  (s.modHalf .a g).modHalf .b g

/-- EVR_CTL: QEN, CLEARHIST, FLUSH and BBERASE (R374, R377). -/
def State.writeEvrctl (s : State) (v : W32) : Option State :=
  if bit v 29 && !s.planIdle then none
  else
    let s1 := s.storeReg .evrctl v
    let s2 := if bit v 30 then s1.freeHist fun _ => true else s1
    let s3 := if bit v 31 then s2.triggerFlush .write .notice 0 else s2
    let first := if s3.evr.flushing.isSome then EraseStep.waitFlush else EraseStep.headers
    some (if bit v 29 && s3.evr.erase.isNone then { s3 with evr := { s3.evr with erase := some first } } else s3)

/-! ### Seedbed (R393, R394, R398, R401) -/

/-- SBD_FLASHCTL: an operation begins (R394, R398). -/
def State.writeFlashctl (s : State) (v : W32) : Option State :=
  if !s.planIdle || s.sbd.busy.isSome then none
  else
    let a := s.sbd.flashaddr.toNat
    let op := match bits v 31 28 with
      | 1 => FlashOp.image a
      | 2 => .calWrite a
      | _ => .calRead a
    let s1 := s.storeReg .flashctl v
    some { s1 with sbd := { s1.sbd with busy := some op, result := 0 } }

/-- SBD_RECOV (R393): GO checks the image that the port's host has pushed. -/
def State.writeRecov (s : State) (h : HostPort) (v : W32) : Option State :=
  if s.sbd.state = .checking || (bit v 0 && s.sbd.state ≠ .recovery) then none
  else
    let s1 := s.storeReg .recov v
    some (if bit v 0 then { s1 with sbd := { s1.sbd with busy := some (.pushed h (bit v 1)) } }.setSbd .checking else s1)

/-! ### Ports (R418) -/

/-- The message of a vector that was pending while masked becomes due when its mask is cleared (R418). -/
def Pci.unmask (p : Pci) : Pci :=
  let open_ := fun (v : Nat) => p.pba.getLsbD v && !p.msixMask && p.msixEnable && !bit (p.msix.toList.getD (4 * v + 3) 0) 0
  let m := (List.range 4).foldl (fun (a : BitVec 4) v => if open_ v then a ||| (1#4 <<< v) else a) 0
  { p with pba := p.pba &&& ~~~m, due := p.due ||| m }

/-! ### Debug (R430-R443) -/

/-- DBG_CNTCTL (R428, R431, R446): CLEAR clears every counter, and snapshots begin with the next row. -/
def State.writeCntctl (s : State) (v : W32) : State :=
  let z : Plot → Plot := fun q => { q with counters := q.counters.map fun c => { c with value := 0 } }
  let s1 := (s.forEach allPlots fun s p => s.settle p)
  let s2 := if bit v 29 then { s1 with plots := s1.plots.map z } else s1
  let s3 := if bit v 30 && !s2.dbg.snap then { s2 with job := { s2.job with snapRow := some (s2.job.row + 1) } } else s2
  s3.storeReg .cntctl v

/-- DBG_TRIGALL: SPREAD is stored, and FIRE triggers every enabled die (R435, R446). -/
def State.writeTrigall (s : State) (v : W32) : State :=
  let s1 := s.storeReg .trigall v
  if bit v 0 then s1.forEach allDies fun s d => s.traceTrigger d (s.traceRec 0x0C 0x3FF (Pos.none s.job.row) 1 0) else s1

/-- DBG_TRCCTL (R434, R436, R447): a spill slice is in scratchpad mode; EN with ARM arms the trace and empties its ring. -/
def State.writeTrcctl (s : State) (d : DieIx) (v : W32) : Option State :=
  let k := 12 * d.val + bits v 22 19
  if bit v 23 && s.sliceCached k then none
  else
    let en := bit v 31
    let arm := en && bit v 30
    let f : TraceDie → TraceDie := fun t =>
      { t with en := en, mode := BitVec.ofNat 2 (bits v 29 28), pos := BitVec.ofNat 4 (bits v 27 24), spill := bit v 23,
               slice := BitVec.ofNat 4 (bits v 22 19) }
    let g : TraceDie → TraceDie := fun t =>
      if arm then
        { t with arm := true, state := .armed, wrapped := false, trigvalid := false, wridx := 0, left := 0, full := 0,
                 throttled := 0, tseq := 0, dropped := 0, ring := [], trigrec := none }
      else if en then t
      else { t with arm := false, state := .off }
    let s1 := s.modTrace d fun t => g (f t)
    let slot := traceSlice d (s1.trace d) + 32 * 1048575
    some (if arm && bit v 23 then s1.engineWrite slot (zeros 32) else s1)

/-- DBG_WATCHn: REG registers and WDRAW withdraws with the next sync cycle (R442, R447). -/
def State.writeWatch (s : State) (d : DieIx) (n : Fin 4) (v : W32) : State :=
  let was := ((s.dbg.watches.get d).get n).reg
  let s1 := s.storeReg (.dbgwatch d n) v
  let s2 :=
    if bit v 31 && !was then
      let w : Watch := { slot := 0, kind := .debugger, plot := 0, dbg := n, object := BitVec.ofNat 12 (bits v 11 0),
                         n := bits v 18 12, consume := 0, elapsed := 0, timeout := s.smod.defaultus.toNat,
                         pos := Pos.none s.job.row }
      (s1.modDbgWatch d n fun x => { x with reg := true, outcome := .none }).modUnit d fun u => { u with regs := u.regs ++ [w] }
    else s1
  if bit v 30 && ((s2.dbg.watches.get d).get n).reg then
    s2.modUnit d fun u => { u with dbgWithdraws := u.dbgWithdraws ++ [n] }
  else s2

/-- The plot has nothing to stop: stopped, or with STATE 0x0, 0x6 or 0x7. -/
def State.plotRests (s : State) (p : PlotIx) : Bool := (s.plot p).seq.state.atRest

/-- STOPREQ of HAR_CTL or DRL_CTL: the whole plot is pre-empted (R95, R153, R178). -/
def State.stopreq (s : State) (p : PlotIx) (har : Bool) : State :=
  if s.plotRests p then s
  else
    let s1 := s.modPlot p fun q => if har then { q with harStopreq := true } else { q with drlStopreq := true }
    s1.requestStop p 1

/-- DBG_PCTL: STOP, STEP or RUN, one of them at most (R440). -/
def State.writePctl (s : State) (p : PlotIx) (v : W32) : Option State :=
  let n := b2n (bit v 0) + b2n (bit v 1) + b2n (bit v 2)
  if 1 < n then none
  else if bit v 0 then some (if s.plotRests p then s else s.requestStop p 1)
  else if n = 0 then some s
  else
    let q := (s.plot p).seq
    if q.byStop && q.state = .stopped && s.job.state ≠ .halted then some (s.resumePlot p (bit v 1)) else none

/-- Moves DBG_PSADDR on by a word (R441). -/
def State.movePsaddr (s : State) (p : PlotIx) : State := s.modPlot p fun q => { q with psaddr := q.psaddr + 4 }

/-- DBG_PSDATA: a word of the plot store (R441). -/
def State.writePsdata (s : State) (p : PlotIx) (v : W32) : Option State :=
  if !(s.plot p).debuggable then none
  else some ((s.psWrite p (s.plot p).psaddr.toNat (bytesOfWord v)).movePsaddr p)

/-! ### Every register -/

/-- An accepted write of a register through a port: none when it breaks a rule of the register (R15). -/
def State.writeReg (s : State) (h : HostPort) (r : Reg) (v : W32) : Option State :=
  if !r.wordOk v then none
  else
    match r with
    | .planbase hi => if s.job.stateCode = 1 || s.job.stateCode = 2 then none else some (s.storeReg (.planbase hi) v)
    | .planctl => s.writePlanctl v
    | .jobctl => s.writeJobctl v
    | .restart => s.writeRestart v
    | .buddyctl => s.writeBuddyctl v
    | .fbcfg => if s.running then none else some (s.storeReg .fbcfg v)
    | .fbres => s.writeFbres v
    | .layout => s.writeLayout v
    | .slicemode d => s.writeSlicemode d v
    | .dumpctl => s.writeDumpctl v
    | .qcmd d => if (s.unit d).qbusy then none else some (s.storeReg (.qcmd d) v)
    | .kufnode => s.writeNode v
    | .portctl k => s.writePortctl k v
    | .evrctl => s.writeEvrctl v
    | .qcfg q => if s.planIdle then some ((s.storeReg (.qcfg q) v).freeHist fun x => x.quant = q) else none
    | .flashctl => s.writeFlashctl v
    | .recov => s.writeRecov h v
    | .resetctl => some (if bit v 0 then s.moduleReset else s)
    | .msix k i => some ((s.storeReg (.msix k i) v).modPci k Pci.unmask)
    | .cntctl => some (s.writeCntctl v)
    | .trigall => some (s.writeTrigall v)
    | .trcctl d => s.writeTrcctl d v
    | .dbgwatch d n => some (s.writeWatch d n v)
    | .harctl p => some (if bit v 0 then s.stopreq p true else s)
    | .drlctl p => some (if bit v 0 then s.stopreq p false else s)
    | .pctl p => s.writePctl p v
    | .psdata p => s.writePsdata p v
    | .fpflags p => some (s.modPlot p fun q => { q with fpflags := q.fpflags &&& ~~~(BitVec.ofNat 8 v.toNat) })
    | r => some (s.storeReg r v)

end Sys2Proof.Machine
end

