-- ==== Sys2Proof/Machine/HostPort.lean ====
section
/-! DEFINITION. The host ports (chapter 17): register accesses under their roles and pairs (R13-R15, R356, R407), token writes,
BAR2, MSI-X, configuration space and links. -/

namespace Sys2Proof.Machine

/-! ### Silent counts and pairs (R14, R15, R356) -/

/-- A rule-breaking access is counted (R15, R356). -/
def State.ruleBreak (s : State) : State := { s with evr := { s.evr with rulebrk := satAdd s.evr.rulebrk 1 } }
/-- A pair that mismatches is counted (R13, R14). -/
def State.pairMiss (s : State) : State := { s with evr := { s.evr with pairmis := satAdd s.evr.pairmis 1 } }
/-- A control write from the data host is counted (R356). -/
def State.dataHostWrite (s : State) : State := { s with evr := { s.evr with datahost := satAdd s.evr.datahost 1 } }

/-- The register at a word of BAR0, wide registers as one. -/
def regKeyAt (o : Nat) : Option Reg := (placeAt o).map fun x => x.reg.key

/-- An access of a word spoils the port's pending pairs of the same register (R14). -/
def Pci.spoilWord (p : Pci) (o : Nat) : Pci :=
  match regKeyAt o with
  | none => p
  | some k => { p with pairs := p.pairs.map fun x => if regKeyAt x.1 = some k then (x.1, x.2.1, true) else x }

/-- An access of bytes spoils the pairs of every register it touches. -/
def State.spoil (s : State) (h : HostPort) (off width : Nat) : State :=
  s.modPci h fun p => (List.range ((off % 4 + width + 3) / 4)).foldl (fun p i => p.spoilWord (off - off % 4 + 4 * i)) p

/-! ### Roles and gates (R364, R381, R392, R406, R407) -/

/-- The port's host is the data host: the configuration block names the other port (R386, R406). -/
def State.isDataHost (s : State) (h : HostPort) : Bool := s.sbd.ctlhost ≠ h && decide (9 ≤ s.sbd.step.toNat)

/-- The words of SBD_RECOV, which accept writes from either port in recovery mode (R381, R392). -/
def recoveryWord (off : Nat) : Bool := decide (0x80050 ≤ off) && decide (off < 0x80058)

/-- A write of a BAR0 register through a port may be performed: in the fallow state only in the port's own PCI block; before
ready only of the recovery registers, in recovery mode (R364, R381, R407). -/
def State.mayWrite (s : State) (h : HostPort) (off : Nat) : Bool :=
  let own := decide (pciOf off = some h)
  if s.evr.fallow then own
  else if s.sbd.state = .ready then own || (pciOf off).isNone
  else s.recwin && recoveryWord off

/-- A read of a BAR0 register may be performed: before ready only in the SBD block (R364, R381). -/
def State.mayRead (s : State) (off : Nat) : Bool :=
  s.evr.fallow || s.sbd.state = .ready || (off / 0x10000 = 8 && decide (3 ≤ s.sbd.step.toNat))

/-- The words that take 64-bit accesses: the MSI-X tables and pending-bit arrays (R418). -/
def msixWord (off : Nat) : Bool :=
  (pciOf off).isSome && ((decide (0x1000 ≤ off % 0x10000) && decide (off % 0x10000 < 0x1040))
    || (decide (0x1800 ≤ off % 0x10000) && decide (off % 0x10000 < 0x1808)))

/-- The token window (R409). -/
def inTokenWindow (off : Nat) : Bool := decide (0x800000 ≤ off) && decide (off < 0x840000)

/-- The live-buffer and black-box windows (R409). -/
def inRecWindow (off : Nat) : Bool :=
  (decide (0x100000 ≤ off) && decide (off < 0x180000)) || (decide (0x400000 ≤ off) && decide (off < 0x800000))

/-! ### Register writes -/

/-- A write of a word of an RWP register: the first word waits for its complement (R13, R14). -/
def State.writePair (s : State) (h : HostPort) (off : Nat) (x : Place) (v : W32) : State :=
  let base := if x.compl then off - 4 else off
  let was := ((s.pci h).pairs.find? fun y => y.1 = base).map (·.2)
  let s1 := (s.modPci h fun p => { p with pairs := p.pairs.filter fun y => y.1 ≠ base }).modPci h fun p => p.spoilWord off
  if !x.compl then
    let s2 := s1.modPci h fun p => { p with pairs := p.pairs ++ [(base, v, false)] }
    if was.isSome then s2.pairMiss else s2
  else
    match was with
    | some (w, false) => if v = ~~~w then (s1.writeReg h x.reg w).getD s1.ruleBreak else s1.pairMiss
    | _ => s1.pairMiss

/-- A 32-bit write of a BAR0 register through a port (R12-R15, R356, R407). -/
def State.writeWord (s : State) (h : HostPort) (off : Nat) (v : W32) : State :=
  if (pciOf off).isNone && s.isDataHost h then (s.spoil h off 4).dataHostWrite
  else if !s.mayWrite h off then (s.spoil h off 4).ruleBreak
  else
    match placeAt off with
    | none => s.ruleBreak
    | some x =>
      match x.acc with
      | .ro => s.spoil h off 4
      | .rc => s.spoil h off 4
      | .rwp => s.writePair h off x v
      | .rw => (s.writeReg h x.reg v).getD s.ruleBreak
      | .w1c => (s.writeReg h x.reg v).getD s.ruleBreak

/-! ### Token writes (R415-R417) -/

/-- The KIND of a port's tokens (R212). -/
def tokenKind : HostPort → BitVec 3
  | .a => 4
  | .b => 5

/-- Writes of a port that its home has not acknowledged yet. -/
def State.unacked (s : State) : HostPort → Nat
  | .a => s.mem.ackA
  | .b => s.mem.ackB

/-- A write of the token window: a token, behind the port's earlier writes (R416, R417). -/
def State.writeToken (s : State) (h : HostPort) (off width : Nat) (v : BitVec 64) : State :=
  let q := (off - 0x800000) / 8
  let pay := w32 v.toNat
  let stepq := s.running && decide (q ∈ s.stepQueues)
  if width ≠ 8 || off % 8 ≠ 0 || w32 (v.toNat / 2 ^ 32) ≠ ~~~pay || stepq || s.evr.fallow || s.sbd.state ≠ .ready then
    s.ruleBreak
  else
    let t := mkToken (tokenKind h) 0 0 (BitVec.ofNat 15 q) pay 0 0
    let n := s.unacked h
    if n = 0 then { s with kuf := { s.kuf with transit := s.kuf.transit ++ [t] } }
    else s.modPci h fun p => { p with tokens := p.tokens ++ [(n, t)] }

/-- A write inside BAR0 (R402, R407, R409). -/
def State.busWrite (s : State) (h : HostPort) (off width : Nat) (v : BitVec 64) : State :=
  if inTokenWindow off then s.writeToken h off width v
  else if (pciOf off).isNone && s.isDataHost h then (s.spoil h off width).dataHostWrite
  else if width = 8 && off % 8 = 0 && msixWord off && decide (pciOf off = some h) then
    (s.writeWord h off (w32 v.toNat)).writeWord h (off + 4) (w32 (v.toNat / 2 ^ 32))
  else if width ≠ 4 || off % 4 ≠ 0 then (s.spoil h off width).ruleBreak
  else s.writeWord h off (w32 v.toNat)

/-! ### Register reads -/

/-- A port's host may clear an RC register by reading it: the control host, or either host in its own PCI block (R407). -/
def State.clears (s : State) (h : HostPort) (off : Nat) : Bool :=
  match pciOf off with
  | some k => k = h
  | none => s.isControl h

/-- What a read does besides clearing: it releases a held error address, and moves DBG_PSADDR on (R207, R426, R441). -/
def State.afterRead (s : State) (h : HostPort) : Reg → State
  | .errlog d false => s.modDie d fun x => { x with errHeld := false }
  | .bar2err k false => s.modPci k fun x => { x with errHeld := false }
  | .psdata p => if s.isControl h then s.movePsaddr p else s
  | _ => s

/-- The debugger may read a register now (R441). -/
def State.readable (s : State) : Reg → Bool
  | .psdata p => (s.plot p).debuggable
  | .rakeimg p _ => (s.plot p).debuggable
  | _ => true

/-- A 32-bit read of a BAR0 register through a port: the word, and the state after it (R12-R15, R407). -/
def State.readWord (s : State) (h : HostPort) (off : Nat) : W32 × State :=
  let s0 := s.spoil h off 4
  if !s.mayRead off then (0, s0.ruleBreak)
  else
    match placeAt off with
    | none => (0, s0.ruleBreak)
    | some x =>
      if !s0.readable x.reg then (0, s0.ruleBreak)
      else if x.acc = .rc && !s0.clears h off then (0, s0)
      else
        let (v, s1) := s0.takeValue x.reg
        let s2 := if x.acc = .rc then s1.clearReg x.reg else s1
        (if x.compl then ~~~v else v, s2.afterRead h x.reg)

/-- A port answers its host. -/
def State.answer (s : State) (h : HostPort) (data : List Byte) (ur ep : Bool) : State :=
  s.modPci h fun p => { p with reply := some { data := data, ur := ur, ep := ep } }

/-- A read inside BAR0 (R402, R409, R418). -/
def State.busRead (s : State) (h : HostPort) (off width : Nat) : State :=
  let two := width = 8 && off % 8 = 0 && (msixWord off || inRecWindow off)
  if inTokenWindow off || !(two || (width = 4 && off % 4 = 0)) then
    ((s.spoil h off width).ruleBreak).answer h (zeros width) false false
  else if two then
    let (v, s1) := s.readWord h off
    let (w, s2) := s1.readWord h (off + 4)
    s2.answer h (bytesOfWords [v, w]) false false
  else
    let (v, s1) := s.readWord h off
    s1.answer h (bytesOfWord v) false false

/-! ### BAR2 (R393, R412-R414) -/

/-- The device address of a BAR2 offset: the recovery window in recovery mode, else the port's window (R393, R412). -/
def State.mapBar2 (s : State) (h : HostPort) (off len : Nat) : Option Nat :=
  if s.recwin then (if off + len ≤ 0x1000000 then some (recoveryBase h + off) else none)
  else
    let w := (s.pci h).wins.toList.getD (off / 2 ^ 34) 0
    if bit w 31 then some (bits w 17 0 * 2 ^ 30 + off % 2 ^ 34) else none

/-- A request at a device address waits: DRAM that is being initialised, or a slice whose mode changes (R197, R199, R414). -/
def State.waits (s : State) (a : Nat) : Bool :=
  !s.evr.fallow && s.sbd.state = .ready
    && (match sliceOf a with
        | some k => s.sliceBusy k
        | none => s.mem.layState = 1)

/-- A write at device address a may be performed (R364, R381, R412). -/
def State.mayStore (s : State) (a n : Nat) : Bool :=
  !s.evr.fallow && (s.sbd.state = .ready || s.recwin) && s.rangeDevice a n

/-- A read at device address a may be performed: in the fallow state of scratchpad slices only (R364). -/
def State.mayLoad (s : State) (a n : Nat) : Bool :=
  (s.sbd.state = .ready || s.recwin || (s.evr.fallow && (sliceOf a).isSome)) && s.rangeDevice a n

/-- One more write of a port awaits its acknowledgement (R188, R417). -/
def State.addUnacked (s : State) (h : HostPort) : State :=
  match h with
  | .a => { s with mem := { s.mem with ackA := s.mem.ackA + 1 } }
  | .b => { s with mem := { s.mem with ackB := s.mem.ackB + 1 } }

/-- A write at its home, through a port (R195, R204, R414). -/
def State.memStore (s : State) (h : HostPort) (a : Nat) (data : List Byte) : State :=
  if s.mayStore a data.length then (s.writeRange (.host h) a data).2.addUnacked h else s.ruleBreak

/-- A BAR2 write. -/
def State.memWrite (s : State) (h : HostPort) (off : Nat) (data : List Byte) : State :=
  match s.mapBar2 h off data.length with
  | some a => s.memStore h a data
  | none => s.ruleBreak

/-- PCI_BAR2ERR keeps the first failed read until ADDRLO is read (R414, R426). -/
def State.noteBar2 (s : State) (h : HostPort) (b : Nat) : State :=
  if (s.pci h).errHeld then s
  else s.modPci h fun p => { p with errHeld := true, errClass := s.classOf b, errAddr := BitVec.ofNat 48 b }

/-- A BAR2 read: its bytes, or all ones with EP for a block that cannot be delivered (R414). -/
def State.memRead (s : State) (h : HostPort) (off len : Nat) : State :=
  match s.mapBar2 h off len with
  | none => s.ruleBreak.answer h (zeros len) false false
  | some a =>
    if !s.mayLoad a len then s.ruleBreak.answer h (zeros len) false false
    else
      match s.readRange (.host h) a len with
      | (.ok b, s1) => s1.answer h b false false
      | (.error b, s1) => (s1.noteBar2 h b).answer h (List.replicate len 0xFF) false true

/-! ### Requests of a port (R404, R414) -/

/-- A posted request. -/
def HeldReq.posted : HeldReq → Bool
  | .regRead _ _ => false
  | .read _ _ => false
  | _ => true

/-- A request lies inside its BAR (R404, R408). -/
def HeldReq.inBar : HeldReq → Bool
  | .regWrite off width _ => decide (off + width ≤ 0x4000000)
  | .regRead off width => decide (off + width ≤ 0x4000000)
  | .write off data => decide (off + data.length ≤ 2 ^ 37)
  | .read off len => decide (off + len ≤ 2 ^ 37)
  | .store _ _ => true

/-- A request waits for memory. -/
def State.holds (s : State) (h : HostPort) : HeldReq → Bool
  | .write off data => match s.mapBar2 h off data.length with
    | some a => s.waits a
    | none => false
  | .read off len => match s.mapBar2 h off len with
    | some a => s.waits a
    | none => false
  | .store a _ => s.waits a
  | _ => false

/-- Performs a request. -/
def State.perform (s : State) (h : HostPort) : HeldReq → State
  | .regWrite off width v => s.busWrite h off width v
  | .regRead off width => s.busRead h off width
  | .write off data => s.memWrite h off data
  | .read off len => s.memRead h off len
  | .store a data => s.memStore h a data

/-- Performs the waiting requests of a port, in their order, up to one that still waits. -/
def State.drainPort (h : HostPort) : Nat → State → State
  | 0, s => s
  | n + 1, s =>
    match (s.pci h).stalled with
    | [] => s
    | q :: r => if s.holds h q then s else State.drainPort h n ((s.modPci h fun p => { p with stalled := r }).perform h q)

/-- The waiting requests of both ports, once memory has changed. -/
def State.drain (s : State) : State :=
  let s1 := State.drainPort .a s.pciA.stalled.length s
  State.drainPort .b s1.pciB.stalled.length s1

/-- A port's link is up. -/
def Pci.up (p : Pci) : Bool := p.speed ≠ 0

/-- A memory request arrives at a port. In D3hot, and outside the BARs, it is an Unsupported Request; behind a posted write that
waits, and where it waits itself, it is held (R404, R414). -/
def State.request (s : State) (h : HostPort) (q : HeldReq) : State :=
  let p := s.pci h
  if !p.up || !s.pwr.railsOn then s
  else if p.d3hot then (if q.posted then s else s.answer h [] true false)
  else if !q.inBar then
    let s1 := s.modPci h fun p => { p with aer := true }
    if q.posted then s1 else s1.answer h [] true false
  else
    let s1 := State.drainPort h p.stalled.length s
    if (s1.pci h).stalled.any HeldReq.posted || s1.holds h q then
      s1.modPci h fun p => { p with stalled := p.stalled ++ [q] }
    else s1.perform h q

/-- REGISTER_WRITE (R13). -/
def execRegisterWrite (h : HostPort) (off width : Nat) (v : BitVec 64) (s : State) : Host.Outcome State Fault Refusal :=
  .next (s.request h (.regWrite off width v))

/-- REGISTER_READ (R13). -/
def execRegisterRead (h : HostPort) (off width : Nat) (s : State) : Host.Outcome State Fault Refusal :=
  .next (s.request h (.regRead off width))

/-- TOKEN_WRITE (R416). -/
def execTokenWrite (h : HostPort) (off width : Nat) (v : BitVec 64) (s : State) : Host.Outcome State Fault Refusal :=
  .next (s.request h (.regWrite off width v))

/-- BAR2_READ (R414). -/
def execBar2Read (h : HostPort) (off len : Nat) (s : State) : Host.Outcome State Fault Refusal :=
  .next (s.request h (.read off len))

/-- BAR2_WRITE (R412, R414). -/
def execBar2Write (h : HostPort) (off : Nat) (data : List Byte) (s : State) : Host.Outcome State Fault Refusal :=
  .next (s.request h (.write off data))

/-- LAYOUT_INIT_DONE: DRAM holds zeros, a start that has waited is checked, and held requests go on (R197, R414). -/
def execLayoutInitDone (s : State) : Host.Outcome State Fault Refusal := .next s.layoutInitDone.drain

/-- SLICE_MODE_CHANGE_DONE: the new modes are in force, and held requests go on (R199, R414). -/
def execSliceModeChangeDone (d : DieIx) (s : State) : Host.Outcome State Fault Refusal := .next (s.sliceModeDone d).drain

/-! ### Register rows: the two word writes of one register (R13) -/

/-- BAR0 offset of a stack window and of a plot window (R410). -/
def stackWindow (d : DieIx) : Nat := 0x1000000 + 0x400000 * d.val
def plotWindow (p : PlotIx) : Nat := stackWindow (dieOfPlot p) + 0x180000 + 0x8000 * (p.val % 80)

/-- Both words of an RWP register: the value, then its complement (R13). -/
def State.pairWrite (s : State) (h : HostPort) (off : Nat) (v : W32) : State :=
  (s.request h (.regWrite off 4 (v.zeroExtend 64))).request h (.regWrite (off + 4) 4 ((~~~v).zeroExtend 64))

/-- A write of both words of an RWP register, as a command. -/
def writeBoth (h : HostPort) (off : Nat) (v : W32) (s : State) : Host.Outcome State Fault Refusal := .next (s.pairWrite h off v)

/-- START: PLT_PLANCTL.START (R176, R181). -/
def execStart (h : HostPort) (s : State) : Host.Outcome State Fault Refusal := writeBoth h 0x10 1 s
/-- ABORT: PLT_PLANCTL.ABORT (R181). -/
def execAbort (h : HostPort) (s : State) : Host.Outcome State Fault Refusal := writeBoth h 0x10 2 s
/-- The HALTAT and HALTNEXT bits that PLT_JOBCTL holds, which the rows of one bit keep. -/
def State.jobctlBits (s : State) : Nat := b2n s.job.haltat * 2 + b2n s.job.haltnext
/-- HALTNOW (R283, R291). -/
def execHaltnow (h : HostPort) (s : State) : Host.Outcome State Fault Refusal := writeBoth h 0x28 (w32 (8 + s.jobctlBits)) s
/-- RESUME (R282, R285, R291). -/
def execResume (h : HostPort) (s : State) : Host.Outcome State Fault Refusal := writeBoth h 0x28 (w32 (4 + s.jobctlBits)) s
/-- HALTAT (R279, R291). -/
def execHaltat (h : HostPort) (s : State) : Host.Outcome State Fault Refusal :=
  writeBoth h 0x28 (w32 (2 + b2n s.job.haltnext)) s
/-- HALTNEXT (R279, R291). -/
def execHaltnext (h : HostPort) (s : State) : Host.Outcome State Fault Refusal :=
  writeBoth h 0x28 (w32 (b2n s.job.haltat * 2 + 1)) s
/-- GO: PLT_RESTART (R310). -/
def execGo (h : HostPort) (restore : Bool) (s : State) : Host.Outcome State Fault Refusal :=
  writeBoth h 0x50 (w32 (1 + 2 * b2n restore)) s
/-- SET: PLT_BUDDYCTL.SET with the OWNER and TARGET it holds (R314, R323). -/
def execSet (h : HostPort) (s : State) : Host.Outcome State Fault Refusal :=
  writeBoth h 0x78 (w32 (2 ^ 31 + s.rcv.target.toNat * 2 ^ 12 + s.rcv.owner.toNat)) s
/-- RETURN: PLT_BUDDYCTL.RETURN (R318). -/
def execReturn (h : HostPort) (owner target : BitVec 12) (s : State) : Host.Outcome State Fault Refusal :=
  writeBoth h 0x78 (w32 (2 ^ 30 + target.toNat * 2 ^ 12 + owner.toNat)) s
/-- HAR_FBRES_WRITE (R115). -/
def execHarFbresWrite (h : HostPort) (extra : BitVec 16) (s : State) : Host.Outcome State Fault Refusal :=
  writeBoth h 0x10008 (w32 extra.toNat) s
/-- APPLY: MEM_LAYOUT with APPLY = 1 and the other fields of v (R197). -/
def execApply (h : HostPort) (v : W32) (s : State) : Host.Outcome State Fault Refusal := writeBoth h 0x20000 (v ||| 0x80000000) s
/-- BST_SLICEMODE_WRITE (R199). -/
def execBstSlicemodeWrite (h : HostPort) (d : DieIx) (modes : BitVec 12) (s : State) : Host.Outcome State Fault Refusal :=
  writeBoth h (stackWindow d + 0x10000) (w32 modes.toNat) s

/-- A hand operation: SYN_QCMD with an OP (R230, R234). -/
def handWrite (h : HostPort) (d : DieIx) (op : Nat) (queue : BitVec 12) (s : State) : Host.Outcome State Fault Refusal :=
  writeBoth h (stackWindow d + 0x20000) (w32 (op * 2 ^ 28 + queue.toNat)) s
/-- QREAD (R230). -/
def execQread (h : HostPort) (d : DieIx) (queue : BitVec 12) (s : State) : Host.Outcome State Fault Refusal := handWrite h d 1 queue s
/-- QPUSH (R230). -/
def execQpush (h : HostPort) (d : DieIx) (queue : BitVec 12) (s : State) : Host.Outcome State Fault Refusal := handWrite h d 2 queue s
/-- QPOP (R230). -/
def execQpop (h : HostPort) (d : DieIx) (queue : BitVec 12) (s : State) : Host.Outcome State Fault Refusal := handWrite h d 3 queue s
/-- QCLEAR (R230). -/
def execQclear (h : HostPort) (d : DieIx) (queue : BitVec 12) (s : State) : Host.Outcome State Fault Refusal := handWrite h d 4 queue s
/-- QRELEASE (R230). -/
def execQrelease (h : HostPort) (d : DieIx) (queue : BitVec 12) (s : State) : Host.Outcome State Fault Refusal := handWrite h d 5 queue s
/-- REQ: a dump request (R228, R233). -/
def execReq (h : HostPort) (s : State) : Host.Outcome State Fault Refusal := writeBoth h 0x30020 2 s
/-- REARM (R228, R233). -/
def execRearm (h : HostPort) (s : State) : Host.Outcome State Fault Refusal := writeBoth h 0x30020 1 s
/-- KUF_NODE_WRITE (R256). -/
def execKufNodeWrite (h : HostPort) (node : BitVec 12) (s : State) : Host.Outcome State Fault Refusal :=
  writeBoth h 0x40000 (w32 node.toNat) s
/-- The offset of KUF_PORTCTL of a port (R266). -/
def portctlOff (k : KPort) : Nat := 0x40118 + 0x40 * k.val
/-- ENABLE: KUF_PORTCTL.ENABLE (R238, R266). -/
def execEnable (h : HostPort) (k : KPort) (on : Bool) (s : State) : Host.Outcome State Fault Refusal :=
  writeBoth h (portctlOff k) (w32 (b2n on)) s
/-- RESTORE: KUF_PORTCTL.RESTORE, with ENABLE as it stands (R261). -/
def execRestore (h : HostPort) (k : KPort) (s : State) : Host.Outcome State Fault Refusal :=
  writeBoth h (portctlOff k) (w32 (2 + b2n (s.kport k).enable)) s
/-- FLUSH: EVR_CTL.FLUSH (R371, R374). -/
def execFlush (h : HostPort) (s : State) : Host.Outcome State Fault Refusal :=
  writeBoth h 0x70000 (w32 (2 ^ 31 + s.evr.qen.toNat)) s
/-- CLEARHIST (R374). -/
def execClearhist (h : HostPort) (s : State) : Host.Outcome State Fault Refusal :=
  writeBoth h 0x70000 (w32 (2 ^ 30 + s.evr.qen.toNat)) s
/-- BBERASE (R377). -/
def execBberase (h : HostPort) (s : State) : Host.Outcome State Fault Refusal :=
  writeBoth h 0x70000 (w32 (2 ^ 29 + s.evr.qen.toNat)) s
/-- EVR_QCFG_WRITE (R376). -/
def execEvrQcfgWrite (h : HostPort) (q : Fin 8) (v : W32) (s : State) : Host.Outcome State Fault Refusal :=
  writeBoth h (0x70040 + 8 * q.val) v s
/-- FLASH_IMAGE_PROGRAM: SBD_FLASHCTL with OP 0x1 (R394). -/
def execFlashImageProgram (h : HostPort) (s : State) : Host.Outcome State Fault Refusal := writeBoth h 0x80030 0x10000000 s
/-- CALIBRATION_WRITE: SBD_FLASHCTL with OP 0x2 (R398). -/
def execCalibrationWrite (h : HostPort) (s : State) : Host.Outcome State Fault Refusal := writeBoth h 0x80030 0x20000000 s
/-- CALIBRATION_READ: SBD_FLASHCTL with OP 0x3 (R398). -/
def execCalibrationRead (h : HostPort) (s : State) : Host.Outcome State Fault Refusal := writeBoth h 0x80030 0x30000000 s
/-- SBD_RECOV_GO (R393). -/
def execSbdRecovGo (h : HostPort) (program : Bool) (s : State) : Host.Outcome State Fault Refusal :=
  writeBoth h 0x80050 (w32 (1 + 2 * b2n program)) s
/-- RESET: SBD_RESETCTL.RESET (R378). -/
def execReset (h : HostPort) (s : State) : Host.Outcome State Fault Refusal := writeBoth h 0x80058 1 s
/-- CNTCTL_CLEAR: DBG_CNTCTL with CLEAR = 1 and the other fields of v (R446). -/
def execCntctlClear (h : HostPort) (v : W32) (s : State) : Host.Outcome State Fault Refusal := writeBoth h 0xB0000 (v ||| 0x20000000) s
/-- FIRE: DBG_TRIGALL.FIRE (R435). -/
def execFire (h : HostPort) (spread : Bool) (s : State) : Host.Outcome State Fault Refusal :=
  writeBoth h 0xB0028 (w32 (1 + 2 * b2n spread)) s
/-- ARM: DBG_TRCCTL with EN and ARM = 1 and the other fields of v (R434). -/
def execArm (h : HostPort) (d : DieIx) (v : W32) (s : State) : Host.Outcome State Fault Refusal :=
  writeBoth h (stackWindow d + 0x30000) (v ||| 0xC0000000) s
/-- The offset of a debugger watch register (R447). -/
def watchOff (d : DieIx) (n : Fin 4) : Nat := stackWindow d + 0x30030 + 16 * n.val
/-- REG: registers a debugger watch (R442). -/
def execReg (h : HostPort) (d : DieIx) (n : Fin 4) (count : BitVec 7) (queue : BitVec 12) (s : State) :
    Host.Outcome State Fault Refusal :=
  writeBoth h (watchOff d n) (w32 (2 ^ 31 + count.toNat * 2 ^ 12 + queue.toNat)) s
/-- WDRAW: withdraws a debugger watch (R442). -/
def execWdraw (h : HostPort) (d : DieIx) (n : Fin 4) (s : State) : Host.Outcome State Fault Refusal :=
  let w := (s.dbg.watches.get d).get n
  writeBoth h (watchOff d n) (w32 (2 ^ 30 + w.n.toNat * 2 ^ 12 + w.queue.toNat)) s
/-- STOPREQ of HAR_CTL (R95, R178). -/
def execStopreqHar (h : HostPort) (p : PlotIx) (s : State) : Host.Outcome State Fault Refusal := writeBoth h (plotWindow p + 0x1008) 1 s
/-- STOPREQ of DRL_CTL (R153, R178). -/
def execStopreqDrl (h : HostPort) (p : PlotIx) (s : State) : Host.Outcome State Fault Refusal := writeBoth h (plotWindow p + 0x2018) 1 s
/-- STOP: DBG_PCTL.STOP (R440). -/
def execStop (h : HostPort) (p : PlotIx) (s : State) : Host.Outcome State Fault Refusal := writeBoth h (plotWindow p + 0x4000) 1 s
/-- STEP: DBG_PCTL.STEP (R440). -/
def execStep (h : HostPort) (p : PlotIx) (s : State) : Host.Outcome State Fault Refusal := writeBoth h (plotWindow p + 0x4000) 2 s
/-- RUN: DBG_PCTL.RUN (R440). -/
def execRun (h : HostPort) (p : PlotIx) (s : State) : Host.Outcome State Fault Refusal := writeBoth h (plotWindow p + 0x4000) 4 s
/-- DBG_PSDATA read (R441). -/
def execDbgPsdataRead (h : HostPort) (p : PlotIx) (s : State) : Host.Outcome State Fault Refusal :=
  .next (s.request h (.regRead (plotWindow p + 0x4010) 4))
/-- DBG_PSDATA write (R441). -/
def execDbgPsdataWrite (h : HostPort) (p : PlotIx) (v : W32) (s : State) : Host.Outcome State Fault Refusal :=
  .next (s.request h (.regWrite (plotWindow p + 0x4010) 4 (v.zeroExtend 64)))
/-- MEM_ERRLOG read of ADDRLO, which releases the held error (R207). -/
def execMemErrlogRead (h : HostPort) (d : DieIx) (s : State) : Host.Outcome State Fault Refusal :=
  .next (s.request h (.regRead (stackWindow d + 0x10) 4))
/-- PCI_BAR2ERR read of ADDRLO (R426). -/
def execPciBar2errRead (h : HostPort) (blk : HostPort) (s : State) : Host.Outcome State Fault Refusal :=
  .next (s.request h (.regRead ((match blk with | .a => 0x90018 | .b => 0xA0018)) 4))

/-! ### MSI-X (R418, R419) -/

/-- MSIX_MESSAGE: a message that is due is sent; one whose vector has been masked since stays pending. In the fallow state only
vectors 0 and 3 are sent. -/
def execMsixMessage (h : HostPort) (v : Fin 4) (s : State) : Host.Outcome State Fault Refusal :=
  let p := s.pci h
  let word := fun (i : Nat) => p.msix.toList.getD (4 * v.val + i) 0
  let b : BitVec 4 := 1#4 <<< v.val
  if !p.due.getLsbD v.val || !p.up || p.d3hot || !p.msixEnable || (s.evr.fallow && v ≠ 0 && v ≠ 3) then .next s
  else if p.msixMask || bit (word 3) 0 then .next (s.modPci h fun p => { p with due := p.due &&& ~~~b, pba := p.pba ||| b })
  else
    .next (s.modPci h fun p =>
      { p with due := p.due &&& ~~~b
               sent := some (BitVec.ofNat 64 ((word 0).toNat + (word 1).toNat * 2 ^ 32), word 2) })

/-! ### Configuration space (R402-R404, R408, R418) -/

/-- The BAR0 offset of the MSI-X table of a port (R409, R418). -/
def msixTable : HostPort → Nat
  | .a => 0x91000
  | .b => 0xA1000

/-- A configuration register that R403, R408 and R418 give, at its place in a PCI header; none elsewhere. The capabilities stand
at 0x40 and 0x50 by choice (log entry 25). -/
def State.configWord (s : State) (h : HostPort) (off : Nat) : Option W32 :=
  let p := s.pci h
  match off with
  | 0x00 => some 0x00081F7D
  | 0x04 => some (w32 (0x00100000 + p.command.toNat))
  | 0x08 => some 0x120000B0
  | 0x10 => some (w32 (p.bar0.toNat + 4))
  | 0x14 => some (w32 (p.bar0.toNat / 2 ^ 32))
  | 0x18 => some (w32 (p.bar2.toNat + 12))
  | 0x1C => some (w32 (p.bar2.toNat / 2 ^ 32))
  | 0x20 => some 0
  | 0x24 => some 0
  | 0x2C => some (w32 ((orderBit s.sbd.order + 1) * 2 ^ 16 + 0x1F7D))
  | 0x34 => some 0x40
  | 0x44 => some (if p.d3hot then 3 else 0)
  | 0x50 => some (w32 (b2n p.msixEnable * 2 ^ 31 + b2n p.msixMask * 2 ^ 30 + 3 * 2 ^ 16 + 0x11))
  | 0x54 => some (w32 (msixTable h))
  | 0x58 => some (w32 (msixTable h + 0x800))
  | 0x104 => some (w32 s.sbd.serial.toNat)
  | 0x108 => some (w32 (s.sbd.serial.toNat / 2 ^ 32))
  | _ => none

/-- A 64-bit BAR with a new low or high word, aligned to its size. -/
def putBar (size old : Nat) (hi : Bool) (v : W32) : BitVec 64 :=
  let n := if hi then v.toNat * 2 ^ 32 + old % 2 ^ 32 else old / 2 ^ 32 * 2 ^ 32 + v.toNat
  BitVec.ofNat 64 (n / size * size)

/-- A write of a configuration register: the command, the BARs, the power state and the MSI-X control; others hold nothing that
R403 and R404 name. -/
def Pci.configWrite (p : Pci) (off : Nat) (v : W32) : Pci :=
  match off with
  | 0x04 => { p with command := BitVec.ofNat 16 v.toNat &&& 0x0546 }
  | 0x10 => { p with bar0 := putBar 0x4000000 p.bar0.toNat false v }
  | 0x14 => { p with bar0 := putBar 0x4000000 p.bar0.toNat true v }
  | 0x18 => { p with bar2 := putBar (2 ^ 37) p.bar2.toNat false v }
  | 0x1C => { p with bar2 := putBar (2 ^ 37) p.bar2.toNat true v }
  | 0x44 => if bits v 1 0 = 3 then { p with d3hot := true } else if bits v 1 0 = 0 then { p with d3hot := false } else p
  | 0x50 => { p with msixEnable := bit v 31, msixMask := bit v 30 }.unmask
  | _ => p

/-- CONFIGURATION_REQUEST: answered from the moment the link is up, in every step of start-up, in the fallow state and in D3hot
(R404). A word that the spec does not give reads a free value. -/
def execConfigurationRequest (h : HostPort) (r : CfgReq) (s : State) : Host.Outcome State Fault Refusal :=
  if !(s.pci h).up || !s.pwr.railsOn then .next s
  else
    match r with
    | .write off v => .next (s.modPci h fun p => p.configWrite off v)
    | .read off =>
      match s.configWord h off with
      | some v => .next (s.answer h (bytesOfWord v) false false)
      | none =>
        let (v, s1) := s.free
        .next (s1.answer h (bytesOfNat 4 v) false false)

/-! ### Links (R402, R404, R405, R426) -/

/-- A port's PERST is high. -/
def Pins.perstHigh (p : Pins) : HostPort → Bool
  | .a => p.perstA
  | .b => p.perstB

/-- LINK_UP: link training, from step 3 of start-up with PERST high, ends with a rate and a width of R402; 64 GT/s is in Flit
mode. -/
def execLinkUp (h : HostPort) (speed width : BitVec 4) (flit : Bool) (s : State) : Host.Outcome State Fault Refusal :=
  let ok := decide (1 ≤ speed.toNat) && decide (speed.toNat ≤ 6) && decide (width ∈ [1#4, 2#4, 4#4, 8#4])
  if !ok || !s.pins.perstHigh h || !s.pwr.railsOn || s.sbd.step.toNat < 3 || (s.pci h).up then .next s
  else .next (s.modPci h fun p => { p with speed := speed, width := width, flit := flit || speed = 6 })

/-- SURPRISE_LINK_DOWN: the link is down; what the port has received is still performed (R405). -/
def execSurpriseLinkDown (h : HostPort) (s : State) : Host.Outcome State Fault Refusal :=
  .next (s.modPci h fun p => { p with speed := 0, width := 0, flit := false })

end Sys2Proof.Machine
end

