-- ==== Sys2Proof/Machine/Mgmt.lean ====
section
/-! DEFINITION. Management over MCTP (R420-R422) and attestation with SPDM (R423-R425). The layouts of the standard messages are
those of DSP0236 and DSP0274 (log entry 26). -/

namespace Sys2Proof.Machine

/-! ### Answers -/

/-- The endpoint of a port serves: its link is up, in D0 (R404, R420). -/
def State.serves (s : State) (h : HostPort) : Bool := (s.pci h).up && !(s.pci h).d3hot && s.pwr.railsOn

/-- The endpoint answers commands besides Set and Get Endpoint ID: its EID is set (R420). -/
def State.hasEid (s : State) (h : HostPort) : Bool := s.serves h && (s.pci h).eid ≠ 0

/-- The message that the endpoint sends. -/
def State.sendMctp (s : State) (h : HostPort) (b : List Byte) : State := s.modPci h fun p => { p with mctp := b }

/-- A byte of a number. -/
def byte (n : Nat) : Byte := BitVec.ofNat 8 n

/-! ### Niholt management commands (R421, R422) -/

/-- A response: type, vendor ID, command with bit 7, sequence byte, completion code and body (R421). -/
def niholt (cmd : Nat) (seq : Byte) (code : Nat) (body : List Byte) : List Byte :=
  [0x7E, 0x1F, 0x7D, byte (cmd + 0x80), seq, byte code] ++ body

/-- The command is permitted by role: the control host, and either host in recovery mode (R421, R422). -/
def State.roleOk (s : State) (h : HostPort) : Bool := s.isControl h || s.recwin

/-- Fuses may be blown: no plan runs, and the module is not in the fallow state (R421, R422). -/
def State.mayFuse (s : State) (h : HostPort) : Bool := s.roleOk h && s.planIdle && !s.evr.fallow

/-- GET_HEALTH (R421). -/
def execGetHealth (h : HostPort) (seq : Byte) (s : State) : Host.Outcome State Fault Refusal :=
  if !s.hasEid h then .next s
  else .next (s.sendMctp h (niholt 1 seq 0
    (bytesOfWords [s.sbd.status, s.planstat, s.evrstatus, s.pwr.input, w32 s.kuf.node.toNat])))

/-- READ_BB: 32 bytes of the black box (R421). -/
def execReadBb (h : HostPort) (seq : Byte) (off : W32) (s : State) : Host.Outcome State Fault Refusal :=
  if !s.hasEid h then .next s
  else if off.toNat % 32 ≠ 0 || 0x400000 ≤ off.toNat then .next (s.sendMctp h (niholt 2 seq 2 []))
  else .next (s.sendMctp h (niholt 2 seq 0 (cellsGet 0 s.evr.blackbox off.toNat 32)))

/-- RESET_MODULE: the module reset is due 1 ms after the response (R421). -/
def execResetModule (h : HostPort) (seq : Byte) (s : State) : Host.Outcome State Fault Refusal :=
  if !s.hasEid h then .next s
  else if !s.roleOk h then .next (s.sendMctp h (niholt 3 seq 1 []))
  else .next ((s.modPci h fun p => { p with resetDue := true }).sendMctp h (niholt 3 seq 0 []))

/-- A key slot takes new contents. -/
def State.setKey (s : State) (i : Nat) (k : KeySlot) : State :=
  { s with sbd := { s.sbd with keys := s.sbd.keys.setIfInBounds i k } }

/-- The key slot of a number below 4. -/
def Sbd.key (x : Sbd) (i : Nat) : KeySlot := x.keys.toList.getD i { fused := false, enabled := false, digest := 0 }

/-- FUSE_KEY: fuses and enables a slot that has never been fused (R422). -/
def execFuseKey (h : HostPort) (seq slot : Byte) (digest : List Byte) (s : State) : Host.Outcome State Fault Refusal :=
  let i := slot.toNat
  if !s.hasEid h then .next s
  else if !s.mayFuse h then .next (s.sendMctp h (niholt 4 seq 1 []))
  else if i = 0 || 3 < i || digest.length ≠ 48 then .next (s.sendMctp h (niholt 4 seq 2 []))
  else if (s.sbd.key i).fused then .next (s.sendMctp h (niholt 4 seq 3 []))
  else
    .next ((s.setKey i { fused := true, enabled := true, digest := BitVec.ofNat 384 (natOfBytes digest) }).sendMctp h
      (niholt 4 seq 0 []))

/-- DISABLE_KEY: disables an enabled slot, unless none would be left (R422). The code for a slot that is not enabled is not
stated: a free one of 0x00 and 0x02. -/
def execDisableKey (h : HostPort) (seq slot : Byte) (s : State) : Host.Outcome State Fault Refusal :=
  let i := slot.toNat
  if !s.hasEid h then .next s
  else if !s.mayFuse h then .next (s.sendMctp h (niholt 5 seq 1 []))
  else if 3 < i then .next (s.sendMctp h (niholt 5 seq 2 []))
  else if !(s.sbd.key i).enabled then
    let (v, s1) := s.free
    .next (s1.sendMctp h (niholt 5 seq (v % 2 * 2) []))
  else if (s.sbd.keys.toList.filter fun k => k.enabled).length ≤ 1 then .next (s.sendMctp h (niholt 5 seq 4 []))
  else .next ((s.setKey i { s.sbd.key i with enabled := false }).sendMctp h (niholt 5 seq 0 []))

/-! ### MCTP control (R420) -/

/-- A control response: type, command, completion code and data. -/
def control (cmd code : Nat) (body : List Byte) : List Byte := [0x00, byte cmd, byte code] ++ body

/-- SET_ENDPOINT_ID: operations 0 and 1 set the EID; 0x00 and 0xFF are no EIDs, and there is no static EID to reset to. -/
def execSetEndpointId (h : HostPort) (op : BitVec 2) (eid : Byte) (s : State) : Host.Outcome State Fault Refusal :=
  if !s.serves h then .next s
  else if op = 2 || (op ≠ 3 && (eid = 0 || eid = 0xFF)) then .next (s.sendMctp h (control 1 2 []))
  else
    let s1 := if op = 3 then s else s.modPci h fun p => { p with eid := eid }
    .next (s1.sendMctp h (control 1 0 [0, (s1.pci h).eid, 0]))

/-- GET_ENDPOINT_ID: a simple endpoint with its EID. -/
def execGetEndpointId (h : HostPort) (s : State) : Host.Outcome State Fault Refusal :=
  if !s.serves h then .next s else .next (s.sendMctp h (control 2 0 [(s.pci h).eid, 0, 0]))

/-- GET_ENDPOINT_UUID. -/
def execGetEndpointUuid (h : HostPort) (s : State) : Host.Outcome State Fault Refusal :=
  if !s.hasEid h then .next s else .next (s.sendMctp h (control 3 0 (bytesOfNat 16 Config.endpointUuid.toNat)))

/-- GET_MCTP_VERSION_SUPPORT: 1.3 for the base and for control messages. The versions of the other message types are not stated:
free bytes. A type that is not supported is answered with 0x80. -/
def execGetMctpVersionSupport (h : HostPort) (msgType : Byte) (s : State) : Host.Outcome State Fault Refusal :=
  if !s.hasEid h then .next s
  else if msgType = 0xFF || msgType = 0 then .next (s.sendMctp h (control 4 0 [1, 0xF1, 0xF3, 0xFF, 0x00]))
  else if msgType = 5 || msgType = 0x7E then
    let (v, s1) := s.free
    .next (s1.sendMctp h (control 4 0 (1 :: bytesOfNat 4 v)))
  else .next (s.sendMctp h (control 4 0x80 []))

/-- GET_MESSAGE_TYPE_SUPPORT: SPDM and vendor-defined PCI, besides control. -/
def execGetMessageTypeSupport (h : HostPort) (s : State) : Host.Outcome State Fault Refusal :=
  if !s.hasEid h then .next s else .next (s.sendMctp h (control 5 0 [2, 0x05, 0x7E]))

/-- GET_VENDOR_MESSAGE_SUPPORT: PCI vendor ID 0x1F7D, the only one. Its command set word is not stated: a free value. -/
def execGetVendorMessageSupport (h : HostPort) (selector : Byte) (s : State) : Host.Outcome State Fault Refusal :=
  if !s.hasEid h then .next s
  else if selector ≠ 0 then .next (s.sendMctp h (control 6 2 []))
  else
    let (v, s1) := s.free
    .next (s1.sendMctp h (control 6 0 ([0xFF, 0x00, 0x1F, 0x7D] ++ bytesOfNat 2 v)))

/-! ### SPDM (R423-R425) -/

/-- An SPDM message of version 1.2. -/
def spdm (code p1 p2 : Nat) (body : List Byte) : List Byte := [0x12, byte code, byte p1, byte p2] ++ body

/-- A response goes out with its message type. -/
def State.sendSpdm (s : State) (h : HostPort) (b : List Byte) : State := s.sendMctp h (0x05 :: b)

/-- The error UnexpectedRequest, and InvalidRequest. -/
def State.spdmError (s : State) (h : HostPort) (code : Nat) : State := s.sendSpdm h (spdm 0x7F code 0 [])

/-- UNSUPPORTED_REQUEST: other control commands are answered with ERROR_UNSUPPORTED_CMD, other SPDM requests with
UnsupportedRequest (R420, R423). -/
def execUnsupportedRequest (h : HostPort) (isSpdm : Bool) (code : Byte) (s : State) : Host.Outcome State Fault Refusal :=
  let known : List Byte := if isSpdm then [0x84, 0xE1, 0xE3, 0x81, 0x82, 0x83, 0xE0] else [1, 2, 3, 4, 5, 6]
  if !s.hasEid h || decide (code ∈ known) then .next s
  else if isSpdm then .next (s.sendSpdm h (spdm 0x7F 7 code.toNat []))
  else .next (s.sendMctp h (control code.toNat 5 []))

/-- GET_VERSION: version 1.2 only; the connection begins afresh (R423). -/
def execGetVersion (h : HostPort) (s : State) : Host.Outcome State Fault Refusal :=
  if !s.hasEid h then .next s
  else
    let r : List Byte := [0x10, 0x04, 0, 0, 0, 1, 0x00, 0x12]
    .next ((s.modPci h fun p => { p with spdm := 1, transcript := [0x10, 0x84, 0, 0] ++ r, certLog := [], measLog := [] }).sendSpdm h r)

/-- GET_CAPABILITIES: CERT_CAP, CHAL_CAP, and MEAS_CAP with signature (R423). The timing exponent and the buffer sizes are not
stated: free bytes. -/
def execGetCapabilities (h : HostPort) (request : List Byte) (s : State) : Host.Outcome State Fault Refusal :=
  if !s.hasEid h then .next s
  else if (s.pci h).spdm ≠ 1 then .next (s.spdmError h 4)
  else
    let (v, s1) := s.free
    let r := spdm 0x61 0 0 ([0, byte v, 0, 0] ++ bytesOfNat 4 0x16 ++ bytesOfNat 8 (v / 256))
    .next ((s1.modPci h fun p => { p with spdm := 2, transcript := p.transcript ++ request ++ r }).sendSpdm h r)

/-- NEGOTIATE_ALGORITHMS: DMTF measurements, SHA-384 and ECDSA on P-384 (R423). -/
def execNegotiateAlgorithms (h : HostPort) (request : List Byte) (s : State) : Host.Outcome State Fault Refusal :=
  if !s.hasEid h then .next s
  else if (s.pci h).spdm ≠ 2 then .next (s.spdmError h 4)
  else
    let r := spdm 0x63 0 0
      (bytesOfNat 2 36 ++ [1, 0] ++ bytesOfNat 4 4 ++ bytesOfNat 4 0x80 ++ bytesOfNat 4 2 ++ zeros 12 ++ zeros 4)
    .next ((s.modPci h fun p => { p with spdm := 3, transcript := p.transcript ++ request ++ r }).sendSpdm h r)

/-- GET_DIGESTS: the digest of slot 0 (R423, R424). -/
def execGetDigests (h : HostPort) (s : State) : Host.Outcome State Fault Refusal :=
  if !s.hasEid h then .next s
  else if (s.pci h).spdm ≠ 3 then .next (s.spdmError h 4)
  else
    let r := spdm 0x01 0 1 (sha384 Config.identityChain)
    .next ((s.modPci h fun p => { p with certLog := p.certLog ++ spdm 0x81 0 0 [] ++ r }).sendSpdm h r)

/-- GET_CERTIFICATE: a part of the identity chain of slot 0 (R424). -/
def execGetCertificate (h : HostPort) (slot : Byte) (offset length : BitVec 16) (s : State) : Host.Outcome State Fault Refusal :=
  let chain := Config.identityChain
  if !s.hasEid h then .next s
  else if (s.pci h).spdm ≠ 3 then .next (s.spdmError h 4)
  else if slot ≠ 0 || chain.length ≤ offset.toNat then .next (s.spdmError h 1)
  else
    let part := (chain.drop offset.toNat).take length.toNat
    let rest := chain.length - offset.toNat - part.length
    let r := spdm 0x02 0 0 (bytesOfNat 2 part.length ++ bytesOfNat 2 rest ++ part)
    let q := spdm 0x82 0 0 (bytesOfNat 2 offset.toNat ++ bytesOfNat 2 length.toNat)
    .next ((s.modPci h fun p => { p with certLog := p.certLog ++ q ++ r }).sendSpdm h r)

/-- The bytes of a digest. -/
def digestBytes (d : BitVec 384) : List Byte := bytesOfNat 48 d.toNat

/-- The value type and the value of a measurement (R425). -/
def State.measurement (s : State) (i : Nat) : Nat × List Byte :=
  match i with
  | 1 => (0, digestBytes Config.bootRomDigest)
  | 2 => (1, digestBytes (if s.sbd.winner.isSome then s.sbd.imageDigest else Config.unstatedDigest 2))
  | 3 => (3, digestBytes (s.sbd.cfgDigest.getD (Config.unstatedDigest 3)))
  | 4 => (2, digestBytes (s.sbd.calDigest.getD (Config.unstatedDigest 4)))
  | 5 =>
    let slots := s.sbd.keys.toList.map fun k => (k.enabled, k.digest)
    (2, sha384 (Config.fuseBytes (orderBit s.sbd.order) slots))
  | 6 => (0x84, bytesOfWords [s.sbd.seq, s.sbd.status, s.sbd.arbres, 0])
  | _ => (4, digestBytes s.sbd.planDigest)

/-- A measurement block in the DMTF format. -/
def State.measBlock (s : State) (i : Nat) : List Byte :=
  let (t, v) := s.measurement i
  [byte i, 1] ++ bytesOfNat 2 (v.length + 3) ++ [byte t] ++ bytesOfNat 2 v.length ++ v

/-- Every measurement block. -/
def State.measBlocks (s : State) : List Byte := [1, 2, 3, 4, 5, 6, 7].flatMap s.measBlock

/-- A signature of the device key over messages (R424). -/
def signature (msgs : List Byte) (n : Nat) : List Byte := bytesOfNat 96 (Config.deviceSign (digest384 msgs) n).toNat

/-- CHALLENGE: a signed response with the chain's digest and, where asked, a summary of the measurements (R423). The responder's
nonce is free, and so is the summary of the part that DSP0274 calls the trusted computing base. -/
def execChallenge (h : HostPort) (slot hashType : Byte) (nonce : List Byte) (s : State) : Host.Outcome State Fault Refusal :=
  if !s.hasEid h then .next s
  else if (s.pci h).spdm ≠ 3 then .next (s.spdmError h 4)
  else if slot ≠ 0 || !(hashType = 0 || hashType = 1 || hashType = 0xFF) then .next (s.spdmError h 1)
  else
    let (v, s1) := s.free
    let (w, s2) := s1.free
    let summary := if hashType = 0 then [] else if hashType = 1 then bytesOfNat 48 w else sha384 s.measBlocks
    let q := spdm 0x83 0 hashType.toNat nonce
    let r := spdm 0x03 0 1 (sha384 Config.identityChain ++ bytesOfNat 32 v ++ summary ++ bytesOfNat 2 0)
    let p := s.pci h
    let sig := signature (p.transcript ++ p.certLog ++ q ++ r) s.freeCtr
    .next ((s2.modPci h fun p => { p with certLog := [] }).sendSpdm h (r ++ sig))

/-- GET_MEASUREMENTS: the count of blocks, one block or all of them, signed where asked (R425). -/
def execGetMeasurements (h : HostPort) (signed : Bool) (operation : Byte) (nonce : List Byte) (slot : Byte) (s : State) :
    Host.Outcome State Fault Refusal :=
  let n := operation.toNat
  if !s.hasEid h then .next s
  else if (s.pci h).spdm ≠ 3 then .next (s.spdmError h 4)
  else if (7 < n && n ≠ 0xFF) || (signed && slot ≠ 0) then .next (s.spdmError h 1)
  else
    let (v, s1) := s.free
    let record := if n = 0 then [] else if n = 0xFF then s.measBlocks else s.measBlock n
    let blocks := if n = 0 then 0 else if n = 0xFF then 7 else 1
    let q := spdm 0xE0 (b2n signed) n (if signed then nonce ++ [slot] else [])
    let r := spdm 0x60 (if n = 0 then 7 else 0) 0
      ([byte blocks] ++ bytesOfNat 3 record.length ++ record ++ bytesOfNat 32 v ++ bytesOfNat 2 0)
    let msgs := (s.pci h).measLog ++ q ++ r
    let sig := if signed then signature ((s.pci h).transcript ++ msgs) s.freeCtr else []
    .next ((s1.modPci h fun p => { p with measLog := if signed then [] else msgs }).sendSpdm h (r ++ sig))

end Sys2Proof.Machine
end

