-- ==== Sys2Proof/Machine/Sideband.lean ====
section
/-! DEFINITION. The sideband target (R453, R459). -/

namespace Sys2Proof.Machine

/-- The target serves from step 2 of start-up, in recovery mode and in the fallow state (R459). -/
def State.sidebandServes (s : State) : Bool := s.pwr.railsOn && decide (2 ≤ s.sbd.step.toNat)

/-- A word of the sideband table; 0 outside it (R459). -/
def State.sidebandWord (s : State) (o : Nat) : W32 :=
  let hot := s.pwr.strips.toList.foldl (fun m x => Nat.max m (degrees x.temp)) 0
  let pkg := s.mem.pkgs.toList.foldl (fun m x => Nat.max m (match x.reading with | some t => degrees t | none => 0)) 0
  match o with
  | 0x00 => s.sbd.status
  | 0x04 => s.planstat
  | 0x08 => s.evrstatus
  | 0x0C => s.pwr.input
  | 0x10 => w32 s.kuf.node.toNat
  | 0x14 => w32 (s.pins.feedid.toNat * 2 ^ 28 + b2n s.pwr.envvalid * 2 ^ 12
      + (match s.pwr.env with | some e => e.toNat | none => 0))
  | 0x18 => w32 (hot * 2 ^ 24 + pkg * 2 ^ 16)
  | 0x1C => w32 s.sbd.serial.toNat
  | 0x20 => w32 (s.sbd.serial.toNat / 2 ^ 32)
  | _ => 0

/-- SETDASA: the target without a dynamic address takes one (R459). -/
def execSetdasa (address : BitVec 7) (s : State) : Host.Outcome State Fault Refusal :=
  if !s.sidebandServes || s.pins.sbAddr.isSome then .next s
  else .next { s with pins := { s.pins with sbAddr := some address } }

/-- SIDEBAND_POINTER_WRITE: one byte that is a multiple of 4; any other write is ignored (R459). -/
def execSidebandPointerWrite (data : List Byte) (s : State) : Host.Outcome State Fault Refusal :=
  match data with
  | [b] =>
    if s.sidebandServes && b.toNat % 4 = 0 then .next { s with pins := { s.pins with sbPtr := b.toNat } } else .next s
  | _ => .next s

/-- SIDEBAND_WORD_READ: the word at the pointer, which moves on by 4 (R459). -/
def execSidebandWordRead (s : State) : Host.Outcome State Fault Refusal :=
  if !s.sidebandServes then .next s
  else .next { s with pins := { s.pins with sbOut := s.sidebandWord s.pins.sbPtr, sbPtr := (s.pins.sbPtr + 4) % 256 } }

/-- SB_SCL_STUCK_TIMEOUT: the target resets its interface (R453). -/
def execSbSclStuckTimeout (s : State) : Host.Outcome State Fault Refusal :=
  if !s.sidebandServes then .next s
  else .next { s with pins := { s.pins with sbAddr := none, sbPtr := 0, sbOut := 0 } }

end Sys2Proof.Machine
end

