-- ==== Sys2Proof/Machine/Dispatch.lean ====
section
/-! DEFINITION. The meaning of every command: one arm per constructor. -/

namespace Sys2Proof.Machine

/-- The command's effect on everything but the queue. -/
def exec (i : Instr) (s : State) : Host.Outcome State Fault Refusal :=
  match i with
  | .nop p => Sys2Proof.Machine.execNop p s
  | .pass p => Sys2Proof.Machine.execPass p s
  | .stream p => Sys2Proof.Machine.execStream p s
  | .dma p => Sys2Proof.Machine.execDma p s
  | .wait p => Sys2Proof.Machine.execWait p s
  | .signal p => Sys2Proof.Machine.execSignal p s
  | .fence p => Sys2Proof.Machine.execFence p s
  | .check p => Sys2Proof.Machine.execCheck p s
  | .vote p => Sys2Proof.Machine.execVote p s
  | .rclear p => Sys2Proof.Machine.execRclear p s
  | .rread p => Sys2Proof.Machine.execRread p s
  | .rsave p => Sys2Proof.Machine.execRsave p s
  | .radd p => Sys2Proof.Machine.execRadd p s
  | .rcombine p => Sys2Proof.Machine.execRcombine p s
  | .resumep p => Sys2Proof.Machine.execResumep p s
  | .resumes p => Sys2Proof.Machine.execResumes p s
  | .brflt p => Sys2Proof.Machine.execBrflt p s
  | .jump p => Sys2Proof.Machine.execJump p s
  | .endrow p => Sys2Proof.Machine.execEndrow p s
  | .endplan p => Sys2Proof.Machine.execEndplan p s
  | .mark p => Sys2Proof.Machine.execMark p s
  | .passEntry p => Sys2Proof.Machine.execPassEntry p s
  | .groupCommit p => Sys2Proof.Machine.execGroupCommit p s
  | .tileWriteoutDone p bank => Sys2Proof.Machine.execTileWriteoutDone p bank s
  | .tileReductionDone p => Sys2Proof.Machine.execTileReductionDone p s
  | .passStop p => Sys2Proof.Machine.execPassStop p s
  | .operandParityError p g => Sys2Proof.Machine.execOperandParityError p g s
  | .passReentry p => Sys2Proof.Machine.execPassReentry p s
  | .reductionParityError p => Sys2Proof.Machine.execReductionParityError p s
  | .checkCompare p => Sys2Proof.Machine.execCheckCompare p s
  | .heldAccessRelease p u => Sys2Proof.Machine.execHeldAccessRelease p u s
  | .streamStart p => Sys2Proof.Machine.execStreamStart p s
  | .streamEnd p => Sys2Proof.Machine.execStreamEnd p s
  | .streamStop p epos => Sys2Proof.Machine.execStreamStop p epos s
  | .drillParityError p epos => Sys2Proof.Machine.execDrillParityError p epos s
  | .tillingParityError p => Sys2Proof.Machine.execTillingParityError p s
  | .tillingIntensityStep p => Sys2Proof.Machine.execTillingIntensityStep p s
  | .combineDelivery id => Sys2Proof.Machine.execCombineDelivery id s
  | .fallbackAllocation => Sys2Proof.Machine.execFallbackAllocation s
  | .send id => Sys2Proof.Machine.execSend id s
  | .recvadd id => Sys2Proof.Machine.execRecvadd id s
  | .recvset id => Sys2Proof.Machine.execRecvset id s
  | .transferDone p m => Sys2Proof.Machine.execTransferDone p m s
  | .trailingToken p m => Sys2Proof.Machine.execTrailingToken p m s
  | .homeAccess p m wrongBytes => Sys2Proof.Machine.execHomeAccess p m wrongBytes s
  | .writeAck src => Sys2Proof.Machine.execWriteAck src s
  | .ringTransfer link ascending crcOk => Sys2Proof.Machine.execRingTransfer link ascending crcOk s
  | .scrubRead addr wrongBytes => Sys2Proof.Machine.execScrubRead addr wrongBytes s
  | .mr4Read pkg demand => Sys2Proof.Machine.execMr4Read pkg demand s
  | .packageSensorReading pkg tenths => Sys2Proof.Machine.execPackageSensorReading pkg tenths s
  | .refreshStepFall pkg => Sys2Proof.Machine.execRefreshStepFall pkg s
  | .packageSensorTimeout pkg => Sys2Proof.Machine.execPackageSensorTimeout pkg s
  | .layoutInitDone => Sys2Proof.Machine.execLayoutInitDone s
  | .sliceModeChangeDone d => Sys2Proof.Machine.execSliceModeChangeDone d s
  | .tokenArrival ix => Sys2Proof.Machine.execTokenArrival ix s
  | .remoteTokenArrival ix => Sys2Proof.Machine.execRemoteTokenArrival ix s
  | .announcedWriteAck => Sys2Proof.Machine.execAnnouncedWriteAck s
  | .syncCycle elapsed => Sys2Proof.Machine.execSyncCycle elapsed s
  | .watchExpiry d slot => Sys2Proof.Machine.execWatchExpiry d slot s
  | .earlyTokenExpiry d slot => Sys2Proof.Machine.execEarlyTokenExpiry d slot s
  | .dumpWritten => Sys2Proof.Machine.execDumpWritten s
  | .enable h k on => Sys2Proof.Machine.execEnable h k on s
  | .portTrainingStateDone k => Sys2Proof.Machine.execPortTrainingStateDone k s
  | .portStateBoundExceeded k => Sys2Proof.Machine.execPortStateBoundExceeded k s
  | .codewordLockLost k => Sys2Proof.Machine.execCodewordLockLost k s
  | .retraining k => Sys2Proof.Machine.execRetraining k s
  | .portDeclaredDown k => Sys2Proof.Machine.execPortDeclaredDown k s
  | .flitSend k => Sys2Proof.Machine.execFlitSend k s
  | .flitReceive k bytes corrected uncorrectable => Sys2Proof.Machine.execFlitReceive k bytes corrected uncorrectable s
  | .replayRequest k => Sys2Proof.Machine.execReplayRequest k s
  | .identityFlit k => Sys2Proof.Machine.execIdentityFlit k s
  | .identityAnswerTimeout k => Sys2Proof.Machine.execIdentityAnswerTimeout k s
  | .downFlit k => Sys2Proof.Machine.execDownFlit k s
  | .dataWrite k => Sys2Proof.Machine.execDataWrite k s
  | .token k => Sys2Proof.Machine.execToken k s
  | .collectiveStep k => Sys2Proof.Machine.execCollectiveStep k s
  | .openMsg k => Sys2Proof.Machine.execOpenMsg k s
  | .grant k => Sys2Proof.Machine.execGrant k s
  | .ack k => Sys2Proof.Machine.execAck k s
  | .refuse k => Sys2Proof.Machine.execRefuse k s
  | .ackSend node ch => Sys2Proof.Machine.execAckSend node ch s
  | .messageResend node ch mseq => Sys2Proof.Machine.execMessageResend node ch mseq s
  | .openResend node ch => Sys2Proof.Machine.execOpenResend node ch s
  | .rowCompletion => Sys2Proof.Machine.execRowCompletion s
  | .stepUp => Sys2Proof.Machine.execStepUp s
  | .advance => Sys2Proof.Machine.execAdvance s
  | .haltToken => Sys2Proof.Machine.execHaltToken s
  | .jobAbort => Sys2Proof.Machine.execJobAbort s
  | .stepTimeout => Sys2Proof.Machine.execStepTimeout s
  | .sowingSlot ix => Sys2Proof.Machine.execSowingSlot ix s
  | .buddyCopy => Sys2Proof.Machine.execBuddyCopy s
  | .buddyCopyHeader => Sys2Proof.Machine.execBuddyCopyHeader s
  | .feedquery => Sys2Proof.Machine.execFeedquery s
  | .feedreply => Sys2Proof.Machine.execFeedreply s
  | .feedCheckTimeout => Sys2Proof.Machine.execFeedCheckTimeout s
  | .returndone => Sys2Proof.Machine.execReturndone s
  | .returnProgress => Sys2Proof.Machine.execReturnProgress s
  | .errorRecord h => Sys2Proof.Machine.execErrorRecord h s
  | .pendingError h => Sys2Proof.Machine.execPendingError h s
  | .moduleFatal => Sys2Proof.Machine.execModuleFatal s
  | .flushDone => Sys2Proof.Machine.execFlushDone s
  | .flushPathError => Sys2Proof.Machine.execFlushPathError s
  | .blackBoxEraseStep => Sys2Proof.Machine.execBlackBoxEraseStep s
  | .powerControlPeriod r => Sys2Proof.Machine.execPowerControlPeriod r s
  | .modelDeviationCheck => Sys2Proof.Machine.execModelDeviationCheck s
  | .frequencyChangeStart ix => Sys2Proof.Machine.execFrequencyChangeStart ix s
  | .railSlewDone d => Sys2Proof.Machine.execRailSlewDone d s
  | .stripRestart ix => Sys2Proof.Machine.execStripRestart ix s
  | .supplyDroop ix cycles => Sys2Proof.Machine.execSupplyDroop ix cycles s
  | .coreRailLow d => Sys2Proof.Machine.execCoreRailLow d s
  | .thermalTrip ix tenths => Sys2Proof.Machine.execThermalTrip ix tenths s
  | .envelopeReading millivolts => Sys2Proof.Machine.execEnvelopeReading millivolts s
  | .envelopeInvalidTimeout => Sys2Proof.Machine.execEnvelopeInvalidTimeout s
  | .feedIdChange v => Sys2Proof.Machine.execFeedIdChange v s
  | .pwrFailN high => Sys2Proof.Machine.execPwrFailN high s
  | .supplyFailureThreshold => Sys2Proof.Machine.execSupplyFailureThreshold s
  | .holdUpEnd => Sys2Proof.Machine.execHoldUpEnd s
  | .supplyRise => Sys2Proof.Machine.execSupplyRise s
  | .perstBoth => Sys2Proof.Machine.execPerstBoth s
  | .perstOne h high => Sys2Proof.Machine.execPerstOne h high s
  | .moduleReset => Sys2Proof.Machine.execModuleReset s
  | .startupStepDone => Sys2Proof.Machine.execStartupStepDone s
  | .startupStepOverrun => Sys2Proof.Machine.execStartupStepOverrun s
  | .halfArbitration timeout => Sys2Proof.Machine.execHalfArbitration timeout s
  | .thermTripRelease => Sys2Proof.Machine.execThermTripRelease s
  | .watchdogExpiry h => Sys2Proof.Machine.execWatchdogExpiry h s
  | .leadChange => Sys2Proof.Machine.execLeadChange s
  | .flashOperationDone ok => Sys2Proof.Machine.execFlashOperationDone ok s
  | .registerWrite h off width v => Sys2Proof.Machine.execRegisterWrite h off width v s
  | .stopreqHar h p => Sys2Proof.Machine.execStopreqHar h p s
  | .stopreqDrl h p => Sys2Proof.Machine.execStopreqDrl h p s
  | .stop h p => Sys2Proof.Machine.execStop h p s
  | .step h p => Sys2Proof.Machine.execStep h p s
  | .run h p => Sys2Proof.Machine.execRun h p s
  | .plotStopComplete p => Sys2Proof.Machine.execPlotStopComplete p s
  | .start h => Sys2Proof.Machine.execStart h s
  | .abort h => Sys2Proof.Machine.execAbort h s
  | .harFbresWrite h extra => Sys2Proof.Machine.execHarFbresWrite h extra s
  | .apply h v => Sys2Proof.Machine.execApply h v s
  | .bstSlicemodeWrite h d modes => Sys2Proof.Machine.execBstSlicemodeWrite h d modes s
  | .qread h d queue => Sys2Proof.Machine.execQread h d queue s
  | .qpush h d queue => Sys2Proof.Machine.execQpush h d queue s
  | .qpop h d queue => Sys2Proof.Machine.execQpop h d queue s
  | .qclear h d queue => Sys2Proof.Machine.execQclear h d queue s
  | .qrelease h d queue => Sys2Proof.Machine.execQrelease h d queue s
  | .req h => Sys2Proof.Machine.execReq h s
  | .rearm h => Sys2Proof.Machine.execRearm h s
  | .kufNodeWrite h node => Sys2Proof.Machine.execKufNodeWrite h node s
  | .restore h k => Sys2Proof.Machine.execRestore h k s
  | .haltnow h => Sys2Proof.Machine.execHaltnow h s
  | .resume h => Sys2Proof.Machine.execResume h s
  | .haltat h => Sys2Proof.Machine.execHaltat h s
  | .haltnext h => Sys2Proof.Machine.execHaltnext h s
  | .go h restore => Sys2Proof.Machine.execGo h restore s
  | .set h => Sys2Proof.Machine.execSet h s
  | .return_ h owner target => Sys2Proof.Machine.execReturn h owner target s
  | .flush h => Sys2Proof.Machine.execFlush h s
  | .clearhist h => Sys2Proof.Machine.execClearhist h s
  | .bberase h => Sys2Proof.Machine.execBberase h s
  | .evrQcfgWrite h q v => Sys2Proof.Machine.execEvrQcfgWrite h q v s
  | .flashImageProgram h => Sys2Proof.Machine.execFlashImageProgram h s
  | .calibrationWrite h => Sys2Proof.Machine.execCalibrationWrite h s
  | .calibrationRead h => Sys2Proof.Machine.execCalibrationRead h s
  | .sbdRecovGo h program => Sys2Proof.Machine.execSbdRecovGo h program s
  | .reset h => Sys2Proof.Machine.execReset h s
  | .tokenWrite h off width v => Sys2Proof.Machine.execTokenWrite h off width v s
  | .bar2Read h off len => Sys2Proof.Machine.execBar2Read h off len s
  | .bar2Write h off data => Sys2Proof.Machine.execBar2Write h off data s
  | .memErrlogRead h d => Sys2Proof.Machine.execMemErrlogRead h d s
  | .pciBar2errRead h blk => Sys2Proof.Machine.execPciBar2errRead h blk s
  | .msixMessage h v => Sys2Proof.Machine.execMsixMessage h v s
  | .cntctlClear h v => Sys2Proof.Machine.execCntctlClear h v s
  | .fire h spread => Sys2Proof.Machine.execFire h spread s
  | .arm h d v => Sys2Proof.Machine.execArm h d v s
  | .reg h d n count queue => Sys2Proof.Machine.execReg h d n count queue s
  | .wdraw h d n => Sys2Proof.Machine.execWdraw h d n s
  | .dbgPsdataRead h p => Sys2Proof.Machine.execDbgPsdataRead h p s
  | .dbgPsdataWrite h p v => Sys2Proof.Machine.execDbgPsdataWrite h p v s
  | .getHealth h seq => Sys2Proof.Machine.execGetHealth h seq s
  | .readBb h seq off => Sys2Proof.Machine.execReadBb h seq off s
  | .resetModule h seq => Sys2Proof.Machine.execResetModule h seq s
  | .fuseKey h seq slot digest => Sys2Proof.Machine.execFuseKey h seq slot digest s
  | .disableKey h seq slot => Sys2Proof.Machine.execDisableKey h seq slot s
  | .setEndpointId h op eid => Sys2Proof.Machine.execSetEndpointId h op eid s
  | .getEndpointId h => Sys2Proof.Machine.execGetEndpointId h s
  | .getEndpointUuid h => Sys2Proof.Machine.execGetEndpointUuid h s
  | .getMctpVersionSupport h msgType => Sys2Proof.Machine.execGetMctpVersionSupport h msgType s
  | .getMessageTypeSupport h => Sys2Proof.Machine.execGetMessageTypeSupport h s
  | .getVendorMessageSupport h selector => Sys2Proof.Machine.execGetVendorMessageSupport h selector s
  | .unsupportedRequest h spdm code => Sys2Proof.Machine.execUnsupportedRequest h spdm code s
  | .getVersion h => Sys2Proof.Machine.execGetVersion h s
  | .getCapabilities h request => Sys2Proof.Machine.execGetCapabilities h request s
  | .negotiateAlgorithms h request => Sys2Proof.Machine.execNegotiateAlgorithms h request s
  | .getDigests h => Sys2Proof.Machine.execGetDigests h s
  | .getCertificate h slot offset length => Sys2Proof.Machine.execGetCertificate h slot offset length s
  | .challenge h slot hashType nonce => Sys2Proof.Machine.execChallenge h slot hashType nonce s
  | .getMeasurements h signed operation nonce slot => Sys2Proof.Machine.execGetMeasurements h signed operation nonce slot s
  | .setdasa address => Sys2Proof.Machine.execSetdasa address s
  | .sidebandPointerWrite data => Sys2Proof.Machine.execSidebandPointerWrite data s
  | .sidebandWordRead => Sys2Proof.Machine.execSidebandWordRead s
  | .sbSclStuckTimeout => Sys2Proof.Machine.execSbSclStuckTimeout s
  | .registerRead h off width => Sys2Proof.Machine.execRegisterRead h off width s
  | .configurationRequest h r => Sys2Proof.Machine.execConfigurationRequest h r s
  | .linkUp h speed width flit => Sys2Proof.Machine.execLinkUp h speed width flit s
  | .surpriseLinkDown h => Sys2Proof.Machine.execSurpriseLinkDown h s

end Sys2Proof.Machine
end

