-- ==== Sys2Proof/Safety.lean ====
section
/-! DEFINITION. What counts as a safe run, and when a host port serves, in the terms that the statements use. -/

namespace Sys2Proof

/-- A step answers a next state. -/
def Completes (o : Host.Outcome Machine.State Machine.Fault Machine.Refusal) : Prop := ∃ t, o = .next t

/-- k steps end neither in a fault nor in a refusal. -/
def SafeFor (k : Nat) (s : Machine.State) : Prop := Completes (Host.Core.run core k s)

namespace Machine

/-- Port h takes its host's requests at once: its link is up in D0 and the rails are on, no request waits, and no first word
of a pair waits for its complement (R14, R404, R414). -/
structure Linked (s : State) (h : HostPort) : Prop where
  up : (s.pci h).up = true
  d0 : (s.pci h).d3hot = false
  rails : s.pwr.railsOn = true
  idle : (s.pci h).stalled = []
  pairs : (s.pci h).pairs = []

/-- Port h serves the control host's register accesses: it is linked, the module is ready and not in the fallow state, and the
configuration block names its host as the control host (R381, R386, R407). -/
structure Serves (s : State) (h : HostPort) : Prop extends Linked s h where
  ready : s.sbd.state = .ready
  live : s.evr.fallow = false
  control : s.isControl h = true

end Machine

end Sys2Proof
end

