-- ==== Sys2Proof/Certificates/Slice0/Obligations.lean ====
section
/-! DEFINITION. The statements for the provers. -/

namespace Sys2Proof.Claim

open Sys2Proof.Machine

/-- Plot p's sequencer has done its command and stands at the image offset `pc`; no other plot has changed. -/
structure Moved (s t : State) (p : PlotIx) (pc : Nat) : Prop where
  pc : (t.plot p).seq.pc = w32 pc
  ready : (t.plot p).seq.busy = .ready
  waiting : (t.plot p).seq.waiting = false
  row : (t.plot p).seq.row = (s.plot p).seq.row
  others : ∀ q, q ≠ p → t.plot q = s.plot q

/-- Plot p's sequencer keeps SEQPC and its row while its command is in progress; no other plot has changed. -/
structure Stands (s t : State) (p : PlotIx) : Prop where
  pc : (t.plot p).seq.pc = (s.plot p).seq.pc
  row : (t.plot p).seq.row = (s.plot p).seq.row
  others : ∀ q, q ≠ p → t.plot q = s.plot q

/-- The image offset behind the command at SEQPC (R161). -/
def behind (s : State) (p : PlotIx) : Nat := (s.plot p).seq.pc.toNat + 16

/-- The state after the issue record of a fetched command (R433); a command that was held has left its record before. -/
def afterIssue (s1 : State) (p : PlotIx) (c : Cmd) : State :=
  if (s1.plot p).seq.waiting then s1
  else s1.tracePlot p 0x01 (c.pos (s1.plot p).seq.row) (s1.plot p).seq.pc.toNat (c.opc * 2 ^ 24)

/-- Every part of the module but the plots, the trace units and device memory stays as it was; and no byte of device memory
changes unless a trace unit spills its ring there (R436). -/
structure Elsewhere (s t : State) : Prop where
  pending : t.pending = s.pending
  sync : t.sync = s.sync
  smod : t.smod = s.smod
  job : t.job = s.job
  fb : t.fb = s.fb
  rcv : t.rcv = s.rcv
  kuf : t.kuf = s.kuf
  pwr : t.pwr = s.pwr
  evr : t.evr = s.evr
  sbd : t.sbd = s.sbd
  pciA : t.pciA = s.pciA
  pciB : t.pciB = s.pciB
  pins : t.pins = s.pins
  memory : (∀ d, (s.trace d).spill = false) → t.mem = s.mem

/-- What the Drill has done of a stream when its units from EPOS up to element `hi` have run: the plot store, the Rake
register, the stream's flags and its count of terms (R118, R128, R130). -/
def ranTo (s : State) (p : PlotIx) (a : ActiveStream) (c : Ctl) (hi : Nat) : Work :=
  a.desc.units c (a.desc.count + 1)
    { store := (s.plot p).store, reg := (s.plot p).rake, sflags := a.sflags, firstInv := a.firstInv, terms := 0,
      acc := a.acc.toNat } a.epos hi

/-- The stream after that: what it carries on from element `hi`. -/
def carried (s : State) (p : PlotIx) (a : ActiveStream) (c : Ctl) (hi : Nat) : ActiveStream :=
  { a with epos := hi, sflags := (ranTo s p a c hi).sflags, firstInv := (ranTo s p a c hi).firstInv,
           acc := BitVec.ofNat 64 (ranTo s p a c hi).acc }

/-- A whole message `m` with header `h` stands at the head of class `c` of port `k`, addressed to this module, with MCRC and
reserved bits as they must be (R248, R251, R259). -/
structure Arrived (s : State) (k : KPort) (c : Fin 3) (m : List Byte) (h : MsgHdr) : Prop where
  head : (s.kport k).msgHead c = some m
  header : h = MsgHdr.ofBytes m
  here : h.dst = s.kuf.node
  sound : mcrcOk m = true
  reserved : hdrReserved m = true
  awake : s.evr.fallow = false

/-- The combinations of the module after `c` has taken its next step with register `r`. -/
def stepped (s : State) (c : Collective) (r : RakeReg) : List Collective :=
  s.kuf.colls.map fun x => if x = c then { c with reg := some r, step := c.step + 1 } else x

/-- Only Kufort port `k` has changed, and of the module's routes `rt` is what stands. -/
structure OnlyPort (s t : State) (k : KPort) (rt : Option RouteTable) : Prop where
  rest : t = { s with kuf := { s.kuf with ports := t.kuf.ports, route := rt } }
  ports : ∀ j, j ≠ k → t.kport j = s.kport j

/-- The route table with every entry whose PRIMARY is port `k` on its alternate (R260). -/
def offPort (s : State) (k : KPort) : Option RouteTable :=
  s.kuf.route.map fun t => { t with dests := t.dests.map fun d => if d.primary = k then { d with useAlt := true } else d }

/-- A port in training: SIGNAL, EQUALISE, ALIGN or IDENT (R238). -/
def inTraining (x : KufPort) : Prop := x.state = .signal ∨ x.state = .equalise ∨ x.state = .align ∨ x.state = .ident

/-- A flit that is not kept for replay, from what port `x` knows: it acknowledges the flit before the one expected and gives back
up to 255 credits of each class (R241-R243). -/
def passingFlit (x : KufPort) (ftype : Nat) (payload : List Byte) : List Byte :=
  mkFlit ftype 0 (x.fseq - 1) (x.expect - 1) (x.giveBack.toList.map fun n => Nat.min n 255) payload

/-- The credits that port `x` still owes after a flit (R242). -/
def stillOwed (x : KufPort) : Vector Nat 3 := x.giveBack.map fun n => n - Nat.min n 255

/-- How far behind the expected flit the flit with this FSEQ lies, modulo 4,096. -/
def flitsBehind (x : KufPort) (fseq : BitVec 12) : Nat := (x.expect - 1 - fseq).toNat

/-- Port `x` with the codeword's outcome counted (R237). -/
def counted (x : KufPort) (corrected uncorrectable : Bool) : KufPort :=
  { x with corr := satAdd x.corr (b2n corrected), uncorr := satAdd x.uncorr (b2n uncorrectable) }

/-- Device memory holds the `n` bytes `v` at address `a`, and every other byte as before. -/
structure Holds (s t : State) (a n : Nat) (v : Nat → Byte) : Prop where
  inside : ∀ b, a ≤ b → b < a + n → cellGet 0 t.mem.cells b = v (b - a)
  outside : ∀ b, (b < a ∨ a + n ≤ b) → cellGet 0 t.mem.cells b = cellGet 0 s.mem.cells b

/-- The pair of a message takes it as new: its MSEQ lies within 256 of ACKED and has not been received (R248). -/
def takesNew (s : State) (h : MsgHdr) : Prop :=
  ∃ x, s.rxPair h = some x ∧ (h.mseq - x.acked).toNat < 256 ∧ ∀ g ∈ x.got, g.mseq ≠ h.mseq

/-- The receive table with a message noted in its pair. -/
def noted (s : State) (h : MsgHdr) (g : RxMsg) : List RxPair :=
  s.kuf.rx.map fun x => if x.node = h.src && x.channel = h.channel then { x with got := x.got ++ [g] } else x

/-- A control message of this module: its type, its destination, its channel and its body (R251, R255). -/
def controlMessage (s : State) (mtype : Nat) (node : BitVec 12) (ch : BitVec 8) (body : List Byte) : List Byte :=
  mkMessage { mtype := mtype, channel := ch, hops := s.maxHops, len := 0, src := s.kuf.node, dst := node, mseq := 0 } body

/-- Port `j` has message `m` behind its messages of class `c`, and no other port but `k` has changed. -/
structure Queued (s t : State) (k j : KPort) (c : Fin 3) (m : List Byte) : Prop where
  queue : (t.kport j).txq.get c = (s.kport j).txq.get c ++ [m]
  others : ∀ l, l ≠ j → l ≠ k → t.kport l = s.kport l

/-- Changes the send pair of a node and a channel. -/
def pairs (s : State) (node : BitVec 12) (ch : BitVec 8) (f : TxPair → TxPair) : List TxPair :=
  s.kuf.tx.map fun x => if x.node = node && x.channel = ch then f x else x

/-- Plots, memory, the sync units and the job stay as they were. -/
structure Apart (s t : State) : Prop where
  plots : t.plots = s.plots
  mem : t.mem = s.mem
  sync : t.sync = s.sync
  job : t.job = s.job

/-- The report that a module's unit registers with a half, or none. -/
def Reports (s t : State) (h : Half) (l : List ErrRep) : Prop :=
  t.half h = { s.half h with registered := (s.half h).registered ++ l } ∧ ∀ g, g ≠ h → t.half g = s.half g

/-- A sync unit with nothing to do in its cycle: no hand operation, no arrival, no registration, no early token, no watch. -/
structure Still (u : SyncDie) : Prop where
  hand : u.qbusy = false
  inbox : u.inbox = []
  tally : u.tally = []
  regs : u.regs = []
  withdraws : u.withdraws = []
  dbg : u.dbgWithdraws = []

/-- Only the unit of one die differs among the sync units. -/
def OnlyUnit (s t : State) (d : DieIx) : Prop := ∀ e, e ≠ d → t.unit e = s.unit e

/-- No earlier token of the same source is on its way to the same die (R188). -/
def firstOfSource (s : State) (i : Nat) (x : TokenRec) : Prop :=
  ∀ y ∈ s.kuf.transit.take i, ¬(y.kind = x.kind ∧ y.src = x.src ∧ dieOfQueue y.queue = dieOfQueue x.queue)

/-- No earlier remote token of the same channel is on its way to the same die. -/
def firstOfChannel (s : State) (i : Nat) (x : TokenRec) : Prop :=
  ∀ y ∈ s.kuf.remote.take i, ¬(y.2.src = x.src ∧ y.2.channel = x.channel ∧ dieOfQueue y.2.queue = dieOfQueue x.queue)

/-- The step round of this module can end, with or without a halt at the boundary: the root has every up token of its row; and
another node, whose up token has gone, has the down token of its row. A HALTREQ of the root's children joins the module's own
request (R272, R273, R278, R280). -/
def roundEnds (s : State) (halt : Bool) : Prop :=
  s.stepTokens 2 = [] ∧
  ((treeParent s.kuf.node = none ∧ s.job.complete = true ∧ s.badUp = none ∧ (∀ c ∈ s.children, s.hasUp c = true) ∧
      (halt = true ↔ s.requested = true ∨ ∃ c ∈ s.children, ∃ x, (s.stepTokens 0).find? (fun t => t.src = c) = some x ∧
        bit x.payload 31 = true)) ∨
    ∃ par x r, treeParent s.kuf.node = some par ∧ s.stepTokens 1 = x :: r ∧ s.rowMatches x = true ∧ s.job.upSent = true ∧
      halt = bit x.payload 31)

/-- A plot's sequencer is in a part of the plan, so that a stop can meet it. -/
def inPart (q : Seq) : Prop := q.state ≠ .idle ∧ q.state ≠ .stopped ∧ q.state ≠ .ended ∧ q.state ≠ .failed

/-- A token that an engine consumes from the head of its queue (R315). -/
structure Consumed (s t : State) (x : EngineTok) : Prop where
  head : t.queue (dieOfQueue x.queue) (inDie x.queue) = (s.queue (dieOfQueue x.queue) (inDie x.queue)).tail
  others : ∀ d q, (d ≠ dieOfQueue x.queue ∨ q ≠ inDie x.queue) → t.queue d q = s.queue d q

/-- A reply names a feed distinct from the module's own (R314). -/
def distinctFeed (s : State) (reply : Option (BitVec 4)) : Prop :=
  ∃ v, reply = some v ∧ v ≠ s.rcv.ownfeed ∧ v ≠ 0 ∧ s.rcv.ownfeed ≠ 0

/-- A pairing is in force in a MODE; a start that restores then waits for its return (R310, R314). -/
def Paired (s t : State) (f : FeedCheck) (mode : BitVec 2) : Prop :=
  t.rcv.pairing = some f.pairing ∧ t.rcv.mode = mode ∧
  (t.rcv.slots = if s.rcv.slotKey = some (f.pairing.holder, f.pairing.dst) then s.rcv.slots else Vector.replicate 2 none) ∧
  if f.bySet then t.rcv.waitReturn = s.rcv.waitReturn ∧ t.rcv.verify = s.rcv.verify
  else t.rcv.waitReturn = some f.row ∧ t.rcv.verify = 3

/-- A feed check has settled on a reply or on none: distinct feeds pair; shared feeds are reported and follow POLICY (R314). -/
structure Settled (s t : State) (f : FeedCheck) (reply : Option (BitVec 4)) : Prop where
  wait : t.rcv.feedWait = none
  held : t.rcv.holdfeed = reply.getD s.rcv.holdfeed
  job : t.job.state = s.job.state ∧ t.job.row = s.job.row
  rest : t.plots = s.plots ∧ t.mem = s.mem ∧ t.kuf = s.kuf ∧ t.fb = s.fb ∧ t.pwr = s.pwr
  distinct : distinctFeed s reply → t.rcv.feed = 1 ∧ Paired s t f 1 ∧ t.evr = s.evr
  shared : ¬distinctFeed s reply → t.rcv.feed = (if reply.isSome then 2 else 3) ∧
    (s.rcv.policy = 1 → Paired s t f 2) ∧ (s.rcv.policy = 2 → Paired s t f 3) ∧
    (s.rcv.policy ≠ 1 → s.rcv.policy ≠ 2 → t.rcv.pairing = s.rcv.pairing ∧ t.rcv.mode = s.rcv.mode) ∧
    Reports s t s.lead [s.mkErr 0x0601 (if s.rcv.policy ≠ 1 ∧ s.rcv.policy ≠ 2 ∧ f.bySet = false then .jobFatal else .recoverable)
      srcEngine (s.kuf.node.toNat + f.pairing.holder.toNat * 2 ^ 32) [s.rcv.ownfeed.toNat, (reply.getD s.rcv.holdfeed).toNat]]

/-- No plot has changed but for its counters. -/
def OnlyCounted (s t : State) : Prop := ∀ p, t.plot p = { s.plot p with counters := (t.plot p).counters }

/-- The bytes of the state of a module: its FLT, padded, and the extents, in this order (R312). -/
def stateBytes (s : State) (ext : List (Nat × Nat)) : List Byte :=
  (s.stateRanges ext).flatMap fun x => cellsGet 0 s.mem.cells x.1 x.2.1 ++ zeros x.2.2

/-- The record that a half writes of an error (R366). -/
def recordOf (r : RecHalf) (e : ErrRep) : EvRec := { rep := e, preempted := false, rseq := r.rseq, repeats := 0, last := 0 }

/-- A half has room for a record of an error, which differs from its newest one (R367, R368). -/
def makesRecord (r : RecHalf) (e : ErrRep) : Prop :=
  r.ring.length < 1920 ∧ ∀ n, r.newest = some n → (recordOf r e).same n = false

/-- No flush and no erase is in progress, nothing is staged, and the module is not fallow (R363, R371, R377). -/
structure Recording (s : State) : Prop where
  flush : s.evr.flushing = none
  staged : s.evr.staged = []
  erase : s.evr.erase = none
  live : s.evr.fallow = false

/-- Half `h`, whose buffer was `r`, has recorded an error and handles it: its record is the ring's last, NEED keeps the higher
value, and the error's severity does the rest (R307, R358, R360, R371). -/
structure Handled (s t : State) (h : Half) (r : RecHalf) (e : ErrRep) : Prop where
  half : t.half h = { r with
    ring := r.ring ++ [recordOf r e], rseq := r.rseq + 1
    handling := if e.sev = .notice then r.handling else some { code := e.code, sev := e.sev, rseq := some r.rseq, follow := false } }
  other : ∀ g, g ≠ h → t.half g = s.half g
  rest : t.plots = s.plots ∧ t.kuf = s.kuf ∧ t.fb = s.fb ∧ t.pwr = s.pwr ∧ t.sync = s.sync
  need : t.rcv = { s.rcv with need := if e.sev = .notice ∨ (if e.need = 2 ∧ s.rcv.mode = 2 then 3 else e.need) ≤ s.rcv.need then s.rcv.need
    else if e.need = 2 ∧ s.rcv.mode = 2 then 3 else e.need }
  job : t.job = { s.job with abortDue := if e.sev = .jobFatal then some (s.job.abortDue.getD
    (if e.code = 0x0504 then BitVec.ofNat 12 e.object.toNat else s.kuf.node)) else s.job.abortDue }
  fatal : t.evr.fatalDue = if e.sev = .moduleFatal then some (s.evr.fatalDue.getD e.code) else s.evr.fatalDue
  flush : (t.evr.flushing.map fun f => (f.trigger, f.tsev, f.tcode, f.row)) =
    if e.sev = .recoverable ∨ e.sev = .jobFatal then some (.error, e.sev, e.code, s.job.row) else none

/-- Strip i of a reading of the power controller: its temperature with the strip's offset, and its thermal level (R337): one code
down when it reads THERMTGT or more and 100 us have passed since the last step, one up after 1 ms at 3 C below. -/
def thermalAfter (s : State) (i : StripIx) (T : Int) (x : Strip) : Prop :=
  x.temp = T ∧ x.thermal =
    (if (bits s.pwr.cfg 30 24 : Int) * 10 ≤ T ∧ 10 ≤ (s.strip i).thermAge + 1 ∧ 17 < (s.strip i).thermal.toNat then (s.strip i).thermal - 1
     else if T ≤ (bits s.pwr.cfg 30 24 : Int) * 10 - 30 ∧ 100 ≤ (s.strip i).thermAge + 1 ∧ (s.strip i).thermal.toNat < 120
       then (s.strip i).thermal + 1 else (s.strip i).thermal)

/-- A reading of one of the three packages of a die. -/
def packageOf (s : State) (d : DieIx) (T : Int) : Prop := ∃ k : PkgIx, dieOfPkg k = d ∧ (s.pkg k).reading = some T

/-- Only strip i differs among the strips. -/
def OnlyStrip (s t : State) (i : StripIx) : Prop := ∀ j, j ≠ i → t.strip j = s.strip j

/-- The controller of half h has checked the flash's image: its copy is the valid image or none, and a valid image is claimed with
its SEQ (R380, R385, R389). -/
structure Checked (s t : State) (h : Half) : Prop where
  copy : t.sbd.copy h = imageValid s.sbd.order s.sbd.keys s.sbd.flashBytes
  claim : ∀ x, imageValid s.sbd.order s.sbd.keys s.sbd.flashBytes = some x → t.sbd.claim h = some x.1
  flash : t.sbd.flash = s.sbd.flash

/-- The arbiter has latched half h: its SEQ, and the digest of the image that it runs (R389, R390). -/
structure Latched (s t : State) (h : Half) : Prop where
  winner : t.sbd.winner = some h
  latched : t.sbd.latched = true
  seq : ∀ x, s.sbd.copy h = some x → t.sbd.seq = x.1 ∧ t.sbd.imageDigest = x.2
  other : s.sbd.copy (otherHalf h) = none → t.sbd.copy (otherHalf h) = s.sbd.copy h
  flash : t.sbd.flash = s.sbd.flash
  rest : { t with sbd := s.sbd } = s

/-- SBD_STATUS.STATE has a value; nothing else changes but `f` of the start-up state and the events of vector 3 (R401, R418). -/
def StateTaken (s t : State) (st : SbdState) (f : Sbd → Sbd) : Prop :=
  t.sbd = { f s.sbd with state := st } ∧ (∀ h, (t.pci h).stalled = (s.pci h).stalled ∧ (t.pci h).wins = (s.pci h).wins) ∧
    { t with sbd := s.sbd, pciA := s.pciA, pciB := s.pciB } = s

/-- No flush, no erase and no flash operation is in progress for a reset to cut short (R372, R377, R399). -/
structure Uncut (s : State) : Prop where
  flush : s.evr.flushing = none
  erase : s.evr.erase = none
  busy : s.sbd.busy = none

/-- A module reset, with the plan digest and the pins' levels that it leaves: start-up stands at step 1 and every register is at its
reset value; the black box, the flash, the fuses, the keys and the commands that wait are kept (R378). -/
structure ResetFrom (s t : State) (digest : BitVec 384) (pins : Pins) : Prop where
  plots : t.plots = State.reset.plots
  sync : t.sync = State.reset.sync
  smod : t.smod = .reset s.sbd.order
  mem : t.mem = .reset s.sbd.order
  job : t.job = .reset
  units : t.fb = .reset ∧ t.rcv = .reset ∧ t.kuf = .reset ∧ t.pwr = .reset ∧ t.dbg = .reset
  evr : t.evr = { Evr.reset with blackbox := s.evr.blackbox }
  sbd : t.sbd = { Sbd.reset with flash := s.sbd.flash, order := s.sbd.order, serial := s.sbd.serial, keys := s.sbd.keys, planDigest := digest }
  ports : t.pciA = .reset ∧ t.pciB = .reset
  pins : t.pins = { pins with feedid := 0, feedKept := false, recoverySampled := true, ownerB := false, sbAddr := none, sbPtr := 0, sbOut := 0 }
  pending : t.pending = s.pending

/-- A 32-bit register access through a port outside the PCI blocks and the token window, inside BAR0 (R402, R409). -/
structure Plain (off : Nat) : Prop where
  aligned : off % 4 = 0
  inside : off + 4 ≤ 0x4000000
  module : pciOf off = none
  noToken : inTokenWindow off = false

/-- The state with one rule-breaking access more (R15, R356). -/
def ruleBroken (s : State) : State := { s with evr := { s.evr with rulebrk := satAdd s.evr.rulebrk 1 } }

/-- The state with a port's answer to its host, whose bytes are `b`. -/
def answered (s : State) (h : HostPort) (b : List Byte) : State :=
  s.modPci h fun p => { p with reply := some { data := b, ur := false, ep := false } }

/-- A register whose value is no timing, and that a read leaves as it is but for clearing an RC register (R13, R430, R441). -/
structure Steady (r : Reg) : Prop where
  timing : r.timing = false
  counter : r.counterPlot = none
  data : ∀ p, r ≠ .psdata p
  log : ∀ d, r ≠ .errlog d false
  bar2 : ∀ k, r ≠ .bar2err k false

/-- Port h takes BAR2 requests of `n` bytes at an offset, which its window maps to device memory at `a` that is ready (R412, R414). -/
structure Mapped (s : State) (h : HostPort) (off n a : Nat) : Prop where
  inBar : off + n ≤ 2 ^ 37
  map : s.mapBar2 h off n = some a
  memory : s.rangeDevice a n = true
  free : s.waits a = false
  clean : s.mem.bad = []
  form : Memory.wf s.mem.cells = true
  live : s.evr.fallow = false

/-- A start or a restart has passed its checks: the plan runs at a row with a route table, the sync units are empty, every plot is
cleared and keeps its store, and each active plot stands at its prologue, or at its body where the prologue is empty (R176, R177,
R310). -/
structure Begun (s t : State) (first : Row) (rt : RouteTable) : Prop where
  hdr : t.job.hdr = some (PlanHdr.ofBytes s.headerBytes)
  state : t.job.state = .running ∧ t.job.halt = .none ∧ t.job.loaderr = 0 ∧ t.job.haltat = false ∧ t.job.haltnext = false
  row : t.job.row = first
  active : t.job.active = allPlots.filter fun p => (s.plotEntry p).2.2.2
  route : t.kuf.route = some rt
  units : ∀ d, t.unit d = (s.unit d).empty
  plots : ∀ p, (t.plot p).store = (s.plot p).store ∧ (t.plot p).passes = [] ∧ (t.plot p).stream = none ∧ (t.plot p).failvec = 0
  begun : ∀ p ∈ t.job.active, (t.plot p).seq.row = first ∧ (t.plot p).seq.pc = w32 (s.plotEntry p).1 ∧
    (t.plot p).seq.state = if (s.plotEntry p).1 = (s.plotEntry p).2.1 then .body else .prologue
  rest : t.mem = s.mem ∧ t.evr = s.evr ∧ t.pwr = s.pwr
  digest : t.sbd = { s.sbd with planDigest := digest384 s.headerBytes }

/-- The plan at PLT_PLANBASE can start: memory is not being initialised, the checks of R176 and the route table pass, the step tree
has this module's node, and no buddy list is asked for. -/
structure Startable (s : State) (restart : Bool) (rt : RouteTable) : Prop where
  memory : s.mem.layState ≠ 1
  checks : s.loadCheck restart = none
  routes : s.readRoutes (PlanHdr.ofBytes s.headerBytes).route = .ok rt
  node : s.kuf.node.toNat < (PlanHdr.ofBytes s.headerBytes).modules
  queue : (PlanHdr.ofBytes s.headerBytes).stepqueue.toNat % 4096 ≤ 4093
  buddy : (PlanHdr.ofBytes s.headerBytes).buddyint = 0

/-- The state of a stopped plot at its resume entry, without a record of a pass or a stream to take up (R178, R440). -/
def resumed (q : Plot) (step : Bool) : Plot :=
  { q with harStopped := false, drlStopped := false, seq := { q.seq with
      state := q.seq.part, busy := .ready, stopping := none, byStop := false, stepping := step, waiting := decide (q.seq.part = .atEndrow) } }

/-- The reserve that the FLT of the plan brings (R115). -/
def planReserve (s : State) : Nat :=
  match s.fltBase with
  | some a => (s.fltHdrAt a).rescap
  | none => 0

/-- A hand operation begins at a sync unit (R230, R234). -/
def handed (s : State) (d : DieIx) (op : BitVec 4) (q : BitVec 12) : State :=
  s.modUnit d fun u => { u with qop := op, qqueue := q, qbusy := true }

/-- A flash operation begins (R394, R398, R401). -/
def flashing (s : State) (op : BitVec 4) (f : FlashOp) : State :=
  { s with sbd := { s.sbd with flashop := op, busy := some f, result := 0 } }

/-- A flash operation has ended with a RESULT (R401). -/
def flashed (s : State) (r : BitVec 3) : State := { s with sbd := { s.sbd with busy := none, result := r } }

/-- A half's recorder without the histogram slots of the quantities that `f` names (R374, R376). -/
def freed (r : RecHalf) (f : Fin 8 → Bool) : RecHalf :=
  { r with hist := r.hist.map fun x => match x with
    | some y => if f y.quant then none else some y
    | none => none }

/-- A port's endpoint has sent a message (R420). -/
def told (s : State) (h : HostPort) (b : List Byte) : State := s.modPci h fun p => { p with mctp := b }

/-- A port's endpoint has sent an SPDM message, which is of type 5 (R420, R423). -/
def toldSpdm (s : State) (h : HostPort) (b : List Byte) : State := told s h (0x05 :: b)

/-- Only port h and the model's counter of free values differ, and of the port only the last message and what SPDM keeps. -/
structure Talked (s t : State) (h : HostPort) : Prop where
  port : t.pci h = { s.pci h with
    mctp := (t.pci h).mctp, spdm := (t.pci h).spdm, transcript := (t.pci h).transcript, certLog := (t.pci h).certLog
    measLog := (t.pci h).measLog }
  other : ∀ k, k ≠ h → t.pci k = s.pci k
  rest : { t with pciA := s.pciA, pciB := s.pciB, freeCtr := s.freeCtr } = s

/-- The count and the bytes of the measurement blocks that an operation asks for (R425). -/
def measured (s : State) (n : Nat) : Nat × List Byte :=
  if n = 0 then (0, []) else if n = 255 then (7, s.measBlocks) else (1, s.measBlock n)

/-- The stores of bytes are in canonical form: device memory, the plot stores, the black box and the flash list their bytes in the
order of their addresses, each once, and none that reads as an unlisted byte does. -/
structure Canonical (s : State) : Prop where
  memory : Memory.wf s.mem.cells = true
  plots : ∀ p, Memory.wf (s.plot p).store = true
  blackbox : Memory.wf s.evr.blackbox = true
  flash : cellsWf 0xFF none s.sbd.flash = true

/-- What is fused stays fused: the order code, the serial number, and a fused slot with its digest, which once disabled stays so; and
where a slot is enabled, one still is (R385, R403, R422). -/
structure FusesKept (s t : State) : Prop where
  order : t.sbd.order = s.sbd.order
  serial : t.sbd.serial = s.sbd.serial
  keys : ∀ k, (s.sbd.keys.get k).fused = true → (t.sbd.keys.get k).fused = true ∧
    (t.sbd.keys.get k).digest = (s.sbd.keys.get k).digest ∧
    ((s.sbd.keys.get k).enabled = false → (t.sbd.keys.get k).enabled = false)
  enabled : (∃ k, (s.sbd.keys.get k).enabled = true) → ∃ k, (t.sbd.keys.get k).enabled = true

end Sys2Proof.Claim

section

open Sys2Proof Sys2Proof.Machine Sys2Proof.Claim

/-- A step runs the command at the front of the queue on the state whose queue is the rest. -/
def Obligations.StepRunsFrontCommand : Prop :=
  ∀ (s : State) (c : Instr) (rest : List Instr), s.pending = c :: rest → step s = exec c { s with pending := rest }

/-- NOP, JUMP and MARK complete: the sequencer goes on behind the command, or at JUMP's target where that is ahead in the
same part; nothing else of any plot changes (R160, R163). `s1` is the state after the fetch of the command. -/
def Obligations.SimpleCommandsAdvance : Prop :=
  ∀ (s s1 : State) (p : PlotIx) (c : Cmd),
    (s.fetch p 0x00 = .cmd c s1 → c.arg1 = 0 → c.arg2 = 0 → c.arg3 = 0 →
      ∃ t, exec (.nop p) s = .next t ∧ Moved s1 t p (behind s1 p) ∧ Elsewhere s1 t ∧
        t.plot p = { s1.plot p with seq := (t.plot p).seq }) ∧
    (s.fetch p 0x11 = .cmd c s1 → c.arg1 = 0 → c.arg2 = 0 → (s1.plot p).seq.targetOk c.arg3 = true →
      ∃ t, exec (.jump p) s = .next t ∧ Moved s1 t p c.arg3 ∧ Elsewhere s1 t ∧
        t.plot p = { s1.plot p with seq := (t.plot p).seq }) ∧
    (s.fetch p 0x14 = .cmd c s1 → c.arg1 = 0 → c.arg2 = 0 →
      ∃ t, exec (.mark p) s = .next t ∧ Moved s1 t p (behind s1 p) ∧ Elsewhere s1 t ∧
        t.plot p = { s1.plot p with seq := (t.plot p).seq })

/-- The fetch of a command changes no plot but for its counters, no token queue, no link, no job and no register of a host
port; and with no stored error in memory the words of the command are those at SEQPC and no byte of memory changes (R161,
R195). -/
def Obligations.FetchReadsTheCommandAtSeqpc : Prop :=
  ∀ (s s1 : State) (p : PlotIx) (opc : Nat) (c : Cmd), s.fetch p opc = .cmd c s1 →
    c.opc = opc ∧ s.mayIssue p = true ∧
    (∀ q, s1.plot q = { s.plot q with counters := (s1.plot q).counters }) ∧
    s1.sync = s.sync ∧ s1.job = s.job ∧ s1.kuf = s.kuf ∧ s1.rcv = s.rcv ∧ s1.pwr = s.pwr ∧ s1.sbd = s.sbd ∧
    s1.pciA = s.pciA ∧ s1.pciB = s.pciB ∧ s1.pins = s.pins ∧
    (s.mem.bad = [] → s1.mem.cells = s.mem.cells ∧ s1.evr = s.evr ∧
      c = Cmd.ofBytes (s.memBytes (s.imageAddr (s.plot p).seq.pc.toNat) 16))

/-- A command with an argument out of range, or a reserved bit set, does nothing of its own: the plot stops with a job-fatal
error 0x0202 that names the command's image offset and position (R164, R178). -/
def Obligations.RefusedCommandIsJobFatal : Prop :=
  ∀ (s s1 : State) (p : PlotIx) (c : Cmd), s.fetch p 0x00 = .cmd c s1 → (c.arg1 ≠ 0 ∨ c.arg2 ≠ 0 ∨ c.arg3 ≠ 0) →
    ∃ t, exec (.nop p) s = .next t ∧
      (t.half (halfOfDie (dieOfPlot p))).registered = (s1.half (halfOfDie (dieOfPlot p))).registered ++
        [plotErr p (c.pos (s1.plot p).seq.row) 0x0202 .jobFatal (s1.plot p).seq.pc.toNat [] 4] ∧
      (t.plot p).seq.stopping = some ((s1.plot p).seq.stopping.getD 3) ∧
      (t.plot p).store = (s1.plot p).store ∧ t.mem = s1.mem ∧ t.sync = s1.sync ∧ t.kuf = s1.kuf ∧ t.job = s1.job ∧
      ∀ q, q ≠ p → t.plot q = s1.plot q

/-- WAIT registers a watch with its sync unit, and SIGNAL sends a token to a queue of this module: the arguments of WAIT give
the queue of the plot's own die, N, CONSUME and the timeout (0: SYN_TOCFG's), and the token of SIGNAL has KIND 0x1 and the
payload of the command (R160, R212, R215). -/
def Obligations.WaitAndLocalSignalComplete : Prop :=
  ∀ (s s1 : State) (p : PlotIx) (c : Cmd),
    (s.fetch p 0x04 = .cmd c s1 → c.arg1 < 4096 → 1 ≤ c.arg2 % 128 → c.arg2 % 128 ≤ 64 → c.arg2 / 256 ≤ c.arg2 % 128 →
      c.arg2 / 128 % 2 = 0 → c.arg3 ≤ 60000000 → queueNumber (dieOfPlot p) c.arg1 ∉ s1.stepQueues →
      ∃ t w, exec (.wait p) s = .next t ∧
        w = ({ slot := 0, kind := .wait, plot := p, dbg := 0, object := BitVec.ofNat 12 c.arg1, n := c.arg2 % 128,
               consume := c.arg2 / 256, elapsed := 0,
               timeout := if c.arg3 = 0 then s1.smod.defaultus.toNat else c.arg3,
               pos := c.pos (s1.plot p).seq.row } : Watch) ∧
        t.unit (dieOfPlot p) = { s1.unit (dieOfPlot p) with regs := (s1.unit (dieOfPlot p)).regs ++ [w] } ∧
        (∀ d, d ≠ dieOfPlot p → t.unit d = s1.unit d) ∧
        (t.plot p).seq.busy = .watching ∧ (t.plot p).seq.waiting = true ∧ Stands s1 t p ∧
        Elsewhere s1 { t with sync := s1.sync } ∧
        t.plot p = { s1.plot p with seq := (t.plot p).seq, tilling := (t.plot p).tilling }) ∧
    (s.fetch p 0x05 = .cmd c s1 → c.arg1 < 2 ^ 15 → c.arg1 ∉ s1.stepQueues → c.arg2 = 0 →
      ∃ t, exec (.signal p) s = .next t ∧ Moved s1 t p (behind s1 p) ∧
        t.kuf.transit = s1.kuf.transit ++ [mkToken 1 (BitVec.ofNat 12 p.val) 0 (BitVec.ofNat 15 c.arg1) (w32 c.arg3) 0 0] ∧
        Elsewhere s1 { t with kuf := { t.kuf with transit := s1.kuf.transit } } ∧
        t.plot p = { s1.plot p with seq := (t.plot p).seq })

/-- FENCE, ENDROW and ENDPLAN complete at once where the earlier work that they wait for is complete: FENCE moves on, ENDROW
reports the row complete, and ENDPLAN ends the plot's part; the plan ends with its last plot (R160, R177). -/
def Obligations.FenceAndPartEndsComplete : Prop :=
  ∀ (s s1 : State) (p : PlotIx) (c : Cmd), c.arg2 = 0 → c.arg3 = 0 →
    (s.fetch p 0x06 = .cmd c s1 → c.arg1 < 32 → (s1.plot p).quiet (BitVec.ofNat 5 c.arg1) = true →
      ∃ t, exec (.fence p) s = .next t ∧ Moved s1 t p (behind s1 p) ∧ Elsewhere s1 t ∧
        t.plot p = { s1.plot p with seq := (t.plot p).seq }) ∧
    (s.fetch p 0x12 = .cmd c s1 → c.arg1 = 0 → (s1.plot p).seq.state = .body → (s1.plot p).seq.stopping = none →
      (s1.plot p).allQuiet = true → s1.clocked p = true → s1.dbg.snap = false →
      ∃ t, exec (.endrow p) s = .next t ∧ (t.plot p).seq.state = .atEndrow ∧ (t.plot p).seq.rowDone = true ∧
        (t.plot p).seq.waiting = true ∧ Stands s1 t p ∧ Elsewhere s1 t ∧
        t.plot p = { s1.plot p with seq := (t.plot p).seq, tilling := (t.plot p).tilling }) ∧
    (s.fetch p 0x13 = .cmd c s1 → c.arg1 = 0 → (s1.plot p).seq.state ≠ .body → (s1.plot p).allQuiet = true →
      ∃ t, exec (.endplan p) s = .next t ∧ (t.plot p).seq.state = .ended ∧ (t.plot p).seq.busy = .ready ∧
        t.job.ended = s1.job.ended ++ [p] ∧ (∀ q, q ≠ p → t.plot q = s1.plot q) ∧ t.sync = s1.sync ∧
        ((∀ x ∈ s1.job.active, x ∈ s1.job.ended ++ [p]) → t.job.state = .ended ∧ t.job.halt = .none) ∧
        ((∃ x ∈ s1.job.active, x ∉ s1.job.ended ++ [p]) → t.job.state = s1.job.state ∧ t.kuf = s1.kuf))

/-- PASS and STREAM issue their work where the descriptor at ARG1 can be read and no rule refuses it: the sequencer keeps the
command until the work enters, and nothing else of the plot changes (R78, R81, R119, R123). -/
def Obligations.PassAndStreamAreIssued : Prop :=
  ∀ (s s1 : State) (p : PlotIx) (c : Cmd), c.arg1 < storeBytes → c.arg2 = 0 → c.arg3 = 0 →
    (s1.plot p).readHeld [extOf c.arg1 64] = false →
    (s.fetch p 0x01 = .cmd c s1 →
      ∀ d, d = HarDesc.ofBytes (s1.psRead p c.arg1 64) → d.refusal c.arg1 (s1.plot p).keptAhead = none →
      ∃ t a, exec (.pass p) s = .next t ∧ (t.plot p).seq.busy = .passIssue a ∧ a.desc = d ∧ a.addr = c.arg1 ∧ a.next = 0 ∧
        a.pos = c.pos (s1.plot p).seq.row ∧ Stands s1 t p ∧ Elsewhere s1 t ∧
        t.plot p = { s1.plot p with seq := (t.plot p).seq, held := (t.plot p).held }) ∧
    (s.fetch p 0x02 = .cmd c s1 →
      ∀ d, d = DrlDesc.ofBytes (s1.psRead p c.arg1 64) → d.refusal c.arg1 = none →
      ∃ t a, exec (.stream p) s = .next t ∧ (t.plot p).seq.busy = .streamIssue a ∧ a.desc = d ∧ a.addr = c.arg1 ∧
        a.epos = 0 ∧ a.pos = c.pos (s1.plot p).seq.row ∧ Stands s1 t p ∧ Elsewhere s1 t ∧
        t.plot p = { s1.plot p with seq := (t.plot p).seq, held := (t.plot p).held })

/-- RCLEAR clears the Rake register, RREAD writes its value as binary32 or binary64, RSAVE writes its image, and RADD combines
an image of the plot store into it; each touches nothing else of the plot but the sticky flags of RREAD (R138, R141). -/
def Obligations.RakeCommandsComplete : Prop :=
  ∀ (s s1 : State) (p : PlotIx) (c : Cmd), (s1.plot p).stream = none →
    (s.fetch p 0x09 = .cmd c s1 → c.arg1 = 0 → c.arg2 = 0 → c.arg3 = 0 →
      ∃ t, exec (.rclear p) s = .next t ∧ Moved s1 t p (behind s1 p) ∧ Elsewhere s1 t ∧
        t.plot p = { s1.plot p with rake := .cleared, rakeHeld := false, seq := (t.plot p).seq, held := (t.plot p).held }) ∧
    (s.fetch p 0x0A = .cmd c s1 → c.arg2 ≤ 1 → c.arg3 < 2 ^ 16 → c.arg1 + (if c.arg2 = 1 then 8 else 4) ≤ storeBytes →
      (s1.plot p).writeHeld [extOf c.arg1 (if c.arg2 = 1 then 8 else 4)] = false → (s1.plot p).rake.kind ≠ .or →
      ∀ ctl, unitCtl (BitVec.ofNat 16 c.arg3) = some ctl →
      ∀ r, r = (s1.plot p).rake.read (if c.arg2 = 1 then fB64 else fB32) ctl →
      ∃ t, exec (.rread p) s = .next t ∧ Moved s1 t p (behind s1 p) ∧ Elsewhere s1 t ∧
        t.plot p = { s1.plot p with
          store := cellsPut 0 (s1.plot p).store c.arg1 (bytesOfNat (if c.arg2 = 1 then 8 else 4) r.bits),
          fpflags := (s1.plot p).fpflags ||| r.flags, seq := (t.plot p).seq, held := (t.plot p).held }) ∧
    (s.fetch p 0x0B = .cmd c s1 → c.arg1 % 64 = 0 → c.arg1 + 128 ≤ storeBytes → c.arg2 = 0 → c.arg3 = 0 →
      (s1.plot p).writeHeld [extOf c.arg1 128] = false →
      ∃ t v, exec (.rsave p) s = .next t ∧ Moved s1 t p (behind s1 p) ∧ Elsewhere s1 t ∧
        ((s1.plot p).rake.loose = false → v = (s1.plot p).rake.value.toNat) ∧
        t.plot p = { s1.plot p with store := cellsPut 0 (s1.plot p).store c.arg1 ((s1.plot p).rake.imageOf v),
                                    seq := (t.plot p).seq, held := (t.plot p).held }) ∧
    (s.fetch p 0x0C = .cmd c s1 → c.arg1 % 64 = 0 → c.arg1 + 128 ≤ storeBytes → c.arg2 = 0 → c.arg3 = 0 →
      (s1.plot p).readHeld [extOf c.arg1 128] = false →
      ∀ r, RakeReg.ofImage (s1.psRead p c.arg1 128) = some r → kindsMeet (s1.plot p).rake.kind r.kind = true →
      ∃ t, exec (.radd p) s = .next t ∧ Moved s1 t p (behind s1 p) ∧ Elsewhere s1 t ∧
        t.plot p = { s1.plot p with rake := (s1.plot p).rake.combine r, rakeHeld := true, seq := (t.plot p).seq,
                                    held := (t.plot p).held })

/-- RESUMEP reloads the tiles of a sound spill record and issues its pass, and RESUMES continues the stream of a sound stop
record with its register (R91, R146). -/
def Obligations.ResumeCommandsComplete : Prop :=
  ∀ (s s1 : State) (p : PlotIx) (c : Cmd), c.arg1 < storeBytes → c.arg2 = 0 → c.arg3 = 0 →
    (s.fetch p 0x0E = .cmd c s1 → (s1.plot p).passes = [] → (s1.plot p).writeouts = [] →
      (s1.plot p).readHeld [extOf c.arg1 (64 + 8 * 0x1000)] = false →
      ∀ a mask, (s1.plot p).readSpill c.arg1 = some (a, mask) →
      ∃ t, exec (.resumep p) s = .next t ∧ (t.plot p).seq.busy = .passIssue a ∧ Stands s1 t p ∧ Elsewhere s1 t ∧
        t.plot p = { s1.plot p with banks := (t.plot p).banks, kept := (t.plot p).kept, seq := (t.plot p).seq,
                                    held := (t.plot p).held }) ∧
    (s.fetch p 0x0F = .cmd c s1 → (s1.plot p).stream = none → (s1.plot p).readHeld [extOf c.arg1 192] = false →
      ∀ a r, (s1.plot p).readStop c.arg1 = some (a, r) →
      ∃ t, exec (.resumes p) s = .next t ∧ Moved s1 t p (behind s1 p) ∧ Elsewhere s1 t ∧
        t.plot p = { s1.plot p with stream := some a, rake := r, drlSpilled := false, numctl := (t.plot p).numctl,
                                    seq := (t.plot p).seq, held := (t.plot p).held })

/-- BRFLT goes to its target where the STATE that it reads is 2 (ZE8), else behind itself (R104, R163). `s2` is the state after
the read of the entry. -/
def Obligations.BrfltBranchesOnTheLayersState : Prop :=
  ∀ (s s1 s2 : State) (p : PlotIx) (c : Cmd) (e : FltEntry) (st : Nat), s.fetch p 0x10 = .cmd c s1 → c.arg1 < 512 →
    c.arg1 < s1.fltEntries → c.arg2 = 0 → (s1.plot p).seq.targetOk c.arg3 = true →
    (afterIssue s1 p c).fltRead p (c.pos (s1.plot p).seq.row) c.arg1 = .entry e st s2 →
    ∃ t, exec (.brflt p) s = .next t ∧ Moved s2 t p (if st = 2 then c.arg3 else behind s2 p) ∧ Elsewhere s2 t ∧
      t.plot p = { s2.plot p with seq := (t.plot p).seq }

/-- CHECK is done at once while checks are off, or where R105 does not sample it; a sampled one issues its reference pass, with
the entry's threshold where THSEL is 1 and else that of HAR_FBCFG (R105-R107). -/
def Obligations.CheckSamplesItsLayer : Prop :=
  ∀ (s s1 : State) (p : PlotIx) (c : Cmd), s.fetch p 0x07 = .cmd c s1 → c.arg1 < storeBytes → c.arg2 = 0 → c.arg3 = 0 →
    (bit s1.fb.fbcfg 31 = false →
      ∃ t, exec (.check p) s = .next t ∧ Moved s1 t p (behind s1 p) ∧ Elsewhere s1 t ∧
        t.plot p = { s1.plot p with seq := (t.plot p).seq }) ∧
    (bit s1.fb.fbcfg 31 = true → c.arg1 % 64 = 0 → (s1.plot p).readHeld [extOf c.arg1 64] = false →
      ∀ k u e st s2, k = ChkDesc.ofBytes (s1.psRead p c.arg1 64) → u = (afterIssue s1 p c).unholdCommand p →
      k.fltidx < u.fltEntries → u.fltRead p (c.pos (s1.plot p).seq.row) k.fltidx = .entry e st s2 →
      (s2.sampled e st (s1.plot p).seq.row.toNat c.passno.toNat = false →
        ∃ t, exec (.check p) s = .next t ∧ Moved s2 t p (behind s2 p) ∧ Elsewhere s2 t ∧
          t.plot p = { s2.plot p with seq := (t.plot p).seq }) ∧
      (s2.sampled e st (s1.plot p).seq.row.toNat c.passno.toNat = true →
        (s2.plot p).readHeld [extOf k.refdesc 64] = false → ∀ d, d = HarDesc.ofBytes (s2.psRead p k.refdesc 64) →
        (unitCtl d.numctl).isSome = true → k.ok d = true → (s2.plot p).rakeTaken = false →
        ∃ t r, exec (.check p) s = .next t ∧ (t.plot p).seq.busy = .checking r ∧ r.fltidx = k.fltidx ∧
          r.outtile = k.outtile ∧ r.reftile = d.accdst + 0x1000 * k.array.val ∧
          r.threshold = BitVec.ofNat 16 (if e.thsel then e.thresh else bits s2.fb.fbcfg 15 0) ∧
          Stands s2 t p ∧ Elsewhere s2 t ∧ t.plot p = { s2.plot p with seq := (t.plot p).seq }))

/-- RCOMBINE and VOTE join the combination of their id: the participant's register, or its fail vector with the module's
digest, is added to it, and the last participant forms the combined register; the plot waits under a collective watch (R111,
R142, R220). -/
def Obligations.CombineAndVoteJoin : Prop :=
  ∀ (s s1 : State) (p : PlotIx) (c : Cmd) (members : List PlotIx) (images : List RakeReg) (w : Watch)
    (id : Fin 4096) (count : Nat) (own : RakeReg) (kind : WatchKind) (i : Instr),
    (i = .rcombine p ∧ s.fetch p 0x0D = .cmd c s1 ∧ c.arg1 = 0 ∧ c.arg2 < 4095 ∧ 1 ≤ c.arg3 ∧ c.arg3 ≤ 640 ∧
        (s1.plot p).stream = none ∧ id = Fin.ofNat 4096 c.arg2 ∧ count = c.arg3 ∧ own = (s1.plot p).rake ∧
        kind = .rcombine ∨
      ∃ flt, i = .vote p ∧ s.fetch p 0x08 = .cmd c s1 ∧ c.arg1 = 0 ∧ c.arg2 = 0 ∧ c.arg3 = 0 ∧ s1.fltBase = some flt ∧
        (s1.plot p).seq.voted = false ∧ id = 4095 ∧ count = s1.job.active.length ∧
        own = voteImage (s1.plot p).failvec ((afterIssue s1 p c).voteDigest flt) ∧ kind = .vote) →
    ((s1.openColl id = none ∧ members = [p] ∧ images = [own]) ∨
      ∃ x, s1.openColl id = some x ∧ x.count = count ∧ members = x.members ++ [p] ∧ images = x.images ++ [own]) →
    kindsAgree images = true →
    ∃ t, exec i s = .next t ∧ t.kuf.colls = (s1.kuf.colls.filter fun x => !(x.id = id && x.reg.isNone)) ++
      [{ id := id, count := count, members := members, images := images,
         reg := if members.length ≥ count then some (combineAll images) else none, step := 0 }] ∧
    (w = { slot := 0, kind := kind, plot := p, dbg := 0, object := BitVec.ofNat 12 id.val, n := 0, consume := 0, elapsed := 0,
           timeout := s1.smod.defaultus.toNat, pos := c.pos (s1.plot p).seq.row } →
      (t.unit (dieOfPlot p)).regs = (s1.unit (dieOfPlot p)).regs ++ [w]) ∧
    (t.plot p).seq.busy = .collective id ∧ (t.plot p).seq.waiting = true ∧ Stands s1 t p ∧
    t.job = s1.job ∧ t.evr = s1.evr ∧ (t.plot p).store = (s1.plot p).store ∧ (t.plot p).rake = (s1.plot p).rake

/-- DMA with one descriptor that the mover accepts: the transfer stands at the end of the mover's list, performed unless R105
leaves it out, and the command is done (R160, R166). -/
def Obligations.DmaHandsItsDescriptorOver : Prop :=
  ∀ (s s1 s2 u : State) (p : PlotIx) (c : Cmd) (m : Fin 2) (x : Transfer), s.fetch p 0x03 = .cmd c s1 →
    c.arg1 / 2 ^ 21 % 4 = 0 → c.arg2 = 1 → c.arg3 = 0 → m = Fin.ofNat 2 (c.arg1 / 2 ^ 23) →
    u = ((afterIssue s1 p c).modSeq p fun q => { q with busy := .dmaHand m (c.arg1 % 2 ^ 21) 1 }) →
    (s1.mover p m).length < 17 → u.acceptDma p (u.plot p).pos (c.arg1 % 2 ^ 21) = .ok x s2 →
    ∃ t, exec (.dma p) s = .next t ∧ (t.plot p).seq.pc = w32 (behind s1 p) ∧ (t.plot p).seq.busy = .ready ∧
      (t.plot p).nextXfer = (s1.plot p).nextXfer + 1 ∧
      ((s1.mover p m ≠ [] ∧ (s1.mover p m).head?.all (fun y => y.phase ≠ .queued) = true) → t.mover p m = s1.mover p m ++ [x]) ∧
      (∀ q, q ≠ p → t.plot q = s1.plot q) ∧ t.sync = s1.sync

/-- PASS_ENTRY: an issued pass that nothing holds takes its place behind the passes in the rows, and its command is done; and
HELD_ACCESS_RELEASE lets a pass that was held do the same (R72, R76, R82, R172). -/
def Obligations.PassEntersTheArrays : Prop :=
  ∀ (s : State) (p : PlotIx) (a : ActivePass), (s.plot p).seq.busy = .passIssue a → s.clocked p = true →
    (s.plot p).bankBusy a.desc = false → (s.plot p).passHeld a.desc = false →
    ∃ t, exec (.passEntry p) s = .next t ∧ Moved s t p (behind s p) ∧ Elsewhere s t ∧
      (t.plot p).passes = (s.plot p).passes ++ [a] ∧ (t.plot p).harSpilled = false ∧ .pass ∉ (t.plot p).held ∧
      (t.plot p).store = (s.plot p).store ∧ (t.plot p).banks = (s.plot p).banks ∧ (t.plot p).kept = (s.plot p).kept ∧
      (.pass ∈ (s.plot p).held → exec (.heldAccessRelease p .pass) s = .next t)

/-- GROUP_COMMIT of an outer-product pass whose bank has its starting value: each accumulator of each enabled array takes the
16 products of the group, every other bank stays, and the pass goes on to its next group, or leaves the rows with its last one:
its tile is then kept, written out, or both (R57, R74, R75). -/
def Obligations.GroupCommitAccumulates : Prop :=
  ∀ (s : State) (p : PlotIx) (a : ActivePass) (r : List ActivePass) (c : Ctl), (s.plot p).passes = a :: r →
    unitCtl a.desc.numctl = some c → s.clocked p = true → a.desc.dkind = 1 → a.redo ≠ some a.next →
    a.next < a.desc.groups → a.start < a.next →
    ∃ t, exec (.groupCommit p) s = .next t ∧
      (∀ n ∈ a.desc.enabled, (t.plot p).bank n a.desc.bank =
        (a.desc.groupTile c (s.plot p).store ((s.plot p).bank n a.desc.bank) n a.next).1) ∧
      (∀ n b, n < 4 → (n ∉ a.desc.enabled ∨ b ≠ a.desc.bank) → (t.plot p).bank n b = (s.plot p).bank n b) ∧
      (a.next + 1 < a.desc.groups → (t.plot p).passes = { a with next := a.next + 1 } :: r ∧
        (t.plot p).writeouts = (s.plot p).writeouts ∧ (t.plot p).kept = (s.plot p).kept) ∧
      (a.next + 1 = a.desc.groups → (t.plot p).passes = r ∧
        (t.plot p).kept = (if a.desc.accout = 0 then (s.plot p).kept &&& ~~~a.desc.bankMask
          else (s.plot p).kept ||| a.desc.bankMask) ∧
        (t.plot p).writeouts = (if a.desc.accout = 1 then (s.plot p).writeouts
          else (s.plot p).writeouts ++ [{ bank := a.desc.bank, arrays := a.desc.arrays, dst := a.desc.accdst,
                                          isRef := a.isRef }])) ∧
      (t.plot p).store = (s.plot p).store ∧ (t.plot p).seq = (s.plot p).seq ∧ (∀ q, q ≠ p → t.plot q = s.plot q) ∧
      t.mem = s.mem ∧ t.sync = s.sync ∧ t.kuf = s.kuf ∧ t.evr = s.evr ∧ t.job = s.job

/-- TILE_WRITEOUT_DONE puts the tiles of the bank's enabled arrays at ACCDST + 0x1000 a, and TILE_REDUCTION_DONE the 32 sums of
each enabled array at ACCDST + 128 a, into the plot store, array by array; no other bank, plot or memory byte changes (R75,
R77, R84). -/
def Obligations.TilesReachThePlotStore : Prop :=
  ∀ (s : State) (p : PlotIx), s.clocked p = true →
    (∀ (b : Fin 2) (w : WriteOut), (s.plot p).writeouts.find? (fun w => w.bank = b) = some w →
      ∃ t, exec (.tileWriteoutDone p b) s = .next t ∧
        (t.plot p).store = ((List.range 4).filter fun a => w.arrays.getLsbD a).foldl
          (fun m a => cellsPut 0 m (w.dst + 0x1000 * a) (tileBytes ((s.plot p).bank a b))) (s.plot p).store ∧
        (t.plot p).writeouts = (s.plot p).writeouts.erase w ∧ (t.plot p).banks = (s.plot p).banks ∧
        (t.plot p).passes = (s.plot p).passes ∧ (∀ q, q ≠ p → t.plot q = s.plot q) ∧ t.mem = s.mem ∧ t.sync = s.sync ∧
        t.kuf = s.kuf ∧ t.evr = s.evr) ∧
    (∀ (a : ActivePass) (r : List ActivePass) (c : Ctl), (s.plot p).passes = a :: r → unitCtl a.desc.numctl = some c →
      a.desc.dkind = 3 → a.desc.accinit = 2 → a.redo = none →
      ∃ t, exec (.tileReductionDone p) s = .next t ∧
        (t.plot p).store = a.desc.enabled.foldl (fun m n =>
          cellsPut 0 m (a.desc.accdst + 128 * n) ((List.range 32).flatMap fun i =>
            bytesOfNat 4 (tileSum c ((List.range 32).map fun j =>
              (((s.plot p).bank n a.desc.bank).toArray.getD (if a.desc.axis = 0 then 32 * i + j else 32 * j + i) 0).toNat)).bits))
          (s.plot p).store ∧
        (t.plot p).passes = r ∧ (t.plot p).banks = (s.plot p).banks ∧ (∀ q, q ≠ p → t.plot q = s.plot q) ∧ t.mem = s.mem ∧
        t.sync = s.sync ∧ t.kuf = s.kuf ∧ t.evr = s.evr)

/-- A parity error of a group or of a reduction is retried once: the group is discarded and HAR_PARRETRY counts it, the pass
re-enters at it once the groups before it have committed, and a second error of the same group stops the plot with REASON 0x4
and a recoverable report 0x0101 (R88, R89, R94). -/
def Obligations.ParityErrorsAreRetriedOnce : Prop :=
  ∀ (s : State) (p : PlotIx) (a : ActivePass), (s.plot p).passes = [a] → s.clocked p = true → (s.plot p).seq.stopping = none →
    (∀ g, a.desc.dkind ≠ 3 → a.next ≤ g → g < a.desc.groups → a.redo = none → a.retried ≠ some g →
      ∃ t, exec (.operandParityError p g) s = .next t ∧ (t.plot p).passes = [{ a with redo := some g }] ∧
        (t.plot p).harParretry = satAdd (s.plot p).harParretry 1 ∧ (t.plot p).seq = (s.plot p).seq ∧
        (t.plot p).banks = (s.plot p).banks ∧ (t.plot p).store = (s.plot p).store ∧ t.evr = s.evr ∧
        ∀ q, q ≠ p → t.plot q = s.plot q) ∧
    (∀ g, a.desc.dkind ≠ 3 → a.next ≤ g → g < a.desc.groups → a.redo = none → a.retried = some g →
      ∃ t, exec (.operandParityError p g) s = .next t ∧ (t.plot p).passes = [{ a with redo := some g }] ∧
        (t.plot p).seq.stopping = some 4 ∧ (t.plot p).harParretry = (s.plot p).harParretry ∧
        (t.half (halfOfDie (dieOfPlot p))).registered = (s.half (halfOfDie (dieOfPlot p))).registered ++
          [plotErr p a.pos 0x0101 .recoverable 0 [] 1]) ∧
    (a.desc.dkind ≠ 3 → a.redo = some a.next →
      ∃ t, exec (.passReentry p) s = .next t ∧ (t.plot p).passes = [{ a with redo := none, retried := some a.next }] ∧
        (t.plot p).banks = (s.plot p).banks ∧ (t.plot p).store = (s.plot p).store ∧ t.evr = s.evr ∧
        ∀ q, q ≠ p → t.plot q = s.plot q) ∧
    (a.desc.dkind = 3 → a.desc.accinit = 1 → a.redo = none → a.retried = none →
      ∃ t, exec (.reductionParityError p) s = .next t ∧ (t.plot p).passes = [{ a with retried := some 0 }] ∧
        (t.plot p).harParretry = satAdd (s.plot p).harParretry 1 ∧ (t.plot p).store = (s.plot p).store ∧ t.evr = s.evr ∧
        ∀ q, q ≠ p → t.plot q = s.plot q)

/-- PASS_STOP writes the spill record at HAR_SPILLBASE and takes the pass out of the rows at the boundary before its next
group (R86, R87, R90). -/
def Obligations.PassStopLeavesASpillRecord : Prop :=
  ∀ (s : State) (p : PlotIx) (a : ActivePass) (c : Ctl) (reason : BitVec 4), (s.plot p).passes = [a] →
    (s.plot p).seq.stopping = some reason → unitCtl a.desc.numctl = some c → s.clocked p = true →
    (s.plot p).writeouts = [] → a.desc.dkind ≠ 3 → a.start < a.next → a.next < a.desc.groups →
    ∃ t, exec (.passStop p) s = .next t ∧ (t.plot p).passes = [] ∧ (t.plot p).harSpilled = true ∧
      (t.plot p).store = cellsPut 0 (s.plot p).store (s.plot p).harSpillbase.toNat
        ((s.plot p).spillRecord a (16 * a.next) reason) ∧
      (t.plot p).banks = (s.plot p).banks ∧ (t.plot p).seq = (s.plot p).seq ∧ (∀ q, q ≠ p → t.plot q = s.plot q) ∧
      Elsewhere s t

/-- CHECK_COMPARE records the comparison in HAR_CHKLAST and HAR_CHKCNT, and a failure in the fail vector; the command is done
(R108, R109). -/
def Obligations.CheckCompareRecordsItsOutcome : Prop :=
  ∀ (s : State) (p : PlotIx) (c : CheckRun) (o : ChkOutcome), (s.plot p).seq.busy = .checking c → s.clocked p = true →
    c.refDone = true → (s.plot p).stream = none → (s.plot p).readHeld [extOf c.outtile 0x1000] = false →
    o = compareTiles (wordsOf (s.psRead p c.outtile 0x1000) 1024) (wordsOf (s.psRead p c.reftile 0x1000) 1024)
      c.threshold.toNat →
    ∃ t, exec (.checkCompare p) s = .next t ∧ Moved s t p (behind s p) ∧
      (t.plot p).chklast = w32 ((match o with | .pass => 1 | .fail => 2 | .void => 3) * 2 ^ 30 + c.fltidx * 2 ^ 16 +
        c.layer.toNat) ∧
      (t.plot p).chkcnt = w32 ((satAdd ((s.plot p).chkcnt.extractLsb' 16 16) (if o = .fail then 1 else 0)).toNat * 2 ^ 16 +
        (satAdd ((s.plot p).chkcnt.extractLsb' 0 16) 1).toNat) ∧
      (t.plot p).failvec = (if o = .fail then (s.plot p).failvec ||| BitVec.ofNat 512 (2 ^ c.fltidx) else (s.plot p).failvec) ∧
      (t.plot p).store = (s.plot p).store ∧ (t.plot p).banks = (s.plot p).banks ∧ t.sync = s.sync ∧ t.kuf = s.kuf ∧
      (o ≠ .void → t.evr = s.evr)

/-- STREAM_START: an issued stream that no access holds and that the Rake register lets run begins, and its command is done
(R82, R119, R143, R172). -/
def Obligations.StreamStartsWhenNothingHoldsIt : Prop :=
  ∀ (s : State) (p : PlotIx) (a : ActiveStream), (s.plot p).seq.busy = .streamIssue a → s.clocked p = true →
    (s.plot p).stream = none → (s.plot p).streamHeld a.desc = false → (s.plot p).rakeLets a.desc = true →
    ∃ t, exec (.streamStart p) s = .next t ∧ Moved s t p (behind s p) ∧ Elsewhere s t ∧
      (t.plot p).stream = some { a with started := true } ∧ (t.plot p).drlSpilled = false ∧ .stream ∉ (t.plot p).held ∧
      (t.plot p).store = (s.plot p).store ∧ (t.plot p).rake = (s.plot p).rake ∧ (t.plot p).rakeHeld = (s.plot p).rakeHeld

/-- STREAM_END: the plot store and the Rake register hold what every unit of the stream leaves; DRL_SFLAGS and DRL_FIRSTINV
show the stream's flags; with FLAGWR the flag record (the flags, FIRSTINV, the complement of the flags, COUNT) stands at
FLAGADDR; and no other plot and no byte of memory changes (R129, R130, R143, R152). -/
def Obligations.StreamEndDeliversResultsAndFlags : Prop :=
  ∀ (s : State) (p : PlotIx) (a : ActiveStream) (c : Ctl) (w : Work), (s.plot p).stream = some a →
    unitCtl a.desc.numctl = some c → s.clocked p = true → w = ranTo s p a c a.desc.count →
    ∃ t, exec (.streamEnd p) s = .next t ∧ (t.plot p).stream = none ∧
      (t.plot p).store = (if a.desc.flagwr then cellsPut 0 w.store a.desc.flagaddr
        (bytesOfWords [w32 w.sflags.toNat, w.firstInv, ~~~(w32 w.sflags.toNat), w32 a.desc.count]) else w.store) ∧
      (t.plot p).rake = w.reg ∧
      (t.plot p).rakeHeld = ((s.plot p).rakeHeld || (decide (a.desc.rakeop ≠ 0) && !a.desc.rakerow)) ∧
      (t.plot p).sflags = w.sflags ∧ (t.plot p).firstinv = w.firstInv ∧
      (t.plot p).fpflags = (s.plot p).fpflags ||| w.sflags.truncate 8 ∧
      (t.plot p).seq = (s.plot p).seq ∧ (t.plot p).banks = (s.plot p).banks ∧ (∀ q, q ≠ p → t.plot q = s.plot q) ∧
      t.mem = s.mem ∧ t.sync = s.sync ∧ t.kuf = s.kuf ∧ t.job = s.job ∧ t.evr = s.evr

/-- STREAM_STOP: a stop that is registered takes effect before the unit that begins at element EPOS: the units before it have
run, and the stop record at DRL_SPILLBASE holds the stream, its position and the register's image. The image's number is the
register's wherever the spec states one (R144, R145). -/
def Obligations.StreamStopLeavesAStopRecord : Prop :=
  ∀ (s : State) (p : PlotIx) (a : ActiveStream) (c : Ctl) (reason : BitVec 4) (epos : Nat) (w : Work),
    (s.plot p).stream = some a → (s.plot p).seq.stopping = some reason → unitCtl a.desc.numctl = some c →
    s.clocked p = true → a.desc.unitStart epos = true → a.epos < epos → w = ranTo s p a c epos →
    ∃ t v, exec (.streamStop p epos) s = .next t ∧ (w.reg.loose = false → v = w.reg.value.toNat) ∧
      (t.plot p).store = cellsPut 0 w.store (s.plot p).drlSpillbase.toNat
        ({ s.plot p with rake := w.reg }.streamRecord (carried s p a c epos) reason v) ∧
      (t.plot p).stream = none ∧ (t.plot p).drlSpilled = true ∧ (t.plot p).rake = w.reg ∧ (t.plot p).seq = (s.plot p).seq ∧
      (∀ q, q ≠ p → t.plot q = s.plot q) ∧ t.sync = s.sync ∧ t.kuf = s.kuf ∧ t.job = s.job ∧ t.evr = s.evr

/-- DRILL_PARITY_ERROR: a unit whose operands fail is read again once, counted in DRL_PARRETRY; a second failure at the same
element stops the stream there with REASON 0x4 and a recoverable report 0x0101 (R147). -/
def Obligations.DrillParityErrorRereadsOnce : Prop :=
  ∀ (s : State) (p : PlotIx) (a : ActiveStream) (c : Ctl) (epos : Nat) (w : Work), (s.plot p).stream = some a →
    unitCtl a.desc.numctl = some c → s.clocked p = true → a.desc.unitStart epos = true → a.epos ≤ epos →
    w = ranTo s p a c epos →
    (a.retried ≠ some epos → ∃ t, exec (.drillParityError p epos) s = .next t ∧
      (t.plot p).stream = some { carried s p a c epos with retried := some epos } ∧
      (t.plot p).drlParretry = satAdd (s.plot p).drlParretry 1 ∧ (t.plot p).store = w.store ∧ (t.plot p).rake = w.reg ∧
      (t.plot p).seq = (s.plot p).seq ∧ t.evr = s.evr ∧ ∀ q, q ≠ p → t.plot q = s.plot q) ∧
    (a.retried = some epos → (s.plot p).seq.stopping = none → ∃ t v, exec (.drillParityError p epos) s = .next t ∧
      (w.reg.loose = false → v = w.reg.value.toNat) ∧
      (t.plot p).store = cellsPut 0 w.store (s.plot p).drlSpillbase.toNat
        ({ s.plot p with rake := w.reg }.streamRecord (carried s p a c epos) 4 v) ∧
      (t.plot p).stream = none ∧ (t.plot p).drlSpilled = true ∧ (t.plot p).seq.stopping = some 4 ∧
      (t.half (halfOfDie (dieOfPlot p))).registered = (s.half (halfOfDie (dieOfPlot p))).registered ++
        [plotErr p a.pos 0x0101 .recoverable 0 [] 1])

/-- TILLING_PARITY_ERROR is counted in DRL_TILLPAR with a notice, and stops nothing; TILLING_INTENSITY_STEP takes one sixteenth
off the plot's tilling load (R149, R340). -/
def Obligations.TillingLoadStepsDown : Prop :=
  ∀ (s : State) (p : PlotIx), s.clocked p = true → 0 < (s.plot p).tilling →
    ((s.plot p).stream = none → ∃ t, exec (.tillingParityError p) s = .next t ∧
      t.plot p = { s.plot p with drlTillpar := satAdd (s.plot p).drlTillpar 1 } ∧ (∀ q, q ≠ p → t.plot q = s.plot q) ∧
      (t.half (halfOfDie (dieOfPlot p))).registered = (s.half (halfOfDie (dieOfPlot p))).registered ++
        [{ plotErr p (Pos.none s.job.row) 0x0901 .notice 0 [0x08] 0 with source := srcPower }] ∧
      Elsewhere s { t with evr := s.evr }) ∧
    (((s.plot p).seq.waiting = true ∨ (s.plot p).seq.sowing = false) →
      ∃ t, exec (.tillingIntensityStep p) s = .next t ∧ t.plot p = { s.plot p with tilling := (s.plot p).tilling - 1 } ∧
        (∀ q, q ≠ p → t.plot q = s.plot q) ∧ Elsewhere s t)

/-- COMBINE_DELIVERY, once the schedule of the id has no step left: every participant's register becomes the combined one and
its command is done; under id 4,095 a participant's own register stays, its fail vector becomes 0, and the combined vote goes
to the fallback allocator. No other plot changes but for the sowing barrier that ends (R111, R142, R262, R341). -/
def Obligations.CombineDeliveryReachesEveryParticipant : Prop :=
  ∀ (s : State) (id : Fin 4096) (c : Collective) (r : RakeReg),
    s.kuf.colls.find? (fun c => c.id = id && c.reg.isSome) = some c → c.reg = some r → (s.schedule id).length ≤ c.step →
    ∃ t, exec (.combineDelivery id) s = .next t ∧ t.kuf = { s.kuf with colls := s.kuf.colls.erase c } ∧
      (∀ p ∈ c.members, (t.plot p).rake = (if id.val = 4095 then (s.plot p).rake else r) ∧
        (t.plot p).failvec = (if id.val = 4095 then 0 else (s.plot p).failvec) ∧
        ((s.plot p).seq.busy = .collective id → (t.plot p).seq.pc = w32 (behind s p) ∧ (t.plot p).seq.busy = .ready) ∧
        ((s.plot p).seq.busy ≠ .collective id → (t.plot p).seq.pc = (s.plot p).seq.pc ∧
          (t.plot p).seq.busy = (s.plot p).seq.busy) ∧
        (t.plot p).store = (s.plot p).store ∧ (t.plot p).seq.row = (s.plot p).seq.row) ∧
      (∀ p, p ∉ c.members → t.plot p = (if bit s.pwr.sow 31 then
        { s.plot p with seq := { (s.plot p).seq with sowing := true } } else s.plot p)) ∧
      t.fb = (if id.val = 4095 then { s.fb with voteReady := some r } else s.fb) ∧ t.job = s.job ∧ t.evr = s.evr ∧
      t.pwr = s.pwr

/-- FALLBACK_ALLOCATION: a vote whose digests differ is a job-fatal error 0x0205 and changes no layer. With equal digests the
layers are taken in the order of R113 while their units fit; a layer that is switched gets STATE 2 with SWITCHROW the next row
and RESOFF the units used before it, one that waits gets STATE 1, each with its complements; the units in use never pass the
capacity; and no other byte of memory changes (R103, R112, R113). -/
def Obligations.FallbackAllocationSwitchesLayers : Prop :=
  ∀ (s : State) (r : RakeReg) (flt total row : Nat) (d1 d2 : W32) (es : List (Nat × FltEntry)) (a : Alloc),
    s.fb.voteReady = some r → s.fltBase = some flt → d1 = w32 (r.value.toNat / 2 ^ 512) →
    d2 = w32 (r.value.toNat / 2 ^ 544) → row = s.job.row.toNat + 1 → total = (s.fltHdrAt flt).rescap + s.fb.extra.toNat →
    es = (List.range (s.fltHdrAt flt).entries).map (fun i => (i, s.fltEntryAt flt i)) →
    a = (sortKey (fun x => x.2.prio * 1024 + x.1) es).foldl
      (Alloc.visit total (BitVec.ofNat 512 r.value.toNat)) { used := s.fb.used, blocked := false, changes := [] } →
    (d1 ^^^ d2 ≠ 0xFFFFFFFF#32 → ∃ t, exec .fallbackAllocation s = .next t ∧ t.fb = { s.fb with voteReady := none } ∧
      t.mem = s.mem ∧ t.plots = s.plots ∧ t.job = s.job ∧ t.kuf = s.kuf ∧
      (t.half s.lead).registered = (s.half s.lead).registered ++
        [s.mkErr 0x0205 .jobFatal srcEngine d1.toNat [d2.toNat]]) ∧
    (d1 ^^^ d2 = 0xFFFFFFFF#32 → Memory.wf s.mem.cells = true → ∃ t, exec .fallbackAllocation s = .next t ∧
      t.fb.voteReady = none ∧ t.fb.used = a.used ∧ t.fb.resfree = BitVec.ofNat 16 (total - a.used) ∧
      t.fb.fbrow = s.job.row ∧ t.fb.fblast = BitVec.ofNat 512 r.value.toNat ∧ t.fb.allocDone = true ∧
      (s.fb.used ≤ total → a.used ≤ total) ∧
      (∀ x ∈ a.changes, ∀ e, e = fltEntryAddr flt x.1 →
        t.memWord (e + 0x0C) = w32 ((s.memWord (e + 0x0C)).toNat / 4 * 4 + x.2.1) ∧
        t.memWord (e + 0x18) = ~~~(t.memWord (e + 0x0C)) ∧
        (x.2.1 = 2 → t.memWord (e + 0x10) = w32 row ∧ t.memWord (e + 0x14) = w32 (x.2.2 * 2 ^ 16 + row / 2 ^ 32 % 2 ^ 16) ∧
          t.memWord (e + 0x1C) = ~~~(t.memWord (e + 0x14)))) ∧
      (∀ b, (∀ x ∈ a.changes, b < fltEntryAddr flt x.1 + 0x0C ∨ fltEntryAddr flt x.1 + 0x20 ≤ b) →
        cellGet 0 t.mem.cells b = cellGet 0 s.mem.cells b) ∧
      t.plots = s.plots ∧ t.sync = s.sync ∧ t.job = s.job ∧ t.kuf = s.kuf)

/-- The steps of a collective schedule: SEND puts the register's image, with the step's number and the row, on the route of the
node that the step names; RECVADD combines the image that the step waits for with the register, and RECVSET replaces the
register by it; each goes on to the next step. COLLECTIVE_STEP puts an arriving image into the inbox (R141, R254, R262,
R263). -/
def Obligations.CollectiveStepsMoveImages : Prop :=
  ∀ (s : State) (id : Fin 4096) (c : Collective) (r : RakeReg) (st : CollStep), s.evr.fallow = false →
    (s.collStep id = some (c, r, st) → st.op = 1 → ∀ k, s.routeOf st.node = some k →
      ∃ t v m, exec (.send id) s = .next t ∧ (r.loose = false → v = r.value.toNat) ∧
        m = mkMessage { mtype := 3, channel := 0, hops := s.maxHops, len := 0, src := s.kuf.node, dst := st.node, mseq := 0 }
          (collBody id c.step s.job.row (r.imageOf v)) ∧
        (t.kport k).txq = (s.kport k).txq.set 1 ((s.kport k).txq.get 1 ++ [m]) ∧
        (∀ j, j ≠ k → t.kport j = s.kport j) ∧ t.kuf.colls = stepped s c r ∧ t.kuf.inbox = s.kuf.inbox ∧
        t.plots = s.plots ∧ t.mem = s.mem ∧ t.sync = s.sync ∧ t.job = s.job ∧ t.evr = s.evr) ∧
    (s.collStep id = some (c, r, st) → ∀ i x, s.inboxImage id st = some i → RakeReg.ofImage i.image = some x →
      (st.op = 2 → kindsMeet r.kind x.kind = true → exec (.recvadd id) s =
        .next { s with kuf := { s.kuf with inbox := s.kuf.inbox.erase i, colls := stepped s c (r.combine x) } }) ∧
      (st.op = 3 → exec (.recvset id) s =
        .next { s with kuf := { s.kuf with inbox := s.kuf.inbox.erase i, colls := stepped s c x } })) ∧
    (∀ k m h, Arrived s k 1 m h → h.mtype = 3 → h.len = 144 → s.kuf.inbox.length < 256 →
      s.job.row.toNat ≤ (wordAt m 0x14).toNat + (wordAt m 0x18).toNat % 2 ^ 16 * 2 ^ 32 →
      ∃ t, exec (.collectiveStep k) s = .next t ∧ t.kuf.inbox = s.kuf.inbox ++
        [{ collid := BitVec.ofNat 12 ((wordAt m 0x10).toNat % 2 ^ 12),
           row := BitVec.ofNat 48 ((wordAt m 0x14).toNat + (wordAt m 0x18).toNat % 2 ^ 16 * 2 ^ 32),
           step := BitVec.ofNat 8 ((wordAt m 0x10).toNat / 2 ^ 12 % 2 ^ 8), node := h.src, image := (m.drop 0x20).take 128 }] ∧
        (t.kport k).rx.get 1 = ((s.kport k).rx.get 1).drop m.length ∧ (∀ j, j ≠ k → t.kport j = s.kport j) ∧
        t.kuf.colls = s.kuf.colls ∧ t.plots = s.plots ∧ t.mem = s.mem ∧ t.sync = s.sync ∧ t.job = s.job ∧ t.evr = s.evr)

/-- A port trains from SIGNAL over EQUALISE and ALIGN to IDENT, and to ACTIVE once the neighbour's identity has passed, where
the flits kept for replay are sent again; a training state beyond its bound goes back to SIGNAL (a failed retraining is
counted); a lost codeword lock, and the end of the wait for an identity answer, lead a port out of ACTIVE to EQUALISE, and its
destinations to their alternates (R238, R240, R243, R244, R260). -/
def Obligations.PortsTrainAndRetrain : Prop :=
  ∀ (s : State) (k : KPort) (x : KufPort), s.evr.fallow = false → x = s.kport k →
    (x.state = .signal → ∃ t, exec (.portTrainingStateDone k) s = .next t ∧ t.kport k = { x with state := .equalise } ∧
      OnlyPort s t k s.kuf.route) ∧
    (x.state = .equalise → ∃ t, exec (.portTrainingStateDone k) s = .next t ∧ t.kport k = { x with state := .align } ∧
      OnlyPort s t k s.kuf.route) ∧
    (x.state = .align → ∃ t, exec (.portTrainingStateDone k) s = .next t ∧
      t.kport k = { x with state := .ident, identOk := false } ∧ OnlyPort s t k s.kuf.route) ∧
    (x.state = .ident → x.identOk = true → ∃ t, exec (.portTrainingStateDone k) s = .next t ∧
      t.kport k = { x with state := .active, first := false, fails := 0, resend := x.replay, lastReq := none } ∧
      OnlyPort s t k s.kuf.route) ∧
    (inTraining x → (x.first = true ∨ x.fails < 2) → ∃ t, exec (.portStateBoundExceeded k) s = .next t ∧
      t.kport k = { x with state := .signal, fails := if x.first then 0 else x.fails + 1 } ∧
      OnlyPort s t k s.kuf.route) ∧
    (x.state = .active → ∃ t, exec (.codewordLockLost k) s = .next t ∧ t.kport k = { x with retrainDue := true } ∧
      OnlyPort s t k s.kuf.route) ∧
    (x.state = .active → x.retrainDue = true → ∃ t, exec (.retraining k) s = .next t ∧ OnlyPort s t k (offPort s k) ∧
      t.kport k = { x with state := .equalise, retrainDue := false, first := false, retrains := satAdd x.retrains 1,
                           identOk := false, identWait := false, altuse := true }) ∧
    (x.state = .active → x.identWait = true → ∃ t, exec (.identityAnswerTimeout k) s = .next t ∧
      OnlyPort s t k (offPort s k) ∧
      t.kport k = { x with state := .equalise, retrainDue := false, first := false, retrains := satAdd x.retrains 1,
                           identOk := false, identWait := false, altuse := true })

/-- A port is declared down after a third failed retraining, 10 ms after it left ACTIVE, or on a DOWN flit: it is FAILED, sends
DOWN, discards its replay buffer and its queues, and raises a recoverable error 0x0501; its destinations use their alternates.
Where no unacknowledged message left by it, no other port changes (R238, R244, R249, R260). -/
def Obligations.PortsAreDeclaredDown : Prop :=
  ∀ (s : State) (k : KPort) (x : KufPort) (i : Instr), s.evr.fallow = false → x = s.kport k →
    ((i = .portStateBoundExceeded k ∧ inTraining x ∧ x.first = false ∧ 2 ≤ x.fails) ∨
      (i = .portDeclaredDown k ∧ inTraining x ∧ x.first = false) ∨
      (i = .downFlit k ∧ ∃ b, x.ctrlHead 4 = some b)) →
    ∃ t, exec i s = .next t ∧
      t.kport k = { x with state := .failed, sendDown := true, replay := [], resend := [], retrainDue := false,
                           identWait := false, altuse := true, txq := Vector.replicate 3 [],
                           txrest := Vector.replicate 3 [], ctrl := if i = .downFlit k then x.ctrl.tail else x.ctrl } ∧
      t.kuf.route = offPort s k ∧ t.plots = s.plots ∧ t.mem = s.mem ∧ t.sync = s.sync ∧ t.job = s.job ∧
      ((∀ y ∈ s.kuf.tx, ∀ m ∈ y.buffer, m.port ≠ some k) → (∀ j, j ≠ k → t.kport j = s.kport j) ∧
        t.kuf.tx = s.kuf.tx ∧
        (t.half (halfOfDie (dieOfPort k))).registered = (s.half (halfOfDie (dieOfPort k))).registered ++
          [s.mkErr 0x0501 .recoverable srcKufort k.val []])

/-- FLIT_SEND of a port in ACTIVE: DOWN goes first, then an identity flit, a replay request, a flit to be sent again, a message
flit of class 2, 1 or 0 that credit covers, and an idle flit when nothing else can leave; a message flit is kept for replay
and takes the next FSEQ and one credit. In ALIGN the port sends idle flits, and in IDENT its identity (R238-R243). -/
def Obligations.FlitsLeaveInOrder : Prop :=
  ∀ (s : State) (k : KPort) (x : KufPort), s.evr.fallow = false → x = s.kport k →
    (x.state = .align → ∃ t, exec (.flitSend k) s = .next t ∧ OnlyPort s t k s.kuf.route ∧
      t.kport k = { x with lane := passingFlit x 0 [], giveBack := stillOwed x }) ∧
    (x.state = .ident → ∃ t, exec (.flitSend k) s = .next t ∧ OnlyPort s t k s.kuf.route ∧
      t.kport k = { x with lane := passingFlit x 3 (s.identPayload k false), giveBack := stillOwed x }) ∧
    (x.state = .active → x.sendDown = true → ∃ t, exec (.flitSend k) s = .next t ∧ OnlyPort s t k s.kuf.route ∧
      t.kport k = { x with state := .down, sendDown := false, lane := passingFlit x 4 [], giveBack := stillOwed x }) ∧
    (x.state = .active → x.sendDown = false → x.retrainDue = false → ∃ t, exec (.flitSend k) s = .next t ∧
      OnlyPort s t k s.kuf.route ∧
      (∀ req r, x.sendIdent = req :: r →
        t.kport k = { x with sendIdent := r, lane := passingFlit x 3 (s.identPayload k req), giveBack := stillOwed x }) ∧
      (x.sendIdent = [] → x.sendReq = true → t.kport k =
        { x with sendReq := false, replays := satAdd x.replays 1, giveBack := stillOwed x,
                 lane := passingFlit x 2 (bytesOfWord (w32 x.expect.toNat)) }) ∧
      (x.sendIdent = [] → x.sendReq = false → ∀ e r, x.resend = e :: r → t.kport k = { x with resend := r, lane := e.2 }) ∧
      (x.sendIdent = [] → x.sendReq = false → x.resend = [] →
        (∀ c f, s.mayCarry k = true → x.replay.length < 256 → x.nextClass = some (c, f) → ∀ flit,
          flit = mkFlit 1 c.val x.fseq (x.expect - 1) (x.giveBack.toList.map fun n => Nat.min n 255) f.acc →
          t.kport k = { x with lane := flit, fseq := x.fseq + 1, replay := x.replay ++ [(x.fseq, flit)],
                               txrest := x.txrest.set c.val f.rest, txq := x.txq.set c.val f.queue,
                               credit := x.credit.set c.val (x.credit.get c - 1), giveBack := stillOwed x }) ∧
        ((s.mayCarry k = false ∨ 256 ≤ x.replay.length ∨ x.nextClass = none) →
          t.kport k = { x with lane := passingFlit x 0 [], giveBack := stillOwed x })))

/-- FLIT_RECEIVE: a flit whose codeword cannot be corrected, or whose CRC differs, is discarded, and an active port asks for a
replay; a good flit acknowledges flits and returns credits; a message flit with the FSEQ expected is taken, one from before is
discarded, and one from behind a gap is discarded and a replay asked for; control flits wait to be handled (R237, R241-R243). -/
def Obligations.FlitsArriveInOrder : Prop :=
  ∀ (s : State) (k : KPort) (x : KufPort) (b : List Byte) (corr unc : Bool) (w : W32), s.evr.fallow = false →
    x = s.kport k → (x.state = .align ∨ x.state = .ident ∨ x.state = .active) → w = wordAt b 0 →
    ∃ t, exec (.flitReceive k b corr unc) s = .next t ∧ OnlyPort s t k s.kuf.route ∧
      ((unc = true ∨ wordAt b 124 ≠ crc32 (b.take 124)) → t.kport k =
        { counted x corr unc with crcfail := satAdd x.crcfail 1, sendReq := decide (x.state = .active) }) ∧
      (unc = false → wordAt b 124 = crc32 (b.take 124) → ∀ fseq y, fseq = BitVec.ofNat 12 (w.toNat / 2 ^ 12) →
        y = (counted x corr false).linkWords b →
        y.replay = x.replay.filter (fun e => decide (2048 ≤ (BitVec.ofNat 12 w.toNat - e.1).toNat)) ∧
        (w.toNat / 2 ^ 28 = 1 → ∀ c : Fin 3, w.toNat / 2 ^ 26 % 4 = c.val → fseq = x.expect →
          t.kport k = y.accept c ((b.drop 8).take 112)) ∧
        (w.toNat / 2 ^ 28 = 1 → fseq ≠ x.expect → flitsBehind x fseq < 2048 → t.kport k = y) ∧
        (w.toNat / 2 ^ 28 = 1 → fseq ≠ x.expect → 2048 ≤ flitsBehind x fseq → t.kport k = { y with sendReq := true }) ∧
        (w.toNat / 2 ^ 28 = 0 → t.kport k = if flitsBehind x fseq < 2048 then y else { y with sendReq := true }) ∧
        (2 ≤ w.toNat / 2 ^ 28 → t.kport k = { y with ctrl := y.ctrl ++ [b] }))

/-- REPLAY_REQUEST: the flits kept from the one named on are sent again, and the eighth request in a row for the same flit leads
the port out of ACTIVE. IDENTITY_FLIT: the neighbour is shown in the port's registers and a request is answered; an identity
that the checks refuse leads to MISMATCH with a recoverable error 0x0501 (R239, R240, R243, R244). -/
def Obligations.ReplayAndIdentityAreHandled : Prop :=
  ∀ (s : State) (k : KPort) (x : KufPort) (b : List Byte), x = s.kport k →
    (x.ctrlHead 2 = some b → ∀ f n, f = BitVec.ofNat 12 (wordAt b 8).toNat →
      n = (match x.lastReq with | some (g, n) => if g = f then n + 1 else 1 | none => 1) →
      ∃ t, exec (.replayRequest k) s = .next t ∧ OnlyPort s { t with evr := s.evr } k s.kuf.route ∧
        t.kport k = { x with ctrl := x.ctrl.tail, lastReq := some (f, n),
                             resend := x.replay.filter fun e => decide ((e.1 - f).toNat < 2048),
                             retrainDue := x.retrainDue || (decide (8 ≤ n) && decide (x.state = .active)) }) ∧
    (x.ctrlHead 3 = some b → ∀ w port node y, w = wordAt b 8 → port = w.toNat / 2 ^ 24 % 8 →
      node = BitVec.ofNat 12 w.toNat →
      y = { x with ctrl := x.ctrl.tail, nbrPort := BitVec.ofNat 3 port, nbrNode := node,
                   sendIdent := if bit w 31 then x.sendIdent ++ [false] else x.sendIdent,
                   identWait := if bit w 31 then x.identWait else false } →
      (s.identityOk k port node (wordAt b 12) = true → ∃ t, exec (.identityFlit k) s = .next t ∧
        OnlyPort s t k s.kuf.route ∧ t.kport k = { y with identOk := true }) ∧
      (s.identityOk k port node (wordAt b 12) = false → ∃ t own e, exec (.identityFlit k) s = .next t ∧
        OnlyPort s { t with evr := s.evr } k (offPort s k) ∧
        t.kport k = { y with state := .mismatch, identOk := false, retrainDue := false, altuse := true } ∧
        (t.half (halfOfDie (dieOfPort k))).registered = (s.half (halfOfDie (dieOfPort k))).registered ++
          [s.mkErr 0x0501 .recoverable srcKufort k.val [e, own, port * 2 ^ 24 + node.toNat, (wordAt b 12).toNat]]))

/-- A new DATA_WRITE puts its data, without the padding, at its address and is noted for the acknowledgement; a new TOKEN waits
for its sync unit; a duplicate only counts in KUF_DUPMSG (R247, R248, R252, R253). How much of the zero bytes at the end is
padding is open (log entry 23). -/
def Obligations.DataWritesAndTokensAreApplied : Prop :=
  ∀ (s : State) (k : KPort) (m : List Byte) (h : MsgHdr), Arrived s k 0 m h →
    (∀ a d, h.mtype = 1 → 20 ≤ h.len → takesNew s h → s.mem.bad = [] → Memory.wf s.mem.cells = true →
      a = (wordAt m 0x10).toNat + (wordAt m 0x14).toNat % 2 ^ 16 * 2 ^ 32 → d = (m.take (m.length - 4)).drop 0x20 →
      (∀ z, z ≤ 3 → s.rangeDevice a (d.length - z) = true) →
      ∃ t z g, exec (.dataWrite k) s = .next t ∧ z ≤ 3 ∧ z < d.length ∧
        (∀ i, d.length - z ≤ i → i < d.length → d.getD i 0 = 0) ∧ Holds s t a (d.length - z) (fun i => d.getD i 0) ∧
        t.kuf.rx = noted s h g ∧ g.mseq = h.mseq ∧ g.applied = false ∧ g.wrote = some a ∧
        (∀ j, j ≠ k → t.kport j = s.kport j) ∧ t.plots = s.plots ∧ t.sync = s.sync ∧ t.job = s.job ∧ t.evr = s.evr) ∧
    (h.mtype = 2 → h.len = 24 → takesNew s h → ∃ t r, exec (.token k) s = .next t ∧
      t.kuf.remote = s.kuf.remote ++ [(h.mseq, r)] ∧ r.payload = wordAt m 0x10 ∧ r.payloadC = wordAt m 0x14 ∧
      r.queue.toNat = (wordAt m 0x20).toNat % 2 ^ 15 ∧ r.queueC = wordAt m 0x24 ∧ r.src = h.src ∧ r.channel = h.channel ∧
      r.tseq.toNat = (wordAt m 0x1C).toNat / 2 ^ 8 % 2 ^ 16 ∧ r.kind.toNat = (wordAt m 0x1C).toNat % 2 ^ 3 ∧
      t.kuf.rx = noted s h { mseq := h.mseq, applied := false, ann := none, wrote := none } ∧
      (∀ j, j ≠ k → t.kport j = s.kport j) ∧ t.plots = s.plots ∧ t.mem = s.mem ∧ t.sync = s.sync ∧ t.job = s.job ∧
      t.evr = s.evr) ∧
    (∀ i x, ((h.mtype = 1 ∧ 20 ≤ h.len ∧ i = .dataWrite k) ∨ (h.mtype = 2 ∧ h.len = 24 ∧ i = .token k)) →
      s.rxPair h = some x →
      (((h.mseq - x.acked).toNat < 256 ∧ ∃ g ∈ x.got, g.mseq = h.mseq) ∨ 2 ^ 23 ≤ (h.mseq - x.acked).toNat) →
      ∃ t, exec i s = .next t ∧ t.kuf.dupmsg = satAdd s.kuf.dupmsg 1 ∧ t.kuf.rx = s.kuf.rx ∧ t.kuf.remote = s.kuf.remote ∧
        t.mem = s.mem ∧ t.plots = s.plots ∧ t.sync = s.sync ∧ t.evr = s.evr)

/-- A message for another node goes on by the port of its route with HOPS lowered by 1 (R258, R259). -/
def Obligations.MessagesForOthersAreForwarded : Prop :=
  ∀ (s : State) (k j : KPort) (c : Fin 3) (m : List Byte) (h : MsgHdr) (n : Nat) (i : Instr), s.evr.fallow = false →
    (s.kport k).msgHead c = some m → h = MsgHdr.ofBytes m → h.dst ≠ s.kuf.node → h.hops = n + 1 → s.routeOf h.dst = some j →
    ((i = .dataWrite k ∧ c = 0 ∧ h.mtype = 1) ∨ (i = .token k ∧ c = 0 ∧ h.mtype = 2) ∨
      (i = .collectiveStep k ∧ c = 1 ∧ h.mtype = 3) ∨ (i = .openMsg k ∧ c = 2 ∧ h.mtype = 4) ∨
      (i = .grant k ∧ c = 2 ∧ h.mtype = 5) ∨ (i = .ack k ∧ c = 2 ∧ h.mtype = 6) ∨
      (i = .refuse k ∧ c = 2 ∧ h.mtype = 7)) →
    ∃ t, exec i s = .next t ∧ (t.kport j).txq.get c = (s.kport j).txq.get c ++ [setHops m n] ∧
      (t.kport k).rx.get c = ((s.kport k).rx.get c).drop m.length ∧
      (∀ l, l ≠ j → l ≠ k → t.kport l = s.kport l) ∧ t.kuf.rx = s.kuf.rx ∧ t.kuf.tx = s.kuf.tx ∧
      t.kuf.inbox = s.kuf.inbox ∧ t.kuf.remote = s.kuf.remote ∧ t.plots = s.plots ∧ t.mem = s.mem ∧ t.sync = s.sync ∧
      t.job = s.job ∧ t.evr = s.evr

/-- The control messages of the transport. OPEN is answered with GRANT, where the receive table holds the pair or has room for
it, else with REFUSE; GRANT opens the pair's window; ACK takes what it acknowledges out of the retry buffer and moves the
window; REFUSE is a job-fatal error. The receiver acknowledges what it has applied, an unacknowledged message is sent again up
to four times, and an OPEN without an answer is sent again (R246, R247, R249, R255). -/
def Obligations.ChannelsOpenAndAcknowledge : Prop :=
  ∀ (s : State) (k j : KPort) (m : List Byte) (h : MsgHdr),
    (Arrived s k 2 m h → h.mtype = 4 → s.job.state ≠ .idle → s.routeOf h.src = some j →
      ∃ t, exec (.openMsg k) s = .next t ∧ Apart s t ∧ t.evr = s.evr ∧ t.kuf.tx = s.kuf.tx ∧
        ((s.rxPair h).isSome = true → t.kuf.rx = s.kuf.rx ∧ Queued s t k j 2 (controlMessage s 5 h.src h.channel [])) ∧
        (s.rxPair h = none → (s.kuf.rx.filter fun x => channelHome x.channel = channelHome h.channel).length < 1024 →
          t.kuf.rx = s.kuf.rx ++ [{ node := h.src, channel := h.channel, acked := 0, got := [], since := 0 }] ∧
          Queued s t k j 2 (controlMessage s 5 h.src h.channel [])) ∧
        (s.rxPair h = none → 1024 ≤ (s.kuf.rx.filter fun x => channelHome x.channel = channelHome h.channel).length →
          t.kuf.rx = s.kuf.rx ∧ Queued s t k j 2 (controlMessage s 7 h.src h.channel []))) ∧
    (Arrived s k 2 m h → h.mtype = 5 →
      (∀ x ∈ s.kuf.tx, x.node = h.src → x.channel = h.channel → ∀ y ∈ x.buffer, y.sends ≠ 0) →
      ∃ t, exec (.grant k) s = .next t ∧ t.kuf.tx = pairs s h.src h.channel (fun x => { x with granted := true }) ∧
        (∀ l, l ≠ k → t.kport l = s.kport l) ∧ t.kuf.rx = s.kuf.rx ∧ Apart s t ∧ t.evr = s.evr) ∧
    (Arrived s k 2 m h → h.mtype = 6 → ∀ x a, s.txPair h.src h.channel = some x →
      a = BitVec.ofNat 24 ((wordAt m 0x10).toNat / 2 ^ 8) → (a - x.acked).toNat ≤ (x.mseq - x.acked).toNat →
      (∀ x ∈ s.kuf.tx, x.node = h.src → x.channel = h.channel → ∀ y ∈ x.buffer, y.sends ≠ 0) →
      ∃ t, exec (.ack k) s = .next t ∧ t.kuf.tx = pairs s h.src h.channel (fun x =>
          { x with acked := a, buffer := x.buffer.filter fun y => decide ((y.mseq - a).toNat < 2 ^ 23) }) ∧
        (∀ l, l ≠ k → t.kport l = s.kport l) ∧ (∀ p, t.plot p = (s.plot p).dropAcked h.src h.channel a) ∧
        t.mem = s.mem ∧ t.sync = s.sync ∧ t.job = s.job ∧ t.evr = s.evr) ∧
    (Arrived s k 2 m h → h.mtype = 7 → (s.txPair h.src h.channel).isSome = true →
      ∃ t, exec (.refuse k) s = .next t ∧ t.kuf.tx = pairs s h.src h.channel (fun x => { x with refused := true }) ∧
        (∀ l, l ≠ k → t.kport l = s.kport l) ∧ Apart s t ∧
        (t.half s.lead).registered = (s.half s.lead).registered ++
          [s.mkErr 0x0502 .jobFatal srcKufort (keyWord h.src h.channel) []]) ∧
    (∀ node ch, s.evr.fallow = false → s.routeOf node = some j →
      (∀ x, s.kuf.rx.find? (fun x => x.node = node && x.channel = ch) = some x → x.since ≠ 0 →
        ∃ t, exec (.ackSend node ch) s = .next t ∧ Apart s t ∧ t.evr = s.evr ∧ t.kuf.tx = s.kuf.tx ∧
          Queued s t j j 2 (controlMessage s 6 node ch (bytesOfWord (w32 (x.acked.toNat * 2 ^ 8)))) ∧
          t.kuf.rx = s.kuf.rx.map fun y => if y.node = node && y.channel = ch then { y with since := 0 } else y) ∧
      (∀ x y, s.txPair node ch = some x → x.buffer.find? (fun z => z.mseq = y.mseq) = some y → 1 ≤ y.sends → y.sends < 5 →
        (MsgHdr.ofBytes y.bytes).dst = node → (MsgHdr.ofBytes y.bytes).mtype = 1 →
        ∃ t, exec (.messageResend node ch y.mseq) s = .next t ∧ Apart s t ∧ t.kuf.resent = satAdd s.kuf.resent 1 ∧
          Queued s t j j 0 y.bytes ∧ t.kuf.tx = pairs s node ch (fun x =>
            { x with buffer := x.buffer.map fun z =>
                if z.mseq = y.mseq then { z with sends := y.sends + 1, port := some j } else z })) ∧
      (∀ x, s.txPair node ch = some x → x.granted = false → x.refused = false →
        ∃ t, exec (.openResend node ch) s = .next t ∧ Apart s t ∧ t.evr = s.evr ∧
          Queued s t j j 2 (controlMessage s 4 node ch []) ∧
          t.kuf.tx = pairs s node ch (fun x => { x with opens := x.opens + 1 })))

/-- What a mover does with the transfer at its head, where no stored block holds an error. HOME_ACCESS reads the bytes of the
next access, or writes them at their home; WRITE_ACK takes the oldest write off the outstanding ones, and a host port's
acknowledgement lets its token writes go; TRANSFER_DONE writes the rows of a transfer to its plot store, in ascending order,
and leads to the trailing token where there is one; TRAILING_TOKEN sends the token of a local transfer, which ends it (R166,
R170, R188, R212, R417). -/
def Obligations.MoversCarryTransfersThrough : Prop :=
  ∀ (s : State) (p : PlotIx) (m : Fin 2) (x : Transfer) (r : List Transfer), s.mover p m = x :: r → s.evr.fallow = false →
    (∀ a q, x.todo = a :: q → x.phase = .active → a.data = none → s.mem.bad = [] →
      ∃ t, exec (.homeAccess p m 0) s = .next t ∧
        t.mover p m = { x with todo := q, got := cellsPut 0 x.got a.addr (s.memBytes a.addr a.len) } :: r ∧
        t.mem.cells = s.mem.cells ∧ (t.plot p).store = (s.plot p).store ∧ (∀ q, q ≠ p → t.plot q = s.plot q) ∧
        t.sync = s.sync ∧ t.kuf = s.kuf ∧ t.job = s.job ∧ t.evr = s.evr) ∧
    (∀ a q b, x.todo = a :: q → x.phase = .active → a.data = some b → s.mem.bad = [] → Memory.wf s.mem.cells = true →
      a.addr % 256 + b.length ≤ 256 →
      ∃ t, exec (.homeAccess p m 0) s = .next t ∧ Holds s t a.addr b.length (fun i => b.getD i 0) ∧
        t.mover p m = { x with todo := q, unacked := x.unacked ++ [a.addr] } :: r ∧
        (t.plot p).store = (s.plot p).store ∧ (∀ q, q ≠ p → t.plot q = s.plot q) ∧
        t.sync = s.sync ∧ t.kuf = s.kuf ∧ t.job = s.job ∧ t.evr = s.evr) ∧
    (∀ a q, x.unacked = a :: q → ∃ t, exec (.writeAck (.mover p m)) s = .next t ∧
      t.mover p m = { x with unacked := q } :: r ∧
      t.rcv = (if s.isGuarded a then { s.rcv with lastguard := s.job.row } else s.rcv) ∧
      (∀ q, q ≠ p → t.plot q = s.plot q) ∧ t.mem = s.mem ∧ t.sync = s.sync ∧ t.kuf = s.kuf ∧ t.evr = s.evr) ∧
    (x.complete = true → x.desc.dstsp = 0 → x.desc.srcsp = 1 → ∀ rows, rows = x.allRows x.rowToPlane (s.plot p).store →
      (x.desc.token = true → ∃ t, exec (.transferDone p m) s = .next t ∧ (t.plot p).store = rows.1 ∧
        (t.plot p).fpflags = (s.plot p).fpflags ||| rows.2 ∧ t.mover p m = { x with phase := .tokenDue } :: r ∧
        (∀ q, q ≠ p → t.plot q = s.plot q) ∧ t.mem = s.mem ∧ t.sync = s.sync ∧ t.kuf = s.kuf ∧ t.evr = s.evr) ∧
      (x.desc.token = false → r = [] → (∀ m a n, (s.plot p).seq.busy ≠ .dmaHand m a n) →
        ∃ t, exec (.transferDone p m) s = .next t ∧ (t.plot p).store = rows.1 ∧
        (t.plot p).fpflags = (s.plot p).fpflags ||| rows.2 ∧ t.mover p m = [] ∧ (t.plot p).seq = (s.plot p).seq ∧
        (∀ q, q ≠ p → t.plot q = s.plot q) ∧ t.mem = s.mem ∧ t.sync = s.sync ∧ t.kuf = s.kuf ∧ t.evr = s.evr)) ∧
    (x.phase = .tokenDue → x.desc.dstsp ≠ 3 → r = [] → (∀ m a n, (s.plot p).seq.busy ≠ .dmaHand m a n) →
      ∃ t, exec (.trailingToken p m) s = .next t ∧ t.mover p m = [] ∧ t.kuf.transit = s.kuf.transit ++
        [mkToken 2 (BitVec.ofNat 12 p.val) 0 x.desc.tokqueue x.desc.tokpay 0 0] ∧ (t.plot p).store = (s.plot p).store ∧
        (t.plot p).seq = (s.plot p).seq ∧ (∀ q, q ≠ p → t.plot q = s.plot q) ∧ t.mem = s.mem ∧ t.sync = s.sync ∧
        t.evr = s.evr)

/-- RING_TRANSFER counts failures in a row of its link and direction, and the fifteenth is module-fatal and names the link;
MR4_READ, PACKAGE_SENSOR_READING, REFRESH_STEP_FALL and PACKAGE_SENSOR_TIMEOUT keep the refresh step of their package: it rises
at once with a reading above 85 C or 95 C, falls by one after a reading 3 C below, and stands at the top without a reading; a
reading of 105 C is a notice and one of 110 C module-fatal. No other package, no byte of memory and no other part of the module
changes (R187, R200, R201). -/
def Obligations.RingAndPackageEventsAreFollowed : Prop :=
  ∀ s : State, s.evr.fallow = false →
    (∀ (link : Fin 8) (up ok : Bool) (j : Fin 16), j.val = 2 * link.val + b2n up → ∃ t, exec (.ringTransfer link up ok) s = .next t ∧
      (∀ i, t.mem.ringFails.get i = if i = j then (if ok then 0 else s.mem.ringFails.get j + 1) else s.mem.ringFails.get i) ∧
      Reports s t (halfOfDie link) (if ok = false ∧ s.mem.ringFails.get j = 14 then
        [s.mkErr 0x0306 .moduleFatal srcRing link.val [b2n up]] else []) ∧
      { t with mem := { t.mem with ringFails := s.mem.ringFails }, evr := s.evr } = s) ∧
    ∀ k : PkgIx,
    (∀ demand, ∃ t, exec (.mr4Read k demand) s = .next t ∧ t.pkg k = { s.pkg k with demand := demand } ∧
      (∀ i, i ≠ k → t.pkg i = s.pkg i) ∧ { t with mem := { t.mem with pkgs := s.mem.pkgs } } = s) ∧
    (∀ v T, T = v + s.sbd.calib.poff.get k → ∃ t, exec (.packageSensorReading k v) s = .next t ∧
      (t.pkg k).reading = some T ∧ (t.pkg k).invalid = false ∧ (t.pkg k).demand = (s.pkg k).demand ∧
      (t.pkg k).step.toNat = max (s.pkg k).step.toNat (if T < 850 then 0 else if T ≤ 950 then 1 else 2) ∧
      Reports s t (halfOfDie (dieOfPkg k)) (if 1100 ≤ T then [s.mkErr 0x0305 .moduleFatal srcMemory k.val [(T % 2 ^ 16).toNat]]
        else if 1050 ≤ T then [s.mkErr 0x0304 .notice srcMemory k.val [(T % 2 ^ 16).toNat]] else []) ∧
      (∀ i, i ≠ k → t.pkg i = s.pkg i) ∧ { t with mem := { t.mem with pkgs := s.mem.pkgs }, evr := s.evr } = s) ∧
    (∀ T, (s.pkg k).reading = some T → (s.pkg k).invalid = false →
      (((s.pkg k).step = 2 ∧ T ≤ 920) ∨ ((s.pkg k).step = 1 ∧ T ≤ 820)) →
      ∃ t, exec (.refreshStepFall k) s = .next t ∧ t.pkg k = { s.pkg k with step := (s.pkg k).step - 1 } ∧
        (∀ i, i ≠ k → t.pkg i = s.pkg i) ∧ { t with mem := { t.mem with pkgs := s.mem.pkgs } } = s) ∧
    ∃ t, exec (.packageSensorTimeout k) s = .next t ∧ t.pkg k = { s.pkg k with invalid := true, step := 2 } ∧
      Reports s t (halfOfDie (dieOfPkg k)) [s.mkErr 0x0304 .notice srcMemory k.val []] ∧
      (∀ i, i ≠ k → t.pkg i = s.pkg i) ∧ { t with mem := { t.mem with pkgs := s.mem.pkgs }, evr := s.evr } = s

/-- SCRUB_READ of a guarded block without errors changes no byte and shows its row in MEM_SCRUBQ; a block with up to three wrong
bytes that no cache line holds is corrected, counted in MEM_CECNT and reported by a notice 0x0301. LAYOUT_INIT_DONE ends the
initialisation: DRAM holds zeros and the base store keeps its bytes. SLICE_MODE_CHANGE_DONE puts the new modes in force, and
the slices whose mode changed hold zeros while every other byte stays. Nothing waits at a host port here (R197, R199, R203,
R205, R207). -/
def Obligations.ScrubAndInitialisationKeepOtherBytes : Prop :=
  ∀ s : State,
    (∀ a n, s.scrubs a = true → blockOf a = a → s.mem.bad = [] → s.isCached a = false → n ≤ 3 →
      ∃ t, exec (.scrubRead a n) s = .next t ∧ t.mem.cells = s.mem.cells ∧ t.mem.bad = [] ∧ t.plots = s.plots ∧
        (t.die (s.homeOf a)).scrubq = w32 (localOf a / 256) ∧
        (t.die (s.homeOf a)).cecnt =
          (if n = 0 then (s.die (s.homeOf a)).cecnt else satAdd (s.die (s.homeOf a)).cecnt 1) ∧
        (t.half (halfOfDie (s.homeOf a))).registered = (s.half (halfOfDie (s.homeOf a))).registered ++
          (if n = 0 then [] else [s.mkErr 0x0301 .notice srcMemory (a % 2 ^ 48 + s.channelField a * 2 ^ 48) [4]]) ∧
        t.sync = s.sync ∧ t.kuf = s.kuf ∧ t.job = s.job) ∧
    (s.pciA.stalled = [] → s.pciB.stalled = [] →
      (s.mem.layState = 1 → s.job.state ≠ .checking → ∃ t, exec .layoutInitDone s = .next t ∧ t.mem.layState = 0 ∧ t.mem.layReason = 0 ∧
        (∀ b, cellGet 0 t.mem.cells b = if b < 0x020000000000 then 0 else cellGet 0 s.mem.cells b) ∧
        (∀ x, x ∈ t.mem.bad ↔ x ∈ s.mem.bad ∧ 0x020000000000 ≤ x.1) ∧
        { t with mem := { t.mem with layState := s.mem.layState, layReason := s.mem.layReason, cells := s.mem.cells,
                                     bad := s.mem.bad } } = s) ∧
      (∀ d m, (s.die d).slicenext = some m → s.mem.bad = [] → ∃ t, exec (.sliceModeChangeDone d) s = .next t ∧
        t.die d = { s.die d with slicemode := m, slicenext := none, cache := [] } ∧ (∀ e, e ≠ d → t.die e = s.die e) ∧
        (∀ b j, sliceOf b = some (12 * d.val + j) → j < 12 → (s.die d).slicemode.getLsbD j ≠ m.getLsbD j → cellGet 0 t.mem.cells b = 0) ∧
        (∀ b, (∀ j, j < 12 → (s.die d).slicemode.getLsbD j ≠ m.getLsbD j → sliceOf b ≠ some (12 * d.val + j)) →
          cellGet 0 t.mem.cells b = cellGet 0 s.mem.cells b) ∧
        t.mem.bad = [] ∧ (∀ e, e ≠ d → t.trace e = s.trace e) ∧ t.plots = s.plots ∧ t.sync = s.sync ∧ t.kuf = s.kuf ∧ t.evr = s.evr))

/-- TOKEN_ARRIVAL puts the token, first of its source, into the inbox of its unit, and a record whose complement differs is
discarded with a job-fatal error 0x0401. REMOTE_TOKEN_ARRIVAL meets the inbound entry of its channel: the token expected next
is taken, into the inbox when it announces no bytes or when its bytes have been tallied, else into the hold; one from before is
a duplicate, counted with a notice, and one from ahead is job-fatal. ANNOUNCED_WRITE_ACK adds the bytes of the oldest
acknowledged write to the tally of its key (R211, R221-R223). -/
def Obligations.TokensReachTheirSyncUnit : Prop :=
  ∀ s : State, s.smod.writing = false →
    (∀ i x, s.kuf.transit[i]? = some x → firstOfSource s i x → ∃ t, exec (.tokenArrival i) s = .next t ∧
      t.kuf = { s.kuf with transit := s.kuf.transit.eraseIdx i } ∧
      (x.ok = true → t.unit (dieOfQueue x.queue) = { s.unit (dieOfQueue x.queue) with inbox := (s.unit (dieOfQueue x.queue)).inbox ++ [x] } ∧
        OnlyUnit s t (dieOfQueue x.queue) ∧ { t with kuf := s.kuf, sync := s.sync } = s) ∧
      (x.ok = false → Reports s t (halfOfDie (dieOfQueue x.queue))
          [s.mkErr 0x0401 .jobFatal srcSync x.queue.toNat [x.srcWord, x.tseq.toNat]] ∧
        { t with kuf := s.kuf, evr := s.evr } = s)) ∧
    (∀ i n x e, s.kuf.remote[i]? = some (n, x) → firstOfChannel s i x → x.ok = true →
      (s.unit (dieOfQueue x.queue)).inbound.find? (fun e => e.node = x.src && e.channel = x.channel) = some e →
      (∀ y ∈ (s.unit (dieOfQueue x.queue)).inbound, y.slot = e.slot → y = e) →
      ∃ t, exec (.remoteTokenArrival i) s = .next t ∧ t.kuf.remote = s.kuf.remote.eraseIdx i ∧ OnlyUnit s t (dieOfQueue x.queue) ∧
        t.plots = s.plots ∧ t.job = s.job ∧ t.kuf.ports = s.kuf.ports ∧
        (x.tseq = e.next → ∀ v, v = { s.unit (dieOfQueue x.queue) with
            inbound := (s.unit (dieOfQueue x.queue)).inbound.map fun (y : Inbound) => if y.slot = e.slot then { y with next := y.next + 1 } else y } →
          (x.bytes = 0 → v.tally = [] → t.unit (dieOfQueue x.queue) = { v with inbox := v.inbox ++ [x] }) ∧
          (∀ y, v.tally = [y] → y.is x.src x.channel x.tseq = true → y.tok = none →
            (y.tally = x.bytes.toNat → t.unit (dieOfQueue x.queue) = { v with inbox := v.inbox ++ [x], tally := [] }) ∧
            (y.tally < x.bytes.toNat → t.unit (dieOfQueue x.queue) = { v with tally := [{ y with tok := some x, age := 0 }] }))) ∧
        (0 < (x.tseq - e.next).toNat ∧ (x.tseq - e.next).toNat < 32768 → t.sync = s.sync ∧ Reports s t (halfOfDie (dieOfQueue x.queue))
          [s.mkErr 0x0401 .jobFatal srcSync (objDie (dieOfQueue x.queue).val + keyWord x.src x.channel * 2 ^ 32)
            [e.next.toNat, x.tseq.toNat]]) ∧
        (32768 ≤ (x.tseq - e.next).toNat → (t.unit (dieOfQueue x.queue)).dupcnt = satAdd (s.unit (dieOfQueue x.queue)).dupcnt 1 ∧
          (t.unit (dieOfQueue x.queue)).inbox = (s.unit (dieOfQueue x.queue)).inbox ∧ Reports s t (halfOfDie (dieOfQueue x.queue))
          [s.mkErr 0x0402 .notice srcSync (objDie (dieOfQueue x.queue).val + keyWord x.src x.channel * 2 ^ 32)
            [e.next.toNat, x.tseq.toNat]])) ∧
    (∀ a r, s.kuf.adds = a :: r → ∃ t, exec .announcedWriteAck s = .next t ∧ t.kuf = { s.kuf with adds := r } ∧
      OnlyUnit s t a.die ∧ t.plots = s.plots ∧ t.mem = s.mem ∧ t.job = s.job ∧
      (∀ y, (s.unit a.die).tally = [y] → y.is a.node a.channel a.tseq = true → y.tok = none →
        t.unit a.die = { s.unit a.die with tally := [{ y with tally := y.tally + a.bytes }] } ∧ t.evr = s.evr) ∧
      ((s.unit a.die).tally = [] → (∀ e ∈ (s.unit a.die).inbound, ¬(e.node = a.node ∧ e.channel = a.channel)) →
        ∃ n, n < 1024 ∧ t.unit a.die = { s.unit a.die with tally :=
          [{ slot := n, node := a.node, channel := a.channel, tseq := a.tseq, tally := a.bytes, tok := none, age := 0 }] } ∧
          t.evr = s.evr))

/-- SYNC_CYCLE with `n` cycles since the last one. While a dump is written the units stand and only the module's timers go on.
Else, with one token in the inbox of one unit and nothing else to do: the token enters its queue, or is discarded with a
job-fatal error 0x0401 where the queue holds 64; a plot's watch on that queue is released when the queue holds at least N:
CONSUME tokens leave it, the oldest payload and the outcome stand in PLT_WAITPAY and PLT_WAITINFO, and the slot is free; a watch
that is not met stays, with its timer moved on (R208, R213, R216, R217, R225, R228, R235). -/
def Obligations.SyncCycleEntersTokensAndReleasesWatches : Prop :=
  ∀ (s : State) (n : Nat),
    (s.smod.writing = true → ∃ t, exec (.syncCycle n) s = .next t ∧ t.smod = { s.smod with cycles := s.smod.cycles + n } ∧
      t.sync = s.sync ∧ t.plots = s.plots ∧ t.mem = s.mem ∧ t.evr = s.evr ∧ t.kuf = s.kuf) ∧
    (∀ (d : DieIx) (x : TokenRec) (l : List Watch), s.smod.writing = false → s.job.halt = .none →
      (∀ k, (s.trace k).en = false ∧ (s.trace k).spill = false) → Still { s.unit d with inbox := [] } → (s.unit d).inbox = [x] →
      (s.unit d).watches = l → (∀ e, e ≠ d → Still (s.unit e) ∧ (s.unit e).watches = []) →
      ∀ q k, k = inDie x.queue → q = (s.unit d).queues.get k →
      (l = [] ∨ ∃ w, l = [w] ∧ w.kind = .wait ∧ w.object.toNat = k.val ∧ q.length < 64 ∧ w.elapsed + n < (w.timeout + 2) * 1000) →
      ∃ t, exec (.syncCycle n) s = .next t ∧ t.smod.cycles = s.smod.cycles + n ∧ OnlyUnit s t d ∧ t.kuf = s.kuf ∧ t.mem = s.mem ∧
        (t.unit d).inbox = [] ∧ (∀ j, j ≠ k → (t.unit d).queues.get j = (s.unit d).queues.get j) ∧
        (l = [] → t.plots = s.plots ∧ (q.length < 64 → (t.unit d).queues.get k = q ++ [x.payload] ∧ t.evr = s.evr) ∧
          (64 ≤ q.length → (t.unit d).queues.get k = q ∧ Reports s t (halfOfDie d)
            [s.mkErr 0x0401 .jobFatal srcSync (queueNumber d k.val) [x.srcWord, x.tseq.toNat]])) ∧
        (∀ w, l = [w] →
          (w.n ≤ q.length + 1 → (t.unit d).queues.get k = (q ++ [x.payload]).drop w.consume ∧ (t.unit d).watches = [] ∧
            (t.plot w.plot).waitpay = (q ++ [x.payload]).headD 0 ∧
            (t.plot w.plot).waitinfo = w32 (1 * 2 ^ 30 + (q.length + 1) * 2 ^ 23 + queueNumber d k.val) ∧
            ((s.plot w.plot).seq.busy = .watching → (t.plot w.plot).seq.busy = .ready) ∧ ∀ p, p ≠ w.plot → t.plot p = s.plot p) ∧
          (q.length + 1 < w.n → (t.unit d).queues.get k = q ++ [x.payload] ∧
            (t.unit d).watches = [{ w with elapsed := w.elapsed + n }] ∧ t.plots = s.plots)))

/-- WATCH_EXPIRY of a plot's WAIT that has waited T, and EARLY_TOKEN_EXPIRY of a token held for DEFAULTUS, act by SYN_TOCFG's
ACTION. Under 1 a watch is freed with a job-fatal error 0x0403, its plot stops with REASON 3 and PLT_WAITINFO shows the
timeout; under 2 the units are dumped, unless a dump is held, a notice is raised and the timer starts again; under 3 the units
are dumped and the error follows the dump. DUMP_WRITTEN puts the dump's bytes at SYN_DUMPBASE, ends WRITING, raises the dump's
notice, and then the error that is owed (R224-R228). -/
def Obligations.ExpiriesDumpAndReport : Prop :=
  ∀ s : State,
    (∀ (d : DieIx) (w : Watch), s.smod.writing = false → (s.unit d).watches = [w] → w.kind = .wait → w.timeout * 1000 ≤ w.elapsed →
      ∃ t, exec (.watchExpiry d w.slot) s = .next t ∧ OnlyUnit s t d ∧ t.mem = s.mem ∧ t.kuf = s.kuf ∧
        (s.smod.action = 1 → (t.unit d).watches = [] ∧ Reports s t (halfOfDie d) [s.watchReport d w .jobFatal] ∧ t.smod = s.smod ∧
          (t.plot w.plot).waitinfo = w32 (2 * 2 ^ 30 + w.objNum d) ∧
          (t.plot w.plot).seq.stopping = some ((s.plot w.plot).seq.stopping.getD 3) ∧ ∀ p, p ≠ w.plot → t.plot p = s.plot p) ∧
        (s.smod.action = 2 → (t.unit d).watches = [{ w with elapsed := 0 }] ∧ t.plots = s.plots ∧
          (s.smod.held = true → t.smod = { s.smod with suppressed := satAdd s.smod.suppressed 1 } ∧
            Reports s t (halfOfDie d) [s.watchReport d w .notice]) ∧
          (s.smod.held = false → s.rangeGuarded s.smod.dumpbase.toNat dumpSize = true → t.smod.held = true ∧ t.smod.writing = true ∧
            t.smod.frozen = some ⟨s.sync, s.job.row, s.kuf.node, 1, BitVec.ofNat 15 (w.objNum d), some w.plot⟩)) ∧
        (s.smod.action = 3 → s.smod.held = false → s.rangeGuarded s.smod.dumpbase.toNat dumpSize = true → t.sync = s.sync ∧
          t.plots = s.plots ∧ t.evr = s.evr ∧ t.smod.writing = true ∧ t.smod.errAfter = some (.watch d w.slot))) ∧
    (∀ (d : DieIx) (e : Tally) (x : TokenRec), s.smod.writing = false → (s.unit d).tally = [e] → e.tok = some x →
      s.smod.defaultus.toNat * 1000 ≤ e.age →
      ∃ t, exec (.earlyTokenExpiry d e.slot) s = .next t ∧ OnlyUnit s t d ∧ t.plots = s.plots ∧ t.mem = s.mem ∧ t.kuf = s.kuf ∧
        (s.smod.action = 1 → (t.unit d).tally = [{ e with age := 0 }] ∧ Reports s t (halfOfDie d) [s.earlyExpiryReport e x .jobFatal]) ∧
        (s.smod.action = 3 → s.smod.held = false → s.rangeGuarded s.smod.dumpbase.toNat dumpSize = true →
          (t.unit d).tally = [{ e with age := 0 }] ∧ t.evr = s.evr ∧ t.smod.errAfter = some (.early d e.slot))) ∧
    (∀ f, s.smod.frozen = some f → Memory.wf s.mem.cells = true → s.smod.errAfter = none →
      ∃ t, exec .dumpWritten s = .next t ∧ t.smod = { s.smod with writing := false, frozen := none } ∧
        Holds s t s.smod.dumpbase.toNat f.bytes.length (fun i => f.bytes.getD i 0) ∧
        Reports s t s.lead [s.mkErr 0x0901 .notice srcService 0 [0x03]] ∧ t.plots = s.plots ∧ t.sync = s.sync ∧ t.kuf = s.kuf) ∧
    (∀ (d : DieIx) (w : Watch) f, s.smod.frozen = some f → s.smod.errAfter = some (.watch d w.slot) → (s.unit d).watches = [w] →
      w.kind = .wait → ∃ t, exec .dumpWritten s = .next t ∧ t.smod.writing = false ∧ (t.unit d).watches = [] ∧
        (t.plot w.plot).seq.stopping = some ((s.plot w.plot).seq.stopping.getD 3))

/-- ROW_COMPLETION: once every active plot stands at ENDROW, and the allocation and a due copy are done, the row is complete and
the round begins with the up tokens that have come. STEP_UP: a node other than the root sends one up token to its parent, with
the row and HALTREQ. ADVANCE: the round ends with a halt at the boundary, which serves the requests, or with the next row in
the body of every active plot, or after ROWLAST with the epilogues; a stopped plot begins its part when it resumes
(R271-R274, R278, R280). -/
def Obligations.TheStepRoundAdvancesOrHalts : Prop :=
  ∀ s : State, s.stepRuns = true →
    (s.job.complete = false → s.plotsDone = true → s.allocated = true → s.copyDone = true → s.job.active ≠ s.job.ended →
      ∃ t, exec .rowCompletion s = .next t ∧ t.job.complete = true ∧ t.job.waitAge = 0 ∧ t.job.stepAge = 0 ∧ t.job.upSent = false ∧
        t.job.row = s.job.row ∧ (∀ c, c ∈ t.job.ups ↔ c ∈ s.children ∧ s.hasUp c = true) ∧ t.job.slowNow = s.job.waitslow ∧
        t.job.tousNow = s.job.steptous ∧ { t with job := s.job } = s) ∧
    (∀ par, treeParent s.kuf.node = some par → s.job.complete = true → s.job.upSent = false → s.badUp = none →
      (∀ c ∈ s.children, s.hasUp c = true) → ∃ t, ∃ u : State, exec .stepUp s = .next t ∧ t = u.sendStep par 0 t.job.haltreq ∧
        u.kuf = s.kuf ∧ u.evr = s.evr ∧ t.plots = s.plots ∧ t.mem = s.mem ∧ t.job.upSent = true ∧ t.job.complete = true ∧
        t.job.row = s.job.row ∧ (t.job.haltreq = true ↔ s.requested = true ∨ ∃ c ∈ s.children, ∃ x,
          (s.stepTokens 0).find? (fun t => t.src = c) = some x ∧ bit x.payload 31 = true)) ∧
    (roundEnds s true → ∃ t, exec .advance s = .next t ∧ t.job.state = .halted ∧ t.job.halt = .boundary ∧ t.job.row = s.job.row ∧
      t.job.haltnext = false ∧ t.rcv.checkpoint = false ∧ t.plots = s.plots ∧ t.mem = s.mem ∧
      (t.job.haltat = true ↔ s.job.haltat = true ∧ s.job.row.toNat < s.job.haltrow.toNat)) ∧
    (∀ h last part, roundEnds s false → s.job.hdr = some h → last = decide (s.job.row = h.rowlast) →
      part = (if last then SeqState.epilogue else SeqState.body) → ∃ t, exec .advance s = .next t ∧ t.job.state = .running ∧
        t.job.row = (if last then s.job.row else s.job.row + 1) ∧ t.job.complete = false ∧ t.job.upSent = false ∧
        t.fb.allocDone = false ∧ t.rcv.copied = false ∧ (∀ p, (t.plot p).store = (s.plot p).store ∧ (t.plot p).movers = (s.plot p).movers) ∧
        (∀ p ∈ s.job.active, (t.plot p).seq.state = (if (s.plot p).seq.state = .stopped then .stopped else part) ∧
          (t.plot p).seq.part = part ∧ (t.plot p).seq.row = t.job.row ∧ (t.plot p).seq.rowDone = false ∧
          (t.plot p).seq.busy = .ready ∧ (t.plot p).seq.pc = w32 ((s.plot p).seq.start part)) ∧
        (∀ p, p ∉ s.job.active → (t.plot p).seq.state = (s.plot p).seq.state ∧ (t.plot p).seq.row = (s.plot p).seq.row))

/-- HALT_TOKEN consumes the oldest token of queue Q + 2: it halts a running module now, where every active plot that is in a
part stops with REASON 2; with bit 31 it raises the job-fatal error 0x0504 that names the source and its row count; and outside
a plan it does nothing more. JOB_ABORT: a recorded job-fatal error stops the active plots with REASON 3 and fails the plan, and
its requests for halts end. STEP_TIMEOUT: once the wait has lasted STEPTOUS, ACTION 1 raises the job-fatal error 0x0403, ACTION
2 a notice, and ACTION 3 dumps the units and owes the error; the timer starts again. No stop map is asked for here
(R226, R283, R284, R286-R288). -/
def Obligations.HaltsAbortsAndStepTimeouts : Prop :=
  ∀ s : State, s.evr.fallow = false → s.dbg.stopmapEn = false → s.dbg.mapDue = none →
    (∀ x r, s.stepTokens 2 = x :: r → s.job.state ≠ .checking → ∃ t, exec .haltToken s = .next t ∧ t.mem = s.mem ∧
      (∀ p, (t.plot p).store = (s.plot p).store) ∧ t.job.row = s.job.row ∧
      (s.job.state = .running → bit x.payload 31 = false → t.job.state = .halted ∧ t.job.halt = .now ∧
        (∀ p ∈ s.job.active, inPart (s.plot p).seq → (t.plot p).seq.stopping = some ((s.plot p).seq.stopping.getD 2)) ∧
        ∀ p, p ∉ s.job.active → t.plot p = s.plot p) ∧
      (s.job.state = .running ∨ s.job.state = .halted → bit x.payload 31 = true → t.plots = s.plots ∧ t.job.state = s.job.state ∧
        Reports s t s.lead [{ s.mkErr 0x0504 .jobFatal srcEngine (x.src.toNat + bits x.payload 30 0 * 2 ^ 32) [] with need := 4 }]) ∧
      (s.planIdle = true → t.plots = s.plots ∧ t.evr = s.evr ∧ t.job.state = s.job.state)) ∧
    (∀ origin, s.job.abortDue = some origin → s.running = true → ∃ t, exec .jobAbort s = .next t ∧ t.job.state = .failed ∧
      t.job.halt = .aborted ∧ t.job.abortDue = none ∧ t.job.haltat = false ∧ t.job.haltnext = false ∧ t.job.row = s.job.row ∧
      t.rcv.copy = none ∧ t.mem = s.mem ∧ (∀ p, (t.plot p).store = (s.plot p).store) ∧
      (∀ p ∈ s.job.active, inPart (s.plot p).seq → (t.plot p).seq.stopping = some ((s.plot p).seq.stopping.getD 3)) ∧
      ∀ p, p ∉ s.job.active → t.plot p = s.plot p) ∧
    (s.stepRuns = true → s.job.complete = true → s.job.tousNow.toNat * 1000 ≤ s.job.stepAge → s.smod.writing = false →
      ∃ t, exec .stepTimeout s = .next t ∧ t.plots = s.plots ∧ t.mem = s.mem ∧ t.kuf = s.kuf ∧ t.sync = s.sync ∧
        (s.smod.action = 1 → t.job = { s.job with stepAge := 0 } ∧ Reports s t s.lead [s.stepReport .jobFatal] ∧ t.smod = s.smod) ∧
        (s.smod.action = 2 → t.job = { s.job with stepAge := 0 } ∧ (s.smod.held = true → Reports s t s.lead [s.stepReport .notice])) ∧
        (s.smod.action = 3 → s.smod.held = false → s.rangeGuarded s.smod.dumpbase.toNat dumpSize = true →
          t.evr = s.evr ∧ t.smod.writing = true ∧ t.smod.errAfter = some .step))

/-- The buddy engine consumes the oldest token of its queue. FEEDQUERY (type 1) is answered with a FEEDREPLY that holds the
module's own feed, to the node that the token names; a token of no known type is discarded with a notice. FEEDREPLY (type 2)
settles the feed check that waits, on the feed in its bits 27 to 24; and so does the end of DEFAULTUS without a reply. A
RETURNDONE (type 3) that no restart waits for is discarded with a notice; one that a restart waits for is verified, and where
it fails a check the restart ends with the job-fatal error 0x0602 (R310, R314, R315, R319). -/
def Obligations.FeedChecksAndReturnsSettle : Prop :=
  ∀ s : State, s.evr.fallow = false →
    (∀ x r, s.rcv.tokens = x :: r →
      (bits x.payload 31 28 = 1 → ∀ node, node = BitVec.ofNat 12 (bits x.payload 11 0) → (s.routeOf node).isSome = true →
        ∃ t, ∃ u : State, exec .feedquery s = .next t ∧ Consumed s u x ∧ u.kuf = s.kuf ∧ u.pins = s.pins ∧
          t = u.sendToken node ((((s.rcv.feedWait.map (·.pairing)) <|> s.rcv.pairing).getD (Pairing.ofBytes s.listBytes))).channel
            ((((s.rcv.feedWait.map (·.pairing)) <|> s.rcv.pairing).getD (Pairing.ofBytes s.listBytes))).bqueue
            (w32 (2 * 2 ^ 28 + s.pins.feedid.toNat * 2 ^ 24 + s.kuf.node.toNat)) ∧
          t.plots = s.plots ∧ t.mem = s.mem ∧ t.rcv = { s.rcv with tokens := t.rcv.tokens } ∧ t.job.row = s.job.row) ∧
      (3 < bits x.payload 31 28 ∨ bits x.payload 31 28 = 0 → ∃ t, exec .feedquery s = .next t ∧ Consumed s t x ∧
        t.rcv = { s.rcv with tokens := t.rcv.tokens } ∧ t.plots = s.plots ∧ t.mem = s.mem ∧ t.kuf = s.kuf ∧
        Reports s t s.lead [s.mkErr 0x0901 .notice srcEngine x.src.toNat [0x0C]]) ∧
      (bits x.payload 31 28 = 2 → ∀ f, s.rcv.feedWait = some f → f.bySet = true ∨ f.restore = true →
        ∃ t, exec .feedreply s = .next t ∧ Consumed s t x ∧ Settled s t f (some (BitVec.ofNat 4 (bits x.payload 27 24)))) ∧
      (bits x.payload 31 28 = 3 → s.rcv.waitReturn = none → ∃ t, exec .returndone s = .next t ∧ Consumed s t x ∧
        t.rcv = { s.rcv with tokens := t.rcv.tokens } ∧ t.plots = s.plots ∧ t.mem = s.mem ∧ t.kuf = s.kuf ∧
        Reports s t s.lead [s.mkErr 0x0901 .notice srcEngine 0 [0x0C]]) ∧
      (bits x.payload 31 28 = 3 → ∀ row p k, s.rcv.waitReturn = some row → s.rcv.pairing = some p → s.mem.bad = [] →
        s.returnBad (s.memBytes (s.rcv.buddylist.toNat + 0x80) 128) row (some (digest384 (stateBytes s p.extents))) = some k →
        ∃ t, exec .returndone s = .next t ∧ Consumed s t x ∧ t.rcv = { s.rcv with tokens := t.rcv.tokens, verify := 2, waitReturn := none } ∧
          t.mem.cells = s.mem.cells ∧ t.kuf = s.kuf ∧ t.job.state = s.job.state ∧ OnlyCounted s t ∧
          Reports s t s.lead [s.mkErr 0x0602 .jobFatal srcService (s.kuf.node.toNat + bits x.payload 11 0 * 2 ^ 32) [k]])) ∧
    (∀ f, s.rcv.feedWait = some f → f.bySet = true ∨ f.restore = true → s.smod.defaultus.toNat * 1000 ≤ s.rcv.feedAge →
      ∃ t, exec .feedCheckTimeout s = .next t ∧ t.sync = s.sync ∧ t.rcv.tokens = s.rcv.tokens ∧ Settled s t f none)

/-- BUDDY_COPY, once its row is done and the copy is due: the copy records the digest of the state; under host checkpoints the
row then makes a halt request, and with a holder the extent entries and the state go to the holder's slot, as data writes of
the pairing's channel. BUDDY_COPY_HEADER sends the copy's header once every write is acknowledged, and once that is
acknowledged too the slot holds the row. RETURN_PROGRESS sends the held copy to the target; the return ends well once all of
it is acknowledged, and badly where the target has no route (R312, R316-R318). -/
def Obligations.CopiesAndReturnsGoOut : Prop :=
  ∀ s : State, s.evr.fallow = false → s.mem.bad = [] →
    (∀ h p, s.job.hdr = some h → s.rcv.pairing = some p → s.copyReady h = true →
      (s.rcv.mode = 3 → ∃ t, exec .buddyCopy s = .next t ∧ t.rcv = { s.rcv with
        checkpoint := true, copied := true, statedig := digest384 (stateBytes s p.extents), copyrow := some s.job.row } ∧ t.mem.cells = s.mem.cells ∧ OnlyCounted s t ∧
        t.evr = s.evr ∧ t.job = s.job ∧ t.kuf = s.kuf) ∧
      (s.rcv.mode = 1 → ∃ t, ∃ u : State, exec .buddyCopy s = .next t ∧ u.kuf = s.kuf ∧
        t = (u.sendBlock p.holder p.channel none (p.dst + s.copySlot h * p.slotbytes + 0x100) ((s.listBytes).drop 0x100)).sendBlock
          p.holder p.channel none (p.dst + s.copySlot h * p.slotbytes + 0x4100) (stateBytes s p.extents) ∧
        t.rcv = { s.rcv with copy := some {
          row := s.job.row, slot := s.copySlot h, digest := digest384 (stateBytes s p.extents),
          bytes := (stateBytes s p.extents).length, hdrSent := false } } ∧ t.mem.cells = s.mem.cells ∧ OnlyCounted s t ∧ t.job = s.job)) ∧
    (∀ c h p, s.rcv.copy = some c → s.job.hdr = some h → s.rcv.pairing = some p → s.pairQuiet p.holder p.channel = true →
      (c.hdrSent = false → ∃ t, ∃ u : State, exec .buddyCopyHeader s = .next t ∧ u.kuf = s.kuf ∧
        t = u.sendBlock p.holder p.channel none (p.dst + c.slot * p.slotbytes) (s.copyHeader c h p.extents.length) ∧
        t.rcv = { s.rcv with copy := some { c with hdrSent := true } } ∧ t.mem = s.mem ∧ t.plots = s.plots ∧ t.job = s.job) ∧
      (c.hdrSent = true → ∃ t, exec .buddyCopyHeader s = .next t ∧ t.rcv.copy = none ∧ t.rcv.copied = true ∧
        t.rcv.copyrow = some c.row ∧ t.rcv.statedig = c.digest ∧ t.rcv.slots.get (Fin.ofNat 2 c.slot) = some c.row ∧
        { t with rcv := s.rcv } = s)) ∧
    (∀ r, s.rcv.ret = some r →
      ((s.routeOf r.target).isNone = true → ∃ t, exec .returnProgress s = .next t ∧ t = { s with rcv := { s.rcv with ret := none, result := 2 } }) ∧
      ((s.routeOf r.target).isSome = true → r.sent = true → s.pairQuiet r.target r.channel = true →
        ∃ t, exec .returnProgress s = .next t ∧ t = { s with rcv := { s.rcv with ret := none, result := 1 } }) ∧
      ((s.routeOf r.target).isSome = true → r.sent = false → ∃ t, exec .returnProgress s = .next t ∧
        t.rcv = { s.rcv with ret := some { r with sent := true } } ∧ t.mem.cells = s.mem.cells ∧ OnlyCounted s t ∧ t.job.row = s.job.row ∧
        t.sync = s.sync ∧ t.fb = s.fb ∧ t.pwr = s.pwr ∧
        ∃ u v : State, ∃ n, t.kuf = v.kuf ∧ v = (u.sendTokenSeq r.target r.channel
          ((s.rcv.pairing).getD (Pairing.ofBytes s.listBytes)).bqueue (w32 (3 * 2 ^ 28 + s.kuf.node.toNat))
          (128 + long48 (s.memBytes r.slotAddr 128) 0x10) n).2))

/-- ERROR_RECORD takes up the oldest error registered with a half. With nothing in handling and nothing pending it is recorded
and handled. While another is in handling, an error of the same class counts as a repeat of that one's record, one of a higher
severity preempts it, and any other joins the pending list, or is counted in NESTOVF where 16 wait. PENDING_ERROR handles the
oldest pending error once handling has ended. The error is one whose path asks for no halt now, so its NEED is 0 where it is
recoverable. MODULE_FATAL then brings the fallow state: every plot's passes, streams and transfers are lost, and the fallow
flush begins (R307, R358, R360, R361, R363, R367, R371). -/
def Obligations.ErrorsAreRecordedAndHandled : Prop :=
  ∀ s : State, Recording s →
    (∀ h e r, (s.half h).registered = e :: r → (e.sev = .recoverable → e.need = 0) →
      ((s.half h).handling = none → (s.half h).pending = [] → makesRecord (s.half h) e →
        ∃ t, exec (.errorRecord h) s = .next t ∧ Handled s t h { s.half h with registered := r } e) ∧
      (∀ cur, (s.half h).handling = some cur →
        (∀ n, cur.code = e.code → cur.rseq = some n → ∃ t, exec (.errorRecord h) s = .next t ∧
          t.half h = { s.half h with registered := r, ring := (s.half h).ring.map fun x =>
            if x.rseq = n then { x with repeats := satAdd x.repeats 1, last := s.job.row } else x } ∧
          (∀ g, g ≠ h → t.half g = s.half g) ∧ { t with evr := s.evr } = s) ∧
        (∀ n, cur.code ≠ e.code → cur.sev.code < e.sev.code → cur.rseq = some n →
          makesRecord ({ s.half h with registered := r }.modRec n fun x => { x with preempted := true }) e →
          ∃ t, exec (.errorRecord h) s = .next t ∧
            Handled s t h ({ s.half h with registered := r }.modRec n fun x => { x with preempted := true }) e) ∧
        (cur.code ≠ e.code → e.sev.code ≤ cur.sev.code → ∃ t, exec (.errorRecord h) s = .next t ∧
          (t.half h = if (s.half h).pending.length < 16 then { s.half h with registered := r, pending := (s.half h).pending ++ [e] }
            else { s.half h with registered := r }) ∧
          (t.evr.nestovf = if (s.half h).pending.length < 16 then s.evr.nestovf else satAdd s.evr.nestovf 1) ∧
          (∀ g, g ≠ h → t.half g = s.half g) ∧ { t with evr := s.evr } = s))) ∧
    (∀ h e r, (s.half h).handling = none → (s.half h).pending = e :: r → (e.sev = .recoverable → e.need = 0) →
      makesRecord (s.half h) e → ∃ t, exec (.pendingError h) s = .next t ∧ Handled s t h { s.half h with pending := r } e) ∧
    (∀ code, s.evr.fatalDue = some code → s.evr.halfA.pending = [] → s.evr.halfB.pending = [] →
      ∃ t, exec .moduleFatal s = .next t ∧ t.evr.fallow = true ∧ t.evr.fatalDue = none ∧ t.evr.follow = none ∧
        t.evr.flushing = some { trigger := .fallow, tsev := .moduleFatal, tcode := code, bufA := s.evr.halfA, bufB := s.evr.halfB,
                                row := s.job.row, lost := s.evr.lost } ∧
        t.sbd.state = .fallow ∧ t.job = { s.job with abortDue := none } ∧ t.mem = s.mem ∧ t.evr.blackbox = s.evr.blackbox ∧
        ∀ p, (t.plot p).passes = [] ∧ (t.plot p).stream = none ∧ (∀ m, (t.plot p).movers.get m = []) ∧
          (t.plot p).store = (s.plot p).store ∧ (t.plot p).seq = (s.plot p).seq)

/-- FLUSH_DONE writes the images of both halves, the slot's header and the superblock of the next sequence number, and no other
byte of the black box; an error whose flush that was leaves handling, and a further flush that is due begins. FLUSH_PATH_ERROR
brings the fallow state without a flush and with FLUSHFAIL, and records the class 0x0801. BLACK_BOX_ERASE_STEP clears the
headers, then writes the superblock, then zeroes the slots (R362, R371, R373, R377). -/
def Obligations.FlushesReachTheBlackBox : Prop :=
  ∀ s : State,
    (∀ f k head super, s.evr.flushing = some f → s.evr.staged = [] → s.evr.erase = none → k = slotOffset (s.evr.nextseq.toNat % 7) →
      head = s.slotHeader f s.evr.nextseq → super = superBytes (s.evr.nextseq + 1)
        (if f.trigger = .fallow then fallowEntry false f.tcode f.row else superEntry s.evr.blackbox) →
      ∃ t, exec .flushDone s = .next t ∧ t.evr.nextseq = s.evr.nextseq + 1 ∧ t.evr.staged = [] ∧ t.evr.erase = none ∧
        (∀ b, cellGet 0 t.evr.blackbox b = if s.evr.nextseq.toNat % 2 * 0x8000 ≤ b ∧ b < s.evr.nextseq.toNat % 2 * 0x8000 + super.length
            then super.getD (b - s.evr.nextseq.toNat % 2 * 0x8000) 0
          else if k ≤ b ∧ b < k + head.length then head.getD (b - k) 0
          else if k + 0x1000 ≤ b ∧ b < k + 0x1000 + (f.bufA.image ++ f.bufB.image).length
            then (f.bufA.image ++ f.bufB.image).getD (b - (k + 0x1000)) 0
          else cellGet 0 s.evr.blackbox b) ∧
        (s.evr.follow = none → t.evr.flushing = none ∧ t.evr.halfA = s.evr.halfA.flushed ∧ t.evr.halfB = s.evr.halfB.flushed) ∧
        (∀ g sev code, s.evr.follow = some (g, sev, code) → t.evr.follow = none ∧
          (t.evr.flushing.map fun x => (x.trigger, x.tsev, x.tcode, x.row)) = some (g, sev, code, s.job.row)) ∧
        t.plots = s.plots ∧ t.mem = s.mem ∧ t.job = s.job ∧ t.rcv = s.rcv ∧ t.sync = s.sync) ∧
    (∀ f, s.evr.flushing = some f → s.evr.staged = [] → s.evr.fallow = false → s.evr.halfA.pending = [] → s.evr.halfB.pending = [] →
      makesRecord (s.half s.lead) (s.mkErr 0x0801 .moduleFatal srcService 0 []) →
      ∃ t, exec .flushPathError s = .next t ∧ t.evr.fallow = true ∧ t.evr.flushing = none ∧ t.evr.flushfail = true ∧
        t.evr.erase = none ∧ t.evr.follow = none ∧ t.sbd.state = .fallow ∧ t.job = { s.job with abortDue := none } ∧ t.evr.nextseq = s.evr.nextseq ∧
        t.half s.lead = { s.half s.lead with
          ring := (s.half s.lead).ring ++ [recordOf (s.half s.lead) (s.mkErr 0x0801 .moduleFatal srcService 0 [])]
          rseq := (s.half s.lead).rseq + 1
          handling := some { code := 0x0801, sev := .moduleFatal, rseq := some (s.half s.lead).rseq, follow := false } } ∧
        (∀ g, g ≠ s.lead → t.half g = s.half g) ∧ ∀ p, (t.plot p).passes = [] ∧ (t.plot p).stream = none ∧
          (t.plot p).store = (s.plot p).store ∧ (t.plot p).seq = (s.plot p).seq) ∧
    (s.evr.erase = some .headers → ∃ t, exec .blackBoxEraseStep s = .next t ∧ t.evr.erase = some .superblock ∧
      (∀ b, cellGet 0 t.evr.blackbox b = if b < 0x10000 ∨ ∃ k ∈ List.range 7, slotOffset k ≤ b ∧ b < slotOffset k + 0x1000 then 0
        else cellGet 0 s.evr.blackbox b) ∧ { t with evr := s.evr } = s) ∧
    (s.evr.erase = some .superblock → s.evr.fallow = false → ∃ t, exec .blackBoxEraseStep s = .next t ∧
      t.evr.erase = some .slots ∧ t.evr.nextseq = 0 ∧ (∀ b, cellGet 0 t.evr.blackbox b =
        if b < (superBytes 0 [0, 0, 0]).length then (superBytes 0 [0, 0, 0]).getD b 0 else cellGet 0 s.evr.blackbox b) ∧
      { t with evr := s.evr } = s) ∧
    (s.evr.erase = some .slots → s.evr.follow = none → ∃ t, exec .blackBoxEraseStep s = .next t ∧ t.evr.erase = none ∧
      (∀ b, cellGet 0 t.evr.blackbox b = if ∃ k ∈ List.range 7, slotOffset k + 0x1000 ≤ b ∧ b < slotOffset k + 0x81000 then 0
        else cellGet 0 s.evr.blackbox b) ∧ { t with evr := s.evr } = s)

/-- POWER_CONTROL_PERIOD at ready: the input power's averages over the last 1 ms and 1 s and the highest 1 ms average; the thermal
level of each strip that is read; the package levels; L in its range; and each strip's decided code and duty from the lowest of
its limits. FREQUENCY_CHANGE_START begins the decided change, which stops the strip at once unless the rail must rise first;
RAIL_SLEW_DONE gives the rail V(F) of its die's highest code and stops the strips that waited for it; STRIP_RESTART puts the new
code in force; SUPPLY_DROOP changes nothing but counts (R325, R331-R335, R337, R338, R352). How L follows the limits of R335 and
R336 is open (log entry 1).
CORE_RAIL_LOW and THERMAL_TRIP are module-fatal: the trip stops every strip, abandons their changes, drives THERM_TRIP_N low and
names the strip and its temperature. ENVELOPE_READING: sixteen valid samples within 25 W of one another are the new budget and
clear ENVFAIL; an invalid sample leaves the last one. ENVELOPE_INVALID_TIMEOUT: ENVDEF is the budget, with ENVFAIL and a notice.
FEED_ID_CHANGE keeps the value, with a notice when a pairing is in force. SOWING_SLOT lets the strip's sequencers begin (R325,
R336, R339, R341, R345, R454, R455). -/
def Obligations.PowerIsControlledAndItsEventsFollowed : Prop :=
  (∀ s : State, s.evr.fallow = false → s.pwr.railsOn = true →
     (∀ r w hist, s.sbd.state = .ready → (∀ x ∈ r.strips, x.1 < 80) → (r.strips.map (·.1)).Nodup → w = s.sbd.calib.sensor r.inputW →
       hist = (w :: s.pwr.history).take 100000 →
       ∃ t, exec (.powerControlPeriod r) s = .next t ∧ t.pwr.history = hist ∧ t.pwr.sust = BitVec.ofNat 16 (hist.sum / hist.length) ∧
         t.pwr.win = BitVec.ofNat 16 ((hist.take 100).sum / (hist.take 100).length) ∧
         t.pwr.maxwin = (if s.pwr.maxwin < t.pwr.win then t.pwr.win else s.pwr.maxwin) ∧
         32 ≤ t.pwr.level.toNat ∧ t.pwr.level.toNat ≤ 120 ∧ 1 ≤ t.pwr.powerDuty.toNat ∧ t.pwr.powerDuty.toNat ≤ 16 ∧
         (∀ (i : StripIx) T, (i.val, T) ∈ r.strips → thermalAfter s i (T + s.sbd.calib.toff.get i) (t.strip i)) ∧
         (∀ i : StripIx, (∀ T, (i.val, T) ∉ r.strips) → (t.strip i).temp = (s.strip i).temp ∧ (t.strip i).thermal = (s.strip i).thermal) ∧
         (∀ d, (∃ T, packageOf s d T ∧ 1050 ≤ T) → 100 ≤ s.pwr.pkgAge.get d + 1 → 17 < (s.pwr.pkglevel.get d).toNat →
           t.pwr.pkglevel.get d = s.pwr.pkglevel.get d - 1) ∧
         (∀ d, (∀ k, dieOfPkg k = d → ∃ T, (s.pkg k).reading = some T ∧ T ≤ 1020) → 1000 ≤ s.pwr.pkgAge.get d + 1 →
           (s.pwr.pkglevel.get d).toNat < 120 → t.pwr.pkglevel.get d = s.pwr.pkglevel.get d + 1) ∧
         (∀ d, (∀ T, packageOf s d T → 1020 < T ∧ T < 1050) → (∃ T, packageOf s d T) → t.pwr.pkglevel.get d = s.pwr.pkglevel.get d) ∧
         (∀ i, ∃ l, (∀ y ∈ t.limits i, l ≤ y.1) ∧ (∃ y ∈ t.limits i, y.1 = l ∧ (t.strip i).limit = BitVec.ofNat 3 y.2) ∧
           (t.strip i).decided = BitVec.ofNat 7 (Nat.max l 32) ∧ (t.strip i).duty = BitVec.ofNat 5 (if l < 32 then l - 16 else 16) ∧
           (t.strip i).eff = (s.strip i).eff ∧ (t.strip i).changing = (s.strip i).changing) ∧
         OnlyCounted s t ∧ t.mem = s.mem ∧ t.sync = s.sync ∧ t.job = s.job ∧ t.kuf = s.kuf ∧ t.rcv = s.rcv ∧ t.pwr.rails = s.pwr.rails) ∧
     (∀ i, (s.strip i).decided ≠ (s.strip i).eff → (s.strip i).changing = none → 2 ≤ (s.strip i).changeAge →
       ∃ t, exec (.frequencyChangeStart i) s = .next t ∧ (t.strip i).changing = some (s.strip i).decided ∧ (t.strip i).changeAge = 0 ∧
         ((t.strip i).stopped = true ↔ (s.strip i).decided.toNat ≤ (s.strip i).eff.toNat ∨
           voltageOf (s.sbd.calib.curves.get (dieOfStrip i)) (s.strip i).decided.toNat ≤ (s.pwr.rails.get (dieOfStrip i)).toNat) ∧
         (t.strip i).eff = (s.strip i).eff ∧ OnlyStrip s t i ∧ OnlyCounted s t ∧ t.mem = s.mem ∧ t.sync = s.sync ∧ t.job = s.job ∧ t.evr = s.evr) ∧
     (∀ d f, (∀ i, dieOfStrip i = d → (s.strip i).railCode ≤ f) → (∃ i, dieOfStrip i = d ∧ (s.strip i).railCode = f) → 32 ≤ f →
       ∃ t, exec (.railSlewDone d) s = .next t ∧ t.pwr.rails.get d = BitVec.ofNat 8 (voltageOf (s.sbd.calib.curves.get d) f) ∧
         (∀ e, e ≠ d → t.pwr.rails.get e = s.pwr.rails.get e) ∧
         (∀ i, t.strip i = if dieOfStrip i = d ∧ (s.strip i).changing.isSome = true then { s.strip i with stopped := true } else s.strip i) ∧
         { t with pwr := s.pwr } = s) ∧
     (∀ i n, (s.strip i).changing = some n → (s.strip i).stopped = true → ∃ t, exec (.stripRestart i) s = .next t ∧
       t.strip i = { s.strip i with eff := n, changing := none, stopped := false } ∧ OnlyStrip s t i ∧ t.plots = s.plots ∧
       t.sync = s.sync ∧ t.job = s.job ∧ t.evr = s.evr ∧ t.kuf = s.kuf) ∧
     (∀ i n, (s.strip i).stopped = false → ∃ t, exec (.supplyDroop i n) s = .next t ∧ OnlyCounted s t ∧
       { t with plots := s.plots, evr := s.evr } = s)) ∧
  (∀ s : State, s.evr.fallow = false →
     (∀ d, ∃ t, exec (.coreRailLow d) s = .next t ∧ Reports s t (halfOfDie d) [s.mkErr 0x0701 .moduleFatal srcPower d.val []] ∧
       { t with evr := s.evr } = s) ∧
     (∀ i T, 1150 ≤ T → ∃ t, exec (.thermalTrip i T) s = .next t ∧ t.pins = { s.pins with thermTripN := false } ∧
       (∀ j, t.strip j = { s.strip j with stopped := true, changing := none, temp := if j = i then T else (s.strip j).temp }) ∧
       Reports s t (halfOfDie (dieOfStrip i)) [s.mkErr 0x0702 .moduleFatal srcPower i.val [(T % 2 ^ 16).toNat]] ∧
       { t with pins := s.pins, pwr := s.pwr, evr := s.evr } = s) ∧
     (∀ l : List Nat, l.length = 16 → (∀ x ∈ l, 600 ≤ x * 6 / 5 ∧ x * 6 / 5 ≤ 3000) → (∀ x ∈ l, ∀ y ∈ l, x * 6 / 5 ≤ y * 6 / 5 + 25) →
       exec (.envelopeReading l) s = .next { s with pwr := { s.pwr with
         env := some (BitVec.ofNat 12 ((l.map fun x => x * 6 / 5).sum / 16)), envvalid := true, envfail := false } }) ∧
     (∀ (l : List Nat) x, l.length = 16 → x ∈ l → (x * 6 / 5 < 600 ∨ 3000 < x * 6 / 5) →
       exec (.envelopeReading l) s = .next { s with pwr := { s.pwr with envvalid := false } }) ∧
     (s.pwr.envvalid = false → s.pwr.envfail = false → bit s.pwr.cfg 31 = true → ∃ t, exec .envelopeInvalidTimeout s = .next t ∧
       t.pwr = { s.pwr with envfail := true } ∧ t.pwr.budget = some (bits s.pwr.cfg 11 0) ∧
       Reports s t s.lead [s.mkErr 0x0901 .notice srcPower 0 [6]] ∧ { t with pwr := s.pwr, evr := s.evr } = s) ∧
     (∀ v, ∃ t, exec (.feedIdChange v) s = .next t ∧ t.pins = { s.pins with feedid := v, feedKept := true } ∧
       Reports s t s.lead (if s.rcv.pairing.isSome = true ∧ v ≠ s.pins.feedid then
         [s.mkErr 0x0901 .notice srcService 0 [9, s.pins.feedid.toNat * 16 + v.toNat]] else []) ∧
       { t with pins := s.pins, evr := s.evr } = s) ∧
     (∀ i, ∃ t, exec (.sowingSlot i) s = .next t ∧ (∀ p, t.plot p = if stripOfPlot p = i then
       { s.plot p with seq := { (s.plot p).seq with sowing := false } } else s.plot p) ∧ { t with plots := s.plots } = s))

/-- MODEL_DEVIATION_CHECK: over each 1 s, which is 100,000 control periods, the module compares the model's average input power
M with the sensor's average S and shows both in PWR_MODEL. Where |M - S| exceeds DEVPCT per cent of S, a notice records M, S and
the row count. Nothing else changes: no limit does (R344). -/
def Obligations.ModelDeviationIsNoted : Prop :=
  ∀ (s : State) (m w : Nat), s.evr.fallow = false → 100000 ≤ s.pwr.periods → m = s.pwr.modelSum / (s.pwr.periods * 40000000) →
    w = s.pwr.sensorSum / s.pwr.periods →
    ∃ t, exec .modelDeviationCheck s = .next t ∧
      t.pwr = { s.pwr with modelw := BitVec.ofNat 16 m, sensew := BitVec.ofNat 16 w, modelSum := 0, sensorSum := 0, periods := 0 } ∧
      (100 * (max m w - min m w) ≤ bits s.pwr.cfg 23 16 * w → t.evr = s.evr) ∧
      (bits s.pwr.cfg 23 16 * w < 100 * (max m w - min m w) → Reports s t s.lead
        [s.mkErr 0x0901 .notice srcPower (m % 2 ^ 16 * 2 ^ 16 + w % 2 ^ 16) [7]]) ∧
      (s.mkErr 0x0901 .notice srcPower (m % 2 ^ 16 * 2 ^ 16 + w % 2 ^ 16) [7]).pos.row = s.job.row ∧
      { t with pwr := s.pwr, evr := s.evr } = s

/-- PERST_ONE: PERST_A_N or PERST_B_N asserted alone resets only its own PCIe port: its link, its configuration space, its BARs and
its block are at their reset values, and only what it had received before goes on. A job that runs continues, and the other port
is unaffected: nothing else of the module changes but the pin. The rise of the pin changes nothing but the pin (R379). -/
def Obligations.OnePerstResetsOnlyItsPort : Prop :=
  ∀ (s : State) (h : HostPort) (high : Bool),
    ∃ t, exec (.perstOne h high) s = .next t ∧ t.pins = { s.pins with
        perstA := if h = .a then high else s.pins.perstA, perstB := if h = .b then high else s.pins.perstB } ∧
      (high = false → (t.pci h).speed = 0 ∧ (t.pci h).width = 0 ∧ (t.pci h).command = 0 ∧ (t.pci h).bar0 = 0 ∧ (t.pci h).bar2 = 0 ∧
        (t.pci h).d3hot = false ∧ (t.pci h).msixEnable = false ∧ (t.pci h).msixMask = false ∧ (t.pci h).wins = Vector.replicate 8 0 ∧
        (t.pci h).irqen = 0 ∧ (t.pci h).eid = 0 ∧ (t.pci h).tokens = (s.pci h).tokens ∧
        (t.pci h).stalled = (s.pci h).stalled.filterMap (HeldReq.atReset (s.pci h).wins) ∧
        t.pci h = { Pci.reset with tokens := (t.pci h).tokens, stalled := (t.pci h).stalled }) ∧
      (high = true → t.pci h = s.pci h) ∧ (∀ k, k ≠ h → t.pci k = s.pci k) ∧
      { t with pins := s.pins, pciA := s.pciA, pciB := s.pciB } = s

/-- Start-up. STARTUP_STEP_DONE ends the activity of each step: it samples the straps, checks the flash's image on both halves,
waits for the arbiter, loads NEXTSEQ and the configuration with the calibration table or its defaults, brings the strips to the
floor code with empty plot stores once THERM_TRIP_N is high, fills memory with zeros under the seedbed's layout, and ends at ready
with each strip at its decided code. STARTUP_STEP_OVERRUN is module-fatal but for the one more attempt of step 10, and steps 3 and 9
have no bound. THERM_TRIP_RELEASE comes at 100 C. HALF_ARBITRATION latches the higher SEQ, half A on a tie, and enters recovery
without a claim or on RECOVERY_N (R184, R197, R199, R332, R373, R380, R382, R389, R390, R392, R397, R456). -/
def Obligations.StartUpRunsItsSteps : Prop :=
  ∀ s : State, s.startsUp = true →
    (∀ n, s.sbd.step.toNat = n → n = 1 ∨ n = 3 ∨ n = 4 ∨ n = 10 →
      exec .startupStepDone s = .next { s with sbd := { s.sbd with step := BitVec.ofNat 4 (n + 1) } }) ∧
    (s.sbd.step = 2 → exec .startupStepDone s = .next { s with
      pins := { s.pins with recoverySampled := s.pins.recoveryN, ownerB := s.pins.halfStrap }, sbd := { s.sbd with step := 3 } }) ∧
    (s.sbd.step = 5 → ∃ t, exec .startupStepDone s = .next t ∧ t.sbd.step = 6 ∧ (∀ h, Checked s t h) ∧ { t with sbd := s.sbd } = s) ∧
    (s.sbd.step = 6 → s.sbd.latched = true → s.sbd.winner.isSome = true →
      exec .startupStepDone s = .next { s with sbd := { s.sbd with step := 7 } }) ∧
    (s.sbd.step = 7 → ∀ o, superOffset s.evr.blackbox = some o → exec .startupStepDone s = .next { s with
      evr := { s.evr with nextseq := wordAt (cellsGet 0 s.evr.blackbox (o + 8) 4) 0 }, sbd := { s.sbd with step := 8 } }) ∧
    (s.sbd.step = 8 → ∃ t, exec .startupStepDone s = .next t ∧ t.sbd.step = 9 ∧ t.plots = s.plots ∧ t.mem.cells = s.mem.cells ∧
      t.evr.blackbox = s.evr.blackbox ∧ t.sbd.flash = s.sbd.flash ∧
      (calibSound (s.sbd.flashBytes 0x1000000 0x10000) = false → t.sbd.calib = .default ∧ t.sbd.caldef = true ∧
        ∃ l, (t.half s.lead).registered = l ++ [s.mkErr 0x0901 .recoverable srcService 0 [5]])) ∧
    (s.sbd.step = 9 → s.pins.thermTripN = true → ∃ t, exec .startupStepDone s = .next t ∧ t.sbd = { s.sbd with step := 10 } ∧
      (∀ i, t.strip i = { s.strip i with eff := 32, decided := 32, changing := none, stopped := false }) ∧
      (∀ d, t.pwr.rails.get d = BitVec.ofNat 8 (voltageOf (s.sbd.calib.curves.get d) 32)) ∧
      (∀ p, t.plot p = { s.plot p with store := [] }) ∧ { t with sbd := s.sbd, pwr := s.pwr, plots := s.plots } = s) ∧
    (s.sbd.step = 11 → ∃ t, exec .startupStepDone s = .next t ∧ t.sbd = { s.sbd with step := 12 } ∧
      (∀ b, cellGet 0 t.mem.cells b = if b < 0x020000000000 then 0 else cellGet 0 s.mem.cells b) ∧
      t.mem.inForce = s.mem.regs ∧ t.mem.regs = s.mem.regs ∧ t.mem.layState = 0 ∧ { t with sbd := s.sbd, mem := s.mem } = s) ∧
    (s.sbd.step = 12 → ∃ t, exec .startupStepDone s = .next t ∧ t.sbd = { s.sbd with step := 13 } ∧
      (∀ b, cellGet 0 t.mem.cells b = if (sliceOf b).isSome = true then 0 else cellGet 0 s.mem.cells b) ∧
      (∀ k, t.kport k = if (s.kport k).enable = true then (s.kport k).fresh else s.kport k) ∧
      { t with sbd := s.sbd, mem := s.mem, kuf := s.kuf } = s) ∧
    (s.sbd.step = 13 → ∃ t, exec .startupStepDone s = .next t ∧ t.sbd = { s.sbd with state := .ready } ∧
      (∀ i, (t.strip i).eff = (t.strip i).decided ∧ 32 ≤ (t.strip i).eff.toNat) ∧
      { t with sbd := s.sbd, pwr := s.pwr, pciA := s.pciA, pciB := s.pciB } = s) ∧
    (∀ n, s.sbd.step.toNat = n → n ≠ 3 → n ≠ 9 → (n = 10 → s.sbd.retrained = true) →
      ∃ t, exec .startupStepOverrun s = .next t ∧ Reports s t s.lead [s.mkErr 0x0901 .moduleFatal srcService 0 [0x0C, n]] ∧
        { t with evr := s.evr } = s) ∧
    (s.sbd.step = 10 → s.sbd.retrained = false →
      exec .startupStepOverrun s = .next { s with sbd := { s.sbd with retrained := true } }) ∧
    (s.sbd.step = 9 → (∀ i, (s.strip i).temp ≤ 1000) →
      exec .thermTripRelease s = .next { s with pins := { s.pins with thermTripN := true } }) ∧
    (s.sbd.step = 6 → s.sbd.latched = false → ∀ timeout,
      (s.pins.recoverySampled = false → s.sbd.pushed = none → ∃ t, exec (.halfArbitration timeout) s = .next t ∧
        StateTaken s t .recovery fun x => { x with recreason := 1 }) ∧
      (s.pins.recoverySampled = true ∨ s.sbd.pushed.isSome = true →
        (∀ a b, s.sbd.claim .a = some a → s.sbd.claim .b = some b → ∃ t, exec (.halfArbitration timeout) s = .next t ∧
          Latched s t (if b.toNat ≤ a.toNat then .a else .b)) ∧
        (∀ h a, s.sbd.claim h = some a → s.sbd.claim (otherHalf h) = none → timeout = true →
          ∃ t, exec (.halfArbitration timeout) s = .next t ∧ Latched s t h) ∧
        (s.sbd.claim .a = none → s.sbd.claim .b = none → ∃ t, exec (.halfArbitration timeout) s = .next t ∧
          StateTaken s t .recovery fun x => { x with recreason := 2 })))

/-- WATCHDOG_EXPIRY: a service controller that restarts checks the image again and claims. Without a valid copy it runs the winner's
image; with a claim that beats the winner's the result changes, at once when no plan runs, else as LEAD_CHANGE once none does; the
change's notice, by the former lead, holds both SEQ values. PWR_FAIL_N low is module-fatal from step 8 on; it high again restarts a
start-up that was held, or a module without rails. SUPPLY_FAILURE_THRESHOLD drives it low. HOLD_UP_END turns the rails off. Above the
threshold SUPPLY_RISE is a module reset, with the plan's digest gone. RESET, MODULE_RESET and PERST_BOTH reset the module: every
register is at its reset value, the black box, the flash, the fuses, the keys and the pins' levels are kept (R378, R380, R382, R390,
R391, R456-R458). -/
def Obligations.LeadChangesResetsAndSupply : Prop :=
  ∀ s : State,
    (∀ h x, s.evr.fallow = false → s.pwr.railsOn = true → 4 ≤ s.sbd.step.toNat →
      x = imageValid s.sbd.order s.sbd.keys s.sbd.flashBytes →
      (s.sbd.winner = none → ∃ t, exec (.watchdogExpiry h) s = .next t ∧ Checked s t h ∧ { t with sbd := s.sbd } = s) ∧
      (∀ w, s.sbd.winner = some w → x = none → ∃ t, exec (.watchdogExpiry h) s = .next t ∧ t.sbd.copy h = s.sbd.copy w ∧
        t.sbd.winner = some w ∧ t.sbd.seq = s.sbd.seq ∧ { t with sbd := s.sbd } = s) ∧
      (∀ w y, s.sbd.winner = some w → x = some y → w = h ∨ claimWins h y.1 s.sbd.seq = false →
        ∃ t, exec (.watchdogExpiry h) s = .next t ∧ Checked s t h ∧ t.sbd.winner = some w ∧ t.sbd.seq = s.sbd.seq ∧
          t.sbd.pending = s.sbd.pending ∧ { t with sbd := s.sbd } = s) ∧
      (∀ w y, s.sbd.winner = some w → x = some y → w ≠ h → claimWins h y.1 s.sbd.seq = true →
        (s.planIdle = false → ∃ t, exec (.watchdogExpiry h) s = .next t ∧ Checked s t h ∧ t.sbd.winner = some w ∧
          t.sbd.pending = some h ∧ { t with sbd := s.sbd } = s) ∧
        (s.planIdle = true → ∃ t, exec (.watchdogExpiry h) s = .next t ∧ Checked s t h ∧ t.sbd.winner = some h ∧ t.sbd.seq = y.1 ∧
          t.sbd.pending = none ∧ t.sbd.imageDigest = y.2 ∧
          Reports s t w [s.mkErr 0x0901 .notice srcService y.1.toNat [0x0C, s.sbd.seq.toNat]] ∧
          { t with sbd := s.sbd, evr := s.evr } = s))) ∧
    (∀ h y, s.sbd.pending = some h → s.planIdle = true → s.evr.fallow = false → s.sbd.claim h = some y →
      ∃ t, exec .leadChange s = .next t ∧ t.sbd.winner = some h ∧ t.sbd.seq = y ∧ t.sbd.pending = none ∧
        t.sbd.seqmix = (s.sbd.seqmix || decide (s.sbd.seq ≠ y)) ∧
        Reports s t s.lead [s.mkErr 0x0901 .notice srcService y.toNat [0x0C, s.sbd.seq.toNat]] ∧
        { t with sbd := s.sbd, evr := s.evr } = s) ∧
    (s.pins.pwrFailN = true → s.pins.driveFail = false →
      (s.pwr.railsOn = true → s.sbd.early = false → ∃ t, exec (.pwrFailN false) s = .next t ∧ t.pins = { s.pins with pwrFailN := false } ∧
        Reports s t s.lead [s.mkErr 0x0703 .moduleFatal srcPower 0 []] ∧ { t with pins := s.pins, evr := s.evr } = s) ∧
      (s.pwr.railsOn = true → s.sbd.early = true → exec (.pwrFailN false) s = .next { s with pins := { s.pins with pwrFailN := false } })) ∧
    (s.pins.pwrFailN = false → s.pins.driveFail = false →
      (s.pwr.railsOn = true → s.sbd.early = false → exec (.pwrFailN true) s = .next { s with pins := { s.pins with pwrFailN := true } }) ∧
      (s.pwr.railsOn = true → s.sbd.early = true →
        Uncut s → ∃ t, exec (.pwrFailN true) s = .next t ∧
          ResetFrom s t s.sbd.planDigest { s.pins with pwrFailN := true }) ∧
      (s.pwr.railsOn = false → s.pins.supply = true →
        Uncut s → ∃ t, exec (.pwrFailN true) s = .next t ∧
          ResetFrom s t s.sbd.planDigest { s.pins with pwrFailN := true })) ∧
    (s.pins.failLow = true → exec .supplyFailureThreshold s = .next { s with pins := { s.pins with supply := false, driveFail := true } }) ∧
    (s.pins.failLow = false → s.pwr.railsOn = true → s.sbd.early = false → ∃ t, exec .supplyFailureThreshold s = .next t ∧
      t.pins = { s.pins with supply := false, driveFail := true } ∧
      Reports s t s.lead [s.mkErr 0x0703 .moduleFatal srcPower 0 []] ∧ { t with pins := s.pins, evr := s.evr } = s) ∧
    (s.pins.failLow = true → s.pwr.railsOn = true → s.sbd.early = false → Uncut s → ∃ t, exec .holdUpEnd s = .next t ∧
      t.pwr = { s.pwr with railsOn := false } ∧ (∀ h, (t.pci h).speed = 0) ∧ { t with pwr := s.pwr, pciA := s.pciA, pciB := s.pciB } = s) ∧
    (s.pins.supply = false → s.pins.pwrFailN = true → Uncut s → ∃ t, exec .supplyRise s = .next t ∧ ResetFrom s t 0
      { s.pins with supply := true, driveFail := false, thermTripN := false }) ∧
    (s.pins.supply = false → s.pins.pwrFailN = false → exec .supplyRise s = .next { s with
      pins := { s.pins with supply := true, driveFail := false, thermTripN := false }, sbd := { s.sbd with planDigest := 0 } }) ∧
    (s.pwr.railsOn = true → Uncut s →
      (∃ t, exec .moduleReset s = .next t ∧ ResetFrom s t s.sbd.planDigest s.pins) ∧
      (∃ t, exec .perstBoth s = .next t ∧ ResetFrom s t s.sbd.planDigest { s.pins with perstA := false, perstB := false }) ∧
      (∀ h, Serves s h → ∃ t, exec (.reset h) s = .next t ∧ ResetFrom s t s.sbd.planDigest s.pins))

/-- The accesses of a port that serves its host. REGISTER_WRITE: the data host's write of a control register is counted and dropped; a
write of another width, or where no register stands, is counted as rule-breaking and dropped; a read-only register ignores it; the
first word of an RWP register waits for its complement, with which the register takes the write, and any other value counts as a
mismatched pair; other words are taken at once. REGISTER_READ answers with the register's value, or with its complement in the second
word of a pair, and clears an RC register; where no register stands it answers zero and is counted (R12-R15, R356, R402, R407, R409).
The other traffic of a port. TOKEN_WRITE enters a token, at once or behind the port's unacknowledged writes; without the
complement it is rule-breaking. BAR2_WRITE stores its bytes and BAR2_READ answers with memory's; a request outside the windows is
rule-breaking. MEM_ERRLOG_READ and PCI_BAR2ERR_READ release the held address. MSIX_MESSAGE sends a message that is due, or leaves it
pending while it is masked. CONFIGURATION_REQUEST answers at any time. LINK_UP and SURPRISE_LINK_DOWN set and clear the link (R207,
R212, R402, R404, R405, R412, R414, R416-R419, R426). -/
def Obligations.PortsServeTheirHosts : Prop :=
  (∀ (s : State) (h : HostPort) (off : Nat), Plain off →
     (Linked s h → s.isDataHost h = true → ∀ v, exec (.registerWrite h off 4 v) s = .next
       { s with evr := { s.evr with datahost := satAdd s.evr.datahost 1 } }) ∧
     (Serves s h →
       (∀ w v, w ≠ 4 → off + w ≤ 0x4000000 → exec (.registerWrite h off w v) s = .next (ruleBroken s)) ∧
       (placeAt off = none → (∀ v, exec (.registerWrite h off 4 v) s = .next (ruleBroken s)) ∧
         exec (.registerRead h off 4) s = .next (answered (ruleBroken s) h (zeros 4))) ∧
       (∀ x, placeAt off = some x →
         (∀ v : W32,
           (x.acc = .ro ∨ x.acc = .rc → exec (.registerWrite h off 4 (v.zeroExtend 64)) s = .next s) ∧
           (x.acc = .rw ∨ x.acc = .w1c → exec (.registerWrite h off 4 (v.zeroExtend 64)) s =
             .next ((s.writeReg h x.reg v).getD (ruleBroken s))) ∧
           (x.acc = .rwp → x.compl = false → Plain (off + 4) → placeAt (off + 4) = some { x with compl := true } →
             ∃ t, exec (.registerWrite h off 4 (v.zeroExtend 64)) s = .next t ∧ t = s.modPci h (fun p => { p with pairs := [(off, v, false)] }) ∧
               exec (.registerWrite h (off + 4) 4 ((~~~v).zeroExtend 64)) t = .next ((s.writeReg h x.reg v).getD (ruleBroken s)) ∧
               ∀ w : W32, w ≠ ~~~v → exec (.registerWrite h (off + 4) 4 (w.zeroExtend 64)) t =
                 .next { s with evr := { s.evr with pairmis := satAdd s.evr.pairmis 1 } })) ∧
         (Steady x.reg → exec (.registerRead h off 4) s = .next (answered (if x.acc = .rc then s.clearReg x.reg else s) h
           (bytesOfWord (if x.compl = true then ~~~(s.regValue 0 x.reg) else s.regValue 0 x.reg))))))) ∧
  (∀ (s : State) (h : HostPort),
     (Linked s h → s.sbd.state = .ready → s.evr.fallow = false → ∀ (q : BitVec 15) (v : BitVec 64),
       (w32 (v.toNat / 2 ^ 32) = ~~~(w32 v.toNat) → ¬(s.running = true ∧ q.toNat ∈ s.stepQueues) →
         (s.unacked h = 0 → exec (.tokenWrite h (0x800000 + 8 * q.toNat) 8 v) s = .next { s with kuf := { s.kuf with
           transit := s.kuf.transit ++ [mkToken (tokenKind h) 0 0 q (w32 v.toNat) 0 0] } }) ∧
         (s.unacked h ≠ 0 → exec (.tokenWrite h (0x800000 + 8 * q.toNat) 8 v) s = .next (s.modPci h fun p => { p with
           tokens := p.tokens ++ [(s.unacked h, mkToken (tokenKind h) 0 0 q (w32 v.toNat) 0 0)] }))) ∧
       (w32 (v.toNat / 2 ^ 32) ≠ ~~~(w32 v.toNat) → exec (.tokenWrite h (0x800000 + 8 * q.toNat) 8 v) s = .next (ruleBroken s))) ∧
     (Linked s h → s.sbd.state = .ready →
       (∀ off data a, Mapped s h off data.length a → ∃ t, exec (.bar2Write h off data) s = .next t ∧
         Holds s t a data.length (fun i => data.getD i 0) ∧ t.unacked h = s.unacked h + 1 ∧ t.plots = s.plots ∧ t.evr = s.evr ∧
         t.kuf = s.kuf ∧ t.job = s.job ∧ t.sync = s.sync ∧ t.pci h = s.pci h) ∧
       (∀ off n a, Mapped s h off n a → ∃ t, exec (.bar2Read h off n) s = .next t ∧ t.mem.cells = s.mem.cells ∧
         (t.pci h).reply = some { data := cellsGet 0 s.mem.cells a n, ur := false, ep := false } ∧ t.plots = s.plots ∧ t.evr = s.evr ∧
         t.kuf = s.kuf ∧ t.job = s.job ∧ t.sync = s.sync) ∧
       (∀ off data, off + data.length ≤ 2 ^ 37 → s.mapBar2 h off data.length = none →
         exec (.bar2Write h off data) s = .next (ruleBroken s) ∧
         exec (.bar2Read h off data.length) s = .next (answered (ruleBroken s) h (zeros data.length)))) ∧
     (Serves s h →
       (∀ d, exec (.memErrlogRead h d) s = .next (answered (s.modDie d fun x => { x with errHeld := false }) h
         (bytesOfWord (w32 (s.die d).errAddr.toNat)))) ∧
       (∀ k, exec (.pciBar2errRead h k) s = .next (answered (s.modPci k fun x => { x with errHeld := false }) h
         (bytesOfWord (w32 (s.pci k).errAddr.toNat))))) ∧
     (∀ v : Fin 4, s.evr.fallow = false → (s.pci h).up = true → (s.pci h).d3hot = false → (s.pci h).msixEnable = true →
       (s.pci h).due.getLsbD v.val = true →
       ((s.pci h).msixMask = true ∨ bit ((s.pci h).msix.toList.getD (4 * v.val + 3) 0) 0 = true → exec (.msixMessage h v) s =
         .next (s.modPci h fun p => { p with due := p.due &&& ~~~(1#4 <<< v.val), pba := p.pba ||| 1#4 <<< v.val })) ∧
       ((s.pci h).msixMask = false → bit ((s.pci h).msix.toList.getD (4 * v.val + 3) 0) 0 = false → ∃ t, exec (.msixMessage h v) s = .next t ∧
         (t.pci h).due = (s.pci h).due &&& ~~~(1#4 <<< v.val) ∧ (t.pci h).sent = some
           (BitVec.ofNat 64 (((s.pci h).msix.toList.getD (4 * v.val) 0).toNat + ((s.pci h).msix.toList.getD (4 * v.val + 1) 0).toNat * 2 ^ 32),
             (s.pci h).msix.toList.getD (4 * v.val + 2) 0) ∧ { t with pciA := s.pciA, pciB := s.pciB } = s)) ∧
     ((s.pci h).up = true → s.pwr.railsOn = true →
       (∀ off w, s.configWord h off = some w → exec (.configurationRequest h (.read off)) s = .next (answered s h (bytesOfWord w))) ∧
       (∀ off, s.configWord h off = none → ∃ b, exec (.configurationRequest h (.read off)) s =
         .next { answered s h b with freeCtr := s.freeCtr + 1 } ∧ b.length = 4) ∧
       (∀ v, exec (.configurationRequest h (.write 0x04 v)) s = .next (s.modPci h fun p => { p with command := BitVec.ofNat 16 v.toNat &&& 0x0546 })) ∧
       (∀ v, bits v 1 0 = 3 → exec (.configurationRequest h (.write 0x44 v)) s = .next (s.modPci h fun p => { p with d3hot := true })) ∧
       (∀ v, bits v 1 0 = 0 → exec (.configurationRequest h (.write 0x44 v)) s = .next (s.modPci h fun p => { p with d3hot := false }))) ∧
     (∀ speed width flit, 1 ≤ speed.toNat → speed.toNat ≤ 6 → (width = 1 ∨ width = 2 ∨ width = 4 ∨ width = 8) → s.pins.perstHigh h = true →
       s.pwr.railsOn = true → 3 ≤ s.sbd.step.toNat → (s.pci h).up = false → exec (.linkUp h speed width flit) s =
         .next (s.modPci h fun p => { p with speed := speed, width := width, flit := flit || speed = 6 })) ∧
     exec (.surpriseLinkDown h) s = .next (s.modPci h fun p => { p with speed := 0, width := 0, flit := false }))

/-- The plan's commands through the control host's port. START and GO begin the plan when its checks pass; a check that fails leaves
the module idle with LOADERR and its record; while a plan runs START is rule-breaking. ABORT raises 0x0207 at every plot that runs.
HALTNOW stops the active plots, HALTAT and HALTNEXT ask for a halt at a boundary, and RESUME ends a halt. SET sends a FEEDQUERY with
a good buddy list, or leaves a notice. RETURN finds the held copy, or answers that there is none. HAR_FBRES_WRITE grows the reserve
at a boundary (R115, R176, R181, R282, R283, R285, R291, R310, R314, R318, R323).
The debugger's commands at a plot. STOP, and STOPREQ of HAR_CTL and DRL_CTL, register a stop with REASON 0x1 and settle the command
in progress; a plot at rest has nothing to stop. PLOT_STOP_COMPLETE ends a stop once the plot's work is complete. STEP and RUN take up a
plot that such a stop has stopped, and are rule-breaking elsewhere. DBG_PSDATA reads and writes the word of the plot store at
DBG_PSADDR, which moves on by 4, while the plot is at rest with empty units (R178, R440, R441, R95, R153). -/
def Obligations.PlanAndPlotCommandsOfTheHost : Prop :=
  (∀ (s : State) (h : HostPort), Serves s h →
     (s.planIdle = true →
       (∀ rt, Startable s false rt → ∃ t, exec (.start h) s = .next t ∧ Begun s t (PlanHdr.ofBytes s.headerBytes).rowfirst rt ∧ t.fb.extra = 0) ∧
       (∀ n obj, s.mem.layState ≠ 1 → s.loadCheck false = some (n, obj) → ∃ t, exec (.start h) s = .next t ∧ t.job.state = .idle ∧
         t.job.loaderr = BitVec.ofNat 4 n ∧ Reports s t s.lead [s.mkErr 0x0206 .recoverable srcService obj [n]] ∧ t.mem = s.mem ∧
         ∀ d, t.unit d = (s.unit d).empty)) ∧
     (s.planIdle = false → exec (.start h) s = .next (ruleBroken s)) ∧
     (s.planIdle = true ∨ s.job.halt ≠ .none → s.restartRowOk = true → ∀ rt, Startable s true rt →
       ∃ t, exec (.go h false) s = .next t ∧ Begun s t s.rcv.restartrow rt ∧ t.rcv.need = 0 ∧ t.fb.extra = s.fb.extra) ∧
     ((s.planIdle = false ∧ s.job.halt = .none) ∨ s.restartRowOk = false → ∀ b, exec (.go h b) s = .next (ruleBroken s)) ∧
     (s.running = false → exec (.abort h) s = .next s) ∧
     (s.running = true → ∃ t, exec (.abort h) s = .next t ∧ t.job = s.job ∧ t.mem = s.mem ∧
       (∀ p ∈ s.job.active, p ∉ s.job.ended → (t.plot p).seq.stopping = some ((s.plot p).seq.stopping.getD 3) ∧
         plotErr p (s.plot p).pos 0x0207 .jobFatal 0 [] 4 ∈ (t.half (halfOfDie (dieOfPlot p))).registered) ∧
       ∀ p, p ∉ s.job.active ∨ p ∈ s.job.ended → t.plot p = s.plot p) ∧
     (s.job.state = .running → s.dbg.stopmapEn = false → s.dbg.mapDue = none → ∃ t, exec (.haltnow h) s = .next t ∧
       t.job.state = .halted ∧ t.job.halt = .now ∧ t.job.row = s.job.row ∧ t.mem = s.mem ∧
       (∀ p ∈ s.job.active, inPart (s.plot p).seq → (t.plot p).seq.stopping = some ((s.plot p).seq.stopping.getD 2)) ∧
       ∀ p, p ∉ s.job.active → t.plot p = s.plot p) ∧
     (s.job.state = .halted → s.job.halt = .boundary → ∃ t, exec (.haltnow h) s = .next t ∧
       Reports s t s.lead [s.mkErr 0x0901 .notice srcEngine 0 [0x0A]] ∧ { t with evr := s.evr } = s) ∧
     (s.planIdle = true → exec (.haltnow h) s = .next (ruleBroken s)) ∧
     exec (.haltat h) s = .next { s with job := { s.job with haltat := true } } ∧
     exec (.haltnext h) s = .next { s with job := { s.job with haltnext := true } } ∧
     (s.job.halt = .boundary → ∃ t, exec (.resume h) s = .next t ∧ t.job.state = .running ∧ t.job.halt = .none ∧ t.job.row = s.job.row ∧
       t.job.stepAge = 0 ∧ t.job.upSent = false ∧ Reports s t s.lead [s.mkErr 0x0901 .notice srcEngine 0 [0x0A]] ∧
       (∀ p, t.plot p = if bit s.pwr.sow 31 = true then { s.plot p with seq := { (s.plot p).seq with sowing := true } } else s.plot p) ∧
       t.mem = s.mem ∧ t.sync = s.sync ∧ t.kuf = s.kuf ∧ t.rcv = s.rcv ∧ t.fb = s.fb) ∧
     (s.job.halt = .now → (∀ p ∈ s.job.active, (s.plot p).harSpilled = false ∧ (s.plot p).drlSpilled = false) →
       ∃ t, exec (.resume h) s = .next t ∧ t.job = { s.job with state := .running, halt := .none, stepAge := 0 } ∧
         Reports s t s.lead [s.mkErr 0x0901 .notice srcEngine 0 [0x0A]] ∧
         (∀ p q, q = (if p ∈ s.job.active ∧ (s.plot p).seq.state = .stopped ∧ (s.plot p).seq.byStop = false
             then resumed (s.plot p) false else s.plot p) →
           t.plot p = { q with seq := { q.seq with sowing := bit s.pwr.sow 31 || q.seq.sowing } }) ∧
         t.mem = s.mem ∧ t.sync = s.sync ∧ t.kuf = s.kuf) ∧
     (s.job.halt = .none ∨ s.job.halt = .aborted → exec (.resume h) s = .next (ruleBroken s)) ∧
     (s.job.stateCode ≠ 1 → s.job.stateCode ≠ 2 → ∀ hd, s.job.hdr = some hd → hd.buddyint ≠ 0 →
       (∀ f, s.listBad hd = none → f = Pairing.ofBytes s.listBytes → exec (.set h) s = .next ({ s with rcv := { s.rcv with
         feedWait := some { pairing := f, bySet := true, restart := false, row := s.job.row, restore := false }, feedAge := 0,
         ownfeed := s.pins.feedid } }.sendToken f.holder f.channel f.bqueue (w32 (2 ^ 28 + s.pins.feedid.toNat * 2 ^ 24 + s.kuf.node.toNat)))) ∧
       (∀ k, s.listBad hd = some k → ∃ t, exec (.set h) s = .next t ∧ Reports s t s.lead [s.mkErr 0x0901 .notice srcEngine 0 [0x0C]] ∧
         { t with evr := s.evr } = s)) ∧
     (s.job.stateCode = 1 ∨ s.job.stateCode = 2 → exec (.set h) s = .next (ruleBroken s)) ∧
     (s.job.state ≠ .checking → s.job.state ≠ .running → s.rcv.ret = none → ∀ owner target,
       (s.heldSlot owner = none → exec (.return_ h owner target) s = .next { s with rcv := { s.rcv with
         owner := owner, target := target, result := 2 } }) ∧
       (∀ a, s.heldSlot owner = some a → exec (.return_ h owner target) s = .next { s with rcv := { s.rcv with
         owner := owner, target := target, ret := some { target := target, slotAddr := a, sent := false
                                                         channel := ((s.rcv.pairing).getD (Pairing.ofBytes s.listBytes)).channel } } })) ∧
     (∀ x : BitVec 16, s.job.halt = .boundary → s.fb.extra.toNat ≤ x.toNat → planReserve s + x.toNat ≤ 65535 →
       ∃ t, exec (.harFbresWrite h x) s = .next t ∧ t.fb = { s.fb with
           extra := x, resfree := BitVec.ofNat 16 (s.fb.resfree.toNat + x.toNat - s.fb.extra.toNat) } ∧
         Reports s t s.lead [s.mkErr 0x0901 .notice srcService 0 [0x0B]] ∧ { t with fb := s.fb, evr := s.evr } = s) ∧
     (∀ x : BitVec 16, s.job.halt ≠ .boundary → exec (.harFbresWrite h x) s = .next (ruleBroken s))) ∧
  (∀ (s : State) (h : HostPort) (p : PlotIx),
     (Serves s h →
       (inPart (s.plot p).seq → (s.plot p).seq.stopping = none → ∀ c, c = .stop h p ∨ c = .stopreqHar h p ∨ c = .stopreqDrl h p →
         ∃ t, exec c s = .next t ∧ (t.plot p).seq.stopping = some 1 ∧ (t.plot p).seq.pc = (s.plot p).seq.pc ∧
           (t.plot p).harStopreq = ((s.plot p).harStopreq || decide (c = .stopreqHar h p)) ∧
           (t.plot p).drlStopreq = ((s.plot p).drlStopreq || decide (c = .stopreqDrl h p)) ∧
           (t.plot p).store = (s.plot p).store ∧ (∀ q, q ≠ p → t.plot q = s.plot q) ∧ t.mem = s.mem ∧ t.evr = s.evr ∧ t.job = s.job) ∧
       (¬inPart (s.plot p).seq → exec (.stop h p) s = .next s ∧ exec (.stopreqHar h p) s = .next s ∧ exec (.stopreqDrl h p) s = .next s) ∧
       ((s.plot p).seq.byStop = true → (s.plot p).seq.state = .stopped → s.job.state ≠ .halted → (s.plot p).harSpilled = false →
         (s.plot p).drlSpilled = false → exec (.step h p) s = .next (s.setPlot p (resumed (s.plot p) true)) ∧
           exec (.run h p) s = .next (s.setPlot p (resumed (s.plot p) false))) ∧
       ((s.plot p).seq.byStop = false ∨ (s.plot p).seq.state ≠ .stopped ∨ s.job.state = .halted →
         exec (.step h p) s = .next (ruleBroken s) ∧ exec (.run h p) s = .next (ruleBroken s)) ∧
       ((s.plot p).debuggable = true →
         (exec (.dbgPsdataRead h p) s = .next (answered (s.modPlot p fun q => { q with psaddr := q.psaddr + 4 }) h
           (bytesOfWord (wordAt (cellsGet 0 (s.plot p).store (s.plot p).psaddr.toNat 4) 0)))) ∧
         (∀ v, Memory.wf (s.plot p).store = true → ∃ t, exec (.dbgPsdataWrite h p v) s = .next t ∧
           (∀ b, cellGet 0 (t.plot p).store b = if (s.plot p).psaddr.toNat ≤ b ∧ b < (s.plot p).psaddr.toNat + 4
             then (bytesOfWord v).getD (b - (s.plot p).psaddr.toNat) 0 else cellGet 0 (s.plot p).store b) ∧
           t.plot p = { s.plot p with store := (t.plot p).store, psaddr := (s.plot p).psaddr + 4 } ∧
           (∀ q, q ≠ p → t.plot q = s.plot q) ∧ { t with plots := s.plots } = s)) ∧
       ((s.plot p).debuggable = false → exec (.dbgPsdataRead h p) s = .next (answered (ruleBroken s) h (zeros 4)) ∧
         ∀ v, exec (.dbgPsdataWrite h p v) s = .next (ruleBroken s))) ∧
     (∀ r, (s.plot p).seq.stopping = some r → (s.plot p).seq.busy = .ready → (s.plot p).allQuiet = true → inPart (s.plot p).seq →
       s.job.haltNote = false → s.dbg.mapDue = none → ¬(r = 2 ∧ s.job.state = .running) → exec (.plotStopComplete p) s =
         .next (s.modPlot p fun q => { q with
           harStopped := true, drlStopped := true, harStopreq := false, drlStopreq := false, held := []
           drlSpillbase := q.drlSpillnext.getD q.drlSpillbase, drlSpillnext := none
           seq := { q.seq with state := if r = 3 then .failed else .stopped, part := q.seq.state, stopping := none, waiting := false,
                               byStop := decide (r = 1) } })))

/-- Commands to memory, the sync units and the links. APPLY puts a sound layout in force, whose initialisation begins, or leaves a
notice; BST_SLICEMODE_WRITE begins a change of modes; both are rule-breaking while a plan runs. QREAD, QPUSH, QPOP, QCLEAR and
QRELEASE begin a hand operation at a unit that is free. REQ takes a dump, or counts one more while one is held; REARM releases it.
KUF_NODE_WRITE numbers the module and retrains its ACTIVE ports. ENABLE starts a port at SIGNAL or takes it down. RESTORE returns an
ACTIVE port's destinations to it (R197, R199, R206, R228, R230, R233, R234, R238, R256, R260, R261, R266). -/
def Obligations.MemorySyncAndLinkCommands : Prop :=
  ∀ (s : State) (h : HostPort), Serves s h →
    (∀ (v : W32) l, bits v 30 14 = 0 → bits v 11 11 = 0 → s.planIdle = true →
      l = { s.mem.regs with masks := bit v 13, mode := bit v 12, guardu := bits v 10 0 } →
      (l.refusal s.sbd.order = none → ∃ t, exec (.apply h v) s = .next t ∧ t.mem.regs = l ∧ t.mem.inForce = l ∧ t.mem.layState = 1 ∧
        t.mem.layReason = 0 ∧ (∀ d, t.die d = { s.die d with cache := [] }) ∧ t.mem.cells = s.mem.cells ∧ { t with mem := s.mem } = s) ∧
      (∀ n, l.refusal s.sbd.order = some n → ∃ t, exec (.apply h v) s = .next t ∧ t.mem = { s.mem with
          regs := l, layState := 2, layReason := BitVec.ofNat 4 n } ∧
        Reports s t s.lead [s.mkErr 0x0901 .notice srcService 0 [5]] ∧ { t with mem := s.mem, evr := s.evr } = s)) ∧
    (s.planIdle = false → (∀ v, exec (.apply h v) s = .next (ruleBroken s)) ∧
      ∀ d m, exec (.bstSlicemodeWrite h d m) s = .next (ruleBroken s)) ∧
    (s.planIdle = true → ∀ d m, exec (.bstSlicemodeWrite h d m) s = .next (s.modDie d fun x => { x with
      slicenext := if m = x.slicemode ∧ x.slicenext = none then none else some m })) ∧
    (∀ d q, (s.unit d).qbusy = false → exec (.qread h d q) s = .next (handed s d 1 q) ∧ exec (.qpush h d q) s = .next (handed s d 2 q) ∧
      exec (.qpop h d q) s = .next (handed s d 3 q) ∧ exec (.qclear h d q) s = .next (handed s d 4 q) ∧
      exec (.qrelease h d q) s = .next (handed s d 5 q)) ∧
    (∀ d q c, (s.unit d).qbusy = true → c = .qread h d q ∨ c = .qpush h d q ∨ c = .qpop h d q ∨ c = .qclear h d q ∨ c = .qrelease h d q →
      exec c s = .next (ruleBroken s)) ∧
    (s.smod.held = true → exec (.req h) s = .next { s with smod := { s.smod with suppressed := satAdd s.smod.suppressed 1 } }) ∧
    (s.smod.held = false → s.rangeGuarded s.smod.dumpbase.toNat dumpSize = true → ∃ t, exec (.req h) s = .next t ∧
      t.smod = { s.smod with held := true, writing := true, trigger := 3, frozen := t.smod.frozen } ∧
      (t.smod.frozen.map fun f => (f.units, f.row, f.node, f.trigger)) = some (s.sync, s.job.row, s.kuf.node, 3) ∧ { t with smod := s.smod } = s) ∧
    (s.smod.held = false → s.rangeGuarded s.smod.dumpbase.toNat dumpSize = false → ∃ t, exec (.req h) s = .next t ∧
      Reports s t s.lead [s.mkErr 0x0901 .notice srcService 0 [3]] ∧ { t with evr := s.evr } = s) ∧
    (s.smod.writing = false → exec (.rearm h) s = .next { s with smod := { s.smod with held := false, suppressed := 0 } }) ∧
    (s.smod.writing = true → exec (.rearm h) s = .next (ruleBroken s)) ∧
    (∀ n : BitVec 12, n.toNat ≤ 511 → s.planIdle = true → ∃ t, exec (.kufNodeWrite h n) s = .next t ∧ t.kuf.node = n ∧
      (∀ k, n ≠ s.kuf.node → (s.kport k).state = .active → (t.kport k).state = .equalise ∧ (t.kport k).altuse = true ∧
        (t.kport k).identOk = false ∧ (t.kport k).retrains = satAdd (s.kport k).retrains 1) ∧
      (∀ k, n = s.kuf.node ∨ (s.kport k).state ≠ .active → t.kport k = s.kport k) ∧ { t with kuf := s.kuf } = s) ∧
    (∀ n : BitVec 12, 511 < n.toNat ∨ s.planIdle = false → exec (.kufNodeWrite h n) s = .next (ruleBroken s)) ∧
    (∀ k, exec (.enable h k (s.kport k).enable) s = .next s) ∧
    (∀ k, (s.kport k).enable = false → exec (.enable h k true) s = .next (s.modKport k fun x => { x with enable := true }.fresh)) ∧
    (∀ k, (s.kport k).enable = true → ∃ t, exec (.enable h k false) s = .next t ∧ (t.kport k).state = .down ∧ (t.kport k).enable = false ∧
      (t.kport k).txq = Vector.replicate 3 [] ∧
      OnlyPort s t k (if (s.kport k).state = .active then offPort s k else s.kuf.route)) ∧
    (∀ k, (s.kport k).state = .active → s.job.halt = .boundary ∨ s.planIdle = true → ∃ t, exec (.restore h k) s = .next t ∧
      t.kport k = { s.kport k with altuse := false } ∧ OnlyPort s t k (s.kuf.route.map fun r => { r with
        dests := r.dests.map fun d => if d.primary = k then { d with useAlt := false } else d })) ∧
    (∀ k, (s.kport k).state ≠ .active ∨ (s.job.halt ≠ .boundary ∧ s.planIdle = false) → exec (.restore h k) s = .next (ruleBroken s))

/-- Commands to the recorder, the seedbed and the debug units. FLUSH starts a flush, or follows one; CLEARHIST and EVR_QCFG_WRITE free
histogram slots; BBERASE begins an erase. FLASH_IMAGE_PROGRAM, CALIBRATION_WRITE and CALIBRATION_READ begin an operation at
SBD_FLASHADDR, which FLASH_OPERATION_DONE ends with its RESULT; in recovery mode SBD_RECOV_GO has the pushed image checked.
CNTCTL_CLEAR clears every counter; ARM arms a trace and FIRE triggers the enabled ones; REG and WDRAW register and withdraw a debugger
watch (R371, R374, R376, R377, R393, R394, R398, R401, R434, R435, R442, R446). -/
def Obligations.RecorderSeedbedAndDebugCommands : Prop :=
  ∀ (s : State) (h : HostPort),
    (Serves s h →
      (s.evr.flushing = none → s.evr.erase = none → ∃ t, exec (.flush h) s = .next t ∧
        (t.evr.flushing.map fun f => (f.trigger, f.tsev, f.tcode, f.bufA, f.bufB, f.row)) =
          some (.write, .notice, 0, s.evr.halfA, s.evr.halfB, s.job.row) ∧
        t.evr = { s.evr with flushing := t.evr.flushing } ∧ { t with evr := s.evr } = s) ∧
      (s.evr.flushing.isSome = true ∨ s.evr.erase.isSome = true → exec (.flush h) s = .next { s with evr := { s.evr with
        follow := some (s.evr.follow.getD (.write, .notice, 0)) } }) ∧
      (exec (.clearhist h) s = .next { s with evr := { s.evr with
        halfA := freed s.evr.halfA fun _ => true, halfB := freed s.evr.halfB fun _ => true } }) ∧
      (s.planIdle = true → s.evr.erase = none → exec (.bberase h) s = .next { s with evr := { s.evr with
        erase := some (if s.evr.flushing.isSome = true then .waitFlush else .headers) } }) ∧
      (s.planIdle = false → exec (.bberase h) s = .next (ruleBroken s)) ∧
      (∀ q v, bits v 31 30 ≤ 2 → 1 ≤ bits v 24 12 → s.planIdle = true → exec (.evrQcfgWrite h q v) s = .next { s with evr := { s.evr with
        qcfg := s.evr.qcfg.set q.val v
        halfA := freed s.evr.halfA fun x => x = q, halfB := freed s.evr.halfB fun x => x = q } }) ∧
      (∀ q v, s.planIdle = false → exec (.evrQcfgWrite h q v) s = .next (ruleBroken s)) ∧
      (s.planIdle = true → s.sbd.busy = none → exec (.flashImageProgram h) s = .next (flashing s 1 (.image s.sbd.flashaddr.toNat)) ∧
        exec (.calibrationWrite h) s = .next (flashing s 2 (.calWrite s.sbd.flashaddr.toNat)) ∧
        exec (.calibrationRead h) s = .next (flashing s 3 (.calRead s.sbd.flashaddr.toNat))) ∧
      (s.planIdle = false ∨ s.sbd.busy.isSome = true → exec (.flashImageProgram h) s = .next (ruleBroken s) ∧
        exec (.calibrationWrite h) s = .next (ruleBroken s) ∧ exec (.calibrationRead h) s = .next (ruleBroken s)) ∧
      (∀ v, bits v 28 16 = 0 → 1 ≤ bits v 15 0 → ∃ t, exec (.cntctlClear h v) s = .next t ∧
        (∀ p, t.plot p = { s.plot p with counters := (s.plot p).counters.map fun c => { c with value := 0 } }) ∧
        t.dbg = { s.dbg with count := bit v 31, snap := bit v 30, rows := BitVec.ofNat 16 v.toNat } ∧
        (t.job.snapRow = if bit v 30 = true ∧ s.dbg.snap = false then some (s.job.row + 1) else s.job.snapRow) ∧ t.mem = s.mem ∧
        t.evr = s.evr ∧ t.sync = s.sync) ∧
      (∀ b, ∃ t, exec (.fire h b) s = .next t ∧ t.dbg.spread = b ∧
        (∀ d, (s.trace d).en = true → (s.trace d).trigvalid = false → (s.trace d).state = .armed → (s.trace d).mode ≠ 2 →
          (t.trace d).trigvalid = true ∧ (t.trace d).arm = false ∧ (t.trace d).state ≠ .armed) ∧
        (∀ d, (s.trace d).en = false → t.trace d = s.trace d) ∧ t.plots = s.plots ∧ t.evr = s.evr ∧ t.job = s.job) ∧
      (∀ d v, bit v 23 = false → bits v 29 28 ≤ 2 → 1 ≤ bits v 27 24 → bits v 22 19 ≤ 11 → bits v 18 0 = 0 →
        exec (.arm h d v) s = .next (s.modTrace d fun t => { t with
          en := true, mode := BitVec.ofNat 2 (bits v 29 28), pos := BitVec.ofNat 4 (bits v 27 24), spill := false
          slice := BitVec.ofNat 4 (bits v 22 19), arm := true, state := .armed, wrapped := false, trigvalid := false, wridx := 0, left := 0
          full := 0, throttled := 0, tseq := 0, dropped := 0, ring := [], trigrec := none })) ∧
      (∀ d n (c : BitVec 7) (q : BitVec 12), 1 ≤ c.toNat → c.toNat ≤ 64 → ((s.dbg.watches.get d).get n).reg = false →
        ∃ t, exec (.reg h d n c q) s = .next t ∧
          (t.dbg.watches.get d).get n = { (s.dbg.watches.get d).get n with reg := true, outcome := .none, n := c, queue := q } ∧
          (∃ w, (t.unit d).regs = (s.unit d).regs ++ [w] ∧ w.kind = .debugger ∧ w.dbg = n ∧ w.object = q ∧ w.n = c.toNat ∧
            w.consume = 0 ∧ w.timeout = s.smod.defaultus.toNat) ∧
          OnlyUnit s t d ∧ t.plots = s.plots ∧ t.evr = s.evr ∧ t.mem = s.mem) ∧
      (∀ d n, ((s.dbg.watches.get d).get n).reg = true → 1 ≤ ((s.dbg.watches.get d).get n).n.toNat →
        ((s.dbg.watches.get d).get n).n.toNat ≤ 64 →
        exec (.wdraw h d n) s = .next (s.modUnit d fun u => { u with dbgWithdraws := u.dbgWithdraws ++ [n] })) ∧
      (∀ d n, ((s.dbg.watches.get d).get n).reg = false → 1 ≤ ((s.dbg.watches.get d).get n).n.toNat →
        ((s.dbg.watches.get d).get n).n.toNat ≤ 64 → exec (.wdraw h d n) s = .next s)) ∧
    (Linked s h → s.isDataHost h = false → s.sbd.state = .recovery → s.evr.fallow = false → ∀ b,
      ∃ t, exec (.sbdRecovGo h b) s = .next t ∧ StateTaken s t .checking fun x => { x with program := b, busy := some (.pushed h b) }) ∧
    (s.pwr.railsOn = true → ∀ ok,
      (∀ a n f, s.sbd.busy = some f → f = .image a → n = (wordAt (s.sourceBytes f 0x0C 4) 0).toNat →
        (s.rangeGuarded a 0x1000 = false → exec (.flashOperationDone ok) s = .next (flashed s 5)) ∧
        (s.rangeGuarded a 0x1000 = true → imageValid s.sbd.order s.sbd.keys (s.sourceBytes f) = none →
          exec (.flashOperationDone ok) s = .next (flashed s 2)) ∧
        (s.rangeGuarded a 0x1000 = true → (imageValid s.sbd.order s.sbd.keys (s.sourceBytes f)).isSome = true →
          (s.rangeGuarded a n = false → exec (.flashOperationDone ok) s = .next (flashed s 5)) ∧
          (s.rangeGuarded a n = true → ok = true → ∃ t, exec (.flashOperationDone ok) s = .next t ∧
            (∀ b, cellGet 0xFF t.sbd.flash b = if b < n then cellGet 0 s.mem.cells (a + b) else cellGet 0xFF s.sbd.flash b) ∧
            t = flashed { s with sbd := { s.sbd with flash := t.sbd.flash } } 1))) ∧
      (∀ a f, s.sbd.busy = some f → f = .calWrite a →
        (s.rangeGuarded a 0x10000 = false → exec (.flashOperationDone ok) s = .next (flashed s 5)) ∧
        (s.rangeGuarded a 0x10000 = true → calibInRange (s.memBytes a 0x10000) = false →
          exec (.flashOperationDone ok) s = .next (flashed s 3)) ∧
        (s.rangeGuarded a 0x10000 = true → calibInRange (s.memBytes a 0x10000) = true → ok = true →
          ∃ t, exec (.flashOperationDone ok) s = .next t ∧
            (∀ b, cellGet 0xFF t.sbd.flash b = if 0x1000000 ≤ b ∧ b < 0x1010000 then (s.calibBytes f).getD (b - 0x1000000) 0
              else cellGet 0xFF s.sbd.flash b) ∧ t = flashed { s with sbd := { s.sbd with flash := t.sbd.flash } } 1)) ∧
      (∀ a, s.sbd.busy = some (.calRead a) →
        (s.rangeGuarded a 0x10000 = false → exec (.flashOperationDone ok) s = .next (flashed s 5)) ∧
        (s.rangeGuarded a 0x10000 = true → Memory.wf s.mem.cells = true → ∃ t, exec (.flashOperationDone ok) s = .next t ∧
          Holds s t a 0x10000 (fun i => cellGet 0xFF s.sbd.flash (0x1000000 + i)) ∧
          { t with mem := s.mem } = flashed s 1)) ∧
      (∀ g b f, s.sbd.busy = some f → f = .pushed g b → s.sbd.state = .checking →
        (imageValid s.sbd.order s.sbd.keys (s.sourceBytes f) = none → ∃ t, exec (.flashOperationDone ok) s = .next t ∧
          StateTaken s t .recovery fun x => { x with busy := none, recreason := 3 }) ∧
        (∀ x, imageValid s.sbd.order s.sbd.keys (s.sourceBytes f) = some x → b = false → ∃ t, exec (.flashOperationDone ok) s = .next t ∧
          t.sbd.state = .starting ∧ t.sbd.pushed = some g ∧ t.sbd.copy (halfOfPort g) = some x ∧ t.sbd.claim (halfOfPort g) = some x.1 ∧
          t.sbd.busy = none ∧ t.sbd.flash = s.sbd.flash ∧ { t with sbd := s.sbd, pciA := s.pciA, pciB := s.pciB } = s)))

/-- A port's endpoint answers each management command. SET_ENDPOINT_ID and GET_ENDPOINT_ID at any time; with an EID, GET_HEALTH with the
status words, READ_BB with 32 bytes of the black box, RESET_MODULE with a reset to come, FUSE_KEY and DISABLE_KEY by the key slots and
the host's role, the UUID, the versions, the message types, the vendor, and other commands with ERROR_UNSUPPORTED_CMD. SETDASA,
SIDEBAND_POINTER_WRITE, SIDEBAND_WORD_READ and SB_SCL_STUCK_TIMEOUT act on the sideband target alone (R420-R422, R453, R459). The versions
of types 5 and 0x7E, the vendor's command set word and the code for a slot that is not enabled are open (log entry 26).
SPDM 1.2 at a port with an EID. GET_VERSION begins the connection, GET_CAPABILITIES and NEGOTIATE_ALGORITHMS go on with it, and
after them GET_DIGESTS, GET_CERTIFICATE, CHALLENGE and GET_MEASUREMENTS answer with the digest of the identity chain, a part of the
chain, and the measurement blocks, signed where asked over what the connection has exchanged. A request out of this order is answered
with UnexpectedRequest, one with an argument out of range with InvalidRequest, and any other request with UnsupportedRequest
(R423-R425). Nonces, timing exponents and buffer sizes are open (log entry 26). -/
def Obligations.ManagementAttestationAndSidebandAnswer : Prop :=
  (∀ (s : State) (h : HostPort),
     (s.serves h = true →
       (∀ op eid, op = 0 ∨ op = 1 → eid ≠ 0 → eid ≠ 0xFF → exec (.setEndpointId h op eid) s =
         .next (told (s.modPci h fun p => { p with eid := eid }) h (control 1 0 [0, eid, 0]))) ∧
       (∀ op eid, op = 2 ∨ ((op = 0 ∨ op = 1) ∧ (eid = 0 ∨ eid = 0xFF)) → exec (.setEndpointId h op eid) s = .next (told s h (control 1 2 []))) ∧
       exec (.getEndpointId h) s = .next (told s h (control 2 0 [(s.pci h).eid, 0, 0])) ∧
       ((s.pci h).eid ≠ 0 →
         (∀ q, exec (.getHealth h q) s = .next (told s h ([0x7E, 0x1F, 0x7D, 0x81, q, 0] ++
           bytesOfWords [s.sbd.status, s.planstat, s.evrstatus, s.pwr.input, w32 s.kuf.node.toNat]))) ∧
         (∀ q off, off.toNat % 32 = 0 → off.toNat < 0x400000 → exec (.readBb h q off) s = .next (told s h
           ([0x7E, 0x1F, 0x7D, 0x82, q, 0] ++ cellsGet 0 s.evr.blackbox off.toNat 32))) ∧
         (∀ q off, off.toNat % 32 ≠ 0 ∨ 0x400000 ≤ off.toNat → exec (.readBb h q off) s = .next (told s h [0x7E, 0x1F, 0x7D, 0x82, q, 2])) ∧
         (∀ q, s.isControl h = true ∨ s.recwin = true → exec (.resetModule h q) s =
           .next (told (s.modPci h fun p => { p with resetDue := true }) h [0x7E, 0x1F, 0x7D, 0x83, q, 0])) ∧
         (∀ q, s.isControl h = false → s.recwin = false → exec (.resetModule h q) s = .next (told s h [0x7E, 0x1F, 0x7D, 0x83, q, 1])) ∧
         (s.mayFuse h = false → (∀ q i d, exec (.fuseKey h q i d) s = .next (told s h [0x7E, 0x1F, 0x7D, 0x84, q, 1])) ∧
           ∀ q i, exec (.disableKey h q i) s = .next (told s h [0x7E, 0x1F, 0x7D, 0x85, q, 1])) ∧
         (s.mayFuse h = true →
           (∀ q (i : Byte) d, i = 0 ∨ 3 < i.toNat ∨ d.length ≠ 48 → exec (.fuseKey h q i d) s = .next (told s h [0x7E, 0x1F, 0x7D, 0x84, q, 2])) ∧
           (∀ q (i : Byte) d (k : Fin 4), i.toNat = k.val → k ≠ 0 → d.length = 48 →
             ((s.sbd.keys.get k).fused = true → exec (.fuseKey h q i d) s = .next (told s h [0x7E, 0x1F, 0x7D, 0x84, q, 3])) ∧
             ((s.sbd.keys.get k).fused = false → exec (.fuseKey h q i d) s = .next (told { s with sbd := { s.sbd with
               keys := s.sbd.keys.set k.val { fused := true, enabled := true, digest := BitVec.ofNat 384 (natOfBytes d) } } } h
               [0x7E, 0x1F, 0x7D, 0x84, q, 0]))) ∧
           (∀ q (i : Byte), 3 < i.toNat → exec (.disableKey h q i) s = .next (told s h [0x7E, 0x1F, 0x7D, 0x85, q, 2])) ∧
           (∀ q (i : Byte) (k : Fin 4), i.toNat = k.val →
             ((s.sbd.keys.get k).enabled = false → ∃ c, (c = 0 ∨ c = 2) ∧ exec (.disableKey h q i) s =
               .next { told s h [0x7E, 0x1F, 0x7D, 0x85, q, c] with freeCtr := s.freeCtr + 1 }) ∧
             ((s.sbd.keys.get k).enabled = true → (∀ j, j ≠ k → (s.sbd.keys.get j).enabled = false) → exec (.disableKey h q i) s =
               .next (told s h [0x7E, 0x1F, 0x7D, 0x85, q, 4])) ∧
             ((s.sbd.keys.get k).enabled = true → (∃ j, j ≠ k ∧ (s.sbd.keys.get j).enabled = true) → exec (.disableKey h q i) s =
               .next (told { s with sbd := { s.sbd with keys := s.sbd.keys.set k.val { s.sbd.keys.get k with enabled := false } } } h
                 [0x7E, 0x1F, 0x7D, 0x85, q, 0])))) ∧
         exec (.getEndpointUuid h) s = .next (told s h ([0, 3, 0] ++ bytesOfNat 16 Config.endpointUuid.toNat)) ∧
         (∀ x, x = 0xFF ∨ x = 0 → exec (.getMctpVersionSupport h x) s = .next (told s h [0, 4, 0, 1, 0xF1, 0xF3, 0xFF, 0])) ∧
         (∀ x, x = 5 ∨ x = 0x7E → ∃ b : List Byte, b.length = 4 ∧ exec (.getMctpVersionSupport h x) s =
           .next { told s h ([0, 4, 0, 1] ++ b) with freeCtr := s.freeCtr + 1 }) ∧
         (∀ x, x ≠ 0xFF → x ≠ 0 → x ≠ 5 → x ≠ 0x7E → exec (.getMctpVersionSupport h x) s = .next (told s h [0, 4, 0x80])) ∧
         exec (.getMessageTypeSupport h) s = .next (told s h [0, 5, 0, 2, 5, 0x7E]) ∧
         (∃ b : List Byte, b.length = 2 ∧ exec (.getVendorMessageSupport h 0) s =
           .next { told s h ([0, 6, 0, 0xFF, 0, 0x1F, 0x7D] ++ b) with freeCtr := s.freeCtr + 1 }) ∧
         (∀ x, x ≠ 0 → exec (.getVendorMessageSupport h x) s = .next (told s h [0, 6, 2])) ∧
         (∀ c : Byte, c = 0 ∨ 6 < c.toNat → exec (.unsupportedRequest h false c) s = .next (told s h [0, c, 5])))) ∧
     (s.pwr.railsOn = true → 2 ≤ s.sbd.step.toNat →
       (∀ a, s.pins.sbAddr = none → exec (.setdasa a) s = .next { s with pins := { s.pins with sbAddr := some a } }) ∧
       (∀ a b, s.pins.sbAddr = some b → exec (.setdasa a) s = .next s) ∧
       (∀ b : Byte, b.toNat % 4 = 0 → exec (.sidebandPointerWrite [b]) s = .next { s with pins := { s.pins with sbPtr := b.toNat } }) ∧
       (∀ b : Byte, b.toNat % 4 ≠ 0 → exec (.sidebandPointerWrite [b]) s = .next s) ∧
       (∀ l : List Byte, l.length ≠ 1 → exec (.sidebandPointerWrite l) s = .next s) ∧
       exec .sidebandWordRead s = .next { s with pins := { s.pins with
         sbOut := s.sidebandWord s.pins.sbPtr, sbPtr := (s.pins.sbPtr + 4) % 256 } } ∧
       exec .sbSclStuckTimeout s = .next { s with pins := { s.pins with sbAddr := none, sbPtr := 0, sbOut := 0 } })) ∧
  (∀ (s : State) (h : HostPort), s.serves h = true → (s.pci h).eid ≠ 0 →
     (exec (.getVersion h) s = .next (toldSpdm (s.modPci h fun p => { p with
       spdm := 1, transcript := [0x10, 0x84, 0, 0, 0x10, 0x04, 0, 0, 0, 1, 0, 0x12], certLog := [], measLog := [] }) h
         [0x10, 0x04, 0, 0, 0, 1, 0, 0x12])) ∧
     (∀ q, (s.pci h).spdm = 1 → ∃ t, ∃ x : Byte, ∃ y : List Byte, exec (.getCapabilities h q) s = .next t ∧ y.length = 8 ∧ (t.pci h).spdm = 2 ∧
       (t.pci h).mctp = 0x05 :: spdm 0x61 0 0 ([0, x, 0, 0, 0x16, 0, 0, 0] ++ y) ∧
       (t.pci h).transcript = (s.pci h).transcript ++ q ++ (t.pci h).mctp.tail ∧ Talked s t h) ∧
     (∀ q, (s.pci h).spdm = 2 → ∃ t, exec (.negotiateAlgorithms h q) s = .next t ∧ (t.pci h).spdm = 3 ∧
       (t.pci h).mctp = 0x05 :: spdm 0x63 0 0 ([36, 0, 1, 0, 4, 0, 0, 0, 0x80, 0, 0, 0, 2, 0, 0, 0] ++ zeros 16) ∧
       (t.pci h).transcript = (s.pci h).transcript ++ q ++ (t.pci h).mctp.tail ∧ Talked s t h) ∧
     ((s.pci h).spdm = 3 →
       (∃ t, exec (.getDigests h) s = .next t ∧ (t.pci h).mctp = 0x05 :: spdm 0x01 0 1 (sha384 Config.identityChain) ∧
         (t.pci h).certLog = (s.pci h).certLog ++ [0x12, 0x81, 0, 0] ++ (t.pci h).mctp.tail ∧ (t.pci h).transcript = (s.pci h).transcript ∧ Talked s t h) ∧
       (∀ (o n : BitVec 16) part, o.toNat < Config.identityChain.length → part = (Config.identityChain.drop o.toNat).take n.toNat →
         ∃ t, exec (.getCertificate h 0 o n) s = .next t ∧ (t.pci h).mctp = 0x05 :: spdm 0x02 0 0 (bytesOfNat 2 part.length ++
           bytesOfNat 2 (Config.identityChain.length - o.toNat - part.length) ++ part) ∧ (t.pci h).transcript = (s.pci h).transcript ∧ Talked s t h) ∧
       (∀ (i : Byte) (o n : BitVec 16), i ≠ 0 ∨ Config.identityChain.length ≤ o.toNat →
         exec (.getCertificate h i o n) s = .next (toldSpdm s h [0x12, 0x7F, 1, 0])) ∧
       (∀ (k : Byte) nonce, k = 0 ∨ k = 1 ∨ k = 0xFF → ∃ t, ∃ v sum sig : List Byte, exec (.challenge h 0 k nonce) s = .next t ∧ v.length = 32 ∧
         (k = 0 → sum = []) ∧ (k = 1 → sum.length = 48) ∧ (k = 0xFF → sum = sha384 s.measBlocks) ∧
         sig = signature ((s.pci h).transcript ++ (s.pci h).certLog ++ spdm 0x83 0 k.toNat nonce ++
           spdm 0x03 0 1 (sha384 Config.identityChain ++ v ++ sum ++ [0, 0])) s.freeCtr ∧
         (t.pci h).mctp = 0x05 :: spdm 0x03 0 1 (sha384 Config.identityChain ++ v ++ sum ++ [0, 0]) ++ sig ∧ (t.pci h).certLog = [] ∧
         (t.pci h).transcript = (s.pci h).transcript ∧ Talked s t h) ∧
       (∀ (i k : Byte) nonce, i ≠ 0 ∨ (k ≠ 0 ∧ k ≠ 1 ∧ k ≠ 0xFF) → exec (.challenge h i k nonce) s = .next (toldSpdm s h [0x12, 0x7F, 1, 0])) ∧
       (∀ (signed : Bool) (k : Byte) nonce (i : Byte), k.toNat ≤ 7 ∨ k = 0xFF → signed = false ∨ i = 0 → ∃ t, ∃ v sig r : List Byte,
         exec (.getMeasurements h signed k nonce i) s = .next t ∧ v.length = 32 ∧
         r = spdm 0x60 (if k = 0 then 7 else 0) 0 ([byte (measured s k.toNat).1] ++ bytesOfNat 3 (measured s k.toNat).2.length ++
           (measured s k.toNat).2 ++ v ++ [0, 0]) ∧
         (signed = false → sig = [] ∧ (t.pci h).measLog = (s.pci h).measLog ++ spdm 0xE0 0 k.toNat [] ++ r) ∧
         (signed = true → (t.pci h).measLog = [] ∧ sig = signature ((s.pci h).transcript ++ (s.pci h).measLog ++
           spdm 0xE0 1 k.toNat (nonce ++ [i]) ++ r) s.freeCtr) ∧
         (t.pci h).mctp = 0x05 :: r ++ sig ∧ (t.pci h).transcript = (s.pci h).transcript ∧ Talked s t h) ∧
       (∀ (signed : Bool) (k : Byte) nonce (i : Byte), (7 < k.toNat ∧ k ≠ 0xFF) ∨ (signed = true ∧ i ≠ 0) →
         exec (.getMeasurements h signed k nonce i) s = .next (toldSpdm s h [0x12, 0x7F, 1, 0]))) ∧
     (∀ c, ((s.pci h).spdm ≠ 1 ∧ ∃ q, c = .getCapabilities h q) ∨ ((s.pci h).spdm ≠ 2 ∧ ∃ q, c = .negotiateAlgorithms h q) ∨
         ((s.pci h).spdm ≠ 3 ∧ (c = .getDigests h ∨ (∃ i o n, c = .getCertificate h i o n) ∨ (∃ i k n, c = .challenge h i k n) ∨
           ∃ g k n i, c = .getMeasurements h g k n i)) → exec c s = .next (toldSpdm s h [0x12, 0x7F, 4, 0])) ∧
     (∀ c : Byte, c ∉ [0x84, 0xE1, 0xE3, 0x81, 0x82, 0x83, 0xE0] → exec (.unsupportedRequest h true c) s = .next (toldSpdm s h [0x12, 0x7F, 7, c])))

/-- Every step, whatever its command, answers a next state, takes exactly the front command off the queue, and keeps what is fused:
the order code, the serial number and the fused key slots. A disabled slot is never enabled again, and the last enabled slot is never
disabled (R385, R403, R422). -/
def Obligations.EveryStepKeepsTheFuses : Prop :=
  ∀ s : State, ∃ t, step s = .next t ∧ FusesKept s t ∧ t.pending = s.pending.tail

/-- Every step keeps device memory, the plot stores, the black box and the flash in canonical form, so that equal contents are equal
data (R184, R185, R372, R383). The form is the model's choice (log entry 76). -/
def Obligations.EveryStepKeepsStoresCanonical : Prop :=
  ∀ s : State, Canonical s → ∃ t, step s = .next t ∧ Canonical t

/-- After reset device memory, the plot stores, the black box and the flash are in canonical form (R184, R185, R372, R383). -/
def Obligations.ResetStoresAreCanonical : Prop :=
  Canonical State.reset

end
end

