-- ==== Sys2Proof/Laws/Bytes.lean ====
section
/-! SUPPORT. Words and the bytes that hold them, bit fields as division and remainder, and message headers read back. -/

namespace Sys2Proof.Machine

/-- A bit field is a quotient's remainder. -/
theorem bits_eq_div_mod (w : W32) (hi lo : Nat) : bits w hi lo = w.toNat / 2 ^ lo % 2 ^ (hi + 1 - lo) := by
  unfold bits; rw [Nat.shiftRight_eq_div_pow]

@[simp] theorem bytesOfNat_length (n v : Nat) : (bytesOfNat n v).length = n := by
  induction n generalizing v with
  | zero => rfl
  | succ n ih => simp [bytesOfNat, ih]

/-- n bytes of a number hold it modulo 256^n. -/
theorem natOfBytes_bytesOfNat (n v : Nat) : natOfBytes (bytesOfNat n v) = v % 256 ^ n := by
  induction n generalizing v with
  | zero => simp [bytesOfNat, natOfBytes, Nat.mod_one]
  | succ n ih =>
    simp only [bytesOfNat, natOfBytes, ih, BitVec.toNat_ofNat]
    have e : v % 256 ^ (n + 1) = v % 256 + 256 * (v / 256 % 256 ^ n) := by rw [Nat.pow_succ', Nat.mod_mul]
    rw [e]

@[simp] theorem bytesOfWord_length (w : W32) : (bytesOfWord w).length = 4 := bytesOfNat_length 4 _

/-- The four bytes of a word hold it. -/
theorem natOfBytes_bytesOfWord (w : W32) : natOfBytes (bytesOfWord w) = w.toNat := by
  unfold bytesOfWord
  rw [natOfBytes_bytesOfNat]
  exact Nat.mod_eq_of_lt w.isLt

/-- A word at the head of a list of bytes is read back. -/
theorem wordAt_bytesOfWord (w : W32) (r : List Byte) : wordAt (bytesOfWord w ++ r) 0 = w := by
  unfold wordAt
  rw [List.drop_zero, List.take_left' (bytesOfWord_length w), natOfBytes_bytesOfWord]
  simp [w32]

/-- The word at offset 0 of exactly its bytes. -/
theorem wordAt_bytesOfWord_self (w : W32) : wordAt (bytesOfWord w) 0 = w := by
  simpa using wordAt_bytesOfWord w []

/-- A word behind another. -/
theorem wordAt_skip (w : W32) (r : List Byte) (n : Nat) : wordAt (bytesOfWord w ++ r) (n + 4) = wordAt r n := by
  unfold wordAt
  rw [List.drop_append, List.drop_eq_nil_of_le (by simp), bytesOfWord_length]
  simp

/-- A word of a list's beginning. -/
theorem wordAt_take (b : List Byte) (n o : Nat) (h : o + 4 ≤ n) : wordAt (b.take n) o = wordAt b o := by
  unfold wordAt
  rw [List.drop_take, List.take_take, Nat.min_eq_left (by omega)]

/-- A header is read from a message's first 16 bytes (R251). -/
theorem header_take (b : List Byte) (n : Nat) (h : 16 ≤ n) : MsgHdr.ofBytes (b.take n) = MsgHdr.ofBytes b := by
  unfold MsgHdr.ofBytes
  rw [wordAt_take b n 0 (by omega), wordAt_take b n 4 (by omega), wordAt_take b n 8 (by omega)]

/-- The source, the destination, the type, the channel and the length of a message are read back from its bytes (R251). -/
theorem header_read_back (h : MsgHdr) (body : List Byte) (ht : h.mtype < 16) (hh : h.hops < 64) (hl : body.length < 512) :
    MsgHdr.ofBytes (mkMessage h body) = { h with len := body.length } := by
  obtain ⟨t, c, hp, l, sr, d, m⟩ := h
  simp only at ht hh
  unfold mkMessage MsgHdr.bytes MsgHdr.ofBytes
  simp only [bytesOfWords, List.flatMap_cons, List.flatMap_nil, List.append_assoc, List.append_nil]
  have e8 : ∀ a b r, wordAt (bytesOfWord a ++ (bytesOfWord b ++ r)) 8 = wordAt r 0 := fun a b r => by
    rw [wordAt_skip a _ 4, wordAt_skip b _ 0]
  rw [wordAt_bytesOfWord, wordAt_skip _ _ 0, wordAt_bytesOfWord, e8, wordAt_bytesOfWord]
  simp only [bits_eq_div_mod, w32, BitVec.toNat_ofNat]
  have hc := c.isLt; have hs := sr.isLt; have hd := d.isLt; have hm := m.isLt
  congr 1
  · omega
  · apply BitVec.eq_of_toNat_eq; rw [BitVec.toNat_ofNat]; omega
  · omega
  · omega
  · apply BitVec.eq_of_toNat_eq; rw [BitVec.toNat_ofNat]; omega
  · apply BitVec.eq_of_toNat_eq; rw [BitVec.toNat_ofNat]; omega
  · apply BitVec.eq_of_toNat_eq; rw [BitVec.toNat_ofNat]; omega

end Sys2Proof.Machine
end

