-- ==== Sys2Proof/Laws/State.lean ====
section
/-! SUPPORT. One lemma per field per update of a part of the state, and the read of the part that an update writes. -/

namespace Sys2Proof.Machine

/-! #### modPlot -/
@[simp] theorem State.modPlot_pending (s : State) (p : PlotIx) (f : Plot → Plot) : (s.modPlot p f).pending = s.pending := rfl
@[simp] theorem State.modPlot_sync (s : State) (p : PlotIx) (f : Plot → Plot) : (s.modPlot p f).sync = s.sync := rfl
@[simp] theorem State.modPlot_smod (s : State) (p : PlotIx) (f : Plot → Plot) : (s.modPlot p f).smod = s.smod := rfl
@[simp] theorem State.modPlot_mem (s : State) (p : PlotIx) (f : Plot → Plot) : (s.modPlot p f).mem = s.mem := rfl
@[simp] theorem State.modPlot_job (s : State) (p : PlotIx) (f : Plot → Plot) : (s.modPlot p f).job = s.job := rfl
@[simp] theorem State.modPlot_fb (s : State) (p : PlotIx) (f : Plot → Plot) : (s.modPlot p f).fb = s.fb := rfl
@[simp] theorem State.modPlot_rcv (s : State) (p : PlotIx) (f : Plot → Plot) : (s.modPlot p f).rcv = s.rcv := rfl
@[simp] theorem State.modPlot_kuf (s : State) (p : PlotIx) (f : Plot → Plot) : (s.modPlot p f).kuf = s.kuf := rfl
@[simp] theorem State.modPlot_pwr (s : State) (p : PlotIx) (f : Plot → Plot) : (s.modPlot p f).pwr = s.pwr := rfl
@[simp] theorem State.modPlot_evr (s : State) (p : PlotIx) (f : Plot → Plot) : (s.modPlot p f).evr = s.evr := rfl
@[simp] theorem State.modPlot_sbd (s : State) (p : PlotIx) (f : Plot → Plot) : (s.modPlot p f).sbd = s.sbd := rfl
@[simp] theorem State.modPlot_pciA (s : State) (p : PlotIx) (f : Plot → Plot) : (s.modPlot p f).pciA = s.pciA := rfl
@[simp] theorem State.modPlot_pciB (s : State) (p : PlotIx) (f : Plot → Plot) : (s.modPlot p f).pciB = s.pciB := rfl
@[simp] theorem State.modPlot_pins (s : State) (p : PlotIx) (f : Plot → Plot) : (s.modPlot p f).pins = s.pins := rfl
@[simp] theorem State.modPlot_dbg (s : State) (p : PlotIx) (f : Plot → Plot) : (s.modPlot p f).dbg = s.dbg := rfl
@[simp] theorem State.modPlot_freeCtr (s : State) (p : PlotIx) (f : Plot → Plot) : (s.modPlot p f).freeCtr = s.freeCtr := rfl

/-! #### setPlot -/
@[simp] theorem State.setPlot_pending (s : State) (p : PlotIx) (q : Plot) : (s.setPlot p q).pending = s.pending := rfl
@[simp] theorem State.setPlot_sync (s : State) (p : PlotIx) (q : Plot) : (s.setPlot p q).sync = s.sync := rfl
@[simp] theorem State.setPlot_smod (s : State) (p : PlotIx) (q : Plot) : (s.setPlot p q).smod = s.smod := rfl
@[simp] theorem State.setPlot_mem (s : State) (p : PlotIx) (q : Plot) : (s.setPlot p q).mem = s.mem := rfl
@[simp] theorem State.setPlot_job (s : State) (p : PlotIx) (q : Plot) : (s.setPlot p q).job = s.job := rfl
@[simp] theorem State.setPlot_fb (s : State) (p : PlotIx) (q : Plot) : (s.setPlot p q).fb = s.fb := rfl
@[simp] theorem State.setPlot_rcv (s : State) (p : PlotIx) (q : Plot) : (s.setPlot p q).rcv = s.rcv := rfl
@[simp] theorem State.setPlot_kuf (s : State) (p : PlotIx) (q : Plot) : (s.setPlot p q).kuf = s.kuf := rfl
@[simp] theorem State.setPlot_pwr (s : State) (p : PlotIx) (q : Plot) : (s.setPlot p q).pwr = s.pwr := rfl
@[simp] theorem State.setPlot_evr (s : State) (p : PlotIx) (q : Plot) : (s.setPlot p q).evr = s.evr := rfl
@[simp] theorem State.setPlot_sbd (s : State) (p : PlotIx) (q : Plot) : (s.setPlot p q).sbd = s.sbd := rfl
@[simp] theorem State.setPlot_pciA (s : State) (p : PlotIx) (q : Plot) : (s.setPlot p q).pciA = s.pciA := rfl
@[simp] theorem State.setPlot_pciB (s : State) (p : PlotIx) (q : Plot) : (s.setPlot p q).pciB = s.pciB := rfl
@[simp] theorem State.setPlot_pins (s : State) (p : PlotIx) (q : Plot) : (s.setPlot p q).pins = s.pins := rfl
@[simp] theorem State.setPlot_dbg (s : State) (p : PlotIx) (q : Plot) : (s.setPlot p q).dbg = s.dbg := rfl
@[simp] theorem State.setPlot_freeCtr (s : State) (p : PlotIx) (q : Plot) : (s.setPlot p q).freeCtr = s.freeCtr := rfl

/-! #### modSeq -/
@[simp] theorem State.modSeq_pending (s : State) (p : PlotIx) (f : Seq → Seq) : (s.modSeq p f).pending = s.pending := rfl
@[simp] theorem State.modSeq_sync (s : State) (p : PlotIx) (f : Seq → Seq) : (s.modSeq p f).sync = s.sync := rfl
@[simp] theorem State.modSeq_smod (s : State) (p : PlotIx) (f : Seq → Seq) : (s.modSeq p f).smod = s.smod := rfl
@[simp] theorem State.modSeq_mem (s : State) (p : PlotIx) (f : Seq → Seq) : (s.modSeq p f).mem = s.mem := rfl
@[simp] theorem State.modSeq_job (s : State) (p : PlotIx) (f : Seq → Seq) : (s.modSeq p f).job = s.job := rfl
@[simp] theorem State.modSeq_fb (s : State) (p : PlotIx) (f : Seq → Seq) : (s.modSeq p f).fb = s.fb := rfl
@[simp] theorem State.modSeq_rcv (s : State) (p : PlotIx) (f : Seq → Seq) : (s.modSeq p f).rcv = s.rcv := rfl
@[simp] theorem State.modSeq_kuf (s : State) (p : PlotIx) (f : Seq → Seq) : (s.modSeq p f).kuf = s.kuf := rfl
@[simp] theorem State.modSeq_pwr (s : State) (p : PlotIx) (f : Seq → Seq) : (s.modSeq p f).pwr = s.pwr := rfl
@[simp] theorem State.modSeq_evr (s : State) (p : PlotIx) (f : Seq → Seq) : (s.modSeq p f).evr = s.evr := rfl
@[simp] theorem State.modSeq_sbd (s : State) (p : PlotIx) (f : Seq → Seq) : (s.modSeq p f).sbd = s.sbd := rfl
@[simp] theorem State.modSeq_pciA (s : State) (p : PlotIx) (f : Seq → Seq) : (s.modSeq p f).pciA = s.pciA := rfl
@[simp] theorem State.modSeq_pciB (s : State) (p : PlotIx) (f : Seq → Seq) : (s.modSeq p f).pciB = s.pciB := rfl
@[simp] theorem State.modSeq_pins (s : State) (p : PlotIx) (f : Seq → Seq) : (s.modSeq p f).pins = s.pins := rfl
@[simp] theorem State.modSeq_dbg (s : State) (p : PlotIx) (f : Seq → Seq) : (s.modSeq p f).dbg = s.dbg := rfl
@[simp] theorem State.modSeq_freeCtr (s : State) (p : PlotIx) (f : Seq → Seq) : (s.modSeq p f).freeCtr = s.freeCtr := rfl

/-! #### psWrite -/
@[simp] theorem State.psWrite_pending (s : State) (p : PlotIx) (a : Nat) (v : List Byte) : (s.psWrite p a v).pending = s.pending := rfl
@[simp] theorem State.psWrite_sync (s : State) (p : PlotIx) (a : Nat) (v : List Byte) : (s.psWrite p a v).sync = s.sync := rfl
@[simp] theorem State.psWrite_smod (s : State) (p : PlotIx) (a : Nat) (v : List Byte) : (s.psWrite p a v).smod = s.smod := rfl
@[simp] theorem State.psWrite_mem (s : State) (p : PlotIx) (a : Nat) (v : List Byte) : (s.psWrite p a v).mem = s.mem := rfl
@[simp] theorem State.psWrite_job (s : State) (p : PlotIx) (a : Nat) (v : List Byte) : (s.psWrite p a v).job = s.job := rfl
@[simp] theorem State.psWrite_fb (s : State) (p : PlotIx) (a : Nat) (v : List Byte) : (s.psWrite p a v).fb = s.fb := rfl
@[simp] theorem State.psWrite_rcv (s : State) (p : PlotIx) (a : Nat) (v : List Byte) : (s.psWrite p a v).rcv = s.rcv := rfl
@[simp] theorem State.psWrite_kuf (s : State) (p : PlotIx) (a : Nat) (v : List Byte) : (s.psWrite p a v).kuf = s.kuf := rfl
@[simp] theorem State.psWrite_pwr (s : State) (p : PlotIx) (a : Nat) (v : List Byte) : (s.psWrite p a v).pwr = s.pwr := rfl
@[simp] theorem State.psWrite_evr (s : State) (p : PlotIx) (a : Nat) (v : List Byte) : (s.psWrite p a v).evr = s.evr := rfl
@[simp] theorem State.psWrite_sbd (s : State) (p : PlotIx) (a : Nat) (v : List Byte) : (s.psWrite p a v).sbd = s.sbd := rfl
@[simp] theorem State.psWrite_pciA (s : State) (p : PlotIx) (a : Nat) (v : List Byte) : (s.psWrite p a v).pciA = s.pciA := rfl
@[simp] theorem State.psWrite_pciB (s : State) (p : PlotIx) (a : Nat) (v : List Byte) : (s.psWrite p a v).pciB = s.pciB := rfl
@[simp] theorem State.psWrite_pins (s : State) (p : PlotIx) (a : Nat) (v : List Byte) : (s.psWrite p a v).pins = s.pins := rfl
@[simp] theorem State.psWrite_dbg (s : State) (p : PlotIx) (a : Nat) (v : List Byte) : (s.psWrite p a v).dbg = s.dbg := rfl
@[simp] theorem State.psWrite_freeCtr (s : State) (p : PlotIx) (a : Nat) (v : List Byte) : (s.psWrite p a v).freeCtr = s.freeCtr := rfl

/-! #### modUnit -/
@[simp] theorem State.modUnit_pending (s : State) (d : DieIx) (f : SyncDie → SyncDie) : (s.modUnit d f).pending = s.pending := rfl
@[simp] theorem State.modUnit_plots (s : State) (d : DieIx) (f : SyncDie → SyncDie) : (s.modUnit d f).plots = s.plots := rfl
@[simp] theorem State.modUnit_smod (s : State) (d : DieIx) (f : SyncDie → SyncDie) : (s.modUnit d f).smod = s.smod := rfl
@[simp] theorem State.modUnit_mem (s : State) (d : DieIx) (f : SyncDie → SyncDie) : (s.modUnit d f).mem = s.mem := rfl
@[simp] theorem State.modUnit_job (s : State) (d : DieIx) (f : SyncDie → SyncDie) : (s.modUnit d f).job = s.job := rfl
@[simp] theorem State.modUnit_fb (s : State) (d : DieIx) (f : SyncDie → SyncDie) : (s.modUnit d f).fb = s.fb := rfl
@[simp] theorem State.modUnit_rcv (s : State) (d : DieIx) (f : SyncDie → SyncDie) : (s.modUnit d f).rcv = s.rcv := rfl
@[simp] theorem State.modUnit_kuf (s : State) (d : DieIx) (f : SyncDie → SyncDie) : (s.modUnit d f).kuf = s.kuf := rfl
@[simp] theorem State.modUnit_pwr (s : State) (d : DieIx) (f : SyncDie → SyncDie) : (s.modUnit d f).pwr = s.pwr := rfl
@[simp] theorem State.modUnit_evr (s : State) (d : DieIx) (f : SyncDie → SyncDie) : (s.modUnit d f).evr = s.evr := rfl
@[simp] theorem State.modUnit_sbd (s : State) (d : DieIx) (f : SyncDie → SyncDie) : (s.modUnit d f).sbd = s.sbd := rfl
@[simp] theorem State.modUnit_pciA (s : State) (d : DieIx) (f : SyncDie → SyncDie) : (s.modUnit d f).pciA = s.pciA := rfl
@[simp] theorem State.modUnit_pciB (s : State) (d : DieIx) (f : SyncDie → SyncDie) : (s.modUnit d f).pciB = s.pciB := rfl
@[simp] theorem State.modUnit_pins (s : State) (d : DieIx) (f : SyncDie → SyncDie) : (s.modUnit d f).pins = s.pins := rfl
@[simp] theorem State.modUnit_dbg (s : State) (d : DieIx) (f : SyncDie → SyncDie) : (s.modUnit d f).dbg = s.dbg := rfl
@[simp] theorem State.modUnit_freeCtr (s : State) (d : DieIx) (f : SyncDie → SyncDie) : (s.modUnit d f).freeCtr = s.freeCtr := rfl

/-! #### modDie -/
@[simp] theorem State.modDie_pending (s : State) (d : DieIx) (f : BaseDie → BaseDie) : (s.modDie d f).pending = s.pending := rfl
@[simp] theorem State.modDie_plots (s : State) (d : DieIx) (f : BaseDie → BaseDie) : (s.modDie d f).plots = s.plots := rfl
@[simp] theorem State.modDie_sync (s : State) (d : DieIx) (f : BaseDie → BaseDie) : (s.modDie d f).sync = s.sync := rfl
@[simp] theorem State.modDie_smod (s : State) (d : DieIx) (f : BaseDie → BaseDie) : (s.modDie d f).smod = s.smod := rfl
@[simp] theorem State.modDie_job (s : State) (d : DieIx) (f : BaseDie → BaseDie) : (s.modDie d f).job = s.job := rfl
@[simp] theorem State.modDie_fb (s : State) (d : DieIx) (f : BaseDie → BaseDie) : (s.modDie d f).fb = s.fb := rfl
@[simp] theorem State.modDie_rcv (s : State) (d : DieIx) (f : BaseDie → BaseDie) : (s.modDie d f).rcv = s.rcv := rfl
@[simp] theorem State.modDie_kuf (s : State) (d : DieIx) (f : BaseDie → BaseDie) : (s.modDie d f).kuf = s.kuf := rfl
@[simp] theorem State.modDie_pwr (s : State) (d : DieIx) (f : BaseDie → BaseDie) : (s.modDie d f).pwr = s.pwr := rfl
@[simp] theorem State.modDie_evr (s : State) (d : DieIx) (f : BaseDie → BaseDie) : (s.modDie d f).evr = s.evr := rfl
@[simp] theorem State.modDie_sbd (s : State) (d : DieIx) (f : BaseDie → BaseDie) : (s.modDie d f).sbd = s.sbd := rfl
@[simp] theorem State.modDie_pciA (s : State) (d : DieIx) (f : BaseDie → BaseDie) : (s.modDie d f).pciA = s.pciA := rfl
@[simp] theorem State.modDie_pciB (s : State) (d : DieIx) (f : BaseDie → BaseDie) : (s.modDie d f).pciB = s.pciB := rfl
@[simp] theorem State.modDie_pins (s : State) (d : DieIx) (f : BaseDie → BaseDie) : (s.modDie d f).pins = s.pins := rfl
@[simp] theorem State.modDie_dbg (s : State) (d : DieIx) (f : BaseDie → BaseDie) : (s.modDie d f).dbg = s.dbg := rfl
@[simp] theorem State.modDie_freeCtr (s : State) (d : DieIx) (f : BaseDie → BaseDie) : (s.modDie d f).freeCtr = s.freeCtr := rfl

/-! #### modPkg -/
@[simp] theorem State.modPkg_pending (s : State) (d : PkgIx) (f : Package → Package) : (s.modPkg d f).pending = s.pending := rfl
@[simp] theorem State.modPkg_plots (s : State) (d : PkgIx) (f : Package → Package) : (s.modPkg d f).plots = s.plots := rfl
@[simp] theorem State.modPkg_sync (s : State) (d : PkgIx) (f : Package → Package) : (s.modPkg d f).sync = s.sync := rfl
@[simp] theorem State.modPkg_smod (s : State) (d : PkgIx) (f : Package → Package) : (s.modPkg d f).smod = s.smod := rfl
@[simp] theorem State.modPkg_job (s : State) (d : PkgIx) (f : Package → Package) : (s.modPkg d f).job = s.job := rfl
@[simp] theorem State.modPkg_fb (s : State) (d : PkgIx) (f : Package → Package) : (s.modPkg d f).fb = s.fb := rfl
@[simp] theorem State.modPkg_rcv (s : State) (d : PkgIx) (f : Package → Package) : (s.modPkg d f).rcv = s.rcv := rfl
@[simp] theorem State.modPkg_kuf (s : State) (d : PkgIx) (f : Package → Package) : (s.modPkg d f).kuf = s.kuf := rfl
@[simp] theorem State.modPkg_pwr (s : State) (d : PkgIx) (f : Package → Package) : (s.modPkg d f).pwr = s.pwr := rfl
@[simp] theorem State.modPkg_evr (s : State) (d : PkgIx) (f : Package → Package) : (s.modPkg d f).evr = s.evr := rfl
@[simp] theorem State.modPkg_sbd (s : State) (d : PkgIx) (f : Package → Package) : (s.modPkg d f).sbd = s.sbd := rfl
@[simp] theorem State.modPkg_pciA (s : State) (d : PkgIx) (f : Package → Package) : (s.modPkg d f).pciA = s.pciA := rfl
@[simp] theorem State.modPkg_pciB (s : State) (d : PkgIx) (f : Package → Package) : (s.modPkg d f).pciB = s.pciB := rfl
@[simp] theorem State.modPkg_pins (s : State) (d : PkgIx) (f : Package → Package) : (s.modPkg d f).pins = s.pins := rfl
@[simp] theorem State.modPkg_dbg (s : State) (d : PkgIx) (f : Package → Package) : (s.modPkg d f).dbg = s.dbg := rfl
@[simp] theorem State.modPkg_freeCtr (s : State) (d : PkgIx) (f : Package → Package) : (s.modPkg d f).freeCtr = s.freeCtr := rfl

/-! #### engineWrite -/
@[simp] theorem State.engineWrite_pending (s : State) (a : Nat) (v : List Byte) : (s.engineWrite a v).pending = s.pending := rfl
@[simp] theorem State.engineWrite_plots (s : State) (a : Nat) (v : List Byte) : (s.engineWrite a v).plots = s.plots := rfl
@[simp] theorem State.engineWrite_sync (s : State) (a : Nat) (v : List Byte) : (s.engineWrite a v).sync = s.sync := rfl
@[simp] theorem State.engineWrite_smod (s : State) (a : Nat) (v : List Byte) : (s.engineWrite a v).smod = s.smod := rfl
@[simp] theorem State.engineWrite_job (s : State) (a : Nat) (v : List Byte) : (s.engineWrite a v).job = s.job := rfl
@[simp] theorem State.engineWrite_fb (s : State) (a : Nat) (v : List Byte) : (s.engineWrite a v).fb = s.fb := rfl
@[simp] theorem State.engineWrite_rcv (s : State) (a : Nat) (v : List Byte) : (s.engineWrite a v).rcv = s.rcv := rfl
@[simp] theorem State.engineWrite_kuf (s : State) (a : Nat) (v : List Byte) : (s.engineWrite a v).kuf = s.kuf := rfl
@[simp] theorem State.engineWrite_pwr (s : State) (a : Nat) (v : List Byte) : (s.engineWrite a v).pwr = s.pwr := rfl
@[simp] theorem State.engineWrite_evr (s : State) (a : Nat) (v : List Byte) : (s.engineWrite a v).evr = s.evr := rfl
@[simp] theorem State.engineWrite_sbd (s : State) (a : Nat) (v : List Byte) : (s.engineWrite a v).sbd = s.sbd := rfl
@[simp] theorem State.engineWrite_pciA (s : State) (a : Nat) (v : List Byte) : (s.engineWrite a v).pciA = s.pciA := rfl
@[simp] theorem State.engineWrite_pciB (s : State) (a : Nat) (v : List Byte) : (s.engineWrite a v).pciB = s.pciB := rfl
@[simp] theorem State.engineWrite_pins (s : State) (a : Nat) (v : List Byte) : (s.engineWrite a v).pins = s.pins := rfl
@[simp] theorem State.engineWrite_dbg (s : State) (a : Nat) (v : List Byte) : (s.engineWrite a v).dbg = s.dbg := rfl
@[simp] theorem State.engineWrite_freeCtr (s : State) (a : Nat) (v : List Byte) : (s.engineWrite a v).freeCtr = s.freeCtr := rfl

/-! #### modKport -/
@[simp] theorem State.modKport_pending (s : State) (k : KPort) (f : KufPort → KufPort) : (s.modKport k f).pending = s.pending := rfl
@[simp] theorem State.modKport_plots (s : State) (k : KPort) (f : KufPort → KufPort) : (s.modKport k f).plots = s.plots := rfl
@[simp] theorem State.modKport_sync (s : State) (k : KPort) (f : KufPort → KufPort) : (s.modKport k f).sync = s.sync := rfl
@[simp] theorem State.modKport_smod (s : State) (k : KPort) (f : KufPort → KufPort) : (s.modKport k f).smod = s.smod := rfl
@[simp] theorem State.modKport_mem (s : State) (k : KPort) (f : KufPort → KufPort) : (s.modKport k f).mem = s.mem := rfl
@[simp] theorem State.modKport_job (s : State) (k : KPort) (f : KufPort → KufPort) : (s.modKport k f).job = s.job := rfl
@[simp] theorem State.modKport_fb (s : State) (k : KPort) (f : KufPort → KufPort) : (s.modKport k f).fb = s.fb := rfl
@[simp] theorem State.modKport_rcv (s : State) (k : KPort) (f : KufPort → KufPort) : (s.modKport k f).rcv = s.rcv := rfl
@[simp] theorem State.modKport_pwr (s : State) (k : KPort) (f : KufPort → KufPort) : (s.modKport k f).pwr = s.pwr := rfl
@[simp] theorem State.modKport_evr (s : State) (k : KPort) (f : KufPort → KufPort) : (s.modKport k f).evr = s.evr := rfl
@[simp] theorem State.modKport_sbd (s : State) (k : KPort) (f : KufPort → KufPort) : (s.modKport k f).sbd = s.sbd := rfl
@[simp] theorem State.modKport_pciA (s : State) (k : KPort) (f : KufPort → KufPort) : (s.modKport k f).pciA = s.pciA := rfl
@[simp] theorem State.modKport_pciB (s : State) (k : KPort) (f : KufPort → KufPort) : (s.modKport k f).pciB = s.pciB := rfl
@[simp] theorem State.modKport_pins (s : State) (k : KPort) (f : KufPort → KufPort) : (s.modKport k f).pins = s.pins := rfl
@[simp] theorem State.modKport_dbg (s : State) (k : KPort) (f : KufPort → KufPort) : (s.modKport k f).dbg = s.dbg := rfl
@[simp] theorem State.modKport_freeCtr (s : State) (k : KPort) (f : KufPort → KufPort) : (s.modKport k f).freeCtr = s.freeCtr := rfl

/-! #### modStrip -/
@[simp] theorem State.modStrip_pending (s : State) (i : StripIx) (f : Strip → Strip) : (s.modStrip i f).pending = s.pending := rfl
@[simp] theorem State.modStrip_plots (s : State) (i : StripIx) (f : Strip → Strip) : (s.modStrip i f).plots = s.plots := rfl
@[simp] theorem State.modStrip_sync (s : State) (i : StripIx) (f : Strip → Strip) : (s.modStrip i f).sync = s.sync := rfl
@[simp] theorem State.modStrip_smod (s : State) (i : StripIx) (f : Strip → Strip) : (s.modStrip i f).smod = s.smod := rfl
@[simp] theorem State.modStrip_mem (s : State) (i : StripIx) (f : Strip → Strip) : (s.modStrip i f).mem = s.mem := rfl
@[simp] theorem State.modStrip_job (s : State) (i : StripIx) (f : Strip → Strip) : (s.modStrip i f).job = s.job := rfl
@[simp] theorem State.modStrip_fb (s : State) (i : StripIx) (f : Strip → Strip) : (s.modStrip i f).fb = s.fb := rfl
@[simp] theorem State.modStrip_rcv (s : State) (i : StripIx) (f : Strip → Strip) : (s.modStrip i f).rcv = s.rcv := rfl
@[simp] theorem State.modStrip_kuf (s : State) (i : StripIx) (f : Strip → Strip) : (s.modStrip i f).kuf = s.kuf := rfl
@[simp] theorem State.modStrip_evr (s : State) (i : StripIx) (f : Strip → Strip) : (s.modStrip i f).evr = s.evr := rfl
@[simp] theorem State.modStrip_sbd (s : State) (i : StripIx) (f : Strip → Strip) : (s.modStrip i f).sbd = s.sbd := rfl
@[simp] theorem State.modStrip_pciA (s : State) (i : StripIx) (f : Strip → Strip) : (s.modStrip i f).pciA = s.pciA := rfl
@[simp] theorem State.modStrip_pciB (s : State) (i : StripIx) (f : Strip → Strip) : (s.modStrip i f).pciB = s.pciB := rfl
@[simp] theorem State.modStrip_pins (s : State) (i : StripIx) (f : Strip → Strip) : (s.modStrip i f).pins = s.pins := rfl
@[simp] theorem State.modStrip_dbg (s : State) (i : StripIx) (f : Strip → Strip) : (s.modStrip i f).dbg = s.dbg := rfl
@[simp] theorem State.modStrip_freeCtr (s : State) (i : StripIx) (f : Strip → Strip) : (s.modStrip i f).freeCtr = s.freeCtr := rfl

/-! #### modTrace -/
@[simp] theorem State.modTrace_pending (s : State) (d : DieIx) (f : TraceDie → TraceDie) : (s.modTrace d f).pending = s.pending := rfl
@[simp] theorem State.modTrace_plots (s : State) (d : DieIx) (f : TraceDie → TraceDie) : (s.modTrace d f).plots = s.plots := rfl
@[simp] theorem State.modTrace_sync (s : State) (d : DieIx) (f : TraceDie → TraceDie) : (s.modTrace d f).sync = s.sync := rfl
@[simp] theorem State.modTrace_smod (s : State) (d : DieIx) (f : TraceDie → TraceDie) : (s.modTrace d f).smod = s.smod := rfl
@[simp] theorem State.modTrace_mem (s : State) (d : DieIx) (f : TraceDie → TraceDie) : (s.modTrace d f).mem = s.mem := rfl
@[simp] theorem State.modTrace_job (s : State) (d : DieIx) (f : TraceDie → TraceDie) : (s.modTrace d f).job = s.job := rfl
@[simp] theorem State.modTrace_fb (s : State) (d : DieIx) (f : TraceDie → TraceDie) : (s.modTrace d f).fb = s.fb := rfl
@[simp] theorem State.modTrace_rcv (s : State) (d : DieIx) (f : TraceDie → TraceDie) : (s.modTrace d f).rcv = s.rcv := rfl
@[simp] theorem State.modTrace_kuf (s : State) (d : DieIx) (f : TraceDie → TraceDie) : (s.modTrace d f).kuf = s.kuf := rfl
@[simp] theorem State.modTrace_pwr (s : State) (d : DieIx) (f : TraceDie → TraceDie) : (s.modTrace d f).pwr = s.pwr := rfl
@[simp] theorem State.modTrace_evr (s : State) (d : DieIx) (f : TraceDie → TraceDie) : (s.modTrace d f).evr = s.evr := rfl
@[simp] theorem State.modTrace_sbd (s : State) (d : DieIx) (f : TraceDie → TraceDie) : (s.modTrace d f).sbd = s.sbd := rfl
@[simp] theorem State.modTrace_pciA (s : State) (d : DieIx) (f : TraceDie → TraceDie) : (s.modTrace d f).pciA = s.pciA := rfl
@[simp] theorem State.modTrace_pciB (s : State) (d : DieIx) (f : TraceDie → TraceDie) : (s.modTrace d f).pciB = s.pciB := rfl
@[simp] theorem State.modTrace_pins (s : State) (d : DieIx) (f : TraceDie → TraceDie) : (s.modTrace d f).pins = s.pins := rfl
@[simp] theorem State.modTrace_freeCtr (s : State) (d : DieIx) (f : TraceDie → TraceDie) : (s.modTrace d f).freeCtr = s.freeCtr := rfl

/-! #### modPci -/
@[simp] theorem State.modPci_pending (s : State) (h : HostPort) (f : Pci → Pci) : (s.modPci h f).pending = s.pending := by cases h <;> rfl
@[simp] theorem State.modPci_plots (s : State) (h : HostPort) (f : Pci → Pci) : (s.modPci h f).plots = s.plots := by cases h <;> rfl
@[simp] theorem State.modPci_sync (s : State) (h : HostPort) (f : Pci → Pci) : (s.modPci h f).sync = s.sync := by cases h <;> rfl
@[simp] theorem State.modPci_smod (s : State) (h : HostPort) (f : Pci → Pci) : (s.modPci h f).smod = s.smod := by cases h <;> rfl
@[simp] theorem State.modPci_mem (s : State) (h : HostPort) (f : Pci → Pci) : (s.modPci h f).mem = s.mem := by cases h <;> rfl
@[simp] theorem State.modPci_job (s : State) (h : HostPort) (f : Pci → Pci) : (s.modPci h f).job = s.job := by cases h <;> rfl
@[simp] theorem State.modPci_fb (s : State) (h : HostPort) (f : Pci → Pci) : (s.modPci h f).fb = s.fb := by cases h <;> rfl
@[simp] theorem State.modPci_rcv (s : State) (h : HostPort) (f : Pci → Pci) : (s.modPci h f).rcv = s.rcv := by cases h <;> rfl
@[simp] theorem State.modPci_kuf (s : State) (h : HostPort) (f : Pci → Pci) : (s.modPci h f).kuf = s.kuf := by cases h <;> rfl
@[simp] theorem State.modPci_pwr (s : State) (h : HostPort) (f : Pci → Pci) : (s.modPci h f).pwr = s.pwr := by cases h <;> rfl
@[simp] theorem State.modPci_evr (s : State) (h : HostPort) (f : Pci → Pci) : (s.modPci h f).evr = s.evr := by cases h <;> rfl
@[simp] theorem State.modPci_sbd (s : State) (h : HostPort) (f : Pci → Pci) : (s.modPci h f).sbd = s.sbd := by cases h <;> rfl
@[simp] theorem State.modPci_pins (s : State) (h : HostPort) (f : Pci → Pci) : (s.modPci h f).pins = s.pins := by cases h <;> rfl
@[simp] theorem State.modPci_dbg (s : State) (h : HostPort) (f : Pci → Pci) : (s.modPci h f).dbg = s.dbg := by cases h <;> rfl
@[simp] theorem State.modPci_freeCtr (s : State) (h : HostPort) (f : Pci → Pci) : (s.modPci h f).freeCtr = s.freeCtr := by cases h <;> rfl

/-! #### modHalf -/
@[simp] theorem State.modHalf_pending (s : State) (h : Half) (f : RecHalf → RecHalf) : (s.modHalf h f).pending = s.pending := by cases h <;> rfl
@[simp] theorem State.modHalf_plots (s : State) (h : Half) (f : RecHalf → RecHalf) : (s.modHalf h f).plots = s.plots := by cases h <;> rfl
@[simp] theorem State.modHalf_sync (s : State) (h : Half) (f : RecHalf → RecHalf) : (s.modHalf h f).sync = s.sync := by cases h <;> rfl
@[simp] theorem State.modHalf_smod (s : State) (h : Half) (f : RecHalf → RecHalf) : (s.modHalf h f).smod = s.smod := by cases h <;> rfl
@[simp] theorem State.modHalf_mem (s : State) (h : Half) (f : RecHalf → RecHalf) : (s.modHalf h f).mem = s.mem := by cases h <;> rfl
@[simp] theorem State.modHalf_job (s : State) (h : Half) (f : RecHalf → RecHalf) : (s.modHalf h f).job = s.job := by cases h <;> rfl
@[simp] theorem State.modHalf_fb (s : State) (h : Half) (f : RecHalf → RecHalf) : (s.modHalf h f).fb = s.fb := by cases h <;> rfl
@[simp] theorem State.modHalf_rcv (s : State) (h : Half) (f : RecHalf → RecHalf) : (s.modHalf h f).rcv = s.rcv := by cases h <;> rfl
@[simp] theorem State.modHalf_kuf (s : State) (h : Half) (f : RecHalf → RecHalf) : (s.modHalf h f).kuf = s.kuf := by cases h <;> rfl
@[simp] theorem State.modHalf_pwr (s : State) (h : Half) (f : RecHalf → RecHalf) : (s.modHalf h f).pwr = s.pwr := by cases h <;> rfl
@[simp] theorem State.modHalf_sbd (s : State) (h : Half) (f : RecHalf → RecHalf) : (s.modHalf h f).sbd = s.sbd := by cases h <;> rfl
@[simp] theorem State.modHalf_pciA (s : State) (h : Half) (f : RecHalf → RecHalf) : (s.modHalf h f).pciA = s.pciA := by cases h <;> rfl
@[simp] theorem State.modHalf_pciB (s : State) (h : Half) (f : RecHalf → RecHalf) : (s.modHalf h f).pciB = s.pciB := by cases h <;> rfl
@[simp] theorem State.modHalf_pins (s : State) (h : Half) (f : RecHalf → RecHalf) : (s.modHalf h f).pins = s.pins := by cases h <;> rfl
@[simp] theorem State.modHalf_dbg (s : State) (h : Half) (f : RecHalf → RecHalf) : (s.modHalf h f).dbg = s.dbg := by cases h <;> rfl
@[simp] theorem State.modHalf_freeCtr (s : State) (h : Half) (f : RecHalf → RecHalf) : (s.modHalf h f).freeCtr = s.freeCtr := by cases h <;> rfl

/-! #### free values and error reports -/
@[simp] theorem State.free_pending (s : State) : s.free.2.pending = s.pending := rfl
@[simp] theorem State.free_plots (s : State) : s.free.2.plots = s.plots := rfl
@[simp] theorem State.free_sync (s : State) : s.free.2.sync = s.sync := rfl
@[simp] theorem State.free_smod (s : State) : s.free.2.smod = s.smod := rfl
@[simp] theorem State.free_mem (s : State) : s.free.2.mem = s.mem := rfl
@[simp] theorem State.free_job (s : State) : s.free.2.job = s.job := rfl
@[simp] theorem State.free_fb (s : State) : s.free.2.fb = s.fb := rfl
@[simp] theorem State.free_rcv (s : State) : s.free.2.rcv = s.rcv := rfl
@[simp] theorem State.free_kuf (s : State) : s.free.2.kuf = s.kuf := rfl
@[simp] theorem State.free_pwr (s : State) : s.free.2.pwr = s.pwr := rfl
@[simp] theorem State.free_evr (s : State) : s.free.2.evr = s.evr := rfl
@[simp] theorem State.free_sbd (s : State) : s.free.2.sbd = s.sbd := rfl
@[simp] theorem State.free_pciA (s : State) : s.free.2.pciA = s.pciA := rfl
@[simp] theorem State.free_pciB (s : State) : s.free.2.pciB = s.pciB := rfl
@[simp] theorem State.free_pins (s : State) : s.free.2.pins = s.pins := rfl
@[simp] theorem State.free_dbg (s : State) : s.free.2.dbg = s.dbg := rfl
@[simp] theorem State.raise_pending (s : State) (h : Half) (e : ErrRep) : (s.raise h e).pending = s.pending := by cases h <;> rfl
@[simp] theorem State.raiseLead_pending (s : State) (e : ErrRep) : (s.raiseLead e).pending = s.pending := State.raise_pending s _ e
@[simp] theorem State.notice_pending (s : State) (ev obj : Nat) (det : List Nat) : (s.notice ev obj det).pending = s.pending :=
  State.raise_pending s _ _
@[simp] theorem State.noticeFrom_pending (s : State) (c : BitVec 4) (ev obj : Nat) (det : List Nat) :
    (s.noticeFrom c ev obj det).pending = s.pending := State.raise_pending s _ _
@[simp] theorem State.raise_plots (s : State) (h : Half) (e : ErrRep) : (s.raise h e).plots = s.plots := by cases h <;> rfl
@[simp] theorem State.raiseLead_plots (s : State) (e : ErrRep) : (s.raiseLead e).plots = s.plots := State.raise_plots s _ e
@[simp] theorem State.notice_plots (s : State) (ev obj : Nat) (det : List Nat) : (s.notice ev obj det).plots = s.plots :=
  State.raise_plots s _ _
@[simp] theorem State.noticeFrom_plots (s : State) (c : BitVec 4) (ev obj : Nat) (det : List Nat) :
    (s.noticeFrom c ev obj det).plots = s.plots := State.raise_plots s _ _
@[simp] theorem State.raise_sync (s : State) (h : Half) (e : ErrRep) : (s.raise h e).sync = s.sync := by cases h <;> rfl
@[simp] theorem State.raiseLead_sync (s : State) (e : ErrRep) : (s.raiseLead e).sync = s.sync := State.raise_sync s _ e
@[simp] theorem State.notice_sync (s : State) (ev obj : Nat) (det : List Nat) : (s.notice ev obj det).sync = s.sync :=
  State.raise_sync s _ _
@[simp] theorem State.noticeFrom_sync (s : State) (c : BitVec 4) (ev obj : Nat) (det : List Nat) :
    (s.noticeFrom c ev obj det).sync = s.sync := State.raise_sync s _ _
@[simp] theorem State.raise_smod (s : State) (h : Half) (e : ErrRep) : (s.raise h e).smod = s.smod := by cases h <;> rfl
@[simp] theorem State.raiseLead_smod (s : State) (e : ErrRep) : (s.raiseLead e).smod = s.smod := State.raise_smod s _ e
@[simp] theorem State.notice_smod (s : State) (ev obj : Nat) (det : List Nat) : (s.notice ev obj det).smod = s.smod :=
  State.raise_smod s _ _
@[simp] theorem State.noticeFrom_smod (s : State) (c : BitVec 4) (ev obj : Nat) (det : List Nat) :
    (s.noticeFrom c ev obj det).smod = s.smod := State.raise_smod s _ _
@[simp] theorem State.raise_mem (s : State) (h : Half) (e : ErrRep) : (s.raise h e).mem = s.mem := by cases h <;> rfl
@[simp] theorem State.raiseLead_mem (s : State) (e : ErrRep) : (s.raiseLead e).mem = s.mem := State.raise_mem s _ e
@[simp] theorem State.notice_mem (s : State) (ev obj : Nat) (det : List Nat) : (s.notice ev obj det).mem = s.mem :=
  State.raise_mem s _ _
@[simp] theorem State.noticeFrom_mem (s : State) (c : BitVec 4) (ev obj : Nat) (det : List Nat) :
    (s.noticeFrom c ev obj det).mem = s.mem := State.raise_mem s _ _
@[simp] theorem State.raise_job (s : State) (h : Half) (e : ErrRep) : (s.raise h e).job = s.job := by cases h <;> rfl
@[simp] theorem State.raiseLead_job (s : State) (e : ErrRep) : (s.raiseLead e).job = s.job := State.raise_job s _ e
@[simp] theorem State.notice_job (s : State) (ev obj : Nat) (det : List Nat) : (s.notice ev obj det).job = s.job :=
  State.raise_job s _ _
@[simp] theorem State.noticeFrom_job (s : State) (c : BitVec 4) (ev obj : Nat) (det : List Nat) :
    (s.noticeFrom c ev obj det).job = s.job := State.raise_job s _ _
@[simp] theorem State.raise_fb (s : State) (h : Half) (e : ErrRep) : (s.raise h e).fb = s.fb := by cases h <;> rfl
@[simp] theorem State.raiseLead_fb (s : State) (e : ErrRep) : (s.raiseLead e).fb = s.fb := State.raise_fb s _ e
@[simp] theorem State.notice_fb (s : State) (ev obj : Nat) (det : List Nat) : (s.notice ev obj det).fb = s.fb :=
  State.raise_fb s _ _
@[simp] theorem State.noticeFrom_fb (s : State) (c : BitVec 4) (ev obj : Nat) (det : List Nat) :
    (s.noticeFrom c ev obj det).fb = s.fb := State.raise_fb s _ _
@[simp] theorem State.raise_rcv (s : State) (h : Half) (e : ErrRep) : (s.raise h e).rcv = s.rcv := by cases h <;> rfl
@[simp] theorem State.raiseLead_rcv (s : State) (e : ErrRep) : (s.raiseLead e).rcv = s.rcv := State.raise_rcv s _ e
@[simp] theorem State.notice_rcv (s : State) (ev obj : Nat) (det : List Nat) : (s.notice ev obj det).rcv = s.rcv :=
  State.raise_rcv s _ _
@[simp] theorem State.noticeFrom_rcv (s : State) (c : BitVec 4) (ev obj : Nat) (det : List Nat) :
    (s.noticeFrom c ev obj det).rcv = s.rcv := State.raise_rcv s _ _
@[simp] theorem State.raise_kuf (s : State) (h : Half) (e : ErrRep) : (s.raise h e).kuf = s.kuf := by cases h <;> rfl
@[simp] theorem State.raiseLead_kuf (s : State) (e : ErrRep) : (s.raiseLead e).kuf = s.kuf := State.raise_kuf s _ e
@[simp] theorem State.notice_kuf (s : State) (ev obj : Nat) (det : List Nat) : (s.notice ev obj det).kuf = s.kuf :=
  State.raise_kuf s _ _
@[simp] theorem State.noticeFrom_kuf (s : State) (c : BitVec 4) (ev obj : Nat) (det : List Nat) :
    (s.noticeFrom c ev obj det).kuf = s.kuf := State.raise_kuf s _ _
@[simp] theorem State.raise_pwr (s : State) (h : Half) (e : ErrRep) : (s.raise h e).pwr = s.pwr := by cases h <;> rfl
@[simp] theorem State.raiseLead_pwr (s : State) (e : ErrRep) : (s.raiseLead e).pwr = s.pwr := State.raise_pwr s _ e
@[simp] theorem State.notice_pwr (s : State) (ev obj : Nat) (det : List Nat) : (s.notice ev obj det).pwr = s.pwr :=
  State.raise_pwr s _ _
@[simp] theorem State.noticeFrom_pwr (s : State) (c : BitVec 4) (ev obj : Nat) (det : List Nat) :
    (s.noticeFrom c ev obj det).pwr = s.pwr := State.raise_pwr s _ _
@[simp] theorem State.raise_sbd (s : State) (h : Half) (e : ErrRep) : (s.raise h e).sbd = s.sbd := by cases h <;> rfl
@[simp] theorem State.raiseLead_sbd (s : State) (e : ErrRep) : (s.raiseLead e).sbd = s.sbd := State.raise_sbd s _ e
@[simp] theorem State.notice_sbd (s : State) (ev obj : Nat) (det : List Nat) : (s.notice ev obj det).sbd = s.sbd :=
  State.raise_sbd s _ _
@[simp] theorem State.noticeFrom_sbd (s : State) (c : BitVec 4) (ev obj : Nat) (det : List Nat) :
    (s.noticeFrom c ev obj det).sbd = s.sbd := State.raise_sbd s _ _
@[simp] theorem State.raise_pciA (s : State) (h : Half) (e : ErrRep) : (s.raise h e).pciA = s.pciA := by cases h <;> rfl
@[simp] theorem State.raiseLead_pciA (s : State) (e : ErrRep) : (s.raiseLead e).pciA = s.pciA := State.raise_pciA s _ e
@[simp] theorem State.notice_pciA (s : State) (ev obj : Nat) (det : List Nat) : (s.notice ev obj det).pciA = s.pciA :=
  State.raise_pciA s _ _
@[simp] theorem State.noticeFrom_pciA (s : State) (c : BitVec 4) (ev obj : Nat) (det : List Nat) :
    (s.noticeFrom c ev obj det).pciA = s.pciA := State.raise_pciA s _ _
@[simp] theorem State.raise_pciB (s : State) (h : Half) (e : ErrRep) : (s.raise h e).pciB = s.pciB := by cases h <;> rfl
@[simp] theorem State.raiseLead_pciB (s : State) (e : ErrRep) : (s.raiseLead e).pciB = s.pciB := State.raise_pciB s _ e
@[simp] theorem State.notice_pciB (s : State) (ev obj : Nat) (det : List Nat) : (s.notice ev obj det).pciB = s.pciB :=
  State.raise_pciB s _ _
@[simp] theorem State.noticeFrom_pciB (s : State) (c : BitVec 4) (ev obj : Nat) (det : List Nat) :
    (s.noticeFrom c ev obj det).pciB = s.pciB := State.raise_pciB s _ _
@[simp] theorem State.raise_pins (s : State) (h : Half) (e : ErrRep) : (s.raise h e).pins = s.pins := by cases h <;> rfl
@[simp] theorem State.raiseLead_pins (s : State) (e : ErrRep) : (s.raiseLead e).pins = s.pins := State.raise_pins s _ e
@[simp] theorem State.notice_pins (s : State) (ev obj : Nat) (det : List Nat) : (s.notice ev obj det).pins = s.pins :=
  State.raise_pins s _ _
@[simp] theorem State.noticeFrom_pins (s : State) (c : BitVec 4) (ev obj : Nat) (det : List Nat) :
    (s.noticeFrom c ev obj det).pins = s.pins := State.raise_pins s _ _
@[simp] theorem State.raise_dbg (s : State) (h : Half) (e : ErrRep) : (s.raise h e).dbg = s.dbg := by cases h <;> rfl
@[simp] theorem State.raiseLead_dbg (s : State) (e : ErrRep) : (s.raiseLead e).dbg = s.dbg := State.raise_dbg s _ e
@[simp] theorem State.notice_dbg (s : State) (ev obj : Nat) (det : List Nat) : (s.notice ev obj det).dbg = s.dbg :=
  State.raise_dbg s _ _
@[simp] theorem State.noticeFrom_dbg (s : State) (c : BitVec 4) (ev obj : Nat) (det : List Nat) :
    (s.noticeFrom c ev obj det).dbg = s.dbg := State.raise_dbg s _ _
@[simp] theorem State.raise_freeCtr (s : State) (h : Half) (e : ErrRep) : (s.raise h e).freeCtr = s.freeCtr := by cases h <;> rfl
@[simp] theorem State.raiseLead_freeCtr (s : State) (e : ErrRep) : (s.raiseLead e).freeCtr = s.freeCtr := State.raise_freeCtr s _ e
@[simp] theorem State.notice_freeCtr (s : State) (ev obj : Nat) (det : List Nat) : (s.notice ev obj det).freeCtr = s.freeCtr :=
  State.raise_freeCtr s _ _
@[simp] theorem State.noticeFrom_freeCtr (s : State) (c : BitVec 4) (ev obj : Nat) (det : List Nat) :
    (s.noticeFrom c ev obj det).freeCtr = s.freeCtr := State.raise_freeCtr s _ _

/-! #### The part that an update writes, and the others -/

theorem vector_get_set_self {α : Type} {n : Nat} (v : Vector α n) (i : Fin n) (x : α) : (v.set i.val x).get i = x := by
  simp [Vector.get_eq_getElem]

theorem vector_get_set_ne {α : Type} {n : Nat} (v : Vector α n) (i j : Fin n) (x : α) (h : i ≠ j) :
    (v.set i.val x).get j = v.get j := by
  have : i.val ≠ j.val := fun e => h (Fin.ext e)
  simp [Vector.get_eq_getElem, Vector.getElem_set_ne, this]

@[simp] theorem State.modPlot_plot (s : State) (p : PlotIx) (f : Plot → Plot) : (s.modPlot p f).plot p = f (s.plot p) :=
  vector_get_set_self _ _ _
theorem State.modPlot_plot_ne (s : State) (p q : PlotIx) (f : Plot → Plot) (h : p ≠ q) :
    (s.modPlot p f).plot q = s.plot q := vector_get_set_ne _ _ _ _ h
@[simp] theorem State.modSeq_plot (s : State) (p : PlotIx) (f : Seq → Seq) :
    (s.modSeq p f).plot p = { s.plot p with seq := f (s.plot p).seq } := vector_get_set_self _ _ _
theorem State.modSeq_plot_ne (s : State) (p q : PlotIx) (f : Seq → Seq) (h : p ≠ q) :
    (s.modSeq p f).plot q = s.plot q := vector_get_set_ne _ _ _ _ h
@[simp] theorem State.modUnit_unit (s : State) (d : DieIx) (f : SyncDie → SyncDie) : (s.modUnit d f).unit d = f (s.unit d) :=
  vector_get_set_self _ _ _
theorem State.modUnit_unit_ne (s : State) (d e : DieIx) (f : SyncDie → SyncDie) (h : d ≠ e) :
    (s.modUnit d f).unit e = s.unit e := vector_get_set_ne _ _ _ _ h
@[simp] theorem State.modDie_die (s : State) (d : DieIx) (f : BaseDie → BaseDie) : (s.modDie d f).die d = f (s.die d) :=
  vector_get_set_self _ _ _
theorem State.modDie_die_ne (s : State) (d e : DieIx) (f : BaseDie → BaseDie) (h : d ≠ e) :
    (s.modDie d f).die e = s.die e := vector_get_set_ne _ _ _ _ h
@[simp] theorem State.modPkg_pkg (s : State) (d : PkgIx) (f : Package → Package) : (s.modPkg d f).pkg d = f (s.pkg d) :=
  vector_get_set_self _ _ _
theorem State.modPkg_pkg_ne (s : State) (d e : PkgIx) (f : Package → Package) (h : d ≠ e) :
    (s.modPkg d f).pkg e = s.pkg e := vector_get_set_ne _ _ _ _ h
@[simp] theorem State.modKport_kport (s : State) (k : KPort) (f : KufPort → KufPort) :
    (s.modKport k f).kport k = f (s.kport k) := vector_get_set_self _ _ _
theorem State.modKport_kport_ne (s : State) (j k : KPort) (f : KufPort → KufPort) (h : j ≠ k) :
    (s.modKport j f).kport k = s.kport k := vector_get_set_ne _ _ _ _ h
@[simp] theorem State.modStrip_strip (s : State) (i : StripIx) (f : Strip → Strip) :
    (s.modStrip i f).strip i = f (s.strip i) := vector_get_set_self _ _ _
theorem State.modStrip_strip_ne (s : State) (i j : StripIx) (f : Strip → Strip) (h : i ≠ j) :
    (s.modStrip i f).strip j = s.strip j := vector_get_set_ne _ _ _ _ h
@[simp] theorem State.modTrace_trace (s : State) (d : DieIx) (f : TraceDie → TraceDie) :
    (s.modTrace d f).trace d = f (s.trace d) := vector_get_set_self _ _ _
theorem State.modTrace_trace_ne (s : State) (d e : DieIx) (f : TraceDie → TraceDie) (h : d ≠ e) :
    (s.modTrace d f).trace e = s.trace e := vector_get_set_ne _ _ _ _ h
@[simp] theorem State.modPci_pci (s : State) (h : HostPort) (f : Pci → Pci) : (s.modPci h f).pci h = f (s.pci h) := by
  cases h <;> rfl
theorem State.modPci_pci_ne (s : State) (g h : HostPort) (f : Pci → Pci) (ne : g ≠ h) : (s.modPci g f).pci h = s.pci h := by
  cases g <;> cases h <;> first | rfl | exact absurd rfl ne
@[simp] theorem State.modHalf_half (s : State) (h : Half) (f : RecHalf → RecHalf) : (s.modHalf h f).half h = f (s.half h) := by
  cases h <;> rfl
theorem State.modHalf_half_ne (s : State) (g h : Half) (f : RecHalf → RecHalf) (ne : g ≠ h) :
    (s.modHalf g f).half h = s.half h := by
  cases g <;> cases h <;> first | rfl | exact absurd rfl ne

/-! #### One part seen through an update of another -/
@[simp] theorem State.modPlot_unit (s : State) (p : PlotIx) (f : Plot → Plot) (d0 : DieIx) : (s.modPlot p f).unit d0 = s.unit d0 := rfl
@[simp] theorem State.modPlot_die (s : State) (p : PlotIx) (f : Plot → Plot) (d0 : DieIx) : (s.modPlot p f).die d0 = s.die d0 := rfl
@[simp] theorem State.modPlot_pkg (s : State) (p : PlotIx) (f : Plot → Plot) (k0 : PkgIx) : (s.modPlot p f).pkg k0 = s.pkg k0 := rfl
@[simp] theorem State.modPlot_kport (s : State) (p : PlotIx) (f : Plot → Plot) (k0 : KPort) : (s.modPlot p f).kport k0 = s.kport k0 := rfl
@[simp] theorem State.modPlot_strip (s : State) (p : PlotIx) (f : Plot → Plot) (i0 : StripIx) : (s.modPlot p f).strip i0 = s.strip i0 := rfl
@[simp] theorem State.modPlot_trace (s : State) (p : PlotIx) (f : Plot → Plot) (d0 : DieIx) : (s.modPlot p f).trace d0 = s.trace d0 := rfl
@[simp] theorem State.modPlot_pci (s : State) (p : PlotIx) (f : Plot → Plot) (h0 : HostPort) : (s.modPlot p f).pci h0 = s.pci h0 := by cases h0 <;> rfl
@[simp] theorem State.modPlot_half (s : State) (p : PlotIx) (f : Plot → Plot) (h0 : Half) : (s.modPlot p f).half h0 = s.half h0 := by cases h0 <;> rfl
@[simp] theorem State.modSeq_unit (s : State) (p : PlotIx) (f : Seq → Seq) (d0 : DieIx) : (s.modSeq p f).unit d0 = s.unit d0 := rfl
@[simp] theorem State.modSeq_die (s : State) (p : PlotIx) (f : Seq → Seq) (d0 : DieIx) : (s.modSeq p f).die d0 = s.die d0 := rfl
@[simp] theorem State.modSeq_pkg (s : State) (p : PlotIx) (f : Seq → Seq) (k0 : PkgIx) : (s.modSeq p f).pkg k0 = s.pkg k0 := rfl
@[simp] theorem State.modSeq_kport (s : State) (p : PlotIx) (f : Seq → Seq) (k0 : KPort) : (s.modSeq p f).kport k0 = s.kport k0 := rfl
@[simp] theorem State.modSeq_strip (s : State) (p : PlotIx) (f : Seq → Seq) (i0 : StripIx) : (s.modSeq p f).strip i0 = s.strip i0 := rfl
@[simp] theorem State.modSeq_trace (s : State) (p : PlotIx) (f : Seq → Seq) (d0 : DieIx) : (s.modSeq p f).trace d0 = s.trace d0 := rfl
@[simp] theorem State.modSeq_pci (s : State) (p : PlotIx) (f : Seq → Seq) (h0 : HostPort) : (s.modSeq p f).pci h0 = s.pci h0 := by cases h0 <;> rfl
@[simp] theorem State.modSeq_half (s : State) (p : PlotIx) (f : Seq → Seq) (h0 : Half) : (s.modSeq p f).half h0 = s.half h0 := by cases h0 <;> rfl
@[simp] theorem State.modUnit_plot (s : State) (d : DieIx) (f : SyncDie → SyncDie) (q : PlotIx) : (s.modUnit d f).plot q = s.plot q := rfl
@[simp] theorem State.modUnit_die (s : State) (d : DieIx) (f : SyncDie → SyncDie) (d0 : DieIx) : (s.modUnit d f).die d0 = s.die d0 := rfl
@[simp] theorem State.modUnit_pkg (s : State) (d : DieIx) (f : SyncDie → SyncDie) (k0 : PkgIx) : (s.modUnit d f).pkg k0 = s.pkg k0 := rfl
@[simp] theorem State.modUnit_kport (s : State) (d : DieIx) (f : SyncDie → SyncDie) (k0 : KPort) : (s.modUnit d f).kport k0 = s.kport k0 := rfl
@[simp] theorem State.modUnit_strip (s : State) (d : DieIx) (f : SyncDie → SyncDie) (i0 : StripIx) : (s.modUnit d f).strip i0 = s.strip i0 := rfl
@[simp] theorem State.modUnit_trace (s : State) (d : DieIx) (f : SyncDie → SyncDie) (d0 : DieIx) : (s.modUnit d f).trace d0 = s.trace d0 := rfl
@[simp] theorem State.modUnit_pci (s : State) (d : DieIx) (f : SyncDie → SyncDie) (h0 : HostPort) : (s.modUnit d f).pci h0 = s.pci h0 := by cases h0 <;> rfl
@[simp] theorem State.modUnit_half (s : State) (d : DieIx) (f : SyncDie → SyncDie) (h0 : Half) : (s.modUnit d f).half h0 = s.half h0 := by cases h0 <;> rfl
@[simp] theorem State.modDie_plot (s : State) (d : DieIx) (f : BaseDie → BaseDie) (q : PlotIx) : (s.modDie d f).plot q = s.plot q := rfl
@[simp] theorem State.modDie_unit (s : State) (d : DieIx) (f : BaseDie → BaseDie) (d0 : DieIx) : (s.modDie d f).unit d0 = s.unit d0 := rfl
@[simp] theorem State.modDie_kport (s : State) (d : DieIx) (f : BaseDie → BaseDie) (k0 : KPort) : (s.modDie d f).kport k0 = s.kport k0 := rfl
@[simp] theorem State.modDie_strip (s : State) (d : DieIx) (f : BaseDie → BaseDie) (i0 : StripIx) : (s.modDie d f).strip i0 = s.strip i0 := rfl
@[simp] theorem State.modDie_trace (s : State) (d : DieIx) (f : BaseDie → BaseDie) (d0 : DieIx) : (s.modDie d f).trace d0 = s.trace d0 := rfl
@[simp] theorem State.modDie_pci (s : State) (d : DieIx) (f : BaseDie → BaseDie) (h0 : HostPort) : (s.modDie d f).pci h0 = s.pci h0 := by cases h0 <;> rfl
@[simp] theorem State.modDie_half (s : State) (d : DieIx) (f : BaseDie → BaseDie) (h0 : Half) : (s.modDie d f).half h0 = s.half h0 := by cases h0 <;> rfl
@[simp] theorem State.modPkg_plot (s : State) (d : PkgIx) (f : Package → Package) (q : PlotIx) : (s.modPkg d f).plot q = s.plot q := rfl
@[simp] theorem State.modPkg_unit (s : State) (d : PkgIx) (f : Package → Package) (d0 : DieIx) : (s.modPkg d f).unit d0 = s.unit d0 := rfl
@[simp] theorem State.modPkg_kport (s : State) (d : PkgIx) (f : Package → Package) (k0 : KPort) : (s.modPkg d f).kport k0 = s.kport k0 := rfl
@[simp] theorem State.modPkg_strip (s : State) (d : PkgIx) (f : Package → Package) (i0 : StripIx) : (s.modPkg d f).strip i0 = s.strip i0 := rfl
@[simp] theorem State.modPkg_trace (s : State) (d : PkgIx) (f : Package → Package) (d0 : DieIx) : (s.modPkg d f).trace d0 = s.trace d0 := rfl
@[simp] theorem State.modPkg_pci (s : State) (d : PkgIx) (f : Package → Package) (h0 : HostPort) : (s.modPkg d f).pci h0 = s.pci h0 := by cases h0 <;> rfl
@[simp] theorem State.modPkg_half (s : State) (d : PkgIx) (f : Package → Package) (h0 : Half) : (s.modPkg d f).half h0 = s.half h0 := by cases h0 <;> rfl
@[simp] theorem State.engineWrite_plot (s : State) (a : Nat) (v : List Byte) (q : PlotIx) : (s.engineWrite a v).plot q = s.plot q := rfl
@[simp] theorem State.engineWrite_unit (s : State) (a : Nat) (v : List Byte) (d0 : DieIx) : (s.engineWrite a v).unit d0 = s.unit d0 := rfl
@[simp] theorem State.engineWrite_kport (s : State) (a : Nat) (v : List Byte) (k0 : KPort) : (s.engineWrite a v).kport k0 = s.kport k0 := rfl
@[simp] theorem State.engineWrite_strip (s : State) (a : Nat) (v : List Byte) (i0 : StripIx) : (s.engineWrite a v).strip i0 = s.strip i0 := rfl
@[simp] theorem State.engineWrite_trace (s : State) (a : Nat) (v : List Byte) (d0 : DieIx) : (s.engineWrite a v).trace d0 = s.trace d0 := rfl
@[simp] theorem State.engineWrite_pci (s : State) (a : Nat) (v : List Byte) (h0 : HostPort) : (s.engineWrite a v).pci h0 = s.pci h0 := by cases h0 <;> rfl
@[simp] theorem State.engineWrite_half (s : State) (a : Nat) (v : List Byte) (h0 : Half) : (s.engineWrite a v).half h0 = s.half h0 := by cases h0 <;> rfl
@[simp] theorem State.modKport_plot (s : State) (k : KPort) (f : KufPort → KufPort) (q : PlotIx) : (s.modKport k f).plot q = s.plot q := rfl
@[simp] theorem State.modKport_unit (s : State) (k : KPort) (f : KufPort → KufPort) (d0 : DieIx) : (s.modKport k f).unit d0 = s.unit d0 := rfl
@[simp] theorem State.modKport_die (s : State) (k : KPort) (f : KufPort → KufPort) (d0 : DieIx) : (s.modKport k f).die d0 = s.die d0 := rfl
@[simp] theorem State.modKport_pkg (s : State) (k : KPort) (f : KufPort → KufPort) (k0 : PkgIx) : (s.modKport k f).pkg k0 = s.pkg k0 := rfl
@[simp] theorem State.modKport_strip (s : State) (k : KPort) (f : KufPort → KufPort) (i0 : StripIx) : (s.modKport k f).strip i0 = s.strip i0 := rfl
@[simp] theorem State.modKport_trace (s : State) (k : KPort) (f : KufPort → KufPort) (d0 : DieIx) : (s.modKport k f).trace d0 = s.trace d0 := rfl
@[simp] theorem State.modKport_pci (s : State) (k : KPort) (f : KufPort → KufPort) (h0 : HostPort) : (s.modKport k f).pci h0 = s.pci h0 := by cases h0 <;> rfl
@[simp] theorem State.modKport_half (s : State) (k : KPort) (f : KufPort → KufPort) (h0 : Half) : (s.modKport k f).half h0 = s.half h0 := by cases h0 <;> rfl
@[simp] theorem State.modStrip_plot (s : State) (i : StripIx) (f : Strip → Strip) (q : PlotIx) : (s.modStrip i f).plot q = s.plot q := rfl
@[simp] theorem State.modStrip_unit (s : State) (i : StripIx) (f : Strip → Strip) (d0 : DieIx) : (s.modStrip i f).unit d0 = s.unit d0 := rfl
@[simp] theorem State.modStrip_die (s : State) (i : StripIx) (f : Strip → Strip) (d0 : DieIx) : (s.modStrip i f).die d0 = s.die d0 := rfl
@[simp] theorem State.modStrip_pkg (s : State) (i : StripIx) (f : Strip → Strip) (k0 : PkgIx) : (s.modStrip i f).pkg k0 = s.pkg k0 := rfl
@[simp] theorem State.modStrip_kport (s : State) (i : StripIx) (f : Strip → Strip) (k0 : KPort) : (s.modStrip i f).kport k0 = s.kport k0 := rfl
@[simp] theorem State.modStrip_trace (s : State) (i : StripIx) (f : Strip → Strip) (d0 : DieIx) : (s.modStrip i f).trace d0 = s.trace d0 := rfl
@[simp] theorem State.modStrip_pci (s : State) (i : StripIx) (f : Strip → Strip) (h0 : HostPort) : (s.modStrip i f).pci h0 = s.pci h0 := by cases h0 <;> rfl
@[simp] theorem State.modStrip_half (s : State) (i : StripIx) (f : Strip → Strip) (h0 : Half) : (s.modStrip i f).half h0 = s.half h0 := by cases h0 <;> rfl
@[simp] theorem State.modTrace_plot (s : State) (d : DieIx) (f : TraceDie → TraceDie) (q : PlotIx) : (s.modTrace d f).plot q = s.plot q := rfl
@[simp] theorem State.modTrace_unit (s : State) (d : DieIx) (f : TraceDie → TraceDie) (d0 : DieIx) : (s.modTrace d f).unit d0 = s.unit d0 := rfl
@[simp] theorem State.modTrace_die (s : State) (d : DieIx) (f : TraceDie → TraceDie) (d0 : DieIx) : (s.modTrace d f).die d0 = s.die d0 := rfl
@[simp] theorem State.modTrace_pkg (s : State) (d : DieIx) (f : TraceDie → TraceDie) (k0 : PkgIx) : (s.modTrace d f).pkg k0 = s.pkg k0 := rfl
@[simp] theorem State.modTrace_kport (s : State) (d : DieIx) (f : TraceDie → TraceDie) (k0 : KPort) : (s.modTrace d f).kport k0 = s.kport k0 := rfl
@[simp] theorem State.modTrace_strip (s : State) (d : DieIx) (f : TraceDie → TraceDie) (i0 : StripIx) : (s.modTrace d f).strip i0 = s.strip i0 := rfl
@[simp] theorem State.modTrace_pci (s : State) (d : DieIx) (f : TraceDie → TraceDie) (h0 : HostPort) : (s.modTrace d f).pci h0 = s.pci h0 := by cases h0 <;> rfl
@[simp] theorem State.modTrace_half (s : State) (d : DieIx) (f : TraceDie → TraceDie) (h0 : Half) : (s.modTrace d f).half h0 = s.half h0 := by cases h0 <;> rfl
@[simp] theorem State.modPci_plot (s : State) (h : HostPort) (f : Pci → Pci) (q : PlotIx) : (s.modPci h f).plot q = s.plot q := by cases h <;> rfl
@[simp] theorem State.modPci_unit (s : State) (h : HostPort) (f : Pci → Pci) (d0 : DieIx) : (s.modPci h f).unit d0 = s.unit d0 := by cases h <;> rfl
@[simp] theorem State.modPci_die (s : State) (h : HostPort) (f : Pci → Pci) (d0 : DieIx) : (s.modPci h f).die d0 = s.die d0 := by cases h <;> rfl
@[simp] theorem State.modPci_pkg (s : State) (h : HostPort) (f : Pci → Pci) (k0 : PkgIx) : (s.modPci h f).pkg k0 = s.pkg k0 := by cases h <;> rfl
@[simp] theorem State.modPci_kport (s : State) (h : HostPort) (f : Pci → Pci) (k0 : KPort) : (s.modPci h f).kport k0 = s.kport k0 := by cases h <;> rfl
@[simp] theorem State.modPci_strip (s : State) (h : HostPort) (f : Pci → Pci) (i0 : StripIx) : (s.modPci h f).strip i0 = s.strip i0 := by cases h <;> rfl
@[simp] theorem State.modPci_trace (s : State) (h : HostPort) (f : Pci → Pci) (d0 : DieIx) : (s.modPci h f).trace d0 = s.trace d0 := by cases h <;> rfl
@[simp] theorem State.modPci_half (s : State) (h : HostPort) (f : Pci → Pci) (h0 : Half) : (s.modPci h f).half h0 = s.half h0 := by cases h <;> cases h0 <;> rfl
@[simp] theorem State.modHalf_plot (s : State) (h : Half) (f : RecHalf → RecHalf) (q : PlotIx) : (s.modHalf h f).plot q = s.plot q := by cases h <;> rfl
@[simp] theorem State.modHalf_unit (s : State) (h : Half) (f : RecHalf → RecHalf) (d0 : DieIx) : (s.modHalf h f).unit d0 = s.unit d0 := by cases h <;> rfl
@[simp] theorem State.modHalf_die (s : State) (h : Half) (f : RecHalf → RecHalf) (d0 : DieIx) : (s.modHalf h f).die d0 = s.die d0 := by cases h <;> rfl
@[simp] theorem State.modHalf_pkg (s : State) (h : Half) (f : RecHalf → RecHalf) (k0 : PkgIx) : (s.modHalf h f).pkg k0 = s.pkg k0 := by cases h <;> rfl
@[simp] theorem State.modHalf_kport (s : State) (h : Half) (f : RecHalf → RecHalf) (k0 : KPort) : (s.modHalf h f).kport k0 = s.kport k0 := by cases h <;> rfl
@[simp] theorem State.modHalf_strip (s : State) (h : Half) (f : RecHalf → RecHalf) (i0 : StripIx) : (s.modHalf h f).strip i0 = s.strip i0 := by cases h <;> rfl
@[simp] theorem State.modHalf_trace (s : State) (h : Half) (f : RecHalf → RecHalf) (d0 : DieIx) : (s.modHalf h f).trace d0 = s.trace d0 := by cases h <;> rfl
@[simp] theorem State.modHalf_pci (s : State) (h : Half) (f : RecHalf → RecHalf) (h0 : HostPort) : (s.modHalf h f).pci h0 = s.pci h0 := by cases h <;> cases h0 <;> rfl
@[simp] theorem State.free_plot (s : State) (q : PlotIx) : s.free.2.plot q = s.plot q := rfl
@[simp] theorem State.raise_plot (s : State) (h : Half) (e : ErrRep) (q : PlotIx) : (s.raise h e).plot q = s.plot q := by cases h <;> rfl
@[simp] theorem State.free_unit (s : State) (d0 : DieIx) : s.free.2.unit d0 = s.unit d0 := rfl
@[simp] theorem State.raise_unit (s : State) (h : Half) (e : ErrRep) (d0 : DieIx) : (s.raise h e).unit d0 = s.unit d0 := by cases h <;> rfl
@[simp] theorem State.free_die (s : State) (d0 : DieIx) : s.free.2.die d0 = s.die d0 := rfl
@[simp] theorem State.raise_die (s : State) (h : Half) (e : ErrRep) (d0 : DieIx) : (s.raise h e).die d0 = s.die d0 := by cases h <;> rfl
@[simp] theorem State.free_pkg (s : State) (k0 : PkgIx) : s.free.2.pkg k0 = s.pkg k0 := rfl
@[simp] theorem State.raise_pkg (s : State) (h : Half) (e : ErrRep) (k0 : PkgIx) : (s.raise h e).pkg k0 = s.pkg k0 := by cases h <;> rfl
@[simp] theorem State.free_kport (s : State) (k0 : KPort) : s.free.2.kport k0 = s.kport k0 := rfl
@[simp] theorem State.raise_kport (s : State) (h : Half) (e : ErrRep) (k0 : KPort) : (s.raise h e).kport k0 = s.kport k0 := by cases h <;> rfl
@[simp] theorem State.free_strip (s : State) (i0 : StripIx) : s.free.2.strip i0 = s.strip i0 := rfl
@[simp] theorem State.raise_strip (s : State) (h : Half) (e : ErrRep) (i0 : StripIx) : (s.raise h e).strip i0 = s.strip i0 := by cases h <;> rfl
@[simp] theorem State.free_trace (s : State) (d0 : DieIx) : s.free.2.trace d0 = s.trace d0 := rfl
@[simp] theorem State.raise_trace (s : State) (h : Half) (e : ErrRep) (d0 : DieIx) : (s.raise h e).trace d0 = s.trace d0 := by cases h <;> rfl
@[simp] theorem State.free_pci (s : State) (h0 : HostPort) : s.free.2.pci h0 = s.pci h0 := by cases h0 <;> rfl
@[simp] theorem State.raise_pci (s : State) (h : Half) (e : ErrRep) (h0 : HostPort) : (s.raise h e).pci h0 = s.pci h0 := by cases h <;> cases h0 <;> rfl
@[simp] theorem State.free_half (s : State) (h0 : Half) : s.free.2.half h0 = s.half h0 := by cases h0 <;> rfl

/-- A plot's sequencer changes and nothing else of the plot does. -/
theorem State.modSeq_eq (s : State) (p : PlotIx) (f : Seq → Seq) :
    s.modSeq p f = s.modPlot p fun q => { q with seq := f q.seq } := rfl

/-- Raising an error appends its report to the half's registered errors and changes nothing else. -/
theorem State.raise_half (s : State) (h : Half) (e : ErrRep) :
    (s.raise h e).half h = { s.half h with registered := (s.half h).registered ++ [e] } := by
  cases h <;> rfl

end Sys2Proof.Machine
end

