-- ==== Sys2Proof/Laws/Memory.lean ====
section
/-! SUPPORT. Sparse byte stores: every operation keeps the canonical form, a read after a write gives what was written, and a
write leaves every other byte alone. -/

namespace Sys2Proof.Machine

/-- The lower bound of a canonical store, as a proposition. -/
def aboveLow (lo : Option Nat) (a : Nat) : Prop := ∀ x, lo = some x → x < a

theorem cellsWf_cons (d : Byte) (lo : Option Nat) (a : Nat) (v : Byte) (r : List Host.Cell) :
    cellsWf d lo ((a, v) :: r) = true ↔ aboveLow lo a ∧ v ≠ d ∧ cellsWf d (some a) r = true := by
  cases lo <;> simp [cellsWf, aboveLow, and_assoc]

/-- A lower bound may be lowered. -/
theorem cellsWf_weaken (d : Byte) (lo lo' : Option Nat) (m : List Host.Cell) (h : cellsWf d lo m = true)
    (hl : ∀ a, aboveLow lo a → aboveLow lo' a) : cellsWf d lo' m = true := by
  cases m with
  | nil => cases lo' <;> rfl
  | cons x r =>
    obtain ⟨a, v⟩ := x
    rw [cellsWf_cons] at h ⊢
    exact ⟨hl a h.1, h.2⟩

/-- A byte write keeps the canonical form. -/
theorem cellPut_wf (d : Byte) (m : List Host.Cell) (lo : Option Nat) (a : Nat) (v : Byte) (h : cellsWf d lo m = true)
    (ha : aboveLow lo a) : cellsWf d lo (cellPut d m a v) = true := by
  induction m generalizing lo with
  | nil =>
    unfold cellPut
    split
    · exact h
    · rw [cellsWf_cons]; exact ⟨ha, ‹_›, rfl⟩
  | cons x r ih =>
    obtain ⟨b, w⟩ := x
    rw [cellsWf_cons] at h
    unfold cellPut
    split
    · rename_i hab
      split
      · rw [cellsWf_cons]; exact h
      · rw [cellsWf_cons, cellsWf_cons]
        exact ⟨ha, ‹_›, fun x hx => by cases hx; exact hab, h.2⟩
    · split
      · rename_i hab
        subst hab
        split
        · exact cellsWf_weaken d _ lo r h.2.2 fun y hy => fun x hx => Nat.lt_trans (ha x hx) (hy _ rfl)
        · rw [cellsWf_cons]; exact ⟨ha, ‹_›, h.2.2⟩
      · rw [cellsWf_cons]
        exact ⟨h.1, h.2.1, ih (some b) h.2.2 fun x hx => by cases hx; omega⟩

/-- A write of bytes keeps the canonical form. -/
theorem cellsPut_wf (d : Byte) (m : List Host.Cell) (a : Nat) (v : List Byte) (h : cellsWf d none m = true) :
    cellsWf d none (cellsPut d m a v) = true := by
  induction v generalizing m a with
  | nil => exact h
  | cons b r ih => exact ih _ _ (cellPut_wf d m none a b h fun _ hx => nomatch hx)

/-- Leaving entries out keeps the canonical form. -/
theorem filter_wf (d : Byte) (m : List Host.Cell) (lo : Option Nat) (f : Host.Cell → Bool) (h : cellsWf d lo m = true) :
    cellsWf d lo (m.filter f) = true := by
  induction m generalizing lo with
  | nil => exact h
  | cons x r ih =>
    obtain ⟨b, w⟩ := x
    rw [cellsWf_cons] at h
    rw [List.filter_cons]
    split
    · rw [cellsWf_cons]; exact ⟨h.1, h.2.1, ih _ h.2.2⟩
    · exact ih lo (cellsWf_weaken d _ lo r h.2.2 fun y hy => fun x hx => Nat.lt_trans (h.1 x hx) (hy _ rfl))

/-- Two canonical stores, one below the other, join to one. -/
theorem append_wf (d : Byte) (l r : List Host.Cell) (lo : Option Nat) (b : Nat) (hl : cellsWf d lo l = true)
    (hb : ∀ x ∈ l, x.1 < b) (hlo : aboveLow lo b) (hr : cellsWf d none r = true) (hx : ∀ x ∈ r, b ≤ x.1) :
    cellsWf d lo (l ++ r) = true := by
  induction l generalizing lo with
  | nil =>
    cases r with
    | nil => cases lo <;> rfl
    | cons y r =>
      obtain ⟨a, v⟩ := y
      have hy : b ≤ a := hx _ List.mem_cons_self
      rw [cellsWf_cons] at hr
      rw [List.nil_append, cellsWf_cons]
      exact ⟨fun x e => Nat.lt_of_lt_of_le (hlo x e) hy, hr.2⟩
  | cons y l ih =>
    obtain ⟨a, v⟩ := y
    rw [cellsWf_cons] at hl
    rw [List.cons_append, cellsWf_cons]
    refine ⟨hl.1, hl.2.1, ih _ hl.2.2 (fun x h => hb x (List.mem_cons_of_mem _ h)) ?_⟩
    intro x e
    cases e
    exact hb _ List.mem_cons_self

/-- Listed cells of a block lie inside it and are canonical. -/
theorem cellsOf_mem (d : Byte) (a : Nat) (bs : List Byte) : ∀ x ∈ cellsOf d a bs, a ≤ x.1 ∧ x.1 < a + bs.length := by
  induction bs generalizing a with
  | nil => intro x h; cases h
  | cons b r ih =>
    intro x h
    unfold cellsOf at h
    simp only [List.length_cons]
    split at h
    · have := ih (a + 1) x h; omega
    · cases h with
      | head => exact ⟨Nat.le_refl _, by dsimp only; omega⟩
      | tail _ h => have := ih (a + 1) x h; omega

theorem cellsOf_wf (d : Byte) (a : Nat) (bs : List Byte) (lo : Option Nat) (h : aboveLow lo a) :
    cellsWf d lo (cellsOf d a bs) = true := by
  induction bs generalizing a lo with
  | nil => cases lo <;> rfl
  | cons b r ih =>
    unfold cellsOf
    split
    · exact ih _ _ fun x e => Nat.lt_succ_of_lt (h x e)
    · rw [cellsWf_cons]
      exact ⟨h, ‹_›, ih _ _ fun x e => by cases e; exact Nat.lt_succ_self _⟩

/-- A block write keeps the canonical form. -/
theorem cellsBlit_wf (d : Byte) (m : List Host.Cell) (a : Nat) (bs : List Byte) (h : cellsWf d none m = true) :
    cellsWf d none (cellsBlit d m a bs) = true := by
  unfold cellsBlit
  refine append_wf d _ _ none (a + bs.length) ?_ ?_ (fun _ e => nomatch e) (filter_wf d m none _ h) ?_
  · refine append_wf d _ _ none a (filter_wf d m none _ h) ?_ (fun _ e => nomatch e)
      (cellsOf_wf d a bs none fun _ e => nomatch e) ?_
    · intro x hx; simpa using (List.mem_filter.mp hx).2
    · intro x hx; exact (cellsOf_mem d a bs x hx).1
  · intro x hx
    rcases List.mem_append.mp hx with hx | hx
    · have : x.1 < a := by simpa using (List.mem_filter.mp hx).2
      omega
    · exact (cellsOf_mem d a bs x hx).2
  · intro x hx; simpa using (List.mem_filter.mp hx).2

/-- An address below every entry reads as an unlisted one. -/
theorem cellGet_below (d : Byte) (m : List Host.Cell) (lo a : Nat) (h : cellsWf d (some lo) m = true) (ha : a ≤ lo) :
    cellGet d m a = d := by
  induction m generalizing lo with
  | nil => rfl
  | cons x r ih =>
    obtain ⟨b, w⟩ := x
    rw [cellsWf_cons] at h
    have hb : lo < b := h.1 lo rfl
    unfold cellGet
    rw [if_neg (by omega)]
    exact ih b h.2.2 (by omega)

/-- A read after a byte write: the byte at its own address, and what was there at every other. -/
theorem cellGet_cellPut (d : Byte) (m : List Host.Cell) (lo : Option Nat) (a b : Nat) (v : Byte) (h : cellsWf d lo m = true) :
    cellGet d (cellPut d m a v) b = if b = a then v else cellGet d m b := by
  induction m generalizing lo with
  | nil =>
    unfold cellPut
    split
    · subst v; simp [cellGet]
    · simp [cellGet, eq_comm]
  | cons x r ih =>
    obtain ⟨c, w⟩ := x
    rw [cellsWf_cons] at h
    have low : ∀ y, y ≤ c → cellGet d r y = d := fun y hy => cellGet_below d r c y h.2.2 hy
    unfold cellPut
    split
    · split
      · subst v
        by_cases e : b = a
        · subst e; simp only [cellGet, if_true]; rw [if_neg (by omega)]; exact low b (by omega)
        · rw [if_neg e]
      · by_cases e : b = a
        · subst e; simp [cellGet]
        · simp only [cellGet, if_neg e, if_neg (Ne.symm e)]
    · split
      · subst a
        split
        · subst v
          by_cases e : b = c
          · subst e; rw [if_pos rfl]; exact low b (Nat.le_refl _)
          · simp only [cellGet, if_neg e, if_neg (Ne.symm e)]
        · by_cases e : b = c
          · subst e; simp [cellGet]
          · simp only [cellGet, if_neg e, if_neg (Ne.symm e)]
      · simp only [cellGet]
        rw [ih (some c) h.2.2]
        by_cases e : c = b
        · subst e; rw [if_pos rfl, if_neg (by omega), if_pos rfl]
        · rw [if_neg e, if_neg e]

/-- A write of bytes: what an address inside the range reads, and that every other address reads as before. -/
theorem cellGet_cellsPut (d : Byte) (m : List Host.Cell) (a b : Nat) (v : List Byte) (h : cellsWf d none m = true) :
    cellGet d (cellsPut d m a v) b = if a ≤ b ∧ b < a + v.length then v.getD (b - a) d else cellGet d m b := by
  induction v generalizing m a with
  | nil => simp only [cellsPut, List.length_nil]; rw [if_neg (by omega)]
  | cons x r ih =>
    simp only [cellsPut, List.length_cons]
    rw [ih _ _ (cellPut_wf d m none a x h fun _ e => nomatch e), cellGet_cellPut d m none a b x h]
    by_cases e : b = a
    · subst e
      rw [if_neg (by omega), if_pos rfl, if_pos (by omega)]
      simp
    · by_cases i : a + 1 ≤ b ∧ b < a + 1 + r.length
      · rw [if_pos i, if_pos (by omega)]
        obtain ⟨k, hk⟩ : ∃ k, b - a = k + 1 := ⟨b - a - 1, by omega⟩
        rw [hk, show b - (a + 1) = k by omega]
        simp
      · rw [if_neg i, if_neg e, if_neg (by omega)]

/-- A range of bytes that a write does not touch reads as before. -/
theorem cellsGet_cellsPut_ne (d : Byte) (m : List Host.Cell) (a b n : Nat) (v : List Byte) (h : cellsWf d none m = true)
    (hn : b + n ≤ a ∨ a + v.length ≤ b) : cellsGet d (cellsPut d m a v) b n = cellsGet d m b n := by
  unfold cellsGet
  refine List.map_congr_left fun i hi => ?_
  have := List.mem_range.mp hi
  rw [cellGet_cellsPut d m a _ v h, if_neg (by omega)]

/-- Bytes just written are read back. -/
theorem cellsGet_cellsPut_self (d : Byte) (m : List Host.Cell) (a : Nat) (v : List Byte) (h : cellsWf d none m = true) :
    cellsGet d (cellsPut d m a v) a v.length = v := by
  unfold cellsGet
  refine List.ext_getElem (by simp) fun i h1 h2 => ?_
  simp only [List.getElem_map, List.getElem_range]
  rw [cellGet_cellsPut d m a _ v h, if_pos (by omega)]
  simp [h2]

/-! ### The stores of the module -/

/-- Device memory and every plot store in canonical form, with unlisted bytes 0, and the black box (R184, R185, R372); the flash
with unlisted bytes 0xFF (R383). -/
def State.storesWf (s : State) : Prop :=
  Memory.wf s.mem.cells = true ∧ (∀ p, Memory.wf (s.plot p).store = true) ∧ Memory.wf s.evr.blackbox = true ∧
    cellsWf 0xFF none s.sbd.flash = true

theorem Memory.wf_put (m : List Host.Cell) (a : Nat) (v : List Byte) (h : Memory.wf m = true) :
    Memory.wf (cellsPut 0 m a v) = true := cellsPut_wf 0 m a v h

theorem Memory.wf_filter (m : List Host.Cell) (f : Host.Cell → Bool) (h : Memory.wf m = true) :
    Memory.wf (m.filter f) = true := filter_wf 0 m none f h

theorem Memory.wf_clear (m : List Host.Cell) (lo hi : Nat) (h : Memory.wf m = true) :
    Memory.wf (clearCells m lo hi) = true := filter_wf 0 m none _ h

/-- Memory at reset is in canonical form. -/
theorem reset_mem_wf : Memory.wf State.reset.mem.cells = true := rfl

/-- An engine's write keeps the canonical form. -/
theorem State.engineWrite_wf (s : State) (a : Nat) (v : List Byte) (h : Memory.wf s.mem.cells = true) :
    Memory.wf (s.engineWrite a v).mem.cells = true := cellsPut_wf 0 _ a v h

/-- A plot-store write keeps the canonical form. -/
theorem State.psWrite_wf (s : State) (p : PlotIx) (a : Nat) (v : List Byte) (h : Memory.wf (s.plot p).store = true) :
    Memory.wf ((s.psWrite p a v).plot p).store = true := by
  simp only [State.psWrite, State.modPlot_plot]
  exact cellsPut_wf 0 _ a v h

end Sys2Proof.Machine
end

