-- ==== Sys2Proof/Laws/Frame.lean ====
section
/-! SUPPORT. What the shared operations leave alone. Observations (trace, counters, histograms), error reports, accesses of
memory and the sequencer's own moves change plots, memory, the recorder and the trace only: every other part of the state,
`State.core`, stays. -/

namespace Sys2Proof.Machine

/-- The parts of the state that no observation, no error report and no access of memory changes. -/
def State.core (s : State) :=
  (s.pending, s.sync, s.smod, s.job, s.fb, s.rcv, s.kuf, s.pwr, s.sbd, s.pciA, s.pciB, s.pins)

theorem State.core_eq (s t : State) :
    s.core = t.core ↔ s.pending = t.pending ∧ s.sync = t.sync ∧ s.smod = t.smod ∧ s.job = t.job ∧ s.fb = t.fb ∧
      s.rcv = t.rcv ∧ s.kuf = t.kuf ∧ s.pwr = t.pwr ∧ s.sbd = t.sbd ∧ s.pciA = t.pciA ∧ s.pciB = t.pciB ∧
      s.pins = t.pins := by
  simp [State.core]

/-- A step that keeps the core, applied to every item of a list, keeps it. -/
theorem State.forEach_core {α : Type} (s : State) (l : List α) (f : State → α → State)
    (h : ∀ s x, (f s x).core = s.core) : (s.forEach l f).core = s.core := by
  unfold State.forEach
  induction l generalizing s with
  | nil => rfl
  | cons a l ih => exact (ih (f s a)).trans (h s a)

theorem foldl_core {α : Type} (s : State) (l : List α) (f : State → α → State)
    (h : ∀ s x, (f s x).core = s.core) : (l.foldl f s).core = s.core := State.forEach_core s l f h

theorem foldlP_core {α β : Type} (s : β × State) (l : List α) (f : β × State → α → β × State)
    (h : ∀ s x, (f s x).2.core = s.2.core) : (l.foldl f s).2.core = s.2.core := by
  induction l generalizing s with
  | nil => rfl
  | cons a l ih => exact (ih (f s a)).trans (h s a)

@[simp] theorem State.setPlot_core (s : State) (x1 : PlotIx) (x2 : Plot) : (State.setPlot s x1 x2).core = s.core := by
  grind [State.setPlot, State.core]
@[simp] theorem State.modPlot_core (s : State) (x1 : PlotIx) (x2 : Plot → Plot) :
    (State.modPlot s x1 x2).core = s.core := by
  grind [State.modPlot, State.setPlot_core, State.core]
@[simp] theorem State.modSeq_core (s : State) (x1 : PlotIx) (x2 : Seq → Seq) :
    (State.modSeq s x1 x2).core = s.core := by
  grind [State.modSeq, State.modPlot_core, State.core]
@[simp] theorem State.psWrite_core (s : State) (x1 : PlotIx) (x2 : Nat) (x3 : List Byte) :
    (State.psWrite s x1 x2 x3).core = s.core := by
  grind [State.psWrite, State.modPlot_core, State.core]
@[simp] theorem State.modDie_core (s : State) (x1 : DieIx) (x2 : BaseDie → BaseDie) :
    (State.modDie s x1 x2).core = s.core := by
  grind [State.modDie, State.core]
@[simp] theorem State.modTrace_core (s : State) (x1 : DieIx) (x2 : TraceDie → TraceDie) :
    (State.modTrace s x1 x2).core = s.core := by
  grind [State.modTrace, State.core]
@[simp] theorem State.modHalf_core (s : State) (x1 : Half) (x2 : RecHalf → RecHalf) :
    (State.modHalf s x1 x2).core = s.core := by
  cases x1 <;> rfl
@[simp] theorem State.free_core (s : State) : (State.free s).2.core = s.core := by
  grind [State.free, State.core]
@[simp] theorem State.raise_core (s : State) (x1 : Half) (x2 : ErrRep) : (State.raise s x1 x2).core = s.core := by
  grind [State.raise, State.modHalf_core, State.core]
@[simp] theorem State.raiseLead_core (s : State) (x1 : ErrRep) : (State.raiseLead s x1).core = s.core := by
  grind [State.raiseLead, State.raise_core, State.core]
@[simp] theorem State.notice_core (s : State) (x1 : Nat) (x2 : Nat) (x3 : List Nat) :
    (State.notice s x1 x2 x3).core = s.core := by
  grind [State.notice, State.raiseLead_core, State.core]
@[simp] theorem State.noticeFrom_core (s : State) (x1 : BitVec 4) (x2 : Nat) (x3 : Nat) (x4 : List Nat) :
    (State.noticeFrom s x1 x2 x3 x4).core = s.core := by
  grind [State.noticeFrom, State.raiseLead_core, State.core]
@[simp] theorem State.stopEvent_core (s : State) (x1 : PlotIx) (x2 : BitVec 4) :
    (State.stopEvent s x1 x2).core = s.core := by
  grind [State.stopEvent, State.modSeq_core, State.core]
@[simp] theorem State.plotFatal_core (s : State) (x1 : PlotIx) (x2 : Pos) (x3 : BitVec 16) (x4 : Nat) (x5 : List Nat) :
    (State.plotFatal s x1 x2 x3 x4 x5).core = s.core := by
  grind [State.plotFatal, State.stopEvent_core, State.raise_core]
@[simp] theorem State.plotRecoverable_core (s : State) (x1 : PlotIx) (x2 : Pos) (x3 : BitVec 16) (x4 : Nat) (x5 : List Nat) (x6 : BitVec 4) :
    (State.plotRecoverable s x1 x2 x3 x4 x5 x6).core = s.core := by
  grind [State.plotRecoverable, State.raise_core, State.core]
@[simp] theorem State.setFlags_core (s : State) (x1 : PlotIx) (x2 : Flags) :
    (State.setFlags s x1 x2).core = s.core := by
  grind [State.setFlags, State.modPlot_core, State.core]
@[simp] theorem State.countCh_core (s : State) (x1 : PlotIx) (x2 : Pos) (x3 : Option (BitVec 8)) (x4 : Nat) (x5 : Nat) :
    (State.countCh s x1 x2 x3 x4 x5).core = s.core := by
  grind [State.countCh, State.modPlot_core, State.core]
@[simp] theorem State.count_core (s : State) (x1 : PlotIx) (x2 : Pos) (x3 : Nat) (x4 : Nat) :
    (State.count s x1 x2 x3 x4).core = s.core := by
  grind [State.count, State.countCh_core, State.core]
@[simp] theorem State.settle_core (s : State) (x1 : PlotIx) : (State.settle s x1).core = s.core := by
  unfold State.settle
  split
  · refine foldl_core _ _ _ fun _ _ => ?_
    split
    · grind [State.free_core, State.modPlot_core]
  · rfl
@[simp] theorem State.traceStore_core (s : State) (x1 : DieIx) (x2 : Nat) (x3 : TraceRec) :
    (State.traceStore s x1 x2 x3).core = s.core := by
  grind [State.traceStore, State.modTrace_core, State.core]
@[simp] theorem State.tracePlace_core (s : State) (x1 : DieIx) (x2 : TraceRec) :
    (State.tracePlace s x1 x2).core = s.core := by
  grind [State.tracePlace, State.traceStore_core, State.modTrace_core]
@[simp] theorem State.traceWrite_core (s : State) (x1 : DieIx) (x2 : TraceRec) :
    (State.traceWrite s x1 x2).core = s.core := by
  grind [State.traceWrite, State.modTrace_core, State.tracePlace_core]
@[simp] theorem State.traceTrigger_core (s : State) (x1 : DieIx) (x2 : TraceRec) :
    (State.traceTrigger s x1 x2).core = s.core := by
  grind [State.traceTrigger, State.modTrace_core, State.traceWrite_core, State.core]
@[simp] theorem State.traceSpread_core (s : State) (x1 : DieIx) : (State.traceSpread s x1).core = s.core := by
  unfold State.traceSpread
  split
  · refine State.forEach_core _ _ _ fun _ _ => ?_
    split <;> simp
  · rfl
@[simp] theorem State.traceOn_core (s : State) (x1 : DieIx) (x2 : TraceRec) (x3 : Bool) :
    (State.traceOn s x1 x2 x3).core = s.core := by
  grind [State.traceOn, State.traceSpread_core, State.traceTrigger_core, State.traceWrite_core]
@[simp] theorem State.tracePlot_core (s : State) (x1 : PlotIx) (x2 : BitVec 5) (x3 : Pos) (x4 : Nat) (x5 : Nat) :
    (State.tracePlot s x1 x2 x3 x4 x5).core = s.core := by
  grind [State.tracePlot, State.traceOn_core, State.core]
@[simp] theorem State.traceDie_core (s : State) (x1 : DieIx) (x2 : BitVec 5) (x3 : Nat) (x4 : Nat) :
    (State.traceDie s x1 x2 x3 x4).core = s.core := by
  grind [State.traceDie, State.traceOn_core, State.core]
@[simp] theorem State.sample_core (s : State) (h : Half) (q : Fin 8) (layer oper : Id16) (row : Row) (v : Nat) :
    (s.sample h q layer oper row v).core = s.core := by
  simp only [State.sample]
  repeat' split
  all_goals simp [State.core]

@[simp] theorem State.rowAdd_core (s : State) (x1 : Nat) (x2 : Nat) (x3 : Nat) :
    (State.rowAdd s x1 x2 x3).core = s.core := by
  grind [State.rowAdd, State.core]
@[simp] theorem State.memReport_core (s : State) (src : MemSrc) (a : Nat) (code : BitVec 16) (sev : Severity)
    (need : BitVec 4) : (s.memReport src a code sev need).core = s.core := State.raise_core ..

@[simp] theorem State.checkBlock_core (s : State) (x1 : Nat) : (State.checkBlock s x1).2.core = s.core := by
  grind [State.checkBlock, State.free_core, State.core]
@[simp] theorem State.memCorrected_core (s : State) (src : MemSrc) (b : Nat) :
    (s.memCorrected src b).core = s.core := by
  simp only [State.memCorrected, State.rowAdd_core, State.memReport_core]
  rfl

@[simp] theorem State.memUncorrectable_core (s : State) (x1 : MemSrc) (x2 : Nat) :
    (State.memUncorrectable s x1 x2).core = s.core := by
  grind [State.memUncorrectable, State.modDie_core, State.memReport_core]
@[simp] theorem State.writeBack_core (s : State) (src : MemSrc) (c : CacheLine) :
    (s.writeBack src c).core = s.core := by
  simp only [State.writeBack]
  split
  · rfl
  · refine State.forEach_core _ _ _ fun s b => ?_
    split
    · exact State.memUncorrectable_core s src b
    · split
      · exact State.memCorrected_core s src b
      · rfl

@[simp] theorem State.cacheTouch_core (s : State) (src : MemSrc) (a : Nat) (w : Bool) :
    (s.cacheTouch src a w).core = s.core := by
  simp only [State.cacheTouch]
  repeat' split
  all_goals first | rfl | simp [State.modDie_core, State.writeBack_core, State.count_core]

@[simp] theorem State.checkBlocks_core (s : State) (src : MemSrc) (l : List Nat) :
    (s.checkBlocks src l).2.2.core = s.core := by
  induction l generalizing s with
  | nil => rfl
  | cons b r ih =>
    have h := State.checkBlock_core s b
    simp only [State.checkBlocks]
    split
    · rw [State.memUncorrectable_core, h]
    · rw [ih, State.memCorrected_core, h]
    · rw [ih, h]
    · rw [ih, h]

@[simp] theorem State.homeReadTo_core (s : State) (x1 : MemSrc) (x2 : Nat) (x3 : Nat) :
    (State.homeReadTo s x1 x2 x3).2.2.core = s.core := by
  grind [State.homeReadTo, State.checkBlocks_core, State.cacheTouch_core, State.checkBlock_core, State.free_core]
@[simp] theorem State.homeRead_core (s : State) (x1 : MemSrc) (x2 : Nat) (x3 : Nat) :
    (State.homeRead s x1 x2 x3).2.core = s.core := by
  grind [State.homeRead, State.homeReadTo_core, State.core]
@[simp] theorem State.homeWrite_core (s : State) (src : MemSrc) (a : Nat) (v : List Byte) :
    (s.homeWrite src a v).2.core = s.core := by
  simp only [State.homeWrite]
  refine foldlP_core (true, s) _ _ fun s b => ?_
  simp only [putBlock]
  split
  · exact State.cacheTouch_core ..
  · split
    · exact State.checkBlocks_core ..
    · exact (State.cacheTouch_core ..).trans (State.checkBlocks_core ..)

@[simp] theorem State.inject_core (s : State) (x1 : Nat) (x2 : Nat) : (State.inject s x1 x2).core = s.core := by
  grind [State.inject, State.core]
@[simp] theorem State.readRange_core (s : State) (src : MemSrc) (a n : Nat) :
    (s.readRange src a n).2.core = s.core := by
  simp only [State.readRange]
  refine foldlP_core (Except.ok [], s) _ _ fun s b => ?_
  split
  · rfl
  · split <;> exact State.homeRead_core ..

@[simp] theorem State.writeRange_core (s : State) (src : MemSrc) (a : Nat) (v : List Byte) :
    (s.writeRange src a v).2.core = s.core := by
  simp only [State.writeRange]
  exact foldlP_core (true, s) _ _ fun s b => State.homeWrite_core ..

@[simp] theorem State.engineWrite_core (s : State) (x1 : Nat) (x2 : List Byte) :
    (State.engineWrite s x1 x2).core = s.core := by
  grind [State.engineWrite, State.core]
@[simp] theorem State.seqAt_core (s : State) (x1 : PlotIx) (x2 : Nat) : (State.seqAt s x1 x2).core = s.core := by
  grind [State.seqAt, State.modSeq_core, State.core]
@[simp] theorem State.finishAt_core (s : State) (x1 : PlotIx) (x2 : Nat) : (State.finishAt s x1 x2).core = s.core := by
  grind [State.finishAt, State.tracePlot_core, State.modSeq_core, State.seqAt_core]
@[simp] theorem State.finish_core (s : State) (x1 : PlotIx) : (State.finish s x1).core = s.core := by
  grind [State.finish, State.finishAt_core, State.core]
@[simp] theorem State.refuseCmd_core (s : State) (x1 : PlotIx) (x2 : Pos) :
    (State.refuseCmd s x1 x2).core = s.core := by
  grind [State.refuseCmd, State.plotFatal_core, State.core]
@[simp] theorem State.showNumctl_core (s : State) (x1 : PlotIx) : (State.showNumctl s x1).core = s.core := by
  grind [State.showNumctl, State.modPlot_core, State.core]
@[simp] theorem State.beginWait_core (s : State) (x1 : PlotIx) : (State.beginWait s x1).core = s.core := by
  grind [State.beginWait, State.modPlot_core, State.core]
@[simp] theorem State.sowBarrier_core (s : State) : (State.sowBarrier s).core = s.core := by
  grind [State.sowBarrier, State.core]
@[simp] theorem State.modPkg_core (s : State) (x1 : PkgIx) (x2 : Package → Package) :
    (State.modPkg s x1 x2).core = s.core := by
  grind [State.modPkg, State.core]
@[simp] theorem State.pkgErr_core (s : State) (x1 : PkgIx) (x2 : BitVec 16) (x3 : Severity) (x4 : Int) :
    (State.pkgErr s x1 x2 x3 x4).core = s.core := by
  grind [State.pkgErr, State.raise_core, State.core]
@[simp] theorem State.clearSlice_core (s : State) (x1 : Nat) : (State.clearSlice s x1).core = s.core := by
  grind [State.clearSlice, State.core]

end Sys2Proof.Machine
end

