-- ==== Sys2Proof/Laws/Trace.lean ====
section
/-! SUPPORT. What a trace record changes: the trace units, and device memory where a ring spills into it (R432, R436). -/

namespace Sys2Proof.Machine

/-- What every step keeps, applying it to every item of a list keeps. -/
theorem State.forEach_keeps {α β : Type} (F : State → β) (s : State) (l : List α) (f : State → α → State)
    (h : ∀ s x, F (f s x) = F s) : F (s.forEach l f) = F s := by
  unfold State.forEach
  induction l generalizing s with
  | nil => rfl
  | cons a l ih => exact (ih (f s a)).trans (h s a)

/-- No trace unit writes its ring into device memory (R436). -/
def State.noSpill (s : State) : Prop := ∀ d, (s.trace d).spill = false

/-- Changing a trace unit and leaving its SPILL alone keeps the absence of spilling. -/
theorem State.modTrace_noSpill (s : State) (d : DieIx) (f : TraceDie → TraceDie) (h : s.noSpill)
    (hf : ∀ t, t.spill = false → (f t).spill = false) : (s.modTrace d f).noSpill := by
  intro e
  by_cases g : d = e
  · subst g; rw [State.modTrace_trace]; exact hf _ (h d)
  · rw [State.modTrace_trace_ne _ _ _ _ g]; exact h e

theorem State.forEach_noSpill {α : Type} (s : State) (l : List α) (f : State → α → State) (hs : s.noSpill)
    (h : ∀ s x, s.noSpill → (f s x).mem = s.mem ∧ (f s x).noSpill) :
    (s.forEach l f).mem = s.mem ∧ (s.forEach l f).noSpill := by
  unfold State.forEach
  induction l generalizing s with
  | nil => exact ⟨rfl, hs⟩
  | cons a l ih =>
    have h1 := h s a hs
    have h2 := ih _ h1.2
    exact ⟨h2.1.trans h1.1, h2.2⟩

@[simp] theorem State.traceStore_plots (s : State) (d : DieIx) (slot : Nat) (r : TraceRec) : (s.traceStore d slot r).plots = s.plots := by
  grind [State.traceStore, State.modTrace]

@[simp] theorem State.tracePlace_plots (s : State) (d : DieIx) (r : TraceRec) : (s.tracePlace d r).plots = s.plots := by
  grind [State.tracePlace, State.modTrace, State.traceStore_plots]

@[simp] theorem State.traceWrite_plots (s : State) (d : DieIx) (r : TraceRec) : (s.traceWrite d r).plots = s.plots := by
  grind [State.traceWrite, State.modTrace, State.tracePlace_plots]

@[simp] theorem State.traceTrigger_plots (s : State) (d : DieIx) (r : TraceRec) : (s.traceTrigger d r).plots = s.plots := by
  grind [State.traceTrigger, State.modTrace, State.traceWrite_plots]

@[simp] theorem State.traceSpread_plots (s : State) (d : DieIx) : (s.traceSpread d).plots = s.plots := by
  unfold State.traceSpread
  split
  · refine State.forEach_keeps State.plots _ _ _ fun _ _ => ?_
    split <;> simp
  · rfl

@[simp] theorem State.traceOn_plots (s : State) (d : DieIx) (r : TraceRec) (trig : Bool) : (s.traceOn d r trig).plots = s.plots := by
  grind [State.traceOn, State.modTrace, State.traceSpread_plots, State.traceTrigger_plots, State.traceWrite_plots]

@[simp] theorem State.tracePlot_plots (s : State) (p : PlotIx) (kind : BitVec 5) (pos : Pos) (d0 d1 : Nat) : (s.tracePlot p kind pos d0 d1).plots = s.plots := by
  grind [State.tracePlot, State.modTrace, State.traceOn_plots]

@[simp] theorem State.traceDie_plots (s : State) (d : DieIx) (kind : BitVec 5) (d0 d1 : Nat) : (s.traceDie d kind d0 d1).plots = s.plots := by
  grind [State.traceDie, State.modTrace, State.traceOn_plots]

@[simp] theorem State.traceStore_evr (s : State) (d : DieIx) (slot : Nat) (r : TraceRec) : (s.traceStore d slot r).evr = s.evr := by
  grind [State.traceStore, State.modTrace]

@[simp] theorem State.tracePlace_evr (s : State) (d : DieIx) (r : TraceRec) : (s.tracePlace d r).evr = s.evr := by
  grind [State.tracePlace, State.modTrace, State.traceStore_evr]

@[simp] theorem State.traceWrite_evr (s : State) (d : DieIx) (r : TraceRec) : (s.traceWrite d r).evr = s.evr := by
  grind [State.traceWrite, State.modTrace, State.tracePlace_evr]

@[simp] theorem State.traceTrigger_evr (s : State) (d : DieIx) (r : TraceRec) : (s.traceTrigger d r).evr = s.evr := by
  grind [State.traceTrigger, State.modTrace, State.traceWrite_evr]

@[simp] theorem State.traceSpread_evr (s : State) (d : DieIx) : (s.traceSpread d).evr = s.evr := by
  unfold State.traceSpread
  split
  · refine State.forEach_keeps State.evr _ _ _ fun _ _ => ?_
    split <;> simp
  · rfl

@[simp] theorem State.traceOn_evr (s : State) (d : DieIx) (r : TraceRec) (trig : Bool) : (s.traceOn d r trig).evr = s.evr := by
  grind [State.traceOn, State.modTrace, State.traceSpread_evr, State.traceTrigger_evr, State.traceWrite_evr]

@[simp] theorem State.tracePlot_evr (s : State) (p : PlotIx) (kind : BitVec 5) (pos : Pos) (d0 d1 : Nat) : (s.tracePlot p kind pos d0 d1).evr = s.evr := by
  grind [State.tracePlot, State.modTrace, State.traceOn_evr]

@[simp] theorem State.traceDie_evr (s : State) (d : DieIx) (kind : BitVec 5) (d0 d1 : Nat) : (s.traceDie d kind d0 d1).evr = s.evr := by
  grind [State.traceDie, State.modTrace, State.traceOn_evr]

@[simp] theorem State.traceStore_freeCtr (s : State) (d : DieIx) (slot : Nat) (r : TraceRec) : (s.traceStore d slot r).freeCtr = s.freeCtr := by
  grind [State.traceStore, State.modTrace]

@[simp] theorem State.tracePlace_freeCtr (s : State) (d : DieIx) (r : TraceRec) : (s.tracePlace d r).freeCtr = s.freeCtr := by
  grind [State.tracePlace, State.modTrace, State.traceStore_freeCtr]

@[simp] theorem State.traceWrite_freeCtr (s : State) (d : DieIx) (r : TraceRec) : (s.traceWrite d r).freeCtr = s.freeCtr := by
  grind [State.traceWrite, State.modTrace, State.tracePlace_freeCtr]

@[simp] theorem State.traceTrigger_freeCtr (s : State) (d : DieIx) (r : TraceRec) : (s.traceTrigger d r).freeCtr = s.freeCtr := by
  grind [State.traceTrigger, State.modTrace, State.traceWrite_freeCtr]

@[simp] theorem State.traceSpread_freeCtr (s : State) (d : DieIx) : (s.traceSpread d).freeCtr = s.freeCtr := by
  unfold State.traceSpread
  split
  · refine State.forEach_keeps State.freeCtr _ _ _ fun _ _ => ?_
    split <;> simp
  · rfl

@[simp] theorem State.traceOn_freeCtr (s : State) (d : DieIx) (r : TraceRec) (trig : Bool) : (s.traceOn d r trig).freeCtr = s.freeCtr := by
  grind [State.traceOn, State.modTrace, State.traceSpread_freeCtr, State.traceTrigger_freeCtr, State.traceWrite_freeCtr]

@[simp] theorem State.tracePlot_freeCtr (s : State) (p : PlotIx) (kind : BitVec 5) (pos : Pos) (d0 d1 : Nat) : (s.tracePlot p kind pos d0 d1).freeCtr = s.freeCtr := by
  grind [State.tracePlot, State.modTrace, State.traceOn_freeCtr]

@[simp] theorem State.traceDie_freeCtr (s : State) (d : DieIx) (kind : BitVec 5) (d0 d1 : Nat) : (s.traceDie d kind d0 d1).freeCtr = s.freeCtr := by
  grind [State.traceDie, State.modTrace, State.traceOn_freeCtr]

/-- Without spilling, device memory stays. -/
theorem State.traceStore_noSpill (s : State) (d : DieIx) (slot : Nat) (r : TraceRec) (h : s.noSpill) :
    (s.traceStore d slot r).mem = s.mem ∧ (s.traceStore d slot r).noSpill := by
  have e : s.traceStore d slot r = s.modTrace d fun t => { t with ring := (slot, r) :: t.ring.filter fun x => x.1 ≠ slot } := by
    simp only [State.traceStore]
    rw [if_neg (by simp [h d])]
  rw [e]
  exact ⟨rfl, State.modTrace_noSpill _ _ _ h fun t ht => ht⟩

/-- Without spilling, device memory stays. -/
theorem State.tracePlace_noSpill (s : State) (d : DieIx) (r : TraceRec) (h : s.noSpill) :
    (s.tracePlace d r).mem = s.mem ∧ (s.tracePlace d r).noSpill := by
  have g := State.traceStore_noSpill s d (s.trace d).wridx { r with tseq := (s.trace d).tseq } h
  simp only [State.tracePlace, State.modTrace_mem]
  refine ⟨g.1, State.modTrace_noSpill _ _ _ g.2 fun t ht => ?_⟩
  repeat' split
  all_goals exact ht

/-- Without spilling, device memory stays. -/
theorem State.traceWrite_noSpill (s : State) (d : DieIx) (r : TraceRec) (h : s.noSpill) :
    (s.traceWrite d r).mem = s.mem ∧ (s.traceWrite d r).noSpill := by
  have mt : ∀ (s : State) (f : TraceDie → TraceDie), s.noSpill → (∀ t, t.spill = false → (f t).spill = false) →
      (s.modTrace d f).mem = s.mem ∧ (s.modTrace d f).noSpill :=
    fun s f hs hf => ⟨rfl, State.modTrace_noSpill _ _ _ hs hf⟩
  have pl : ∀ (s : State) (x : TraceRec), s.noSpill → (s.tracePlace d x).mem = s.mem ∧ (s.tracePlace d x).noSpill :=
    fun s x hs => State.tracePlace_noSpill s d x hs
  simp only [State.traceWrite]
  split
  · exact mt _ _ h fun _ ht => ht
  split
  · exact ⟨rfl, h⟩
  split
  · exact mt _ _ h fun _ ht => ht
  have g : ∀ x : TraceRec,
      (if (s.trace d).dropped = 0 then s
        else (s.tracePlace d x).modTrace d fun t => { t with dropped := 0 }).mem = s.mem ∧
      (if (s.trace d).dropped = 0 then s
        else (s.tracePlace d x).modTrace d fun t => { t with dropped := 0 }).noSpill := by
    intro x
    split
    · exact ⟨rfl, h⟩
    · have a := pl s x h
      have b := mt _ (fun t => { t with dropped := 0 }) a.2 fun _ ht => ht
      exact ⟨b.1.trans a.1, b.2⟩
  have a := g (s.traceRec 0x0B 0x3FF (Pos.none s.job.row) (s.trace d).dropped 0)
  generalize (if (s.trace d).dropped = 0 then s
    else (s.tracePlace d (s.traceRec 0x0B 0x3FF (Pos.none s.job.row) (s.trace d).dropped 0)).modTrace d
      fun t => { t with dropped := 0 }) = x at a ⊢
  split
  · have b := mt _ (fun t => { t with full := satAdd t.full 1 }) a.2 fun _ ht => ht
    exact ⟨b.1.trans a.1, b.2⟩
  · have b := pl _ r a.2
    exact ⟨b.1.trans a.1, b.2⟩

/-- Without spilling, device memory stays. -/
theorem State.traceTrigger_noSpill (s : State) (d : DieIx) (r : TraceRec) (h : s.noSpill) :
    (s.traceTrigger d r).mem = s.mem ∧ (s.traceTrigger d r).noSpill := by
  simp only [State.traceTrigger]
  split
  · exact ⟨rfl, h⟩
  simp only [h d, Bool.false_eq_true, if_false]
  have a : ((s.modTrace d fun t => { t with trigrec := some { r with trig := true, tseq := (s.trace d).tseq } }).modTrace d
      fun t => { t with trigvalid := true, arm := false, state := if t.state = .armed then .triggered else t.state }).noSpill :=
    State.modTrace_noSpill _ _ _ (State.modTrace_noSpill _ _ _ h fun _ ht => ht) fun _ ht => ht
  have fin : ∀ s : State, s.noSpill → (s.modTrace d fun t =>
      if t.mode = 2 && t.state = .triggered then
        if 32767 * (16 - t.pos.toNat) / 16 = 0 then { t with state := .ended } else
          { t with left := 32767 * (16 - t.pos.toNat) / 16 }
      else t).noSpill := by
    intro s hs
    refine State.modTrace_noSpill _ _ _ hs fun t ht => ?_
    repeat' split
    all_goals exact ht
  split
  · have b := State.traceWrite_noSpill _ d { r with trig := true, tseq := (s.trace d).tseq } a
    exact ⟨b.1, fin _ b.2⟩
  · exact ⟨rfl, fin _ a⟩

/-- Without spilling, device memory stays. -/
theorem State.traceSpread_noSpill (s : State) (d : DieIx) (h : s.noSpill) :
    (s.traceSpread d).mem = s.mem ∧ (s.traceSpread d).noSpill := by
  unfold State.traceSpread
  split
  · refine State.forEach_noSpill _ _ _ h fun _ _ hs => ?_
    split
    · exact ⟨rfl, hs⟩
    · exact State.traceTrigger_noSpill _ _ _ hs
  · exact ⟨rfl, h⟩

/-- Without spilling, device memory stays. -/
theorem State.traceOn_noSpill (s : State) (d : DieIx) (r : TraceRec) (trig : Bool) (h : s.noSpill) :
    (s.traceOn d r trig).mem = s.mem ∧ (s.traceOn d r trig).noSpill := by
  grind [State.traceOn, State.traceSpread_noSpill, State.traceTrigger_noSpill, State.traceWrite_noSpill, State.modTrace_noSpill, State.modTrace_mem]

/-- Without spilling, device memory stays. -/
theorem State.tracePlot_noSpill (s : State) (p : PlotIx) (kind : BitVec 5) (pos : Pos) (d0 d1 : Nat) (h : s.noSpill) :
    (s.tracePlot p kind pos d0 d1).mem = s.mem ∧ (s.tracePlot p kind pos d0 d1).noSpill := by
  grind [State.tracePlot, State.traceOn_noSpill, State.modTrace_noSpill, State.modTrace_mem]

/-- Without spilling, device memory stays. -/
theorem State.traceDie_noSpill (s : State) (d : DieIx) (kind : BitVec 5) (d0 d1 : Nat) (h : s.noSpill) :
    (s.traceDie d kind d0 d1).mem = s.mem ∧ (s.traceDie d kind d0 d1).noSpill := by
  grind [State.traceDie, State.traceOn_noSpill, State.modTrace_noSpill, State.modTrace_mem]

/-- The debug registers other than the trace units' (R446). -/
def State.dbgRest (s : State) : Dbg := { s.dbg with traces := Vector.replicate 8 .reset }

@[simp] theorem State.modTrace_dbgRest (s : State) (d : DieIx) (f : TraceDie → TraceDie) :
    (s.modTrace d f).dbgRest = s.dbgRest := rfl

@[simp] theorem State.traceStore_dbgRest (s : State) (d : DieIx) (slot : Nat) (r : TraceRec) : (s.traceStore d slot r).dbgRest = s.dbgRest := by
  grind [State.traceStore, State.modTrace_dbgRest, State.dbgRest]

@[simp] theorem State.tracePlace_dbgRest (s : State) (d : DieIx) (r : TraceRec) : (s.tracePlace d r).dbgRest = s.dbgRest := by
  grind [State.tracePlace, State.modTrace_dbgRest, State.traceStore_dbgRest]

@[simp] theorem State.traceWrite_dbgRest (s : State) (d : DieIx) (r : TraceRec) : (s.traceWrite d r).dbgRest = s.dbgRest := by
  grind [State.traceWrite, State.modTrace_dbgRest, State.tracePlace_dbgRest]

@[simp] theorem State.traceTrigger_dbgRest (s : State) (d : DieIx) (r : TraceRec) : (s.traceTrigger d r).dbgRest = s.dbgRest := by
  grind [State.traceTrigger, State.modTrace_dbgRest, State.traceWrite_dbgRest, State.dbgRest]

@[simp] theorem State.traceSpread_dbgRest (s : State) (d : DieIx) : (s.traceSpread d).dbgRest = s.dbgRest := by
  unfold State.traceSpread
  split
  · refine State.forEach_keeps State.dbgRest _ _ _ fun _ _ => ?_
    split <;> simp
  · rfl

@[simp] theorem State.traceOn_dbgRest (s : State) (d : DieIx) (r : TraceRec) (trig : Bool) : (s.traceOn d r trig).dbgRest = s.dbgRest := by
  grind [State.traceOn, State.modTrace_dbgRest, State.traceSpread_dbgRest, State.traceTrigger_dbgRest, State.traceWrite_dbgRest]

@[simp] theorem State.tracePlot_dbgRest (s : State) (p : PlotIx) (kind : BitVec 5) (pos : Pos) (d0 d1 : Nat) : (s.tracePlot p kind pos d0 d1).dbgRest = s.dbgRest := by
  grind [State.tracePlot, State.modTrace_dbgRest, State.traceOn_dbgRest]

@[simp] theorem State.traceDie_dbgRest (s : State) (d : DieIx) (kind : BitVec 5) (d0 d1 : Nat) : (s.traceDie d kind d0 d1).dbgRest = s.dbgRest := by
  grind [State.traceDie, State.modTrace_dbgRest, State.traceOn_dbgRest]

end Sys2Proof.Machine
end

