-- ==== Sys2Proof/Laws/Fetch.lean ====
section
/-! SUPPORT. What an access of memory and the fetch of a command change: plots keep everything but their counters, and the
parts of `State.core` stay. -/

namespace Sys2Proof.Machine

/-- Every plot keeps everything but its counters. -/
structure PlotsKept (s t : State) : Prop where
  plot : ∀ q, t.plot q = { s.plot q with counters := (t.plot q).counters }

theorem State.plotsKept_refl (s : State) : PlotsKept s s := ⟨fun _ => rfl⟩

theorem State.plotsKept_of_eq {s t : State} (h : t.plots = s.plots) : PlotsKept s t := by
  refine ⟨fun q => ?_⟩
  have e : t.plot q = s.plot q := congrArg (fun v => Vector.get v q) h
  rw [e]

theorem State.plotsKept_trans {s t u : State} (h : PlotsKept s t) (g : PlotsKept t u) : PlotsKept s u := by
  refine ⟨fun q => ?_⟩
  rw [g.plot q, h.plot q]

theorem State.forEach_plotsKept {α : Type} (s : State) (l : List α) (f : State → α → State)
    (h : ∀ s x, PlotsKept s (f s x)) : PlotsKept s (s.forEach l f) := by
  unfold State.forEach
  induction l generalizing s with
  | nil => exact s.plotsKept_refl
  | cons a l ih => exact State.plotsKept_trans (h s a) (ih _)

theorem State.countCh_plotsKept (s : State) (p : PlotIx) (pos : Pos) (ch : Option (BitVec 8)) (ev n : Nat) :
    PlotsKept s (s.countCh p pos ch ev n) := by
  unfold State.countCh
  split
  · refine ⟨fun q => ?_⟩
    dsimp only
    by_cases h : p = q
    · subst h; rw [State.modPlot_plot]
    · rw [State.modPlot_plot_ne _ _ _ _ h]
  · exact s.plotsKept_refl

theorem State.memUncorrectable_plots (s : State) (src : MemSrc) (b : Nat) : (s.memUncorrectable src b).plots = s.plots := by
  simp only [State.memUncorrectable, State.memReport, State.raise_plots, State.modDie_plots]

theorem State.memCorrected_plots (s : State) (src : MemSrc) (b : Nat) : (s.memCorrected src b).plots = s.plots := by
  simp only [State.memCorrected, State.rowAdd, State.memReport, State.raise_plots, State.modDie_plots]

theorem State.writeBack_plots (s : State) (src : MemSrc) (c : CacheLine) : (s.writeBack src c).plots = s.plots := by
  simp only [State.writeBack]
  split
  · rfl
  · refine State.forEach_keeps State.plots _ _ _ fun s b => ?_
    split
    · exact State.memUncorrectable_plots ..
    · split
      · exact State.memCorrected_plots ..
      · rfl

theorem State.cacheTouch_plotsKept (s : State) (src : MemSrc) (a : Nat) (w : Bool) : PlotsKept s (s.cacheTouch src a w) := by
  have tally : ∀ (s : State) ev, PlotsKept s (match src with | .plot p pos => s.count p pos ev 1 | _ => s) := by
    intro s ev
    split
    · exact State.countCh_plotsKept ..
    · exact s.plotsKept_refl
  have die : ∀ (s t : State) d f, PlotsKept s t → PlotsKept s (t.modDie d f) :=
    fun s t d f h => State.plotsKept_trans h (State.plotsKept_of_eq rfl)
  have wb : ∀ (s t : State) c, PlotsKept s t → PlotsKept s (t.writeBack src c) :=
    fun s t c h => State.plotsKept_trans h (State.plotsKept_of_eq (State.writeBack_plots ..))
  simp only [State.cacheTouch]
  repeat' split
  all_goals first
    | exact s.plotsKept_refl
    | exact tally s _
    | exact die _ _ _ _ (tally s _)
    | exact die _ _ _ _ (wb _ _ _ (tally s _))
    | exact State.countCh_plotsKept ..
    | exact die _ _ _ _ s.plotsKept_refl
    | exact die _ _ _ _ (State.countCh_plotsKept ..)
    | exact die _ _ _ _ (wb _ _ _ s.plotsKept_refl)

theorem State.checkBlock_plots (s : State) (b : Nat) : (s.checkBlock b).2.plots = s.plots := by
  simp only [State.checkBlock]
  repeat' split
  all_goals rfl

theorem State.checkBlocks_plots (s : State) (src : MemSrc) (l : List Nat) : (s.checkBlocks src l).2.2.plots = s.plots := by
  induction l generalizing s with
  | nil => rfl
  | cons b r ih =>
    have h := State.checkBlock_plots s b
    simp only [State.checkBlocks]
    split
    · rw [State.memUncorrectable_plots, h]
    · rw [ih, State.memCorrected_plots, h]
    · rw [ih, h]
    · rw [ih, h]

theorem State.homeReadTo_plotsKept (s : State) (src : MemSrc) (a n : Nat) : PlotsKept s (s.homeReadTo src a n).2.2 := by
  have h : PlotsKept s (s.checkBlocks src (blocksOf a n)).2.2 := State.plotsKept_of_eq (State.checkBlocks_plots ..)
  have g := State.plotsKept_trans h (State.cacheTouch_plotsKept _ src a false)
  have fr : ∀ t : State, PlotsKept s t → PlotsKept s t.free.2 :=
    fun t ht => State.plotsKept_trans ht (State.plotsKept_of_eq rfl)
  simp only [State.homeReadTo]
  repeat' split
  all_goals first | exact h | exact g | exact fr _ h | exact fr _ g

/-- A read at the home changes no plot but for its counters. -/
theorem State.homeRead_plotsKept (s : State) (src : MemSrc) (a n : Nat) : PlotsKept s (s.homeRead src a n).2 := by
  have h := State.homeReadTo_plotsKept s src a n
  simp only [State.homeRead]
  split <;> exact h

/-- The fetch of a command: what it answers with, and what it leaves alone. -/
theorem State.fetch_cmd (s s1 : State) (p : PlotIx) (opc : Nat) (c : Cmd) (h : s.fetch p opc = .cmd c s1) :
    s.mayIssue p = true ∧ c.opc = opc ∧ s1.core = s.core ∧ PlotsKept s s1 := by
  simp only [State.fetch] at h
  split at h
  · cases h
  · split at h
    · cases h
    · split at h
      · cases h
      · split at h
        · cases h
        · split at h
          · cases h
          · split at h
            · cases h
            · rename_i hm _ _ _ _ _ _ ho
              cases h
              refine ⟨by simpa using hm, by simpa using ho, State.homeRead_core .., State.homeRead_plotsKept ..⟩

/-- A command whose fetch succeeds and whose arguments are in range takes its effect. -/
theorem State.command_ok (s s1 : State) (p : PlotIx) (opc : Nat) (c : Cmd) (ok : Cmd → State → Bool)
    (f : Cmd → Pos → State → State) (h : s.fetch p opc = .cmd c s1) (ho : ok c s1 = true) :
    s.command p opc ok f = f c (c.pos (s1.plot p).seq.row)
      (if (s1.plot p).seq.waiting then s1
       else s1.tracePlot p 0x01 (c.pos (s1.plot p).seq.row) (s1.plot p).seq.pc.toNat (c.opc * 2 ^ 24)) := by
  simp only [State.command, h, ho, if_true]

/-- A command whose arguments are out of range is refused. -/
theorem State.command_bad (s s1 : State) (p : PlotIx) (opc : Nat) (c : Cmd) (ok : Cmd → State → Bool)
    (f : Cmd → Pos → State → State) (h : s.fetch p opc = .cmd c s1) (ho : ok c s1 = false) :
    s.command p opc ok f = s1.refuseCmd p (c.pos (s1.plot p).seq.row) := by
  simp only [State.command, h, ho, Bool.false_eq_true, if_false]

end Sys2Proof.Machine
end

