-- ==== Sys2Proof/Laws/HostPort.lean ====
section
/-! SUPPORT. A port that serves: a request is performed at once, and the two words of an RWP register are one write of it. -/

namespace Sys2Proof.Machine

theorem Serves.notData {s : State} {h : HostPort} (sv : Serves s h) : s.isDataHost h = false := by
  have c := sv.control
  simp only [State.isControl, Bool.and_eq_true, decide_eq_true_eq] at c
  simp [State.isDataHost, c.1]

theorem State.modPci_congr (s : State) (h : HostPort) (f g : Pci → Pci) (e : f (s.pci h) = g (s.pci h)) :
    s.modPci h f = s.modPci h g := by
  cases h <;> (simp only [State.modPci, State.pci] at *; rw [e])

theorem State.modPci_self (s : State) (h : HostPort) (f : Pci → Pci) (e : f (s.pci h) = s.pci h) : s.modPci h f = s := by
  cases h <;> (simp only [State.modPci, State.pci] at *; rw [e])

theorem State.modPci_modPci (s : State) (h : HostPort) (f g : Pci → Pci) : (s.modPci h f).modPci h g = s.modPci h fun p => g (f p) := by
  cases h <;> rfl

theorem State.request_regWrite (s : State) (h : HostPort) (off width : Nat) (v : BitVec 64) (hu : (s.pci h).up = true)
    (hd : (s.pci h).d3hot = false) (hr : s.pwr.railsOn = true) (hs : (s.pci h).stalled = []) (hb : off + width ≤ 0x4000000) :
    s.request h (.regWrite off width v) = s.busWrite h off width v := by
  simp [State.request, hu, hd, hr, HeldReq.inBar, hb, hs, State.drainPort, State.holds, State.perform]

theorem State.busWrite_word (s : State) (h : HostPort) (off : Nat) (v : W32) (hw : inTokenWindow off = false) (ha : off % 4 = 0)
    (hc : s.isDataHost h = false) : s.busWrite h off 4 (v.zeroExtend 64) = s.writeWord h off v := by
  have e : w32 (v.zeroExtend 64).toNat = v := by
    unfold w32; apply BitVec.eq_of_toNat_eq; simp; omega
  simp [State.busWrite, hw, hc, ha]
  simpa using congrArg (s.writeWord h off) e

/-- The two words of an RWP register, written through a port that serves, are one write of the register; a write that breaks
a rule of the register is counted and has no other effect (R13, R15). -/
theorem State.pairWrite_serves (s : State) (h : HostPort) (off : Nat) (r : Reg) (v : W32) (sv : Serves s h)
    (p0 : placeAt off = some { reg := r, acc := .rwp, compl := false })
    (p1 : placeAt (off + 4) = some { reg := r, acc := .rwp, compl := true })
    (ha : off % 4 = 0) (hp : pciOf off = none) (hp' : pciOf (off + 4) = none)
    (hw : inTokenWindow off = false) (hw' : inTokenWindow (off + 4) = false) (hb : off + 8 ≤ 0x4000000) :
    s.pairWrite h off v = (s.writeReg h r v).getD s.ruleBreak := by
  have e0 : regKeyAt off = some r.key := by simp [regKeyAt, p0]
  have e1 : regKeyAt (off + 4) = some r.key := by simp [regKeyAt, p1]
  have h1 : s.request h (.regWrite off 4 (v.zeroExtend 64)) = s.modPci h fun p => { p with pairs := [(off, v, false)] } := by
    rw [State.request_regWrite s h off 4 _ sv.up sv.d0 sv.rails sv.idle (by omega),
      State.busWrite_word s h off v hw ha sv.notData]
    simp only [State.writeWord, hp, sv.notData, State.mayWrite, sv.live, sv.ready, p0, State.writePair, sv.pairs]
    simp [State.modPci_modPci, Pci.spoilWord, e0]
    apply State.modPci_congr
    simp [sv.pairs]
  unfold State.pairWrite
  rw [h1]
  generalize hs1 : (s.modPci h fun p => { p with pairs := [(off, v, false)] }) = s1
  have ed : s1.isDataHost h = false := by rw [← hs1]; simpa [State.isDataHost] using sv.notData
  have ep : s1.pci h = { s.pci h with pairs := [(off, v, false)] } := by rw [← hs1]; simp
  rw [State.request_regWrite s1 h (off + 4) 4 _ (by rw [ep]; exact sv.up) (by rw [ep]; exact sv.d0)
    (by rw [← hs1]; simpa using sv.rails) (by rw [ep]; exact sv.idle) (by omega),
    State.busWrite_word s1 h (off + 4) _ hw' (by omega) ed]
  have el : s1.evr.fallow = false := by rw [← hs1]; simpa using sv.live
  have er : s1.sbd.state = .ready := by rw [← hs1]; simpa using sv.ready
  have back : ((s1.modPci h fun p => { p with pairs := p.pairs.filter fun y => y.1 ≠ off }).modPci h fun p => p.spoilWord (off + 4)) = s := by
    rw [← hs1, State.modPci_modPci, State.modPci_modPci]
    apply State.modPci_self
    have e := sv.pairs
    generalize s.pci h = q at e ⊢
    cases q
    simp only at e
    simp [Pci.spoilWord, e1, e]
  simp only [State.writeWord, hp', ed, State.mayWrite, el, er, p1, State.writePair]
  simp only [ne_eq, decide_not] at back
  simp [ep, back]

/-- The two words of an RWP register stand at an offset outside the PCI blocks and the token window. -/
structure PairAt (off : Nat) (r : Reg) : Prop where
  first : placeAt off = some { reg := r, acc := .rwp, compl := false }
  second : placeAt (off + 4) = some { reg := r, acc := .rwp, compl := true }
  aligned : off % 4 = 0
  module : pciOf off = none ∧ pciOf (off + 4) = none
  noToken : inTokenWindow off = false ∧ inTokenWindow (off + 4) = false
  inside : off + 8 ≤ 0x4000000

theorem State.pairWrite_at (s : State) (h : HostPort) (off : Nat) (r : Reg) (v : W32) (sv : Serves s h) (p : PairAt off r) :
    s.pairWrite h off v = (s.writeReg h r v).getD s.ruleBreak :=
  State.pairWrite_serves s h off r v sv p.first p.second p.aligned p.module.1 p.module.2 p.noToken.1 p.noToken.2 p.inside

theorem pairAt_planctl : PairAt 0x10 .planctl := ⟨by decide, by decide, by decide, by decide, by decide, by decide⟩
theorem pairAt_jobctl : PairAt 0x28 .jobctl := ⟨by decide, by decide, by decide, by decide, by decide, by decide⟩
theorem pairAt_restart : PairAt 0x50 .restart := ⟨by decide, by decide, by decide, by decide, by decide, by decide⟩
theorem pairAt_buddyctl : PairAt 0x78 .buddyctl := ⟨by decide, by decide, by decide, by decide, by decide, by decide⟩
theorem pairAt_fbres : PairAt 0x10008 .fbres := ⟨by decide, by decide, by decide, by decide, by decide, by decide⟩
theorem pairAt_layout : PairAt 0x20000 .layout := ⟨by decide, by decide, by decide, by decide, by decide, by decide⟩
theorem pairAt_dumpctl : PairAt 0x30020 .dumpctl := ⟨by decide, by decide, by decide, by decide, by decide, by decide⟩
theorem pairAt_kufnode : PairAt 0x40000 .kufnode := ⟨by decide, by decide, by decide, by decide, by decide, by decide⟩
theorem pairAt_evrctl : PairAt 0x70000 .evrctl := ⟨by decide, by decide, by decide, by decide, by decide, by decide⟩
theorem pairAt_flashctl : PairAt 0x80030 .flashctl := ⟨by decide, by decide, by decide, by decide, by decide, by decide⟩
theorem pairAt_resetctl : PairAt 0x80058 .resetctl := ⟨by decide, by decide, by decide, by decide, by decide, by decide⟩
theorem pairAt_cntctl : PairAt 0xB0000 .cntctl := ⟨by decide, by decide, by decide, by decide, by decide, by decide⟩
theorem pairAt_trigall : PairAt 0xB0028 .trigall := ⟨by decide, by decide, by decide, by decide, by decide, by decide⟩
theorem pairAt_portctl (k : KPort) : PairAt (portctlOff k) (.portctl k) := by
  fin_cases k <;> exact ⟨by decide, by decide, by decide, by decide, by decide, by decide⟩
theorem pairAt_qcfg (q : Fin 8) : PairAt (0x70040 + 8 * q.val) (.qcfg q) := by
  fin_cases q <;> exact ⟨by decide, by decide, by decide, by decide, by decide, by decide⟩
theorem pairAt_slicemode (d : DieIx) : PairAt (stackWindow d + 0x10000) (.slicemode d) := by
  fin_cases d <;> exact ⟨by decide, by decide, by decide, by decide, by decide, by decide⟩
theorem pairAt_qcmd (d : DieIx) : PairAt (stackWindow d + 0x20000) (.qcmd d) := by
  fin_cases d <;> exact ⟨by decide, by decide, by decide, by decide, by decide, by decide⟩
theorem pairAt_trcctl (d : DieIx) : PairAt (stackWindow d + 0x30000) (.trcctl d) := by
  fin_cases d <;> exact ⟨by decide, by decide, by decide, by decide, by decide, by decide⟩
theorem pairAt_dbgwatch (d : DieIx) (n : Fin 4) : PairAt (watchOff d n) (.dbgwatch d n) := by
  fin_cases d <;> fin_cases n <;> exact ⟨by decide, by decide, by decide, by decide, by decide, by decide⟩

theorem plotWindow_split (y o r : Nat) (hy : y = 0x180000 + 0x8000 * r + o) (h : o < 0x8000) :
    ¬ y < 0x10000 ∧ ¬ y < 0x20000 ∧ ¬ y < 0x30000 ∧ ¬ y < 0x40000 ∧ 0x180000 ≤ y ∧ (y - 0x180000) / 0x8000 = r ∧
      (y - 0x180000) % 0x8000 = o := by omega

/-- What stands at an offset of a plot's window is its block's (R410, R411). -/
theorem placeAt_plot (p : PlotIx) (o : Nat) (h : o < 0x8000) : placeAt (plotWindow p + o) = (plotBlock p).at o := by
  have e1 : (dieOfPlot p).val = p.val / 80 := by simp [dieOfPlot]
  have key : ∀ q r x n, q < 8 → r < 80 → n = 80 * q + r → x = 0x1000000 + 0x400000 * q + 0x180000 + 0x8000 * r + o → placeAt x = (plotBlock (Fin.ofNat 640 n)).at o := by
    intro q r x n hq hr hn hx
    have h1 : ¬ x < 0xC0000 := by omega
    have h2 : ¬ (0x100000 ≤ x ∧ x < 0x180000) := by omega
    have h3 : ¬ (0x400000 ≤ x ∧ x < 0x800000) := by omega
    have h4 : 0x1000000 ≤ x ∧ x < 0x3000000 := by omega
    have h5 : (x - 0x1000000) / 0x400000 = q := by omega
    have h6 : (x - 0x1000000) % 0x400000 = 0x180000 + 0x8000 * r + o := by omega
    simp only [placeAt, h1, h2, h3, h4, if_false, if_true, h5, h6, and_self]
    have ha : ∀ y, y = 0x180000 + 0x8000 * r + o → stackAt q y = (plotBlock (Fin.ofNat 640 n)).at o := by
      intro y hy
      obtain ⟨g1, g2, g3, g4, g5, g6, g7⟩ := plotWindow_split y o r hy h
      simp only [stackAt, g1, g2, g3, g4, g5, if_false, if_true, g6, g7, hn]
    exact ha _ rfl
  have := key (p.val / 80) (p.val % 80) (plotWindow p + o) p.val (by omega) (by omega) (by omega) (by simp [plotWindow, stackWindow, e1])
  rw [this]
  congr
  apply Fin.ext
  simp [Fin.ofNat]
theorem plotWindow_facts (p : PlotIx) (o : Nat) (h : o + 8 ≤ 0x8000) (ha : o % 4 = 0) :
    (plotWindow p + o) % 4 = 0 ∧ pciOf (plotWindow p + o) = none ∧ inTokenWindow (plotWindow p + o) = false ∧
      plotWindow p + o + 8 ≤ 0x4000000 := by
  unfold plotWindow stackWindow pciOf inTokenWindow
  have := (dieOfPlot p).isLt
  generalize (dieOfPlot p).val = q at *
  have h80 : p.val % 80 < 80 := Nat.mod_lt _ (by omega)
  generalize p.val % 80 = r at *
  refine ⟨by omega, ?_, ?_, by omega⟩
  · rw [if_neg (by omega), if_neg (by omega)]
  · simp; omega
theorem pairAt_plot (p : PlotIx) (o : Nat) (r : Reg) (h : o + 12 ≤ 0x8000) (ha : o % 4 = 0)
    (h0 : (plotBlock p).at o = some { reg := r, acc := .rwp, compl := false })
    (h1 : (plotBlock p).at (o + 4) = some { reg := r, acc := .rwp, compl := true }) : PairAt (plotWindow p + o) r := by
  have a := plotWindow_facts p o (by omega) ha
  have b := plotWindow_facts p (o + 4) (by omega) (by omega)
  rw [← Nat.add_assoc] at b
  exact ⟨(placeAt_plot p o (by omega)).trans h0, (placeAt_plot p (o + 4) (by omega)).trans h1, a.1, ⟨a.2.1, b.2.1⟩, ⟨a.2.2.1, b.2.2.1⟩, a.2.2.2⟩
theorem plotBlock_harctl (p : PlotIx) : (plotBlock p).at 0x1008 = some { reg := .harctl p, acc := .rwp, compl := false } := by
  unfold Block.at plotBlock
  generalize each 32 4 _ = A
  generalize each 8 16 _ = B
  generalize each 8 8 _ = C
  simp only [List.find?_append, one, long, pair, List.find?_cons, List.cons_append, List.nil_append]
  simp
theorem plotBlock_harctl' (p : PlotIx) : (plotBlock p).at 0x100c = some { reg := .harctl p, acc := .rwp, compl := true } := by
  unfold Block.at plotBlock
  generalize each 32 4 _ = A
  generalize each 8 16 _ = B
  generalize each 8 8 _ = C
  simp only [List.find?_append, one, long, pair, List.find?_cons, List.cons_append, List.nil_append]
  simp
theorem pairAt_harctl (p : PlotIx) : PairAt (plotWindow p + 0x1008) (.harctl p) :=
  pairAt_plot p _ _ (by decide) (by decide) (plotBlock_harctl p) (plotBlock_harctl' p)
theorem plotBlock_drlctl (p : PlotIx) : (plotBlock p).at 0x2018 = some { reg := .drlctl p, acc := .rwp, compl := false } := by
  unfold Block.at plotBlock
  generalize each 32 4 _ = A
  generalize each 8 16 _ = B
  generalize each 8 8 _ = C
  simp only [List.find?_append, one, long, pair, List.find?_cons, List.cons_append, List.nil_append]
  simp
theorem plotBlock_drlctl' (p : PlotIx) : (plotBlock p).at 0x201c = some { reg := .drlctl p, acc := .rwp, compl := true } := by
  unfold Block.at plotBlock
  generalize each 32 4 _ = A
  generalize each 8 16 _ = B
  generalize each 8 8 _ = C
  simp only [List.find?_append, one, long, pair, List.find?_cons, List.cons_append, List.nil_append]
  simp
theorem pairAt_drlctl (p : PlotIx) : PairAt (plotWindow p + 0x2018) (.drlctl p) :=
  pairAt_plot p _ _ (by decide) (by decide) (plotBlock_drlctl p) (plotBlock_drlctl' p)
theorem plotBlock_pctl (p : PlotIx) : (plotBlock p).at 0x4000 = some { reg := .pctl p, acc := .rwp, compl := false } := by
  unfold Block.at plotBlock
  generalize each 32 4 _ = A
  generalize each 8 16 _ = B
  generalize each 8 8 _ = C
  simp only [List.find?_append, one, long, pair, List.find?_cons, List.cons_append, List.nil_append]
  simp
theorem plotBlock_pctl' (p : PlotIx) : (plotBlock p).at 0x4004 = some { reg := .pctl p, acc := .rwp, compl := true } := by
  unfold Block.at plotBlock
  generalize each 32 4 _ = A
  generalize each 8 16 _ = B
  generalize each 8 8 _ = C
  simp only [List.find?_append, one, long, pair, List.find?_cons, List.cons_append, List.nil_append]
  simp
theorem pairAt_pctl (p : PlotIx) : PairAt (plotWindow p + 0x4000) (.pctl p) :=
  pairAt_plot p _ _ (by decide) (by decide) (plotBlock_pctl p) (plotBlock_pctl' p)
theorem plotBlock_psdata (p : PlotIx) : (plotBlock p).at 0x4010 = some { reg := .psdata p, acc := .rw, compl := false } := by
  unfold Block.at plotBlock
  generalize each 32 4 _ = A
  generalize each 8 16 _ = B
  generalize each 8 8 _ = C
  simp only [List.find?_append, one, long, pair, List.find?_cons, List.cons_append, List.nil_append]
  simp
end Sys2Proof.Machine
end

