-- ==== Sys2Proof/Laws/Kmsg.lean ====
section
/-! SUPPORT. Sending a Kufort message: its header read back, the port it leaves by, and what the port's queues hold then. -/

namespace Sys2Proof.Machine

theorem mkMessage_mtype (h : MsgHdr) (body : List Byte) (ht : h.mtype < 16) (hh : h.hops < 64) (hl : body.length < 512) :
    (MsgHdr.ofBytes (mkMessage h body)).mtype = h.mtype := by rw [header_read_back h body ht hh hl]

theorem mkMessage_dst (h : MsgHdr) (body : List Byte) (ht : h.mtype < 16) (hh : h.hops < 64) (hl : body.length < 512) :
    (MsgHdr.ofBytes (mkMessage h body)).dst = h.dst := by rw [header_read_back h body ht hh hl]

theorem State.maxHops_lt (s : State) : s.maxHops < 64 := by
  unfold State.maxHops
  split
  · exact RouteTable.maxHops _ |>.isLt
  · omega

/-- A message with a route is queued at the route's port (R258). -/
theorem State.sendOn_route (s : State) (m : List Byte) (k : KPort) (d : BitVec 12) (e : (MsgHdr.ofBytes m).dst = d)
    (hr : s.routeOf d = some k) : s.sendOn m = (some k, s.txPush k m) := by
  subst e
  simp only [State.sendOn]
  rw [hr]

/-- The port's queue of the message's class ends with it. -/
theorem State.txPush_txq (s : State) (m : List Byte) (k : KPort) (c : Fin 3) (hc : classOfType (MsgHdr.ofBytes m).mtype = c) :
    (s.txPush k m).kport k = { s.kport k with txq := (s.kport k).txq.set c.val ((s.kport k).txq.get c ++ [m]) } := by
  subst hc
  simp only [State.txPush, State.modKport_kport]

theorem State.txPush_ne (s : State) (m : List Byte) (k j : KPort) (h : k ≠ j) : (s.txPush k m).kport j = s.kport j :=
  State.modKport_kport_ne s k j _ h

theorem bytesOfWords_length (l : List W32) : (bytesOfWords l).length = 4 * l.length := by
  unfold bytesOfWords
  induction l with
  | nil => rfl
  | cons a l ih => simp [List.flatMap_cons, ih]; omega

theorem setHops_append (m x : List Byte) (n : Nat) (h : 4 ≤ m.length) : setHops (m ++ x) n = setHops m n ++ x := by
  have e : wordAt (m ++ x) 0 = wordAt m 0 := by
    simp only [wordAt, List.drop_zero, List.take_append, show 4 - m.length = 0 from by omega, List.take_zero, List.append_nil]
  unfold setHops patch
  simp only [e, bytesOfWord_length, List.take_zero, List.nil_append, List.drop_append, show 0 + 4 - m.length = 0 from by omega,
    List.drop_zero, List.append_assoc]
theorem setHops_length (m : List Byte) (n : Nat) (h : 4 ≤ m.length) : (setHops m n).length = m.length := by
  simp [setHops, patch]; omega
/-- A message that is made has its MCRC (R251). -/
theorem mcrcOk_mkMessage (h : MsgHdr) (body : List Byte) : mcrcOk (mkMessage h body) = true := by
  have key : ∀ m : List Byte, 4 ≤ m.length → mcrcOk (m ++ bytesOfWord (crc32 (setHops m 0))) = true := by
    intro m hm
    unfold mcrcOk mcrcOf
    rw [setHops_append m _ 0 hm, List.length_append, bytesOfWord_length, Nat.add_sub_cancel,
      List.take_append_of_le_length (by rw [setHops_length m 0 hm]),
      List.take_of_length_le (by rw [setHops_length m 0 hm])]
    simp only [wordAt, List.drop_append, Nat.sub_self, List.drop_zero, List.drop_length, List.nil_append, decide_eq_true_eq]
    exact wordAt_bytesOfWord_self _
  unfold mkMessage
  apply key
  simp [MsgHdr.bytes, bytesOfWords]
/-- A message that is made has 20 bytes more than its body (R251). -/
theorem mkMessage_length (h : MsgHdr) (body : List Byte) : (mkMessage h body).length = 20 + body.length := by
  simp only [mkMessage, MsgHdr.bytes, List.length_append, bytesOfWord_length, bytesOfWords_length, List.length_cons, List.length_nil]
  omega
/-- A message that is made has its reserved bits 0 (R251). -/
theorem hdrReserved_mkMessage (h : MsgHdr) (body : List Byte) (hh : h.hops < 64) (ht : h.mtype < 16) (hb : body.length < 512) :
    hdrReserved (mkMessage h body) = true := by
  obtain ⟨t, c, hp, l, sr, d, m⟩ := h
  simp only at ht hh
  unfold mkMessage MsgHdr.bytes hdrReserved
  simp only [bytesOfWords, List.flatMap_cons, List.flatMap_nil, List.append_assoc, List.append_nil]
  have e8 : ∀ a b r, wordAt (bytesOfWord a ++ (bytesOfWord b ++ r)) 8 = wordAt r 0 := fun a b r => by
    rw [wordAt_skip a _ 4, wordAt_skip b _ 0]
  have e12 : ∀ a b c r, wordAt (bytesOfWord a ++ (bytesOfWord b ++ (bytesOfWord c ++ r))) 12 = wordAt r 0 := fun a b c r => by
    rw [wordAt_skip a _ 8, e8]
  rw [wordAt_bytesOfWord, wordAt_skip _ _ 0, wordAt_bytesOfWord, e8, wordAt_bytesOfWord, e12, wordAt_bytesOfWord]
  simp only [bits_eq_div_mod, w32, BitVec.toNat_ofNat, Bool.and_eq_true, decide_eq_true_eq]
  have hc := c.isLt; have hs := sr.isLt; have hd := d.isLt; have hm := m.isLt
  refine ⟨⟨⟨?_, ?_⟩, ?_⟩, ?_⟩ <;> first | omega | trivial
end Sys2Proof.Machine
end

