-- ==== Sys2Proof/Laws/MemClean.lean ====
section
/-! SUPPORT. Accesses to device memory where no stored block holds an error: what a read answers and what a write leaves
(R188, R195). -/

namespace Sys2Proof.Machine

/-- An access that met no stored error: nothing but memory, caches and counters has changed. -/
structure CleanAccess (s t : State) : Prop where
  core : t.core = s.core
  evr : t.evr = s.evr
  plots : PlotsKept s t
  bad : t.mem.bad = []

theorem cleanAccess_refl (s : State) (h : s.mem.bad = []) : CleanAccess s s := ⟨rfl, rfl, s.plotsKept_refl, h⟩

theorem cleanAccess_trans {s t u : State} (h : CleanAccess s t) (g : CleanAccess t u) : CleanAccess s u :=
  ⟨g.core.trans h.core, g.evr.trans h.evr, State.plotsKept_trans h.plots g.plots, g.bad⟩

/-- A count changes neither memory nor the recorder. -/
theorem State.countCh_rest (s : State) (p : PlotIx) (pos : Pos) (ch : Option (BitVec 8)) (ev n : Nat) :
    (s.countCh p pos ch ev n).mem = s.mem ∧ (s.countCh p pos ch ev n).evr = s.evr := by
  unfold State.countCh; split <;> exact ⟨rfl, rfl⟩

/-- A line that leaves the cache without errors is written back as it stands. -/
theorem State.writeBack_clean (s : State) (src : MemSrc) (c : CacheLine) (h : s.mem.bad = []) : s.writeBack src c = s := by
  unfold State.writeBack
  split
  · rfl
  · simp only [State.forEach]
    generalize ((List.range 4).map fun i => c.granule * 256 + 64 * i) = l
    induction l with
    | nil => rfl
    | cons b l ih =>
      simp only [List.foldl_cons, h, badOf]
      exact ih

/-- Touching the cache changes no byte of memory. -/
theorem State.cacheTouch_clean (s : State) (src : MemSrc) (a : Nat) (w : Bool) (h : s.mem.bad = []) :
    CleanAccess s (s.cacheTouch src a w) ∧ (s.cacheTouch src a w).mem.cells = s.mem.cells := by
  suffices hh : (s.cacheTouch src a w).evr = s.evr ∧ (s.cacheTouch src a w).mem.bad = s.mem.bad ∧
      (s.cacheTouch src a w).mem.cells = s.mem.cells from
    ⟨⟨State.cacheTouch_core .., hh.1, State.cacheTouch_plotsKept .., hh.2.1.trans h⟩, hh.2.2⟩
  have wb : ∀ (t : State) v d f, t.mem = s.mem → t.evr = s.evr →
      ((t.writeBack src v).modDie d f).evr = s.evr ∧ ((t.writeBack src v).modDie d f).mem.bad = s.mem.bad ∧
        ((t.writeBack src v).modDie d f).mem.cells = s.mem.cells := by
    intro t v d f hm he
    rw [State.writeBack_clean t src v (by rw [hm, h])]
    exact ⟨he, congrArg (fun m => m.bad) hm, congrArg (fun m => m.cells) hm⟩
  have die : ∀ (t : State) d f, t.mem = s.mem → t.evr = s.evr →
      (t.modDie d f).evr = s.evr ∧ (t.modDie d f).mem.bad = s.mem.bad ∧ (t.modDie d f).mem.cells = s.mem.cells :=
    fun t d f hm he => ⟨he, congrArg (fun m => m.bad) hm, congrArg (fun m => m.cells) hm⟩
  have keep : ∀ t : State, t.mem = s.mem → t.evr = s.evr →
      t.evr = s.evr ∧ t.mem.bad = s.mem.bad ∧ t.mem.cells = s.mem.cells :=
    fun t hm he => ⟨he, congrArg (fun m => m.bad) hm, congrArg (fun m => m.cells) hm⟩
  have cnt : ∀ p pos ev, (s.count p pos ev 1).mem = s.mem ∧ (s.count p pos ev 1).evr = s.evr :=
    fun p pos ev => State.countCh_rest s p pos none ev 1
  simp only [State.cacheTouch]
  cases src <;> simp only <;> repeat' split
  all_goals first
    | with_reducible exact keep s rfl rfl
    | with_reducible exact die s _ _ rfl rfl
    | with_reducible exact die _ _ _ (cnt _ _ _).1 (cnt _ _ _).2
    | with_reducible exact wb s _ _ _ rfl rfl
    | with_reducible exact wb _ _ _ _ (cnt _ _ _).1 (cnt _ _ _).2
    | with_reducible exact keep _ (cnt _ _ _).1 (cnt _ _ _).2

/-- Checking blocks without errors finds none and changes nothing. -/
theorem State.checkBlocks_clean (s : State) (src : MemSrc) (l : List Nat) (h : s.mem.bad = []) :
    s.checkBlocks src l = (none, [], s) := by
  induction l with
  | nil => rfl
  | cons b r ih =>
    have e : s.checkBlock b = (.clean, s) := by simp only [State.checkBlock, h, badOf]; rfl
    simp only [State.checkBlocks, e, ih]

/-- A read at the home answers the bytes that stand there. -/
theorem State.homeRead_clean (s : State) (src : MemSrc) (a n : Nat) (h : s.mem.bad = []) :
    ∃ t, s.homeRead src a n = (.ok (cellsGet 0 s.mem.cells a n), t) ∧ CleanAccess s t ∧ t.mem.cells = s.mem.cells := by
  obtain ⟨c, hc⟩ := State.cacheTouch_clean s src a false h
  refine ⟨s.cacheTouch src a false, ?_, c, hc⟩
  simp only [State.homeRead, State.homeReadTo, State.checkBlocks_clean s src _ h, Option.isSome_none, Bool.false_eq_true,
    if_false, List.isEmpty_nil, if_true, hc, Option.getD_none]
  rw [show a + n - a = n by omega]

/-- A property of the steps of a fold over the first numbers. -/
theorem foldl_range_ind {β : Type} (F : β → Nat → β) (g : Nat → Nat) (P : Nat → β → Prop) (m : Nat) (init : β)
    (h0 : P 0 init) (hs : ∀ i acc, i < m → P i acc → P (i + 1) (F acc (g i))) :
    P m (((List.range m).map g).foldl F init) := by
  induction m with
  | zero => exact h0
  | succ m ih =>
    rw [List.range_succ, List.map_append, List.foldl_append]
    exact hs m _ (Nat.lt_succ_self m) (ih fun i acc hi => hs i acc (Nat.lt_succ_of_lt hi))

/-- What a write of bytes at an address leaves: the bytes inside the range, every other byte as before, in canonical form. -/
structure Wrote (s t : State) (a n : Nat) (v : Nat → Byte) : Prop where
  inside : ∀ b, a ≤ b → b < a + n → cellGet 0 t.mem.cells b = v (b - a)
  outside : ∀ b, (b < a ∨ a + n ≤ b) → cellGet 0 t.mem.cells b = cellGet 0 s.mem.cells b
  form : Memory.wf t.mem.cells = true

/-- A write at the home, in a range whose blocks have one size, puts exactly its bytes. -/
theorem State.homeWrite_clean (s : State) (src : MemSrc) (a : Nat) (v : List Byte) (h : s.mem.bad = [])
    (hw : Memory.wf s.mem.cells = true)
    (hz : ∀ b, b < a + v.length → a < b + blockSize a → b % blockSize a = 0 → blockSize b = blockSize a) :
    ∃ t, s.homeWrite src a v = (true, t) ∧ CleanAccess s t ∧ Wrote s t a v.length (fun i => v.getD i 0) := by
  have put : ∀ (u : State) (lo : Nat) (part : List Byte), u.mem.bad = [] → Memory.wf u.mem.cells = true →
      ∃ t, t = { u.cacheTouch src lo true with mem := { (u.cacheTouch src lo true).mem with
          cells := cellsPut 0 (u.cacheTouch src lo true).mem.cells lo part } } ∧ CleanAccess u t ∧
        t.mem.cells = cellsPut 0 u.mem.cells lo part ∧ Memory.wf t.mem.cells = true := by
    intro u lo part hb hwf
    obtain ⟨c, hc⟩ := State.cacheTouch_clean u src lo true hb
    refine ⟨_, rfl, ⟨?_, ?_, ?_, ?_⟩, ?_, ?_⟩
    · exact c.core
    · exact c.evr
    · exact State.plotsKept_trans c.plots (State.plotsKept_of_eq rfl)
    · exact c.bad
    · show cellsPut 0 _ _ _ = _; rw [hc]
    · show Memory.wf (cellsPut 0 _ _ _) = true
      rw [hc]; exact Memory.wf_put _ _ _ hwf
  have zpos : 0 < blockSize a := by unfold blockSize; split <;> omega
  unfold State.homeWrite blocksOf
  by_cases h0 : v.length = 0
  · rw [if_pos h0]
    exact ⟨s, rfl, cleanAccess_refl s h, ⟨fun b _ _ => by omega, fun _ _ => rfl, hw⟩⟩
  · rw [if_neg h0]
    dsimp only
    obtain ⟨z, hzz⟩ : ∃ z, z = blockSize a := ⟨_, rfl⟩
    rw [← hzz] at hz zpos ⊢
    generalize hm : (a + v.length - 1) / z - a / z + 1 = m
    have hmax : ∀ i, i < m → (a / z + i) * z < a + v.length := by
      intro i hi
      have h1 : a / z + i ≤ (a + v.length - 1) / z := by
        have : a / z ≤ (a + v.length - 1) / z := Nat.div_le_div_right (by omega)
        omega
      have h2 := Nat.mul_le_mul_right z h1
      have h3 := Nat.div_mul_le_self (a + v.length - 1) z
      omega
    have hlow : a / z * z ≤ a := Nat.div_mul_le_self a z
    have hup : a < a / z * z + z := by
      have h1 := Nat.div_add_mod a z
      have h2 := Nat.mod_lt a zpos
      rw [Nat.mul_comm] at h1; omega
    have hend : a + v.length ≤ (a / z + m) * z := by
      have h1 := Nat.div_add_mod (a + v.length - 1) z
      have h2 := Nat.mod_lt (a + v.length - 1) zpos
      have h3 : a / z ≤ (a + v.length - 1) / z := Nat.div_le_div_right (by omega)
      have h4 : a / z + m = (a + v.length - 1) / z + 1 := by omega
      rw [h4, Nat.add_mul, Nat.one_mul, Nat.mul_comm]; omega
    have fin : ∀ acc : Bool × State, (acc.1 = true ∧ CleanAccess s acc.2 ∧
        Wrote s acc.2 a (min v.length ((a / z + m) * z - a)) (fun i => v.getD i 0)) →
        ∃ t, acc = (true, t) ∧ CleanAccess s t ∧ Wrote s t a v.length (fun i => v.getD i 0) := by
      intro acc ⟨h1, h2, h3⟩
      have : min v.length ((a / z + m) * z - a) = v.length := Nat.min_eq_left (by omega)
      rw [this] at h3
      exact ⟨acc.2, Prod.ext h1 rfl, h2, h3⟩
    refine fin _ (foldl_range_ind (putBlock src a v) (fun i => (a / z + i) * z) (fun i (acc : Bool × State) => acc.1 = true ∧ CleanAccess s acc.2 ∧
      Wrote s acc.2 a (min v.length ((a / z + i) * z - a)) (fun i => v.getD i 0)) m (true, s) ?_ ?_)
    · refine ⟨rfl, cleanAccess_refl s h, ⟨fun b _ hb => ?_, fun _ _ => rfl, hw⟩⟩
      have : min v.length ((a / z + 0) * z - a) = 0 := by
        have : (a / z + 0) * z - a = 0 := by rw [Nat.add_zero]; omega
        rw [this]; exact Nat.min_eq_right (Nat.zero_le _)
      omega
    · intro i acc hi ⟨e, c, w⟩
      obtain ⟨ok, u⟩ := acc
      simp only at e c w
      subst e
      simp only [putBlock]
      obtain ⟨b, hb⟩ : ∃ b, b = (a / z + i) * z := ⟨_, rfl⟩
      have hb1 : b < a + v.length := hb ▸ hmax i hi
      have hb2 : a < b + z := by rw [hb, Nat.add_mul]; omega
      have hbn : (a / z + (i + 1)) * z = b + z := by rw [hb, ← Nat.add_assoc, Nat.add_mul (a / z + i), Nat.one_mul]
      have hbz : blockSize b = z := hz b hb1 hb2 (by rw [hb]; exact Nat.mul_mod_left ..)
      rw [← hb] at w ⊢
      rw [hbz, hbn]
      obtain ⟨lo, hlo⟩ : ∃ lo, lo = if b ≤ a then a else b := ⟨_, rfl⟩
      obtain ⟨hi', hhi⟩ : ∃ hi', hi' = if a + v.length ≤ b + z then a + v.length else b + z := ⟨_, rfl⟩
      rw [← hlo, ← hhi]
      have l1 : a ≤ lo := by rw [hlo]; split <;> omega
      have l2 : lo < hi' := by rw [hlo, hhi]; split <;> split <;> omega
      have l3 : hi' ≤ a + v.length := by rw [hhi]; split <;> omega
      obtain ⟨part, hpart⟩ : ∃ part, part = (v.drop (lo - a)).take (hi' - lo) := ⟨_, rfl⟩
      rw [← hpart]
      have plen : part.length = hi' - lo := by rw [hpart]; simp; omega
      obtain ⟨t, et, ct, cellst, wft⟩ := put u lo part c.bad w.form
      have reads : ∀ x, cellGet 0 t.mem.cells x =
          if lo ≤ x ∧ x < hi' then v.getD (x - a) 0 else cellGet 0 u.mem.cells x := by
        intro x
        rw [cellst, cellGet_cellsPut 0 u.mem.cells lo x part w.form, plen]
        by_cases hx : lo ≤ x ∧ x < hi'
        · rw [if_pos (by omega), if_pos hx, hpart]
          have e1 : x - a = (lo - a) + (x - lo) := by omega
          rw [e1]
          simp only [List.getD_eq_getElem?_getD]
          rw [List.getElem?_take_of_lt (by omega), List.getElem?_drop]
        · rw [if_neg (by omega), if_neg hx]
      have W : ∀ t' : State, t'.mem.cells = t.mem.cells →
          Wrote s t' a (min v.length (b + z - a)) (fun i => v.getD i 0) := by
        intro t' ht'
        have m1 : a + min v.length (b + z - a) = hi' := by
          rw [hhi]; split
          · rename_i hc; rw [Nat.min_eq_left (by omega)]
          · rename_i hc; rw [Nat.min_eq_right (by omega)]; omega
        have m0 : a + min v.length (b - a) = lo := by
          rw [hlo]; split
          · rename_i hc; rw [Nat.sub_eq_zero_of_le hc]; simp
          · rename_i hc; rw [Nat.min_eq_right (by omega)]; omega
        refine ⟨fun x h1 h2 => ?_, fun x h1 => ?_, by rw [ht']; exact wft⟩
        · rw [ht', reads]
          split
          · rfl
          · exact w.inside x h1 (by omega)
        · rw [ht', reads, if_neg (by omega)]
          exact w.outside x (by omega)
      subst et
      split
      · refine ⟨rfl, cleanAccess_trans c ⟨ct.core, ct.evr, ?_, ?_⟩, W _ rfl⟩
        · exact State.plotsKept_trans ct.plots (State.plotsKept_of_eq rfl)
        · have e : badSet (u.cacheTouch src lo true).mem.bad b 0 = [] := by
            rw [show (u.cacheTouch src lo true).mem.bad = [] from ct.bad]; rfl
          exact e
      · rw [State.checkBlocks_clean u src [b] c.bad]
        exact ⟨rfl, cleanAccess_trans c ct, W _ rfl⟩

/-- Two addresses of one granule lie in blocks of one size. -/
theorem blockSize_granule (a b : Nat) (h : a / 256 = b / 256) : blockSize a = blockSize b := by
  have e : (0x020000000000 ≤ a ∧ a < 0x0200C0000000) ↔ (0x020000000000 ≤ b ∧ b < 0x0200C0000000) := by omega
  unfold blockSize sliceOf
  by_cases ha : 0x020000000000 ≤ a ∧ a < 0x0200C0000000
  · rw [if_pos ha, if_pos (e.1 ha), Option.isSome_some, Option.isSome_some]
  · rw [if_neg ha, if_neg (fun h => ha (e.2 h))]

/-- A write of a range puts exactly its bytes. -/
theorem State.writeRange_clean (s : State) (src : MemSrc) (a : Nat) (v : List Byte) (h : s.mem.bad = [])
    (hw : Memory.wf s.mem.cells = true) :
    ∃ t, s.writeRange src a v = (true, t) ∧ CleanAccess s t ∧ Wrote s t a v.length (fun i => v.getD i 0) := by
  unfold State.writeRange
  suffices key : ∀ fuel a' n' (u : State), a ≤ a' → a' + n' = a + v.length → (n' = 0 ∨ n' + a' % 256 ≤ 256 * fuel) → CleanAccess s u →
      Wrote s u a (a' - a) (fun i => v.getD i 0) → ∃ t, ((granulePieces fuel a' n').foldl
        (fun (acc : Bool × State) x =>
          let (ok, s1) := acc.2.homeWrite src x.1 ((v.drop (x.1 - a)).take x.2)
          (acc.1 && ok, s1)) (true, u)) = (true, t) ∧ CleanAccess s t ∧ Wrote s t a v.length (fun i => v.getD i 0) by
    refine key _ a v.length s (Nat.le_refl a) rfl (by omega) (cleanAccess_refl s h) ⟨fun b _ _ => by omega, fun _ _ => rfl, hw⟩
  intro fuel
  induction fuel with
  | zero =>
    intro a' n' u h1 h2 h3 c w
    have : a' - a = v.length := by omega
    rw [this] at w
    exact ⟨u, rfl, c, w⟩
  | succ fuel ih =>
    intro a' n' u h1 h2 h3 c w
    unfold granulePieces
    by_cases h0 : n' = 0
    · rw [if_pos h0]
      have : a' - a = v.length := by omega
      rw [this] at w
      exact ⟨u, rfl, c, w⟩
    · rw [if_neg h0]
      dsimp only
      obtain ⟨k, hk⟩ : ∃ k, k = min n' (256 - a' % 256) := ⟨_, rfl⟩
      have hk' : (k = n' ∧ n' ≤ 256 - a' % 256) ∨ (k = 256 - a' % 256 ∧ 256 - a' % 256 ≤ n') := by
        rw [hk]; rcases Nat.le_total n' (256 - a' % 256) with h | h
        · exact Or.inl ⟨Nat.min_eq_left h, h⟩
        · exact Or.inr ⟨Nat.min_eq_right h, h⟩
      rw [show Nat.min n' (256 - a' % 256) = k from hk.symm, List.foldl_cons]
      clear hk
      obtain ⟨part, hp⟩ : ∃ part, part = (v.drop (a' - a)).take k := ⟨_, rfl⟩
      have plen : part.length = k := by rw [hp]; simp; omega
      obtain ⟨t, e, ct, wt⟩ := State.homeWrite_clean u src a' part c.bad w.form (by
        intro b hb1 hb2 hb3
        rw [plen] at hb1
        refine blockSize_granule _ _ ?_
        have hz : blockSize a' = 8 ∨ blockSize a' = 64 := by unfold blockSize; split <;> simp
        rcases hz with hz | hz <;> rw [hz] at hb2 hb3 <;> omega)
      rw [← hp, e]
      simp only [Bool.and_true]
      refine ih (a' + k) (n' - k) t (by omega) (by omega)
        (by rcases hk' with ⟨e1, e2⟩ | ⟨e1, e2⟩ <;> omega) (cleanAccess_trans c ct) ⟨fun b hb1 hb2 => ?_, fun b hb => ?_, wt.form⟩
      · rw [plen] at wt
        by_cases hb : a' ≤ b
        · rw [wt.inside b hb (by omega), hp]
          have e1 : b - a = (a' - a) + (b - a') := by omega
          rw [e1]
          simp only [List.getD_eq_getElem?_getD]
          rw [List.getElem?_take_of_lt (by omega), List.getElem?_drop]
        · rw [wt.outside b (by omega), w.inside b hb1 (by omega)]
      · rw [plen] at wt
        rw [wt.outside b (by omega), w.outside b (by omega)]

/-- A read of a range answers the bytes that stand there. -/
theorem State.readRange_clean (s : State) (src : MemSrc) (a n : Nat) (h : s.mem.bad = []) :
    ∃ t, s.readRange src a n = (.ok (cellsGet 0 s.mem.cells a n), t) ∧ CleanAccess s t ∧ t.mem.cells = s.mem.cells := by
  unfold State.readRange
  suffices key : ∀ fuel a' n' (u : State), a ≤ a' → a' + n' = a + n → (n' = 0 ∨ n' + a' % 256 ≤ 256 * fuel) → CleanAccess s u →
      u.mem.cells = s.mem.cells → ∃ t, ((granulePieces fuel a' n').foldl
        (fun (acc : Except Nat (List Byte) × State) x =>
          match acc.1 with
          | .error b => (.error b, acc.2)
          | .ok l =>
            let (r, s1) := acc.2.homeRead src x.1 x.2
            match r with
            | .error b => (.error b, s1)
            | .ok m => (.ok (l ++ m), s1)) (.ok (cellsGet 0 s.mem.cells a (a' - a)), u)) =
          (.ok (cellsGet 0 s.mem.cells a n), t) ∧ CleanAccess s t ∧ t.mem.cells = s.mem.cells by
    obtain ⟨t, e, c⟩ := key (n / 256 + 2) a n s (Nat.le_refl a) rfl (by omega) (cleanAccess_refl s h) rfl
    rw [Nat.sub_self] at e
    exact ⟨t, e, c⟩
  intro fuel
  induction fuel with
  | zero =>
    intro a' n' u h1 h2 h3 c w
    have : a' - a = n := by omega
    rw [this]
    exact ⟨u, rfl, c, w⟩
  | succ fuel ih =>
    intro a' n' u h1 h2 h3 c w
    unfold granulePieces
    by_cases h0 : n' = 0
    · rw [if_pos h0]
      have : a' - a = n := by omega
      rw [this]
      exact ⟨u, rfl, c, w⟩
    · rw [if_neg h0]
      dsimp only
      obtain ⟨k, hk⟩ : ∃ k, k = min n' (256 - a' % 256) := ⟨_, rfl⟩
      have hk' : (k = n' ∧ n' ≤ 256 - a' % 256) ∨ (k = 256 - a' % 256 ∧ 256 - a' % 256 ≤ n') := by
        rw [hk]; rcases Nat.le_total n' (256 - a' % 256) with h | h
        · exact Or.inl ⟨Nat.min_eq_left h, h⟩
        · exact Or.inr ⟨Nat.min_eq_right h, h⟩
      rw [show Nat.min n' (256 - a' % 256) = k from hk.symm, List.foldl_cons]
      clear hk
      obtain ⟨t, e, ct, hc⟩ := State.homeRead_clean u src a' k c.bad
      simp only [e]
      have app : cellsGet 0 s.mem.cells a (a' - a) ++ cellsGet 0 u.mem.cells a' k =
          cellsGet 0 s.mem.cells a (a' + k - a) := by
        unfold cellsGet
        rw [show a' + k - a = (a' - a) + k by omega, List.range_add, List.map_append, List.map_map, w]
        congr 1
        refine List.map_congr_left fun i _ => ?_
        show _ = cellGet 0 s.mem.cells (a + (a' - a + i))
        rw [show a + (a' - a + i) = a' + i by omega]
      rw [app]
      exact ih (a' + k) (n' - k) t (by omega) (by omega)
        (by rcases hk' with ⟨e1, e2⟩ | ⟨e1, e2⟩ <;> omega) (cleanAccess_trans c ct) (hc.trans w)

/-! ### Accesses that no plot makes -/

/-- The access is not a plot's. -/
def MemSrc.unit : MemSrc → Prop
  | .plot _ _ => False
  | _ => True

theorem State.cacheTouch_unit (s : State) (src : MemSrc) (a : Nat) (w : Bool) (h : src.unit) :
    (s.cacheTouch src a w).plots = s.plots := by
  simp only [State.cacheTouch]
  cases src with
  | plot p pos => exact absurd h id
  | _ =>
    simp only
    repeat' split
    all_goals first
      | with_reducible rfl
      | exact (State.modDie_plots ..).trans (State.writeBack_plots ..)
      | exact State.modDie_plots ..

/-- A write that no plot makes changes no plot. -/
theorem State.writeRange_unit (s : State) (src : MemSrc) (a : Nat) (v : List Byte) (h : src.unit) :
    (s.writeRange src a v).2.plots = s.plots := by
  simp only [State.writeRange]
  suffices key : ∀ (l : List (Nat × Nat)) (acc : Bool × State), acc.2.plots = s.plots → (l.foldl
      (fun (acc : Bool × State) x =>
        let (ok, s1) := acc.2.homeWrite src x.1 ((v.drop (x.1 - a)).take x.2)
        (acc.1 && ok, s1)) acc).2.plots = s.plots from key _ _ rfl
  intro l
  induction l with
  | nil => exact fun acc hp => hp
  | cons x l ih =>
    intro acc hp
    rw [List.foldl_cons]
    refine ih _ ?_
    show (acc.2.homeWrite src x.1 _).2.plots = s.plots
    simp only [State.homeWrite]
    suffices k2 : ∀ (l : List Nat) (w : List Byte) (acc : Bool × State), acc.2.plots = s.plots →
        (l.foldl (putBlock src x.1 w) acc).2.plots = s.plots from k2 _ _ _ hp
    intro l w
    induction l with
    | nil => exact fun acc hp => hp
    | cons b l ih2 =>
      intro acc hp
      rw [List.foldl_cons]
      refine ih2 _ ?_
      simp only [putBlock]
      split
      · exact (State.cacheTouch_unit _ _ _ _ h).trans hp
      · split
        · exact (State.checkBlocks_plots ..).trans hp
        · exact (State.cacheTouch_unit _ _ _ _ h).trans ((State.checkBlocks_plots ..).trans hp)

/-! ### Accesses of one plot -/

/-- The access is not made by plot q. -/
def MemSrc.spares (q : PlotIx) : MemSrc → Prop
  | .plot p _ => p ≠ q
  | _ => True

theorem State.countCh_spares (s : State) (p q : PlotIx) (pos : Pos) (ch : Option (BitVec 8)) (ev n : Nat) (h : p ≠ q) :
    (s.countCh p pos ch ev n).plot q = s.plot q := by
  unfold State.countCh
  split
  · exact State.modPlot_plot_ne _ _ _ _ h
  · rfl

theorem State.cacheTouch_spares (s : State) (src : MemSrc) (a : Nat) (w : Bool) (q : PlotIx) (h : src.spares q) :
    (s.cacheTouch src a w).plot q = s.plot q := by
  have pl : ∀ {t u : State}, t.plots = u.plots → t.plot q = u.plot q := fun e => congrArg (fun v => Vector.get v q) e
  cases src with
  | plot p pos =>
    have cnt : ∀ ev, (s.count p pos ev 1).plot q = s.plot q := fun ev => State.countCh_spares s p q pos none ev 1 h
    simp only [State.cacheTouch]
    repeat' split
    all_goals first
      | with_reducible rfl
      | exact cnt _
      | exact (pl (State.modDie_plots ..)).trans (cnt _)
      | exact (pl ((State.modDie_plots ..).trans (State.writeBack_plots ..))).trans (cnt _)
  | _ => exact pl (State.cacheTouch_unit s _ a w trivial)

/-- A read at the home changes no other plot. -/
theorem State.homeReadTo_spares (s : State) (src : MemSrc) (a n : Nat) (q : PlotIx) (h : src.spares q) :
    (s.homeReadTo src a n).2.2.plot q = s.plot q := by
  have pl : ∀ {t u : State}, t.plots = u.plots → t.plot q = u.plot q := fun e => congrArg (fun v => Vector.get v q) e
  have h1 : (s.checkBlocks src (blocksOf a n)).2.2.plot q = s.plot q := pl (State.checkBlocks_plots ..)
  have h2 : ((s.checkBlocks src (blocksOf a n)).2.2.cacheTouch src a false).plot q = s.plot q :=
    (State.cacheTouch_spares _ src a false q h).trans h1
  simp only [State.homeReadTo]
  repeat' split
  all_goals first | exact h1 | exact h2

/-- A write at the home changes no other plot. -/
theorem State.homeWrite_spares (s : State) (src : MemSrc) (a : Nat) (v : List Byte) (q : PlotIx) (h : src.spares q) :
    (s.homeWrite src a v).2.plot q = s.plot q := by
  have pl : ∀ {t u : State}, t.plots = u.plots → t.plot q = u.plot q := fun e => congrArg (fun v => Vector.get v q) e
  simp only [State.homeWrite]
  suffices key : ∀ (l : List Nat) (acc : Bool × State), acc.2.plot q = s.plot q →
      (l.foldl (putBlock src a v) acc).2.plot q = s.plot q from key _ _ rfl
  intro l
  induction l with
  | nil => exact fun acc hp => hp
  | cons b l ih =>
    intro acc hp
    rw [List.foldl_cons]
    refine ih _ ?_
    simp only [putBlock]
    split
    · exact (State.cacheTouch_spares _ _ _ _ q h).trans hp
    · split
      · exact (pl (State.checkBlocks_plots ..)).trans hp
      · exact (State.cacheTouch_spares _ _ _ _ q h).trans ((pl (State.checkBlocks_plots ..)).trans hp)

end Sys2Proof.Machine
end

