-- ==== Sys2Proof/Laws/Seq.lean ====
section
/-! SUPPORT. What moving on to the next command changes (R163, R177, R183, R440). -/

namespace Sys2Proof.Machine

@[simp] theorem State.seqAt_evr (s : State) (p : PlotIx) (pc : Nat) : (s.seqAt p pc).evr = s.evr := rfl
@[simp] theorem State.seqAt_mem (s : State) (p : PlotIx) (pc : Nat) : (s.seqAt p pc).mem = s.mem := rfl
@[simp] theorem State.seqAt_dbg (s : State) (p : PlotIx) (pc : Nat) : (s.seqAt p pc).dbg = s.dbg := rfl
@[simp] theorem State.seqAt_freeCtr (s : State) (p : PlotIx) (pc : Nat) : (s.seqAt p pc).freeCtr = s.freeCtr := rfl

@[simp] theorem State.finishAt_evr (s : State) (p : PlotIx) (pc : Nat) : (s.finishAt p pc).evr = s.evr := by
  simp [State.finishAt]
@[simp] theorem State.finishAt_freeCtr (s : State) (p : PlotIx) (pc : Nat) : (s.finishAt p pc).freeCtr = s.freeCtr := by
  simp [State.finishAt]

/-- Without spilling, moving on changes no byte of memory. -/
theorem State.finishAt_mem (s : State) (p : PlotIx) (pc : Nat) (h : s.noSpill) : (s.finishAt p pc).mem = s.mem := by
  simp [State.finishAt, (State.tracePlot_noSpill s p _ _ _ _ h).1]

/-- Plots with the same registers. -/
theorem State.plot_of_plots {s t : State} (h : t.plots = s.plots) (p : PlotIx) : t.plot p = s.plot p :=
  congrArg (fun v => Vector.get v p) h

/-- The plot after moving on: its sequencer alone has changed. -/
theorem State.finishAt_plot (s : State) (p : PlotIx) (pc : Nat) :
    (s.finishAt p pc).plot p = { s.plot p with seq := ((s.finishAt p pc).plot p).seq } := by
  simp only [State.finishAt, State.seqAt, State.modSeq_plot, State.plot_of_plots (State.tracePlot_plots ..)]

/-- The sequencer after moving on: SEQPC, no command in progress, no STEP, and the same row and part. -/
theorem State.finishAt_seq (s : State) (p : PlotIx) (pc : Nat) :
    let q := ((s.finishAt p pc).plot p).seq
    q.pc = w32 pc ∧ q.busy = .ready ∧ q.waiting = false ∧ q.row = (s.plot p).seq.row ∧ q.stepping = false ∧
      q.part = (s.plot p).seq.part := by
  simp only [State.finishAt, State.seqAt, State.modSeq_plot, State.plot_of_plots (State.tracePlot_plots ..)]
  trivial

/-- Moving on changes no other plot. -/
theorem State.finishAt_plot_ne (s : State) (p q : PlotIx) (pc : Nat) (h : p ≠ q) :
    (s.finishAt p pc).plot q = s.plot q := by
  simp only [State.finishAt, State.seqAt]
  rw [State.modSeq_plot_ne _ _ _ _ h, State.modSeq_plot_ne _ _ _ _ h, State.plot_of_plots (State.tracePlot_plots ..)]

end Sys2Proof.Machine
end

