-- ==== Sys2Proof/WellFormed.lean ====
section
/-! DEFINITION. Which commands are well formed: operands that a link, a sensor or a pin can present. The plots, dies, ports
and packages of a command are bounded by their types. -/

namespace Sys2Proof

/-- An access of BAR0 carries one to eight bytes; the rules of the registers judge its width and alignment (R12, R15). -/
def widthOk (width : Nat) : Bool := decide (1 ≤ width) && decide (width ≤ 8)

/-- A request of BAR2 carries at most 4,096 B and crosses no 4 KiB boundary (R402, R412). -/
def requestOk (off len : Nat) : Bool := decide (1 ≤ len) && decide (off % 4096 + len ≤ 4096)

/-- A sideband write carries at most a pointer and one word (R459). -/
def sidebandOk (data : List Byte) : Bool := decide (1 ≤ data.length) && decide (data.length ≤ 5)

/-- The operands of a command are ones that its event can carry. -/
def Instr.wellFormed : Instr → Bool
  | .powerControlPeriod r => r.strips.all fun x => decide (x.1 < 80)
  | .flitReceive _ bytes _ _ => decide (bytes.length = 128)
  | .registerWrite _ _ width _ => widthOk width
  | .registerRead _ _ width => widthOk width
  | .tokenWrite _ off width _ => widthOk width && decide (0x800000 ≤ off) && decide (off < 0x840000)
  | .bar2Read _ off len => requestOk off len
  | .bar2Write _ off data => requestOk off data.length
  | .fuseKey _ _ _ digest => decide (digest.length = 48)
  | .challenge _ _ _ nonce => decide (nonce.length = 32)
  | .getMeasurements _ _ _ nonce _ => decide (nonce.length = 0) || decide (nonce.length = 32)
  | .sidebandPointerWrite data => sidebandOk data
  | .envelopeReading mv => decide (0 < mv.length)
  | _ => true

end Sys2Proof
end

