-- ==== Sys2Proof/Tests/Slice0.lean ====
section
/-! SUPPORT. Tests: ill-formed commands are refused, and concrete states that meet the hypotheses of the statements. -/

namespace Sys2Proof.Tests

open Sys2Proof.Machine

/-! ### Well-formedness: each check refuses an ill-formed command -/

theorem test_wf_strip_number : (Instr.powerControlPeriod { inputW := 1, strips := [(80, 250)] }).wellFormed = false := by decide
theorem test_wf_flit_length : (Instr.flitReceive 0 [] false false).wellFormed = false := by decide
theorem test_wf_write_width : (Instr.registerWrite .a 0 9 0).wellFormed = false := by decide
theorem test_wf_read_width : (Instr.registerRead .a 0 0).wellFormed = false := by decide
theorem test_wf_token_window : (Instr.tokenWrite .a 0x840000 4 0).wellFormed = false := by decide
theorem test_wf_bar2_boundary : (Instr.bar2Read .a 0xFFF 2).wellFormed = false := by decide
theorem test_wf_bar2_empty : (Instr.bar2Write .a 0 []).wellFormed = false := by decide
theorem test_wf_key_digest : (Instr.fuseKey .a 0 0 []).wellFormed = false := by decide
theorem test_wf_challenge_nonce : (Instr.challenge .a 0 0 []).wellFormed = false := by decide
theorem test_wf_measurement_nonce : (Instr.getMeasurements .a false 0 [0] 0).wellFormed = false := by decide
theorem test_wf_sideband_length : (Instr.sidebandPointerWrite [0, 0, 0, 0, 0, 0]).wellFormed = false := by decide
theorem test_wf_no_reading : (Instr.envelopeReading []).wellFormed = false := by decide

/-- No row of the table has bits: no word spells a command. -/
theorem test_no_word_spells_a_command (n w : Nat) : decodeTableWord n w = none := rfl

/-! ## Witnesses: states and operands that meet the hypotheses of the statements. Each theorem is checked one after another: together
they take more threads than a run allows. -/

set_option Elab.async false

/-! ### Plan commands: a running plan whose image holds the command -/

/-- Bytes with these words at these addresses. -/
def holding (l : List (Nat × List Nat)) : List Host.Cell :=
  l.foldl (fun m x => cellsPut 0 m x.1 (bytesOfWords (x.2.map w32))) []

/-- A running plan whose image at address 0 and tables are `l`: plot 0, with `f` of its other state, stands in its body at offset 0. -/
def running (l : List (Nat × List Nat)) (f : Plot → Plot := id) : State :=
  { State.reset with
    mem := { Mem.reset .m1152 with cells := holding l }
    job := { Job.reset with state := .running, active := [0] }
    plots := State.reset.plots.set 0 (f { Plot.reset with
      seq := { Seq.reset with state := .body, part := .body, body := 0, prologue := 0x40, epilogue := 0x80 } }) }

theorem fetched {f : Fetch} {P : Cmd → State → Prop} [∀ c s, Decidable (P c s)]
    (h : (match f with | .cmd c s => decide (P c s) | _ => false) = true) : ∃ c s, f = .cmd c s ∧ P c s := by
  cases f with
  | cmd c s => exact ⟨c, s, rfl, of_decide_eq_true h⟩
  | off => cases h
  | stopped s => cases h

theorem test_nop_fetched : ∃ c s1, (running []).fetch 0 0x00 = .cmd c s1 ∧ c.arg1 = 0 ∧ c.arg2 = 0 ∧ c.arg3 = 0 :=
  fetched (by decide +kernel)
theorem test_jump_fetched : ∃ c s1, (running [(0, [0x11000000, 0, 0, 0x20])]).fetch 0 0x11 = .cmd c s1 ∧ c.arg1 = 0 ∧ c.arg2 = 0 ∧
    (s1.plot 0).seq.targetOk c.arg3 = true := fetched (by decide +kernel)
theorem test_mark_fetched : ∃ c s1, (running [(0, [0x14000000])]).fetch 0 0x14 = .cmd c s1 ∧ c.arg1 = 0 ∧ c.arg2 = 0 :=
  fetched (by decide +kernel)
theorem test_refused_nop_fetched : ∃ c s1, (running [(0, [0, 0, 0, 1])]).fetch 0 0x00 = .cmd c s1 ∧ c.arg3 ≠ 0 := fetched (by decide +kernel)
theorem test_fetch_of_sound_memory : (running []).mem.bad = [] := by decide
theorem test_wait_fetched : ∃ c s1, (running [(0, [0x04000FFF, 0, 0x4040, 60000000])]).fetch 0 0x04 = .cmd c s1 ∧ c.arg1 < 4096 ∧
    1 ≤ c.arg2 % 128 ∧ c.arg2 % 128 ≤ 64 ∧ c.arg2 / 256 ≤ c.arg2 % 128 ∧ c.arg2 / 128 % 2 = 0 ∧ c.arg3 ≤ 60000000 ∧
    queueNumber (dieOfPlot 0) c.arg1 ∉ s1.stepQueues := fetched (by decide +kernel)
theorem test_signal_fetched : ∃ c s1, (running [(0, [0x05007FFF, 0, 0, 7])]).fetch 0 0x05 = .cmd c s1 ∧ c.arg1 < 2 ^ 15 ∧
    c.arg1 ∉ s1.stepQueues ∧ c.arg2 = 0 := fetched (by decide +kernel)
theorem test_fence_fetched : ∃ c s1, (running [(0, [0x0600001F])]).fetch 0 0x06 = .cmd c s1 ∧ c.arg1 < 32 ∧ c.arg2 = 0 ∧ c.arg3 = 0 ∧
    (s1.plot 0).quiet (BitVec.ofNat 5 c.arg1) = true := fetched (by decide +kernel)
theorem test_endrow_fetched : ∃ c s1, (running [(0, [0x12000000])]).fetch 0 0x12 = .cmd c s1 ∧ c.arg1 = 0 ∧ c.arg2 = 0 ∧ c.arg3 = 0 ∧
    (s1.plot 0).seq.state = .body ∧ (s1.plot 0).seq.stopping = none ∧ (s1.plot 0).allQuiet = true ∧ s1.clocked 0 = true ∧
    s1.dbg.snap = false := fetched (by decide +kernel)
/-- The plot runs its epilogue at offset 0x80. -/
def inEpilogue (q : Plot) : Plot := { q with seq := { q.seq with state := .epilogue, part := .epilogue, pc := 0x80 } }
theorem test_endplan_fetched : ∃ c s1, (running [(0x80, [0x13000000])] inEpilogue).fetch 0 0x13 = .cmd c s1 ∧ c.arg1 = 0 ∧ c.arg2 = 0 ∧
    c.arg3 = 0 ∧ (s1.plot 0).seq.state ≠ .body ∧ (s1.plot 0).allQuiet = true ∧ (∀ x ∈ s1.job.active, x ∈ s1.job.ended ++ [0]) :=
  fetched (by decide +kernel)

/-- A pass descriptor: an outer product of K steps on array 0 in format 1, or strict; its tile goes to 0x4000. -/
def passWords (k ctl : Nat) : List Nat := [0x11110000 + ctl, k, 0x1000, 0x2000, 0, 0, 0, 0x00800080, 0, 0, 0x4000]
/-- A stream descriptor: CVT of 128 elements of format 1 from 0x1000 to 0x2000. -/
def streamWords : List Nat := [0x01000000, 0x10010000, 128, 0, 0x1000, 0, 0, 0x2000]
/-- The plot store holds `l`. -/
def stored (l : List (Nat × List Nat)) (q : Plot) : Plot := { q with store := holding l }

theorem test_pass_fetched : ∃ c s1, (running [(0, [0x01000040])] (stored [(0x40, passWords 1 0)])).fetch 0 0x01 = .cmd c s1 ∧
    c.arg1 < storeBytes ∧ c.arg2 = 0 ∧ c.arg3 = 0 ∧ (s1.plot 0).readHeld [extOf c.arg1 64] = false ∧
    (HarDesc.ofBytes (s1.psRead 0 c.arg1 64)).refusal c.arg1 (s1.plot 0).keptAhead = none := fetched (by decide +kernel)
theorem test_stream_fetched : ∃ c s1, (running [(0, [0x02000040])] (stored [(0x40, streamWords)])).fetch 0 0x02 = .cmd c s1 ∧
    c.arg1 < storeBytes ∧ c.arg2 = 0 ∧ c.arg3 = 0 ∧ (s1.plot 0).readHeld [extOf c.arg1 64] = false ∧
    (DrlDesc.ofBytes (s1.psRead 0 c.arg1 64)).refusal c.arg1 = none := fetched (by decide +kernel)
theorem test_rclear_fetched : ∃ c s1, (running [(0, [0x09000000])]).fetch 0 0x09 = .cmd c s1 ∧ (s1.plot 0).stream = none ∧ c.arg1 = 0 ∧
    c.arg2 = 0 ∧ c.arg3 = 0 := fetched (by decide +kernel)
theorem test_rread_fetched : ∃ c s1, (running [(0, [0x0A000000 + (storeBytes - 8), 0, 1, 0])]).fetch 0 0x0A = .cmd c s1 ∧
    (s1.plot 0).stream = none ∧ c.arg2 ≤ 1 ∧ c.arg3 < 2 ^ 16 ∧ c.arg1 + (if c.arg2 = 1 then 8 else 4) ≤ storeBytes ∧
    (s1.plot 0).writeHeld [extOf c.arg1 (if c.arg2 = 1 then 8 else 4)] = false ∧ (s1.plot 0).rake.kind ≠ .or ∧
    (unitCtl (BitVec.ofNat 16 c.arg3)).isSome = true := fetched (by decide +kernel)
theorem test_rsave_fetched : ∃ c s1, (running [(0, [0x0B000000 + (storeBytes - 128)])]).fetch 0 0x0B = .cmd c s1 ∧
    (s1.plot 0).stream = none ∧ c.arg1 % 64 = 0 ∧ c.arg1 + 128 ≤ storeBytes ∧ c.arg2 = 0 ∧ c.arg3 = 0 ∧
    (s1.plot 0).writeHeld [extOf c.arg1 128] = false := fetched (by decide +kernel)
/-- The plot store holds the image of a cleared register at 0x40, and a descriptor of a stream with a stop record at 0x1000. -/
def recorded (q : Plot) : Plot :=
  let m := holding [(0x4000, streamWords), (0x8000, [0x4000, 64, 1, 0, 0, 0, 0xFFFFFFBF, 0xFFFFBFFF, 0, 0, 0xFFFFFFFF])]
  { q with store := cellsPut 0 (cellsPut 0 m 0x8040 (RakeReg.cleared.imageOf 0)) 0x40 (RakeReg.cleared.imageOf 0) }
set_option maxRecDepth 50000 in
theorem test_radd_fetched : ∃ c s1, (running [(0, [0x0C000040])] recorded).fetch 0 0x0C = .cmd c s1 ∧ (s1.plot 0).stream = none ∧
    c.arg1 % 64 = 0 ∧ c.arg1 + 128 ≤ storeBytes ∧ c.arg2 = 0 ∧ c.arg3 = 0 ∧ (s1.plot 0).readHeld [extOf c.arg1 128] = false ∧
    ((RakeReg.ofImage (s1.psRead 0 c.arg1 128)).any fun r => kindsMeet (s1.plot 0).rake.kind r.kind) = true := fetched (by decide +kernel)
theorem test_resumep_fetched : ∃ c s1, (running [(0, [0x0E010000])] (stored [(0, passWords 32 0),
      (0x10000, [0, 16, 0x111, 0, 0, 0, 0xFFFFFFEF, 0xFFFFFFFF])])).fetch 0 0x0E = .cmd c s1 ∧ c.arg1 < storeBytes ∧ c.arg2 = 0 ∧
    c.arg3 = 0 ∧ (s1.plot 0).passes = [] ∧ (s1.plot 0).writeouts = [] ∧ (s1.plot 0).readHeld [extOf c.arg1 (64 + 8 * 0x1000)] = false ∧
    ((s1.plot 0).readSpill c.arg1).isSome = true := fetched (by decide +kernel)
set_option maxRecDepth 50000 in
theorem test_resumes_fetched : ∃ c s1, (running [(0, [0x0F008000])] recorded).fetch 0 0x0F = .cmd c s1 ∧ c.arg1 < storeBytes ∧
    c.arg2 = 0 ∧ c.arg3 = 0 ∧ (s1.plot 0).stream = none ∧ (s1.plot 0).readHeld [extOf c.arg1 192] = false ∧
    ((s1.plot 0).readStop c.arg1).isSome = true := fetched (by decide +kernel)

/-- A plan header with the fallback table at 0x1000, for a job of `n` modules. -/
def header (n : Nat) : PlanHdr :=
  { planid := 0, modules := n, node := 0, rowfirst := 0, rowlast := 9, flt := 0x1000, route := 0, buddyint := 0, stepqueue := 0x10 }
/-- A fallback table of one layer, checked in every row, that switches when its vote asks for it. -/
def table : List (Nat × List Nat) := [(0x1000, [1, 2]), (0x1040, [0, 0x00100000, 1, 0, 0, 0, 0xFFFFFFFF, 0xFFFFFFFF])]
/-- The running plan with the fallback table. -/
def withTable (l : List (Nat × List Nat)) (f : Plot → Plot := id) : State :=
  { running (table ++ l) f with job := { Job.reset with state := .running, active := [0], hdr := some (header 1) } }
/-- A read of the fallback table gives an entry with `P`. -/
def reads (r : FltRead) (P : FltEntry → Nat → State → Bool) : Bool :=
  match r with
  | .entry e st s => P e st s
  | _ => false

theorem test_brflt_fetched : ∃ c s1, (withTable [(0, [0x10000000, 0, 0, 0x20])]).fetch 0 0x10 = .cmd c s1 ∧ c.arg1 < 512 ∧
    c.arg1 < s1.fltEntries ∧ c.arg2 = 0 ∧ (s1.plot 0).seq.targetOk c.arg3 = true ∧
    reads ((Claim.afterIssue s1 0 c).fltRead 0 (c.pos (s1.plot 0).seq.row) c.arg1) (fun _ _ _ => true) = true := fetched (by decide +kernel)
/-- The store of a plot with a check descriptor of array 0, entry 0, and the tile at 0x8000. -/
def checked : Plot → Plot := stored [(0x40, [0, 0x8000, 0x80]), (0x80, passWords 1 4)]
theorem test_check_off : ∃ c s1, ({ withTable [(0, [0x07000040])] checked with fb := { FourBit.reset with fbcfg := 0 } } : State).fetch 0 0x07 =
    .cmd c s1 ∧ c.arg1 < storeBytes ∧ c.arg2 = 0 ∧ c.arg3 = 0 ∧ bit s1.fb.fbcfg 31 = false := fetched (by decide +kernel)
theorem test_check_sampled : ∃ c s1, (withTable [(0, [0x07000040])] checked).fetch 0 0x07 = .cmd c s1 ∧ c.arg1 < storeBytes ∧
    c.arg2 = 0 ∧ c.arg3 = 0 ∧ bit s1.fb.fbcfg 31 = true ∧ c.arg1 % 64 = 0 ∧ (s1.plot 0).readHeld [extOf c.arg1 64] = false ∧
    (ChkDesc.ofBytes (s1.psRead 0 c.arg1 64)).fltidx < ((Claim.afterIssue s1 0 c).unholdCommand 0).fltEntries ∧
    reads (((Claim.afterIssue s1 0 c).unholdCommand 0).fltRead 0 (c.pos (s1.plot 0).seq.row) 0) (fun e st s2 =>
      s2.sampled e st (s1.plot 0).seq.row.toNat c.passno.toNat && !(s2.plot 0).readHeld [extOf 0x80 64] &&
      (ChkDesc.ofBytes (s1.psRead 0 c.arg1 64)).ok (HarDesc.ofBytes (s2.psRead 0 0x80 64)) && !(s2.plot 0).rakeTaken) = true :=
  fetched (by decide +kernel)
theorem test_rcombine_fetched : ∃ c s1, (running [(0, [0x0D000000, 0, 4094, 640])]).fetch 0 0x0D = .cmd c s1 ∧ c.arg1 = 0 ∧
    c.arg2 < 4095 ∧ 1 ≤ c.arg3 ∧ c.arg3 ≤ 640 ∧ (s1.plot 0).stream = none ∧ s1.openColl (Fin.ofNat 4096 c.arg2) = none ∧
    kindsAgree [(s1.plot 0).rake] = true := fetched (by decide +kernel)
theorem test_vote_fetched : ∃ c s1, (withTable [(0, [0x08000000])]).fetch 0 0x08 = .cmd c s1 ∧ c.arg1 = 0 ∧ c.arg2 = 0 ∧ c.arg3 = 0 ∧
    s1.fltBase = some 0x1000 ∧ (s1.plot 0).seq.voted = false ∧ s1.openColl 4095 = none ∧
    kindsAgree [voteImage (s1.plot 0).failvec ((Claim.afterIssue s1 0 c).voteDigest 0x1000)] = true := fetched (by decide +kernel)
/-- The mover accepts the descriptor. -/
def takes (r : Accepted) : Bool :=
  match r with
  | .ok _ _ => true
  | _ => false
/-- A DMA descriptor: one row of 16 raw bytes from device memory at 0x2000 to the plot store at 0x4000. -/
def dmaWords : List Nat := [0x14000000, 0, 16, 0x00010000, 0x2000, 0, 0x4000, 0, 16, 16]
theorem test_dma_fetched : ∃ c s1, (running [(0, [0x03000080, 0, 1])] (stored [(0x80, dmaWords)])).fetch 0 0x03 = .cmd c s1 ∧
    c.arg1 / 2 ^ 21 % 4 = 0 ∧ c.arg2 = 1 ∧ c.arg3 = 0 ∧ (s1.mover 0 (Fin.ofNat 2 (c.arg1 / 2 ^ 23))).length < 17 ∧
    takes (((Claim.afterIssue s1 0 c).modSeq 0 fun q => { q with busy := .dmaHand 0 (c.arg1 % 2 ^ 21) 1 }).acceptDma 0
      (s1.plot 0).pos (c.arg1 % 2 ^ 21)) = true := fetched (by decide +kernel)

/-! ### Harrow, Drill, fallback and collectives -/

/-- A pass of 48 steps: three groups, of which the first `n` have committed. -/
def aPass (n : Nat) : ActivePass :=
  { addr := 0x40, desc := HarDesc.ofBytes (bytesOfWords ((passWords 48 0 ++ [0, 0, 0, 0, 0]).map w32)), pos := Pos.none 0, start := 0
    next := n, redo := none, retried := none, isRef := false, resumed := false }
/-- A tile reduction of array 0 into 0x4000. -/
def aReduction (init : BitVec 2) : ActivePass :=
  { aPass 0 with desc := { (aPass 0).desc with dkind := 3, cfmt := 0, rfmt := 0, k := 0, accinit := init } }
/-- A stream of 128 elements, of which those before `e` are done. -/
def aStream (e : Nat) : ActiveStream :=
  { addr := 0x40, desc := DrlDesc.ofBytes (bytesOfWords ((streamWords ++ [0, 0, 0, 0, 0, 0, 0, 0]).map w32)), pos := Pos.none 0
    epos := e, sflags := 0, firstInv := 0xFFFFFFFF, started := true, acc := 0, retried := none }
/-- A plot whose sequencer is busy with `b`. -/
def busyWith (b : SeqBusy) (q : Plot) : Plot := { q with seq := { q.seq with busy := b } }
/-- A plot with a registered stop. -/
def stops (q : Plot) : Plot := { q with seq := { q.seq with stopping := some 2 } }

theorem test_pass_may_enter : let s := running [] fun q => { busyWith (.passIssue (aPass 0)) q with held := [.pass] }
    (s.plot 0).seq.busy = .passIssue (aPass 0) ∧ s.clocked 0 = true ∧ (s.plot 0).bankBusy (aPass 0).desc = false ∧
    (s.plot 0).passHeld (aPass 0).desc = false ∧ .pass ∈ (s.plot 0).held := by decide +kernel
theorem test_group_may_commit : (unitCtl (aPass 1).desc.numctl).isSome = true ∧ (running []).clocked 0 = true ∧ (aPass 1).desc.dkind = 1 ∧
    (aPass 1).redo ≠ some 1 ∧ (aPass 1).next < (aPass 1).desc.groups ∧ (aPass 1).start < (aPass 1).next ∧
    (aPass 1).next + 1 < (aPass 1).desc.groups ∧ (aPass 2).next + 1 = (aPass 2).desc.groups ∧
    ((running [] fun q => { q with passes := [aPass 1] }).plot 0).passes = [aPass 1] := by decide +kernel
theorem test_tiles_may_leave : let w : WriteOut := { bank := 1, arrays := 0xF, dst := 0x4000, isRef := false }
    let s := running [] fun q => { q with writeouts := [w], passes := [aReduction 2] }
    s.clocked 0 = true ∧ (s.plot 0).writeouts.find? (fun w => w.bank = 1) = some w ∧ (s.plot 0).passes = [aReduction 2] ∧
    (unitCtl (aReduction 2).desc.numctl).isSome = true ∧ (aReduction 2).desc.dkind = 3 ∧ (aReduction 2).desc.accinit = 2 ∧
    (aReduction 2).redo = none := by decide +kernel
theorem test_parity_retries : let s := running [] fun q => { q with passes := [aPass 1] }
    (s.plot 0).passes = [aPass 1] ∧ s.clocked 0 = true ∧ (s.plot 0).seq.stopping = none ∧ (aPass 1).desc.dkind ≠ 3 ∧ (aPass 1).next ≤ 2 ∧
    2 < (aPass 1).desc.groups ∧ (aPass 1).redo = none ∧ (aPass 1).retried ≠ some 2 ∧ (aReduction 1).desc.dkind = 3 ∧
    (aReduction 1).desc.accinit = 1 ∧ (aReduction 1).redo = none ∧ (aReduction 1).retried = none := by decide +kernel
theorem test_parity_fails_again : let a := { aPass 1 with retried := some 1 }
    a.desc.dkind ≠ 3 ∧ a.next ≤ 1 ∧ 1 < a.desc.groups ∧ a.redo = none ∧ a.retried = some 1 ∧
    ({ aPass 1 with redo := some 1 } : ActivePass).redo = some (aPass 1).next := by decide +kernel
theorem test_pass_may_stop : let s := running [] fun q => stops { q with passes := [aPass 1] }
    (s.plot 0).passes = [aPass 1] ∧ (s.plot 0).seq.stopping = some 2 ∧ (unitCtl (aPass 1).desc.numctl).isSome = true ∧ s.clocked 0 = true ∧
    (s.plot 0).writeouts = [] ∧ (aPass 1).desc.dkind ≠ 3 ∧ (aPass 1).start < (aPass 1).next ∧ (aPass 1).next < (aPass 1).desc.groups := by
  decide +kernel
/-- A check whose reference tile is done. -/
def aCheck : CheckRun :=
  { array := 0, fltidx := 0, layer := 0, outtile := 0x8000, reftile := 0x4000, threshold := 0x290, ref := none, refDone := true }
theorem test_check_may_compare : let s := running [] (busyWith (.checking aCheck))
    (s.plot 0).seq.busy = .checking aCheck ∧ s.clocked 0 = true ∧ aCheck.refDone = true ∧ (s.plot 0).stream = none ∧
    (s.plot 0).readHeld [extOf aCheck.outtile 0x1000] = false := by decide +kernel
theorem test_stream_may_start : let s := running [] (busyWith (.streamIssue (aStream 0)))
    (s.plot 0).seq.busy = .streamIssue (aStream 0) ∧ s.clocked 0 = true ∧ (s.plot 0).stream = none ∧
    (s.plot 0).streamHeld (aStream 0).desc = false ∧ (s.plot 0).rakeLets (aStream 0).desc = true := by decide +kernel
theorem test_stream_may_end_or_stop : let s := running [] fun q => stops { q with stream := some (aStream 0) }
    (s.plot 0).stream = some (aStream 0) ∧ (unitCtl (aStream 0).desc.numctl).isSome = true ∧ s.clocked 0 = true ∧
    (s.plot 0).seq.stopping = some 2 ∧ (aStream 0).desc.unitStart 64 = true ∧ (aStream 0).epos < 64 := by decide +kernel
theorem test_drill_parity : let s := running [] fun q => { q with stream := some (aStream 0) }
    (aStream 0).desc.unitStart 0 = true ∧ (aStream 0).epos ≤ 0 ∧ (aStream 0).retried ≠ some 0 ∧ (s.plot 0).seq.stopping = none ∧
    ({ aStream 0 with retried := some 0 } : ActiveStream).retried = some 0 := by decide +kernel
theorem test_tilling : let s := running [] fun q => { q with tilling := 1 }
    s.clocked 0 = true ∧ 0 < (s.plot 0).tilling ∧ (s.plot 0).stream = none ∧ (s.plot 0).seq.sowing = false := by decide +kernel

/-- The running plan with `f` of its links. -/
def linked (f : Kuf → Kuf) : State := { withTable [] with kuf := f Kuf.reset }
/-- A route table that reaches node 1 by port 0, else by port 1; collective 5 has one step. -/
def routes (op : BitVec 4) : RouteTable :=
  { node := 0, maxHops := 3, ports := Vector.replicate 8 { used := true, nbrPort := 0, nbrNode := 1 }
    dests := [{ node := 1, primary := 0, altValid := true, alt := 1, useAlt := false }]
    colls := [(5, [{ op := op, peerstep := 0, node := 1 }])] }
/-- A combination that has its register. -/
def aColl (id : Fin 4096) : Collective :=
  { id := id, count := 1, members := [0], images := [.cleared], reg := some .cleared, step := 0 }
theorem test_delivery : let s := linked fun k => { k with colls := [aColl 4095] }
    s.kuf.colls.find? (fun c => c.id = 4095 && c.reg.isSome) = some (aColl 4095) ∧ (s.schedule 4095).length ≤ (aColl 4095).step := by
  decide +kernel
/-- A vote for the layer of entry 0, with equal digests. -/
def aVote : RakeReg := { RakeReg.cleared with value := BitVec.ofNat 640 (1 + 0xFFFFFFFF * 2 ^ 544), kind := .or, terms := 1 }
theorem test_allocation : let s : State := { withTable [] with fb := { FourBit.reset with voteReady := some aVote } }
    s.fb.voteReady = some aVote ∧ s.fltBase = some 0x1000 ∧ Memory.wf s.mem.cells = true ∧
    w32 (aVote.value.toNat / 2 ^ 512) ^^^ w32 (aVote.value.toNat / 2 ^ 544) = 0xFFFFFFFF#32 ∧
    w32 (RakeReg.cleared.value.toNat / 2 ^ 512) ^^^ w32 (RakeReg.cleared.value.toNat / 2 ^ 544) ≠ 0xFFFFFFFF#32 ∧
    s.fb.used ≤ (s.fltHdrAt 0x1000).rescap + s.fb.extra.toNat := by decide +kernel
/-- An image of combination 5 from node 1. -/
def anImage : InboxImage := { collid := 5, row := 0, step := 0, node := 1, image := RakeReg.cleared.imageOf 0 }
theorem test_collective_steps : ∀ op : Fin 3, let s := linked fun k =>
      { k with colls := [aColl 5], route := some (routes (BitVec.ofNat 4 (op.val + 1))), inbox := [anImage] }
    s.evr.fallow = false ∧ s.collStep 5 = some (aColl 5, .cleared, { op := BitVec.ofNat 4 (op.val + 1), peerstep := 0, node := 1 }) ∧
    s.routeOf 1 = some 0 ∧ (s.inboxImage 5 { op := 2, peerstep := 0, node := 1 }).isSome = true ∧
    kindsMeet RakeKind.empty RakeKind.empty = true := by decide +kernel
set_option maxRecDepth 4000 in
theorem test_collective_image : (RakeReg.ofImage (RakeReg.cleared.imageOf 0)).isSome = true := by decide +kernel

/-- A message of a type and a class from node 1 to node `dst`. -/
def message (mtype : Nat) (dst : BitVec 12) (body : List Byte) : List Byte :=
  mkMessage { mtype := mtype, channel := 0, hops := 3, len := 0, src := 1, dst := dst, mseq := 0 } body
/-- A module that has received the bytes `m` of class `c` at port 0, with node 1 in its tables. -/
def received (c : Fin 3) (m : List Byte) : State := linked fun k =>
  { k with
    ports := k.ports.set 0 { KufPort.reset with state := .active, rx := KufPort.reset.rx.set c.val m }
    route := some (routes 1)
    tx := [{ node := 1, channel := 0, granted := false, refused := false, mseq := 0, acked := 0, buffer := [], opens := 1 }]
    rx := [{ node := 1, channel := 0, acked := 0, got := [], since := 0 }] }
theorem received_at (c : Fin 3) (m : List Byte) : ((received c m).kport 0).rx.get c = m := by
  revert c; intro c; fin_cases c <;> rfl
theorem received_here (c : Fin 3) (m : List Byte) : (received c m).kuf.node = 0 ∧ (received c m).evr.fallow = false := ⟨rfl, rfl⟩
/-- A message from node 1 to this module has arrived. -/
theorem arrived {s : State} {k : KPort} {c : Fin 3} {mtype : Nat} {body : List Byte} {h : MsgHdr}
    (rx : (s.kport k).rx.get c = message mtype 0 body) (node : s.kuf.node = 0) (live : s.evr.fallow = false)
    (e : h = { mtype := mtype, channel := 0, hops := 3, len := body.length, src := 1, dst := 0, mseq := 0 })
    (hm : mtype < 16) (hb : body.length < 512) : Claim.Arrived s k c (message mtype 0 body) h := by
  have hd : MsgHdr.ofBytes (message mtype 0 body) = h := by
    rw [e]; exact header_read_back _ body hm (by simp) hb
  have len : (message mtype 0 body).length = 20 + body.length := mkMessage_length _ _
  have size : h.size = 20 + body.length := by rw [e, MsgHdr.size]
  refine ⟨?_, hd.symm, ?_, mcrcOk_mkMessage _ _, hdrReserved_mkMessage _ _ (by simp) hm hb, live⟩
  · unfold KufPort.msgHead
    simp only [rx, hd, len, size]
    rw [if_pos (by omega), List.take_of_length_le (by rw [len])]
  · rw [node, e]
theorem test_image_arrives : (∃ h, Claim.Arrived (received 1 (message 3 0 (zeros 144))) 0 1 (message 3 0 (zeros 144)) h ∧ h.mtype = 3 ∧
    h.len = 144) ∧ (received 1 (message 3 0 (zeros 144))).kuf.inbox.length < 256 := by
  refine ⟨⟨_, arrived (received_at 1 _) (received_here 1 _).1 (received_here 1 _).2 rfl (by decide) (by simp [zeros]), rfl, List.length_replicate⟩, ?_⟩
  show 0 < 256
  decide

/-! ### Links and movers -/

/-- A port in a state with `f` of its other state. -/
def porting (x : PortState) (f : KufPort → KufPort := id) : State :=
  linked fun k => { k with ports := k.ports.set 0 (f { KufPort.reset with state := x }), route := some (routes 1) }
theorem test_ports_train : ∀ x ∈ [PortState.signal, .equalise, .align], ((porting x).kport 0).state = x ∧
    Claim.inTraining ((porting x).kport 0) ∧ ((porting x).kport 0).first = true ∧ (porting x).evr.fallow = false := by
  simp only [Claim.inTraining]; decide +kernel
theorem test_port_trained : let s := porting .ident fun x => { x with identOk := true }
    (s.kport 0).state = .ident ∧ (s.kport 0).identOk = true ∧ s.evr.fallow = false := by decide +kernel
theorem test_port_retrains : let s := porting .active fun x => { x with retrainDue := true, identWait := true }
    (s.kport 0).state = .active ∧ (s.kport 0).retrainDue = true ∧ (s.kport 0).identWait = true ∧ s.evr.fallow = false := by decide +kernel
theorem test_port_goes_down : let s := porting .ident fun x => { x with first := false, fails := 2 }
    Claim.inTraining (s.kport 0) ∧ (s.kport 0).first = false ∧ 2 ≤ (s.kport 0).fails ∧ s.evr.fallow = false := by
  simp only [Claim.inTraining]; decide +kernel
set_option maxRecDepth 8000 in
theorem test_control_flits : ∀ t ∈ [2, 3, 4],
    (((porting .active fun x => { x with ctrl := [mkFlit t 0 0 0 [0, 0, 0] []] }).kport 0).ctrlHead t).isSome = true := by decide +kernel
theorem test_flit_may_leave : let s := porting .active fun x => { x with txq := x.txq.set 2 [message 5 1 []], identOk := true }
    (s.kport 0).sendDown = false ∧ (s.kport 0).retrainDue = false ∧ (s.kport 0).sendIdent = [] ∧ (s.kport 0).sendReq = false ∧
    (s.kport 0).resend = [] ∧ s.mayCarry 0 = true ∧ (s.kport 0).replay.length < 256 ∧ (s.kport 0).nextClass.isSome = true ∧
    ((porting .active).kport 0).nextClass = none := by decide +kernel
theorem test_other_flits_may_leave : let s := porting .active fun x =>
      { x with sendDown := true, sendIdent := [true], sendReq := true, resend := [(0, [])] }
    (s.kport 0).sendDown = true ∧ (s.kport 0).sendIdent = [true] ∧ (s.kport 0).sendReq = true ∧ (s.kport 0).resend = [(0, [])] := by
  decide +kernel
set_option maxRecDepth 8000 in
theorem test_sound_flit : let b := mkFlit 1 0 0 4095 [0, 0, 0] []
    wordAt b 124 = crc32 (b.take 124) ∧ (wordAt b 0).toNat / 2 ^ 28 = 1 ∧ (wordAt b 0).toNat / 2 ^ 26 % 4 = 0 ∧
    BitVec.ofNat 12 ((wordAt b 0).toNat / 2 ^ 12) = ((porting .active).kport 0).expect := by decide +kernel
theorem test_identity_judged : (porting .ident).identityOk 0 0 1 0 = true ∧ (porting .ident).identityOk 0 0 2 0 = false := by decide +kernel

theorem test_data_write_arrives : let body := bytesOfWords [0x2000, 0, 0, 0] ++ ([1, 2, 3, 4] : List Byte)
    (∃ h, Claim.Arrived (received 0 (message 1 0 body)) 0 0 (message 1 0 body) h ∧ h.mtype = 1 ∧ 20 ≤ h.len ∧
      Claim.takesNew (received 0 (message 1 0 body)) h) ∧
    (received 0 []).mem.bad = [] ∧ Memory.wf (received 0 []).mem.cells = true ∧
    (∀ z ∈ List.range 4, (received 0 []).rangeDevice 0x2000 (4 - z) = true) := by
  refine ⟨⟨_, arrived (received_at 0 _) (received_here 0 _).1 (received_here 0 _).2 rfl (by decide) (by decide), rfl, by decide, ?_⟩, ?_⟩
  · exact ⟨{ node := 1, channel := 0, acked := 0, got := [], since := 0 }, rfl, by decide, by decide⟩
  · decide +kernel
theorem test_token_arrives : ∃ h, Claim.Arrived (received 0 (message 2 0 (zeros 24))) 0 0 (message 2 0 (zeros 24)) h ∧ h.mtype = 2 ∧ h.len = 24 ∧
    Claim.takesNew (received 0 (message 2 0 (zeros 24))) h :=
  ⟨_, arrived (received_at 0 _) (received_here 0 _).1 (received_here 0 _).2 rfl (by decide) (by decide), rfl, rfl,
    { node := 1, channel := 0, acked := 0, got := [], since := 0 }, rfl, by decide, by decide⟩
theorem test_duplicate : let x : RxPair := { node := 1, channel := 0, acked := 1, got := [], since := 0 }
    ∀ h : MsgHdr, h.mseq = 0 → 2 ^ 23 ≤ (h.mseq - x.acked).toNat := by
  intro x h e; rw [e]; decide
/-- A module with a message for node 1, from node 2, at port 1. -/
def passing : State := porting .active fun x => { x with rx := x.rx.set 0 (message 1 1 (zeros 20)) }
theorem test_message_may_go_on : (passing.kport 0).msgHead 0 = some (message 1 1 (zeros 20)) ∧ passing.routeOf 1 = some 0 ∧
    passing.kuf.node ≠ 1 ∧ passing.evr.fallow = false := by
  refine ⟨?_, by decide +kernel, by decide +kernel, rfl⟩
  have hd : MsgHdr.ofBytes (message 1 1 (zeros 20)) = { mtype := 1, channel := 0, hops := 3, len := 20, src := 1, dst := 1, mseq := 0 } :=
    header_read_back _ _ (by decide) (by decide) (by decide)
  have rx : (passing.kport 0).rx.get 0 = message 1 1 (zeros 20) := rfl
  have len : (message 1 1 (zeros 20)).length = 40 := mkMessage_length _ _
  simp only [KufPort.msgHead, rx, hd, len, MsgHdr.size]
  rw [if_pos (by decide), List.take_of_length_le (by rw [len])]
theorem test_control_messages_arrive : ∀ n ∈ [4, 5, 6, 7], (∃ h, Claim.Arrived (received 2 (message n 0 [0, 0, 0, 0])) 0 2
      (message n 0 [0, 0, 0, 0]) h ∧ h.mtype = n ∧ h.src = 1 ∧ h.channel = 0) ∧ (received 2 []).job.state ≠ .idle ∧
    (received 2 []).routeOf 1 = some 0 ∧ ((received 2 []).txPair 1 0).isSome = true ∧
    (∀ x ∈ (received 2 []).kuf.tx, ∀ y ∈ x.buffer, y.sends ≠ 0) := by
  intro n hn
  have hn : n < 16 := by simp at hn; omega
  exact ⟨⟨_, arrived (received_at 2 _) (received_here 2 _).1 (received_here 2 _).2 rfl hn (by decide), rfl, rfl, rfl⟩, by decide +kernel⟩
/-- A module that owes an acknowledgement and has a data write without one. -/
def owing : State := linked fun k => { k with
  route := some (routes 1)
  tx := [{ node := 1, channel := 0, granted := false, refused := false, mseq := 1, acked := 0, opens := 1
           buffer := [{ mseq := 0, bytes := message 1 1 (zeros 20), sends := 1, port := some 0 }] }]
  rx := [{ node := 1, channel := 0, acked := 1, got := [], since := 1 }] }
theorem test_resends : owing.evr.fallow = false ∧ owing.routeOf 1 = some 0 ∧
    (∃ x, owing.kuf.rx.find? (fun x => x.node = 1 && x.channel = 0) = some x ∧ x.since ≠ 0) ∧
    (∃ x y, owing.txPair 1 0 = some x ∧ x.granted = false ∧ x.refused = false ∧ x.buffer.find? (fun z => z.mseq = y.mseq) = some y ∧
      1 ≤ y.sends ∧ y.sends < 5 ∧ (MsgHdr.ofBytes y.bytes).dst = 1 ∧ (MsgHdr.ofBytes y.bytes).mtype = 1) := by
  have hd : MsgHdr.ofBytes (message 1 1 (zeros 20)) = { mtype := 1, channel := 0, hops := 3, len := 20, src := 1, dst := 1, mseq := 0 } :=
    header_read_back _ _ (by decide) (by decide) (by decide)
  exact ⟨rfl, by decide +kernel, ⟨_, rfl, by decide⟩, _, { mseq := 0, bytes := message 1 1 (zeros 20), sends := 1, port := some 0 },
    rfl, rfl, rfl, rfl, by decide, by decide, by rw [hd], by rw [hd]⟩

/-- A transfer of 16 raw bytes from device memory to the plot store, with accesses to make and acknowledgements to come. -/
def aTransfer (phase : XferPhase) (todo : List Access) (unacked : List Nat) : Transfer :=
  { seqno := 0, addr := 0x80, desc := DmaDesc.ofBytes (bytesOfWords (((0x14000000 : Nat) :: dmaWords.drop 1 ++ List.replicate 22 0).map w32))
    pos := Pos.none 0, phase := phase, performed := true, base := 0x2000, scaleBase := 0, todo := todo, got := [], unacked := unacked
    msgs := [], tseq := 0, sent := 0 }
/-- The plot's first mover has this transfer alone. -/
def moving (x : Transfer) : State := running [] fun q => { q with movers := q.movers.set 0 [x] }
theorem test_mover_accesses : ∀ d ∈ [none, some (zeros 16)], let a : Access := { addr := 0x20F0, len := 16, data := d }
    let s := moving (aTransfer .active [a] [0x2000])
    s.mover 0 0 = [aTransfer .active [a] [0x2000]] ∧ s.evr.fallow = false ∧ s.mem.bad = [] ∧ Memory.wf s.mem.cells = true ∧
    a.addr % 256 + 16 ≤ 256 := by decide +kernel
theorem test_mover_ends : (aTransfer .active [] []).complete = true ∧ (aTransfer .active [] []).desc.dstsp = 0 ∧
    (aTransfer .active [] []).desc.srcsp = 1 ∧ (aTransfer .active [] []).desc.token = false ∧ (aTransfer .tokenDue [] []).phase = .tokenDue ∧
    (aTransfer .tokenDue [] []).desc.dstsp ≠ 3 ∧ ((moving (aTransfer .active [] [])).plot 0).seq.busy = .ready := by decide +kernel

/-! ### Memory, sync units, the step round, recovery and the recorder -/

theorem test_package_falls : let s : State := { State.reset with mem := { Mem.reset .m1152 with
      pkgs := Vector.replicate 24 { reading := some 920, invalid := false, step := 2, demand := 0 } } }
    s.evr.fallow = false ∧ (s.pkg 5).reading = some 920 ∧ (s.pkg 5).invalid = false ∧ (s.pkg 5).step = 2 := by decide +kernel
/-- A ready module. -/
def ready : State := { State.reset with sbd := { Sbd.reset with state := .ready, step := 13 } }
theorem test_scrub : ready.scrubs 0x40 = true ∧ blockOf 0x40 = 0x40 ∧ ready.mem.bad = [] ∧ ready.isCached 0x40 = false := by decide +kernel
theorem test_memory_events : let s : State := { State.reset with mem := { Mem.reset .m1152 with
      layState := 1, dies := Vector.replicate 8 { BaseDie.reset with slicenext := some 0xFFF } } }
    s.pciA.stalled = [] ∧ s.pciB.stalled = [] ∧ s.mem.layState = 1 ∧ s.job.state ≠ .checking ∧ (s.die 3).slicenext = some 0xFFF ∧
    s.mem.bad = [] ∧ (s.die 3).slicemode.getLsbD 0 ≠ (0xFFF : BitVec 12).getLsbD 0 := by decide +kernel

/-- A token of 0 bytes, or of `n`, from node 1 for queue 5 of die 0. -/
def aToken (n : Nat) : TokenRec := mkToken 3 1 0 5 7 n 0
/-- A module whose unit of die 0 is `u`, with tokens on their way. -/
def tokened (u : SyncDie) (f : Kuf → Kuf := id) : State := { State.reset with sync := State.reset.sync.set 0 u, kuf := f Kuf.reset }
/-- A unit with an inbound entry that expects TSEQ `n`. -/
def expecting (n : BitVec 16) (t : List Tally) : SyncDie :=
  { SyncDie.reset with inbound := [{ slot := 0, node := 1, channel := 0, next := n, dups := 0 }], tally := t }
theorem test_token_on_its_way : let s := tokened .reset fun k => { k with transit := [aToken 0, { aToken 0 with queueC := 0 }] }
    s.smod.writing = false ∧ s.kuf.transit[0]? = some (aToken 0) ∧ Claim.firstOfSource s 0 (aToken 0) ∧ (aToken 0).ok = true ∧
    ({ aToken 0 with queueC := 0 } : TokenRec).ok = false := by
  intro s
  refine ⟨rfl, rfl, fun y h => ?_, by decide, by decide⟩
  cases h
theorem test_remote_token : ∀ k ∈ [65535, 0, 1], let n := BitVec.ofNat 16 k
    let s := tokened (expecting n []) fun k => { k with remote := [(0, aToken 0)] }
    s.smod.writing = false ∧ s.kuf.remote[0]? = some (0, aToken 0) ∧ (aToken 0).ok = true ∧
    ((s.unit (dieOfQueue 5)).inbound.find? (fun e => e.node = 1 && e.channel = 0)).isSome = true ∧ dieOfQueue (aToken 0).queue = 0 ∧
    (n = 0 → (aToken 0).tseq = n ∧ (s.unit 0).tally = []) ∧ (n = 1 → 32768 ≤ ((aToken 0).tseq - n).toNat) ∧
    (n = 0xFFFF → 0 < ((aToken 0).tseq - n).toNat ∧ ((aToken 0).tseq - n).toNat < 32768) := by decide +kernel
theorem test_tallied_token : ∀ n ∈ [3, 4], let y : Tally := { slot := 0, node := 1, channel := 0, tseq := 0, tally := n, tok := none, age := 0 }
    y.is (aToken 4).src (aToken 4).channel (aToken 4).tseq = true ∧ y.tok = none ∧ (y.tally = (aToken 4).bytes.toNat ∨
      y.tally < (aToken 4).bytes.toNat) := by decide +kernel
theorem test_tally_add : let a : TallyAdd := { die := 0, node := 1, channel := 0, tseq := 0, bytes := 4 }
    let s := tokened .reset fun k => { k with adds := [a] }
    s.kuf.adds = [a] ∧ (s.unit a.die).tally = [] ∧ (s.unit a.die).inbound = [] := by decide +kernel
/-- A watch of plot 0 on queue 5 of its die. -/
def aWatch (n elapsed : Nat) : Watch :=
  { slot := 0, kind := .wait, plot := 0, dbg := 0, object := 5, n := n, consume := 1, elapsed := elapsed, timeout := 1000, pos := Pos.none 0 }
theorem test_sync_cycle : ∀ n ∈ [1, 2], let s := tokened { SyncDie.reset with inbox := [aToken 0], watches := [aWatch n 0] }
    s.smod.writing = false ∧ s.job.halt = .none ∧ (s.trace 0).en = false ∧ (s.trace 0).spill = false ∧ (s.unit 0).inbox = [aToken 0] ∧
    (s.unit 0).watches = [aWatch n 0] ∧ (aWatch n 0).kind = .wait ∧ (aWatch n 0).object.toNat = (inDie (aToken 0).queue).val ∧
    ((s.unit 0).queues.get 5).length < 64 ∧ (aWatch n 0).elapsed + 1 < ((aWatch n 0).timeout + 2) * 1000 := by decide +kernel
theorem test_other_units_still : let s := tokened { SyncDie.reset with inbox := [aToken 0], watches := [aWatch 1 0] }
    Claim.Still { s.unit 0 with inbox := [] } ∧ ∀ e, e ≠ 0 → Claim.Still (s.unit e) ∧ (s.unit e).watches = [] := by
  refine ⟨⟨rfl, rfl, rfl, rfl, rfl, rfl⟩, fun e h => ?_⟩
  have k : ∀ e : DieIx, e ≠ 0 → ((tokened { SyncDie.reset with inbox := [aToken 0], watches := [aWatch 1 0] }).unit e) = .reset := by
    intro e h; fin_cases e <;> first | exact absurd rfl h | rfl
  rw [k e h]
  exact ⟨⟨rfl, rfl, rfl, rfl, rfl, rfl⟩, rfl⟩
theorem test_full_queue : ((Vector.replicate 4096 (List.replicate 64 0) : Vector (List W32) 4096).get 5).length = 64 := by
  simp [Vector.get]
theorem test_watch_expires : ∀ a ∈ [1, 2, 3], let s : State := { tokened { SyncDie.reset with watches := [aWatch 1 1000000] } with
      smod := { SyncMod.reset .m1152 with action := a } }
    s.smod.writing = false ∧ (s.unit 0).watches = [aWatch 1 1000000] ∧ (aWatch 1 1000000).kind = .wait ∧
    (aWatch 1 1000000).timeout * 1000 ≤ (aWatch 1 1000000).elapsed ∧ s.smod.action = a ∧ s.smod.held = false ∧
    s.rangeGuarded s.smod.dumpbase.toNat dumpSize = true := by decide +kernel
theorem test_early_token_expires : let e : Tally := { slot := 0, node := 1, channel := 0, tseq := 0, tally := 0, tok := some (aToken 4), age := 10000000000 }
    let s := tokened { SyncDie.reset with tally := [e] }
    s.smod.writing = false ∧ (s.unit 0).tally = [e] ∧ e.tok = some (aToken 4) ∧ s.smod.defaultus.toNat * 1000 ≤ e.age := by decide +kernel
theorem test_dump_may_be_written : ∀ o ∈ [none, some (OwedErr.watch 0 0)], let f : Frozen :=
      { units := State.reset.sync, row := 0, node := 0, trigger := 1, object := 5, waiter := some 0 }
    let s : State := { tokened { SyncDie.reset with watches := [aWatch 1 0] } with
      smod := { SyncMod.reset .m1152 with frozen := some f, errAfter := o } }
    s.smod.frozen.isSome = true ∧ Memory.wf s.mem.cells = true ∧ s.smod.errAfter = o ∧ (s.unit 0).watches = [aWatch 1 0] := by
  decide +kernel

/-- A running plan of 2 modules at this node, with `f` of the job. -/
def stepping (node : BitVec 12) (f : Job → Job) : State :=
  { running [] fun q => { q with seq := { q.seq with rowDone := true } } with
    kuf := { Kuf.reset with node := node, route := some (routes 1) }
    job := f { Job.reset with state := .running, active := [0], hdr := some { header 2 with node := node, flt := 0 } } }
theorem test_row_may_complete : let s := stepping 0 id
    s.stepRuns = true ∧ s.job.complete = false ∧ s.plotsDone = true ∧ s.allocated = true ∧ s.copyDone = true ∧
    s.job.active ≠ s.job.ended := by decide +kernel
theorem test_up_may_go : let s := stepping 1 fun j => { j with complete := true }
    s.stepRuns = true ∧ treeParent s.kuf.node = some 0 ∧ s.job.complete = true ∧ s.job.upSent = false ∧ s.badUp = none ∧ s.children = [] := by
  decide +kernel
theorem test_round_may_end : let up : EngineTok := { queue := 0x10, payload := 0, src := 1 }
    let s := stepping 0 fun j => { j with complete := true, tokens := [up] }
    s.stepRuns = true ∧ s.stepTokens 2 = [] ∧ treeParent s.kuf.node = none ∧ s.job.complete = true ∧ s.badUp = none ∧
    (∀ c ∈ s.children, s.hasUp c = true) ∧ s.requested = false ∧ s.stepTokens 0 = [up] ∧ bit up.payload 31 = false := by decide +kernel
theorem test_round_may_halt : let down : EngineTok := { queue := 0x11, payload := 0x80000000, src := 0 }
    let s := stepping 1 fun j => { j with complete := true, upSent := true, tokens := [down] }
    s.stepRuns = true ∧ s.stepTokens 2 = [] ∧ treeParent s.kuf.node = some 0 ∧ s.stepTokens 1 = [down] ∧ s.rowMatches down = true ∧
    s.job.upSent = true ∧ bit down.payload 31 = true := by decide +kernel
theorem test_halts_and_aborts : ∀ b ∈ [0, 2 ^ 31], let x : EngineTok := { queue := 0x12, payload := w32 b, src := 1 }
    let s := stepping 0 fun j => { j with tokens := [x], abortDue := some 0, complete := true, stepAge := 60000000000 }
    s.evr.fallow = false ∧ s.dbg.stopmapEn = false ∧ s.dbg.mapDue = none ∧ s.stepTokens 2 = [x] ∧ s.job.state = .running ∧
    s.job.abortDue = some 0 ∧ s.running = true ∧ s.stepRuns = true ∧ s.job.complete = true ∧
    s.job.tousNow.toNat * 1000 ≤ s.job.stepAge ∧ s.smod.writing = false := by decide +kernel

/-- A pairing with node 1. -/
def aPairing : Pairing := { holder := 1, channel := 0, replica := none, bqueue := 5, dst := 0, slotbytes := 0x100000, extents := [] }
/-- A check of the feed that a SET has asked for. -/
def aCheckOfFeed : FeedCheck := { pairing := aPairing, bySet := true, restart := false, row := 0, restore := false }
/-- A module with `f` of its recovery, in a plan whose copies are due at every row. -/
def paired (f : Recovery → Recovery) : State :=
  { stepping 0 fun j => { j with hdr := some { header 2 with flt := 0, buddyint := 1 } } with rcv := f { Recovery.reset with pairing := some aPairing } }
theorem test_buddy_tokens : ∀ k ∈ [0, 1, 2, 3, 4], let x : EngineTok := { queue := 5, payload := w32 (k * 2 ^ 28 + 1), src := 1 }
    let s := paired fun r => { r with tokens := [x], feedWait := some aCheckOfFeed, feedAge := 10000000000 }
    s.evr.fallow = false ∧ s.rcv.tokens = [x] ∧ bits x.payload 31 28 = k ∧ (s.routeOf (BitVec.ofNat 12 (bits x.payload 11 0))).isSome = true ∧
    s.rcv.feedWait = some aCheckOfFeed ∧ aCheckOfFeed.bySet = true ∧ s.rcv.waitReturn = none ∧
    s.smod.defaultus.toNat * 1000 ≤ s.rcv.feedAge := by decide +kernel
set_option maxRecDepth 8000 in
theorem test_return_fails : let s := paired fun r => { r with waitReturn := some 1 }
    s.rcv.waitReturn = some 1 ∧ s.rcv.pairing = some aPairing ∧ s.mem.bad = [] ∧ (s.returnBad (zeros 128) 1 none).isSome = true := by decide +kernel
theorem test_copy_ready : ∀ m ∈ [1, 3], let s := paired fun r => { r with mode := m }
    s.evr.fallow = false ∧ s.mem.bad = [] ∧ s.rcv.pairing = some aPairing ∧ s.rcv.mode = m ∧
    s.copyReady { header 2 with flt := 0, buddyint := 1 } = true := by decide +kernel
theorem test_copy_header : ∀ b : Bool, let c : CopyRun := { row := 0, slot := 0, digest := 0, bytes := 0, hdrSent := b }
    let s := paired fun r => { r with copy := some c }
    s.rcv.copy = some c ∧ s.rcv.pairing = some aPairing ∧ s.pairQuiet aPairing.holder aPairing.channel = true ∧ c.hdrSent = b := by decide +kernel
theorem test_return_goes : ∀ x ∈ [(1, true), (2, false)], let r : ReturnRun := { target := BitVec.ofNat 12 x.1, channel := 0, slotAddr := 0, sent := x.2 }
    let s := paired fun y => { y with ret := some r }
    s.rcv.ret = some r ∧ (s.routeOf r.target).isSome = x.2 ∧ s.pairQuiet r.target r.channel = true ∧ r.sent = x.2 := by decide +kernel

/-- A module whose half A has registered `e`, handles `h` and has `p` pending. -/
def erring (e : List ErrRep) (h : Option Handling) (p : List ErrRep) (f : Evr → Evr := id) : State :=
  { State.reset with evr := f { Evr.reset with halfA := { RecHalf.reset with registered := e, handling := h, pending := p } } }
/-- An error of a class and severity. -/
def anError (code : BitVec 16) (sev : Severity) : ErrRep := State.reset.mkErr code sev srcService 0 []
/-- An error in handling, with record 0. -/
def inHand (code : BitVec 16) (sev : Severity) : Handling := { code := code, sev := sev, rseq := some 0, follow := false }
theorem test_recording (e : List ErrRep) (h : Option Handling) (p : List ErrRep) : Claim.Recording (erring e h p) := ⟨rfl, rfl, rfl, rfl⟩
theorem test_error_may_be_recorded : let s := erring [anError 0x0701 .moduleFatal] none []
    (s.half .a).registered = [anError 0x0701 .moduleFatal] ∧ (s.half .a).handling = none ∧ (s.half .a).pending = [] ∧
    (s.half .a).ring.length < 1920 ∧ (s.half .a).newest = none := by decide +kernel
theorem test_makes_record : Claim.makesRecord RecHalf.reset (anError 0x0701 .moduleFatal) := ⟨by decide, fun n h => by cases h⟩
theorem test_error_meets_another : ∀ x ∈ [(0x0701, Severity.recoverable), (0x0901, Severity.notice), (0x0702, Severity.moduleFatal)],
    let e := anError (BitVec.ofNat 16 x.1) x.2
    let s := erring [e] (some (inHand 0x0701 .recoverable)) []
    (s.half .a).handling = some (inHand 0x0701 .recoverable) ∧ (inHand 0x0701 .recoverable).rseq = some 0 ∧
    ((inHand 0x0701 .recoverable).code = e.code ∨ Severity.recoverable.code < e.sev.code ∨ e.sev.code ≤ Severity.recoverable.code) ∧
    (e.sev = .recoverable → e.need = 0) ∧ (s.half .a).pending.length < 16 := by decide +kernel
theorem test_pending_error : let s := erring [] none [anError 0x0901 .notice]
    (s.half .a).handling = none ∧ (s.half .a).pending = [anError 0x0901 .notice] := by decide +kernel
theorem test_module_fatal_is_due : let s := erring [] none [] fun e => { e with fatalDue := some 0x0701 }
    s.evr.fatalDue = some 0x0701 ∧ s.evr.halfA.pending = [] ∧ s.evr.halfB.pending = [] := by decide +kernel
/-- A flush in progress. -/
def aFlush : Flush := { trigger := .write, tsev := .notice, tcode := 0, bufA := .reset, bufB := .reset, row := 0, lost := 0 }
theorem test_flush_may_end : ∀ o ∈ [none, some (FlushTrigger.write, Severity.notice, 0)],
    let s := erring [] none [] fun e => { e with flushing := some aFlush, follow := o }
    s.evr.flushing = some aFlush ∧ s.evr.staged = [] ∧ s.evr.erase = none ∧ s.evr.follow = o ∧ s.evr.fallow = false ∧
    s.evr.halfA.pending = [] ∧ s.evr.halfB.pending = [] ∧ (s.half s.lead).ring.length < 1920 ∧ (s.half s.lead).newest = none := by decide +kernel
theorem test_erase_steps : ∀ x ∈ [EraseStep.headers, .superblock, .slots], let s := erring [] none [] fun e => { e with erase := some x }
    s.evr.erase = some x ∧ s.evr.fallow = false ∧ s.evr.follow = none := by decide +kernel

/-! ### Power, start-up, host ports, debug and management -/

/-- A ready module whose die 0 has changes of frequency to make, with `f` of its power. -/
def powered (f : Pwr → Pwr) : State := { ready with pwr := f Pwr.reset }
theorem test_control_period : let r : PowerReadings := { inputW := 700, strips := [(0, 250), (79, 1100)] }
    ready.evr.fallow = false ∧ ready.pwr.railsOn = true ∧ ready.sbd.state = .ready ∧ (∀ x ∈ r.strips, x.1 < 80) ∧
    (r.strips.map (·.1)).Nodup := by decide +kernel
theorem test_package_levels : let s := { powered fun p => { p with pkgAge := Vector.replicate 8 1000, pkglevel := Vector.replicate 8 100 } with
      mem := { Mem.reset .m1152 with pkgs := Vector.replicate 24 { reading := some 1050, invalid := false, step := 2, demand := 0 } } }
    (s.pkg 0).reading = some 1050 ∧ dieOfPkg 0 = 0 ∧ 100 ≤ s.pwr.pkgAge.get 0 + 1 ∧ 17 < (s.pwr.pkglevel.get 0).toNat ∧
    1000 ≤ s.pwr.pkgAge.get 0 + 1 ∧ (s.pwr.pkglevel.get 0).toNat < 120 := by decide +kernel
theorem test_frequency_changes : let x : Strip := { Strip.reset with decided := 120 }
    let s := powered fun p => { p with strips := p.strips.set 0 x }
    (s.strip 0).decided ≠ (s.strip 0).eff ∧ (s.strip 0).changing = none ∧ 2 ≤ (s.strip 0).changeAge ∧ (s.strip 0).stopped = false := by
  decide +kernel
theorem test_strip_restarts : let x : Strip := { Strip.reset with changing := some 32, stopped := true }
    let s := powered fun p => { p with strips := p.strips.set 0 x }
    (s.strip 0).changing = some 32 ∧ (s.strip 0).stopped = true := by decide +kernel
theorem test_rail_slews : (∀ i, dieOfStrip i = 0 → (ready.strip i).railCode ≤ 80) ∧ dieOfStrip 0 = 0 ∧ (ready.strip 0).railCode = 80 := by
  decide +kernel
theorem test_envelope_samples : let l := List.replicate 16 500
    l.length = 16 ∧ (∀ x ∈ l, 600 ≤ x * 6 / 5 ∧ x * 6 / 5 ≤ 3000) ∧ ∀ x ∈ l, ∀ y ∈ l, x * 6 / 5 ≤ y * 6 / 5 + 25 := by decide +kernel
theorem test_envelope_bad_sample : let l := 499 :: List.replicate 15 500
    l.length = 16 ∧ 499 ∈ l ∧ 499 * 6 / 5 < 600 := by decide +kernel
theorem test_envelope_timeout : ready.pwr.envvalid = false ∧ ready.pwr.envfail = false ∧ bit ready.pwr.cfg 31 = true := by decide +kernel
theorem test_model_deviates : let s := powered fun p => { p with periods := 100000, modelSum := 100000 * 40000000 * 1000, sensorSum := 100000 * 500 }
    let m := s.pwr.modelSum / (s.pwr.periods * 40000000)
    let w := s.pwr.sensorSum / s.pwr.periods
    s.evr.fallow = false ∧ 100000 ≤ s.pwr.periods ∧ bits s.pwr.cfg 23 16 * w < 100 * (max m w - min m w) := by decide +kernel
theorem test_model_agrees : let s := powered fun p => { p with periods := 100000, modelSum := 100000 * 40000000 * 500, sensorSum := 100000 * 500 }
    let m := s.pwr.modelSum / (s.pwr.periods * 40000000)
    let w := s.pwr.sensorSum / s.pwr.periods
    100000 ≤ s.pwr.periods ∧ 100 * (max m w - min m w) ≤ bits s.pwr.cfg 23 16 * w := by decide +kernel

/-- A module that starts up, at a step, with `f` of its start-up. -/
def starting (n : BitVec 4) (f : Sbd → Sbd := id) : State := { State.reset with sbd := f { Sbd.reset with step := n } }
theorem test_starts_up : ∀ n : Fin 14, (starting (BitVec.ofNat 4 n.val)).startsUp = true := by decide +kernel
theorem test_step_9 : let s : State := { starting 9 with pins := { Pins.reset with thermTripN := true } }
    s.startsUp = true ∧ s.sbd.step = 9 ∧ s.pins.thermTripN = true ∧ ∀ i, (s.strip i).temp ≤ 1000 := by decide +kernel
theorem test_step_8_defaults : wordAt ((starting 8).sbd.flashBytes 0x1000000 4) 0 = 0xFFFFFFFF#32 := by decide +kernel
set_option maxRecDepth 8000 in
theorem test_superblock : superValid (cellsPut 0 [] 0x8000 (superBytes 5 [0, 0, 0])) 0x8000 = true := by decide +kernel
theorem test_step_10_overruns : (starting 10).sbd.retrained = false ∧ (starting 10 fun x => { x with retrained := true }).sbd.retrained = true := by
  decide +kernel
theorem test_step_6_latched : let s := starting 6 fun x => { x with latched := true, winner := some .b }
    s.startsUp = true ∧ s.sbd.step = 6 ∧ s.sbd.latched = true ∧ s.sbd.winner.isSome = true := by decide +kernel
theorem test_arbitration_of_two : let s := starting 6 fun x => { x with claimA := 4, claimAC := ~~~4, claimB := 5, claimBC := ~~~5 }
    s.startsUp = true ∧ s.sbd.latched = false ∧ s.pins.recoverySampled = true ∧ s.sbd.claim .a = some 4 ∧ s.sbd.claim .b = some 5 := by
  decide +kernel
theorem test_arbitration_of_one : let s := starting 6 fun x => { x with claimA := 4, claimAC := ~~~4 }
    s.sbd.claim .a = some 4 ∧ s.sbd.claim (otherHalf .a) = none ∧ (starting 6).sbd.claim .a = none ∧ (starting 6).sbd.claim .b = none := by
  decide +kernel
theorem test_arbitration_recovers : let s : State := { starting 6 with pins := { Pins.reset with recoverySampled := false } }
    s.startsUp = true ∧ s.sbd.latched = false ∧ s.pins.recoverySampled = false ∧ s.sbd.pushed = none := by decide +kernel

theorem test_watchdog : let s := starting 4 fun x => { x with winner := some .a }
    s.evr.fallow = false ∧ s.pwr.railsOn = true ∧ 4 ≤ s.sbd.step.toNat ∧ (starting 4).sbd.winner = none ∧ s.sbd.winner = some .a := by
  decide +kernel
set_option maxRecDepth 20000 in
theorem test_erased_flash_holds_no_image : imageValid .m1152 Sbd.reset.keys Sbd.reset.flashBytes = none := by decide +kernel
theorem test_lead_changes : let s := starting 13 fun x => { x with pending := some .b, claimB := 5, claimBC := ~~~5 }
    s.sbd.pending = some .b ∧ s.planIdle = true ∧ s.evr.fallow = false ∧ s.sbd.claim .b = some 5 := by decide +kernel
theorem test_uncut : Claim.Uncut ready := ⟨rfl, rfl, rfl⟩
/-- A module with pins. -/
def pinned (s : State) (f : Pins → Pins) : State := { s with pins := f Pins.reset }
theorem test_power_fails : (pinned ready id).pins.pwrFailN = true ∧ ready.pins.driveFail = false ∧ ready.pwr.railsOn = true ∧
    ready.sbd.early = false ∧ (starting 7).sbd.early = true ∧ (starting 8).sbd.early = false ∧ ready.pins.failLow = false := by decide +kernel
theorem test_power_returns : let s := pinned ready fun p => { p with pwrFailN := false }
    s.pins.pwrFailN = false ∧ s.pins.driveFail = false ∧ s.pwr.railsOn = true ∧ s.pins.supply = true ∧ s.pins.failLow = true ∧
    (powered fun p => { p with railsOn := false }).pwr.railsOn = false := by decide +kernel
theorem test_supply_rises : let s := pinned ready fun p => { p with supply := false, driveFail := true }
    s.pins.supply = false ∧ s.pins.pwrFailN = true := by decide +kernel

/-- Host A's link is up at a module, with `f` of its port. -/
def hosted (s : State) (f : Pci → Pci := id) : State := { s with pciA := f { Pci.reset with speed := 5, width := 8 } }
theorem test_linked : Linked (hosted ready) .a := ⟨rfl, rfl, rfl, rfl, rfl⟩
theorem test_serves : Serves (hosted ready) .a := ⟨test_linked, rfl, rfl, rfl⟩
/-- A module that serves its host is in the state `s` otherwise. -/
theorem serves_of (s : State) (a : s.pwr.railsOn = true) (b : s.sbd.state = .ready) (c : s.evr.fallow = false)
    (d : s.sbd.ctlhost = .a ∧ 9 ≤ s.sbd.step.toNat) : Serves (hosted s) .a :=
  ⟨⟨rfl, rfl, a, rfl, rfl⟩, b, c, by
    have e : (hosted s).sbd = s.sbd := rfl
    simp only [State.isControl, e, d.1, Bool.and_eq_true, decide_eq_true_eq]
    exact ⟨trivial, d.2⟩⟩
theorem test_data_host : let s := hosted { ready with sbd := { ready.sbd with ctlhost := .b } }
    Linked s .a ∧ s.isDataHost .a = true := ⟨⟨rfl, rfl, rfl, rfl, rfl⟩, rfl⟩
theorem test_plain : Claim.Plain 0 ∧ Claim.Plain 0x3FFFFFC ∧ (placeAt 0x3FFFFFC).isNone = true ∧ (placeAt 0x10).isSome = true := by
  refine ⟨⟨by decide, by decide, by decide, by decide⟩, ⟨by decide, by decide, by decide, by decide⟩, by decide +kernel, by decide +kernel⟩
theorem test_steady : Claim.Steady .kufnode := by
  refine ⟨rfl, rfl, fun _ h => ?_, fun _ h => ?_, fun _ h => ?_⟩ <;> cases h
theorem test_token_word : let v : BitVec 64 := 0xFFFFFFFE00000001
    w32 (v.toNat / 2 ^ 32) = ~~~(w32 v.toNat) ∧ w32 ((0 : BitVec 64).toNat / 2 ^ 32) ≠ ~~~(w32 (0 : BitVec 64).toNat) ∧
    ready.running = false ∧ ready.unacked .a = 0 := by decide +kernel
/-- Window 0 of port A maps the base store or DRAM at 1 GiB times `n`. -/
def mapped (n : Nat) : State := hosted ready fun p => { p with wins := p.wins.set 0 (w32 (2 ^ 31 + n)) }
theorem test_mapped : Claim.Mapped (mapped 0) .a 0x1000 16 0x1000 :=
  ⟨by decide, by decide +kernel, by decide +kernel, by decide +kernel, rfl, rfl, rfl⟩
theorem test_unmapped : (hosted ready).mapBar2 .a 0 16 = none ∧ 0 + 16 ≤ 2 ^ 37 := by decide +kernel
theorem test_message_due : ∀ b : Bool, let s := hosted ready fun p => { p with due := 1, msixEnable := true, msixMask := b }
    s.evr.fallow = false ∧ (s.pci .a).up = true ∧ (s.pci .a).d3hot = false ∧ (s.pci .a).msixEnable = true ∧
    (s.pci .a).due.getLsbD 0 = true ∧ (s.pci .a).msixMask = b ∧ bit ((s.pci .a).msix.toList.getD 3 0) 0 = false := by decide +kernel
theorem test_configuration : ((hosted ready).configWord .a 0x00).isSome = true ∧ ((hosted ready).configWord .a 0xFFC) = none := by decide +kernel
theorem test_link_may_rise : ready.pins.perstHigh .a = true ∧ ready.pwr.railsOn = true ∧ 3 ≤ ready.sbd.step.toNat ∧ (ready.pci .a).up = false := by
  decide +kernel

/-- A ready module with `f` of its job. -/
def jobbed (f : Job → Job) : State := { ready with job := f Job.reset }
theorem test_serves_a_job (f : Job → Job) : Serves (hosted (jobbed f)) .a := serves_of _ rfl rfl rfl ⟨rfl, (by decide : 9 ≤ 13)⟩
theorem test_start_is_refused : ready.planIdle = true ∧ ready.mem.layState ≠ 1 ∧ ready.loadCheck false = some (1, 0) := by decide +kernel
theorem test_restart_row : ready.restartRowOk = true ∧ ({ ready with rcv := { Recovery.reset with restartrow := 1 } } : State).restartRowOk = false := by
  decide +kernel
theorem test_job_states : let s := jobbed fun j => { j with state := .running, active := [0] }
    s.running = true ∧ s.planIdle = false ∧ s.job.halt = .none ∧ s.dbg.stopmapEn = false ∧ s.dbg.mapDue = none ∧ s.job.stateCode = 2 ∧
    ready.running = false ∧ ready.job.stateCode = 0 := by decide +kernel
theorem test_halted_states : ∀ h ∈ [HaltState.boundary, .now, .aborted], let s := jobbed fun j => { j with state := .halted, halt := h, active := [0] }
    s.job.state = .halted ∧ s.job.halt = h ∧ (s.plot 0).harSpilled = false ∧ (s.plot 0).drlSpilled = false := by decide +kernel
theorem test_set_of_no_list : (jobbed fun j => { j with hdr := some { header 2 with buddyint := 1 } }).listBad { header 2 with buddyint := 1 } = some 0 := by
  decide +kernel
theorem test_no_copy_is_held : ready.job.state ≠ .checking ∧ ready.rcv.ret = none := by decide +kernel
theorem test_reserve_may_grow : let s := jobbed fun j => { j with state := .halted, halt := .boundary }
    s.job.halt = .boundary ∧ s.fb.extra.toNat ≤ 65535 ∧ Claim.planReserve s + 65535 ≤ 65535 := by decide +kernel
/-- A ready module whose plot 0 is in its body, with `f` of it. -/
def plotted (f : Plot → Plot) : State := { ready with plots := (running [] f).plots }
theorem test_plot_may_stop : Claim.inPart ((plotted id).plot 0).seq ∧ ((plotted id).plot 0).seq.stopping = none := by
  simp only [Claim.inPart]; decide +kernel
theorem test_plot_at_rest : ¬Claim.inPart (ready.plot 0).seq ∧ (ready.plot 0).debuggable = true ∧ Memory.wf (ready.plot 0).store = true ∧
    ((plotted id).plot 0).debuggable = false := by simp only [Claim.inPart]; decide +kernel
theorem test_plot_may_step : let s := plotted fun q => { q with seq := { q.seq with state := .stopped, byStop := true } }
    (s.plot 0).seq.byStop = true ∧ (s.plot 0).seq.state = .stopped ∧ s.job.state ≠ .halted ∧ (s.plot 0).harSpilled = false ∧
    (s.plot 0).drlSpilled = false := by decide +kernel
theorem test_stop_completes : let s := plotted stops
    (s.plot 0).seq.stopping = some 2 ∧ (s.plot 0).seq.busy = .ready ∧ (s.plot 0).allQuiet = true ∧ s.job.haltNote = false ∧
    s.dbg.mapDue = none ∧ s.job.state ≠ .running := by decide +kernel

theorem test_layout : let l : Nat → Layout := fun g => { ready.mem.regs with guardu := g }
    (l 512).refusal .m1152 = none ∧ (l 0).refusal .m1152 = some 1 ∧ bits (512 : W32) 30 14 = 0 ∧ bits (512 : W32) 11 11 = 0 := by decide +kernel
theorem test_unit_is_free : (ready.unit 0).qbusy = false := by decide +kernel
theorem test_unit_is_busy : ((tokened { SyncDie.reset with qbusy := true }).unit 0).qbusy = true := by decide +kernel
theorem test_dump_base : ready.smod.held = false ∧ ready.smod.writing = false ∧ ready.rangeGuarded ready.smod.dumpbase.toNat dumpSize = true ∧
    ({ ready with smod := { SyncMod.reset .m1152 with dumpbase := 0xFFFFFFFFFF00 } } : State).rangeGuarded 0xFFFFFFFFFF00 dumpSize = false := by
  decide +kernel
theorem test_ports_of_links : (ready.kport 0).enable = true ∧ ((porting .active).kport 0).state = .active ∧
    (({ ready with kuf := { Kuf.reset with ports := Vector.replicate 8 { KufPort.reset with enable := false } } } : State).kport 0).enable = false := by
  decide +kernel
theorem test_recorder_is_free : ready.evr.flushing = none ∧ ready.evr.erase = none ∧ ready.planIdle = true ∧ ready.sbd.busy = none := by
  decide +kernel
theorem test_debug_words : bits (0x80000001 : W32) 28 16 = 0 ∧ 1 ≤ bits (0x80000001 : W32) 15 0 ∧ bit (0x11580000 : W32) 23 = false ∧
    bits (0x11580000 : W32) 29 28 ≤ 2 ∧ 1 ≤ bits (0x11580000 : W32) 27 24 ∧ bits (0x11580000 : W32) 22 19 ≤ 11 ∧ bits (0x11580000 : W32) 18 0 = 0 ∧
    bits (0x00001000 : W32) 31 30 ≤ 2 ∧ 1 ≤ bits (0x00001000 : W32) 24 12 := by decide +kernel
theorem test_debug_watches : let x : DbgWatch := { reg := true, n := 64, queue := 0, outcome := .none, count := 0 }
    let s : State := { ready with dbg := { Dbg.reset with watches := Vector.replicate 8 (Vector.replicate 4 x) } }
    ((s.dbg.watches.get 0).get 0).reg = true ∧ ((s.dbg.watches.get 0).get 0).n.toNat ≤ 64 ∧ ((ready.dbg.watches.get 0).get 0).reg = false ∧
    1 ≤ ((ready.dbg.watches.get 0).get 0).n.toNat := by decide +kernel
theorem test_trace_is_armed : let x : TraceDie := { TraceDie.reset with en := true, state := .armed }
    let s : State := { ready with dbg := { Dbg.reset with traces := Vector.replicate 8 x } }
    (s.trace 0).en = true ∧ (s.trace 0).trigvalid = false ∧ (s.trace 0).state = .armed ∧ (s.trace 0).mode ≠ 2 := by decide +kernel
/-- A module in recovery. -/
def recovering : State := hosted { State.reset with sbd := { Sbd.reset with state := .recovery, step := 6 } }
theorem test_recovery : Linked recovering .a ∧ recovering.isDataHost .a = false ∧ recovering.sbd.state = .recovery ∧ recovering.evr.fallow = false :=
  ⟨⟨rfl, rfl, rfl, rfl, rfl⟩, rfl, rfl, rfl⟩
theorem test_flash_sources : ready.pwr.railsOn = true ∧ ready.rangeGuarded 0 0x10000 = true ∧ ready.rangeGuarded 0 0x1000 = true ∧
    ready.rangeGuarded 0xFFFFFFFFF000 0x1000 = false ∧ ready.rangeGuarded 0xFFFFFFFF0000 0x10000 = false ∧ Memory.wf ready.mem.cells = true := by
  decide +kernel

/-- A port with an EID, in a state of its SPDM connection. -/
def endpoint (n : Nat) : State := hosted ready fun p => { p with eid := 8, spdm := n }
theorem test_endpoint : ∀ n ∈ [1, 2, 3], (endpoint n).serves .a = true ∧ ((endpoint n).pci .a).eid ≠ 0 ∧ ((endpoint n).pci .a).spdm = n ∧
    (endpoint n).isControl .a = true ∧ (endpoint n).mayFuse .a = true := by decide +kernel
theorem test_key_slots : (ready.sbd.keys.get 0).fused = true ∧ (ready.sbd.keys.get 0).enabled = true ∧ (ready.sbd.keys.get 1).fused = false ∧
    (ready.sbd.keys.get 1).enabled = false ∧ ∀ j, j ≠ 0 → (ready.sbd.keys.get j).enabled = false := by decide +kernel
theorem test_two_keys : let k : KeySlot := { fused := true, enabled := true, digest := 0 }
    let s : State := { ready with sbd := { ready.sbd with keys := Vector.replicate 4 k } }
    (s.sbd.keys.get 0).enabled = true ∧ (s.sbd.keys.get 3).enabled = true := by decide +kernel
theorem test_another_role : let s := hosted { ready with sbd := { ready.sbd with ctlhost := .b } }
    s.isControl .a = false ∧ s.recwin = false ∧ s.mayFuse .a = false := by decide +kernel
theorem test_sideband : ready.pwr.railsOn = true ∧ 2 ≤ ready.sbd.step.toNat ∧ ready.pins.sbAddr = none ∧
    (pinned ready fun p => { p with sbAddr := some 0x20 }).pins.sbAddr = some 0x20 := by decide +kernel
theorem test_canonical_after_a_write : Claim.Canonical (running [(0, [0x11223344])] (stored [(0x40, [5])])) := by
  refine ⟨by decide +kernel, fun p => ?_, rfl, rfl⟩
  by_cases h : p = 0
  · subst h; decide +kernel
  · have e : (running [(0, [0x11223344])] (stored [(0x40, [5])])).plot p = .reset := by
      simp only [State.plot, running]
      rw [Vector.get_eq_getElem, Vector.getElem_set_ne _ _ (by intro h'; exact h (Fin.ext h'.symm))]
      simp [State.reset]
    rw [e]; rfl

end Sys2Proof.Tests
end

section
/-! Host ports: what a linked port does with each request of its host, register accesses of a port that serves,
tokens, BAR2, MSI-X, configuration space and links. -/

namespace Sys2Proof.Machine

open Sys2Proof.Claim

/-! ### Requests of a linked port (R404, R414) -/

/-- A linked port performs a request inside its BAR at once where memory does not hold it back. -/
theorem Linked.request_eq {s : State} {h : HostPort} (l : Linked s h) (q : HeldReq) (hin : q.inBar = true)
    (free : s.holds h q = false) : s.request h q = s.perform h q := by
  simp [State.request, l.up, l.d0, l.rails, l.idle, hin, free, State.drainPort]

theorem Linked.request_regWrite {s : State} {h : HostPort} (l : Linked s h) (off w : Nat) (v : BitVec 64) (hb : off + w ≤ 0x4000000) :
    s.request h (.regWrite off w v) = s.busWrite h off w v :=
  l.request_eq _ (by simpa [HeldReq.inBar] using hb) rfl

theorem Linked.request_regRead {s : State} {h : HostPort} (l : Linked s h) (off w : Nat) (hb : off + w ≤ 0x4000000) :
    s.request h (.regRead off w) = s.busRead h off w :=
  l.request_eq _ (by simpa [HeldReq.inBar] using hb) rfl

/-! ### Pairs that no access spoils (R14) -/

theorem Pci.spoilWord_of_noPairs (p : Pci) (o : Nat) (e : p.pairs = []) : p.spoilWord o = p := by
  cases p
  unfold Pci.spoilWord
  split
  · rfl
  · simp_all

/-- An access spoils nothing where no first word waits for its complement. -/
theorem State.spoil_of_noPairs (s : State) (h : HostPort) (off w : Nat) (e : (s.pci h).pairs = []) : s.spoil h off w = s :=
  State.modPci_self s h _ <|
    List.foldlRecOn (motive := fun p => p = s.pci h) _ _ rfl fun p hp i _ => by
      rw [hp]; exact Pci.spoilWord_of_noPairs _ _ e

/-! ### Register writes (R12-R15, R356, R407) -/

/-- The MSI-X tables stand in the PCI blocks (R418). -/
theorem msixWord_of_module {off : Nat} (m : pciOf off = none) : msixWord off = false := by simp [msixWord, m]

theorem Linked.busWrite_dataHost {s : State} {h : HostPort} (l : Linked s h) {off : Nat} (p : Plain off)
    (d : s.isDataHost h = true) (v : BitVec 64) : s.busWrite h off 4 v = s.dataHostWrite := by
  simp [State.busWrite, p.noToken, p.module, d, s.spoil_of_noPairs h off 4 l.pairs]

theorem Serves.busWrite_width {s : State} {h : HostPort} (sv : Serves s h) {off w : Nat} (p : Plain off) (hw : w ≠ 4)
    (v : BitVec 64) : s.busWrite h off w v = s.ruleBreak := by
  simp [State.busWrite, p.noToken, p.module, sv.notData, msixWord_of_module p.module, hw, s.spoil_of_noPairs h off w sv.pairs]

theorem Serves.mayWrite {s : State} {h : HostPort} (sv : Serves s h) {off : Nat} (m : pciOf off = none) :
    s.mayWrite h off = true := by
  simp [State.mayWrite, sv.live, sv.ready, m]

theorem Serves.busWrite_noPlace {s : State} {h : HostPort} (sv : Serves s h) {off : Nat} (p : Plain off)
    (e : placeAt off = none) (v : BitVec 64) : s.busWrite h off 4 v = s.ruleBreak := by
  simp [State.busWrite, p.noToken, p.aligned, State.writeWord, p.module, sv.notData, sv.mayWrite p.module, e]

theorem Serves.request_word {s : State} {h : HostPort} (sv : Serves s h) {off : Nat} (p : Plain off) (v : W32) :
    s.request h (.regWrite off 4 (v.zeroExtend 64)) = s.writeWord h off v :=
  (sv.request_regWrite off 4 _ p.inside).trans (s.busWrite_word h off v p.noToken p.aligned sv.notData)

theorem Serves.writeWord_readOnly {s : State} {h : HostPort} (sv : Serves s h) {off : Nat} {x : Place} (m : pciOf off = none)
    (e : placeAt off = some x) (ha : x.acc = .ro ∨ x.acc = .rc) (v : W32) : s.writeWord h off v = s := by
  rcases ha with ha | ha <;>
    simp [State.writeWord, m, sv.notData, sv.mayWrite m, e, ha, s.spoil_of_noPairs h off 4 sv.pairs]

theorem Serves.writeWord_atOnce {s : State} {h : HostPort} (sv : Serves s h) {off : Nat} {x : Place} (m : pciOf off = none)
    (e : placeAt off = some x) (ha : x.acc = .rw ∨ x.acc = .w1c) (v : W32) :
    s.writeWord h off v = (s.writeReg h x.reg v).getD s.ruleBreak := by
  rcases ha with ha | ha <;> simp [State.writeWord, m, sv.notData, sv.mayWrite m, e, ha]

/-! ### The two words of an RWP register (R13, R14) -/

/-- Port h holds the first word of a pair, and nothing else has changed. -/
def State.holding (s : State) (h : HostPort) (off : Nat) (v : W32) : State :=
  s.modPci h fun p => { p with pairs := [(off, v, false)] }

theorem State.holding_pci (s : State) (h : HostPort) (off : Nat) (v : W32) :
    (s.holding h off v).pci h = { s.pci h with pairs := [(off, v, false)] } := State.modPci_pci ..

theorem Serves.writeWord_first {s : State} {h : HostPort} (sv : Serves s h) {off : Nat} {x : Place} (m : pciOf off = none)
    (e : placeAt off = some x) (ha : x.acc = .rwp) (hc : x.compl = false) (v : W32) :
    s.writeWord h off v = s.holding h off v := by
  simp only [State.writeWord, m, sv.notData, sv.mayWrite m, e, ha, State.writePair, hc, sv.pairs]
  simp only [Option.isNone_none, Bool.and_false, Bool.false_eq_true, if_false, Bool.not_true, Bool.not_false, if_true,
    List.find?_nil, Option.map_none, Option.isSome_none, State.modPci_modPci, State.holding]
  refine State.modPci_congr _ _ _ _ ?_
  rw [Pci.spoilWord_of_noPairs _ _ (by simp [sv.pairs])]
  simp [sv.pairs]

theorem Pci.withoutPairs_self (p : Pci) (e : p.pairs = []) : { p with pairs := [] } = p := by rw [← e]

/-- Without the pair that waits, the port is as it was before the first word. -/
theorem State.holding_dropped (s : State) (h : HostPort) (off o : Nat) (v : W32) (e : (s.pci h).pairs = []) :
    (((s.holding h off v).modPci h fun p => { p with pairs := p.pairs.filter fun y => y.1 ≠ off }).modPci h
      fun p => p.spoilWord o) = s := by
  rw [State.holding, State.modPci_modPci, State.modPci_modPci]
  refine State.modPci_self _ _ _ ?_
  rw [Pci.spoilWord_of_noPairs _ _ (by simp)]
  simpa using Pci.withoutPairs_self (s.pci h) e

/-- The second word of a pair: with the complement of the first the register takes the write; any other value is a mismatched
pair. -/
theorem Serves.request_second {s : State} {h : HostPort} (sv : Serves s h) {off : Nat} {x : Place} (p : Plain (off + 4))
    (e : placeAt (off + 4) = some x) (ha : x.acc = .rwp) (hc : x.compl = true) (v w : W32) :
    (s.holding h off v).request h (.regWrite (off + 4) 4 (w.zeroExtend 64)) =
      if w = ~~~v then (s.writeReg h x.reg v).getD s.ruleBreak else s.pairMiss := by
  have port := s.holding_pci h off v
  have back := s.holding_dropped h off (off + 4) v sv.pairs
  have notData : (s.holding h off v).isDataHost h = false := by
    simpa [State.holding, State.isDataHost] using sv.notData
  have may : (s.holding h off v).mayWrite h (off + 4) = true := by
    simp [State.mayWrite, State.holding, sv.live, sv.ready, p.module]
  have rails : (s.holding h off v).pwr.railsOn = true := by simpa [State.holding] using sv.rails
  rw [State.request_regWrite _ h _ 4 _ (by rw [port]; exact sv.up) (by rw [port]; exact sv.d0) rails
    (by rw [port]; exact sv.idle) p.inside, State.busWrite_word _ h _ w p.noToken p.aligned notData]
  simp only [State.writeWord, p.module, notData, may, e, ha, State.writePair, hc, if_true, Nat.add_sub_cancel, back, port]
  simp

/-! ### Register reads (R12-R15, R407) -/

theorem State.busRead_word (s : State) (h : HostPort) {off : Nat} (hw : inTokenWindow off = false) (ha : off % 4 = 0) :
    s.busRead h off 4 = answered (s.readWord h off).2 h (bytesOfWord (s.readWord h off).1) := by
  simp [State.busRead, hw, ha, State.answer, answered]

theorem bytesOfWord_zero : bytesOfWord 0 = zeros 4 := rfl

theorem Serves.mayRead {s : State} {h : HostPort} (sv : Serves s h) (off : Nat) : s.mayRead off = true := by
  simp [State.mayRead, sv.ready]

theorem Serves.readWord_noPlace {s : State} {h : HostPort} (sv : Serves s h) {off : Nat} (e : placeAt off = none) :
    s.readWord h off = (0, s.ruleBreak) := by
  simp [State.readWord, s.spoil_of_noPairs h off 4 sv.pairs, sv.mayRead off, e]

/-- A read of a register that is readable and whose value is no timing: its value or its complement; an RC register outside the
PCI blocks is cleared. -/
theorem Serves.readWord_place {s : State} {h : HostPort} (sv : Serves s h) {off : Nat} {x : Place} (e : placeAt off = some x)
    (readable : s.readable x.reg = true) (timing : x.reg.timing = false) (counter : x.reg.counterPlot = none)
    (hc : x.acc = .rc → pciOf off = none) :
    s.readWord h off = (if x.compl = true then ~~~(s.regValue 0 x.reg) else s.regValue 0 x.reg,
      (if x.acc = .rc then s.clearReg x.reg else s).afterRead h x.reg) := by
  have clears : x.acc = .rc → s.clears h off = true := fun ha => by simp [State.clears, hc ha, sv.control]
  have taken : s.takeValue x.reg = (s.regValue 0 x.reg, s) := by simp [State.takeValue, counter, timing]
  by_cases ha : x.acc = .rc
  · simp [State.readWord, s.spoil_of_noPairs h off 4 sv.pairs, sv.mayRead off, e, readable, taken, ha, clears ha]
  · simp [State.readWord, s.spoil_of_noPairs h off 4 sv.pairs, sv.mayRead off, e, readable, taken, ha]

/-- Only the plot store's window and the Rake register's image are kept from the debugger while a plot works (R441). -/
theorem readable_of_steady {r : Reg} (st : Steady r) (s : State) : s.readable r = true := by
  obtain ⟨timing, -, data, -, -⟩ := st
  unfold State.readable
  split
  · exact absurd rfl (data _)
  · exact absurd timing (by simp [Reg.timing])
  · rfl

theorem afterRead_of_steady {r : Reg} (st : Steady r) (s : State) (h : HostPort) : s.afterRead h r = s := by
  obtain ⟨-, -, data, log, bar2⟩ := st
  unfold State.afterRead
  split
  · exact absurd rfl (log _)
  · exact absurd rfl (bar2 _)
  · exact absurd rfl (data _)
  · rfl

theorem placeAt_errlog (d : DieIx) : placeAt (stackWindow d + 0x10) = some { reg := .errlog d false, acc := .ro, compl := false } := by
  fin_cases d <;> decide

/-- The word ADDRLO of a die's MEM_ERRLOG is an aligned word of BAR0 outside the token window. -/
theorem errlog_offset (d : DieIx) : (stackWindow d + 0x10) % 4 = 0 ∧ stackWindow d + 0x10 + 4 ≤ 0x4000000 ∧
    inTokenWindow (stackWindow d + 0x10) = false := by
  fin_cases d <;> decide

theorem Serves.read_errlog {s : State} {h : HostPort} (sv : Serves s h) (d : DieIx) :
    s.request h (.regRead (stackWindow d + 0x10) 4) =
      answered (s.modDie d fun x => { x with errHeld := false }) h (bytesOfWord (w32 (s.die d).errAddr.toNat)) := by
  obtain ⟨aligned, inside, noToken⟩ := errlog_offset d
  rw [sv.request_regRead _ _ inside, s.busRead_word h noToken aligned,
    sv.readWord_place (placeAt_errlog d) rfl rfl rfl (fun ha => nomatch ha)]
  rfl

/-- The offset of the word ADDRLO of PCI_BAR2ERR in a port's PCI block (R409, R426). -/
def bar2errOffset : HostPort → Nat
  | .a => 0x90018
  | .b => 0xA0018

theorem placeAt_bar2err (k : HostPort) : placeAt (bar2errOffset k) = some { reg := .bar2err k false, acc := .ro, compl := false } := by
  cases k <;> decide

theorem bar2err_offset (k : HostPort) : bar2errOffset k % 4 = 0 ∧ bar2errOffset k + 4 ≤ 0x4000000 ∧
    inTokenWindow (bar2errOffset k) = false := by
  cases k <;> decide

theorem Serves.read_bar2err {s : State} {h : HostPort} (sv : Serves s h) (k : HostPort) :
    s.request h (.regRead (bar2errOffset k) 4) =
      answered (s.modPci k fun x => { x with errHeld := false }) h (bytesOfWord (w32 (s.pci k).errAddr.toNat)) := by
  obtain ⟨aligned, inside, noToken⟩ := bar2err_offset k
  rw [sv.request_regRead _ _ inside, s.busRead_word h noToken aligned,
    sv.readWord_place (placeAt_bar2err k) rfl rfl rfl (fun ha => nomatch ha)]
  rfl

/-! ### Token writes (R212, R416, R417) -/

/-- The token that port h's write of a payload to queue q is. -/
def hostToken (h : HostPort) (q : BitVec 15) (pay : W32) : TokenRec := mkToken (tokenKind h) 0 0 q pay 0 0

/-- The offset at which a port writes queue q lies in the token window and gives q back (R416). -/
theorem token_offset (q : BitVec 15) : inTokenWindow (0x800000 + 8 * q.toNat) = true ∧ (0x800000 + 8 * q.toNat) % 8 = 0 ∧
    (0x800000 + 8 * q.toNat - 0x800000) / 8 = q.toNat ∧ 0x800000 + 8 * q.toNat + 8 ≤ 0x4000000 := by
  have := q.isLt
  refine ⟨?_, by omega, by omega, by omega⟩
  simp only [inTokenWindow, Bool.and_eq_true, decide_eq_true_eq]
  omega

theorem Linked.request_token {s : State} {h : HostPort} (l : Linked s h) (q : BitVec 15) (v : BitVec 64) :
    s.request h (.regWrite (0x800000 + 8 * q.toNat) 8 v) = s.writeToken h (0x800000 + 8 * q.toNat) 8 v := by
  obtain ⟨window, -, -, inside⟩ := token_offset q
  rw [l.request_regWrite _ _ _ inside, State.busWrite, if_pos window]

/-- A token with its complement enters the module, behind the port's writes that are not acknowledged. -/
theorem State.writeToken_enters (s : State) (h : HostPort) (q : BitVec 15) (v : BitVec 64) (ready : s.sbd.state = .ready)
    (live : s.evr.fallow = false) (compl : w32 (v.toNat / 2 ^ 32) = ~~~(w32 v.toNat))
    (free : ¬(s.running = true ∧ q.toNat ∈ s.stepQueues)) :
    s.writeToken h (0x800000 + 8 * q.toNat) 8 v =
      if s.unacked h = 0 then { s with kuf := { s.kuf with transit := s.kuf.transit ++ [hostToken h q (w32 v.toNat)] } }
      else s.modPci h fun p => { p with tokens := p.tokens ++ [(s.unacked h, hostToken h q (w32 v.toNat))] } := by
  obtain ⟨-, aligned, queue, -⟩ := token_offset q
  have stepq : (s.running && decide (q.toNat ∈ s.stepQueues)) = false := by simpa using free
  simp only [State.writeToken, queue, BitVec.ofNat_toNat, BitVec.setWidth_eq, hostToken, aligned, compl, stepq, live, ready]
  simp

theorem State.writeToken_mismatch (s : State) (h : HostPort) (off : Nat) (v : BitVec 64)
    (ne : w32 (v.toNat / 2 ^ 32) ≠ ~~~(w32 v.toNat)) : s.writeToken h off 8 v = s.ruleBreak := by
  simp [State.writeToken, ne, -Nat.reducePow]

/-! ### BAR2 (R412, R414) -/

theorem State.modDie_unacked (s : State) (d : DieIx) (f : BaseDie → BaseDie) (k : HostPort) :
    (s.modDie d f).unacked k = s.unacked k := by cases k <;> rfl

/-- No stored block holds an error, and port k awaits n acknowledgements. -/
def Awaits (k : HostPort) (n : Nat) (s : State) : Prop := s.mem.bad = [] ∧ s.unacked k = n

theorem Awaits.cacheTouch {k : HostPort} {n : Nat} {s : State} (w : Awaits k n s) (h : HostPort) (a : Nat) (b : Bool) :
    Awaits k n (s.cacheTouch (.host h) a b) := by
  obtain ⟨bad, count⟩ := w
  refine ⟨(State.cacheTouch_clean s _ a b bad).1.bad, ?_⟩
  rw [← count]
  simp only [State.cacheTouch]
  repeat' split
  all_goals simp [State.modDie_unacked, State.writeBack_clean s _ _ bad]

theorem Awaits.put {k : HostPort} {n : Nat} {s : State} (w : Awaits k n s) (lo : Nat) (part : List Byte) :
    Awaits k n { s with mem := { s.mem with cells := cellsPut 0 s.mem.cells lo part } } :=
  ⟨w.1, by rw [← w.2]; cases k <;> rfl⟩

theorem Awaits.validate {k : HostPort} {n : Nat} {s : State} (w : Awaits k n s) (b : Nat) :
    Awaits k n { s with mem := { s.mem with bad := badSet s.mem.bad b 0 } } :=
  ⟨congrArg (badSet · b 0) w.1, by rw [← w.2]; cases k <;> rfl⟩

theorem Awaits.putBlock {k : HostPort} {n : Nat} {acc : Bool × State} (w : Awaits k n acc.2) (h : HostPort) (a : Nat) (v : List Byte)
    (b : Nat) : Awaits k n (putBlock (.host h) a v acc b).2 := by
  simp only [Sys2Proof.Machine.putBlock]
  split
  · exact ((w.cacheTouch h _ true).put _ _).validate b
  · simp only [State.checkBlocks_clean _ _ _ w.1]
    exact (w.cacheTouch h _ true).put _ _

/-- A write through a host port changes no count of acknowledgements by itself. -/
theorem Awaits.writeRange {k : HostPort} {n : Nat} {s : State} (w : Awaits k n s) (h : HostPort) (a : Nat) (v : List Byte) :
    Awaits k n (s.writeRange (.host h) a v).2 :=
  List.foldlRecOn (motive := fun acc : Bool × State => Awaits k n acc.2) _ _ w fun _ w' x _ =>
    List.foldlRecOn (motive := fun acc : Bool × State => Awaits k n acc.2) _ _ w' fun _ w'' b _ => w''.putBlock h x.1 _ b

theorem State.addUnacked_unacked (s : State) (h : HostPort) : (s.addUnacked h).unacked h = s.unacked h + 1 := by cases h <;> rfl
theorem State.addUnacked_cells (s : State) (h : HostPort) : (s.addUnacked h).mem.cells = s.mem.cells := by cases h <;> rfl

/-- A request that the port's window maps to memory that is ready lies in BAR2 and does not wait (R412, R414). -/
theorem holds_of_mapped {s : State} {h : HostPort} {off n a : Nat} (m : Mapped s h off n a) :
    (∀ data, data.length = n → (HeldReq.write off data).inBar = true ∧ s.holds h (.write off data) = false) ∧
      (HeldReq.read off n).inBar = true ∧ s.holds h (.read off n) = false := by
  refine ⟨fun data e => ?_, by simpa [HeldReq.inBar] using m.inBar, by simp [State.holds, m.map, m.free]⟩
  subst e
  exact ⟨by simpa [HeldReq.inBar] using m.inBar, by simp [State.holds, m.map, m.free]⟩

/-- A read that no plot makes changes no plot. -/
theorem State.homeRead_unit (s : State) (src : MemSrc) (a n : Nat) (h : src.unit) : (s.homeRead src a n).2.plots = s.plots := by
  have checked := State.checkBlocks_plots s src (blocksOf a n)
  have touched := (State.cacheTouch_unit (s.checkBlocks src (blocksOf a n)).2.2 src a false h).trans checked
  have read : (s.homeReadTo src a n).2.2.plots = s.plots := by
    simp only [State.homeReadTo]
    repeat' split
    all_goals first | exact checked | exact touched
  simp only [State.homeRead]
  split <;> exact read

theorem State.readRange_unit (s : State) (src : MemSrc) (a n : Nat) (h : src.unit) : (s.readRange src a n).2.plots = s.plots :=
  List.foldlRecOn (motive := fun acc : Except Nat (List Byte) × State => acc.2.plots = s.plots) _ _ rfl fun acc kept x _ => by
    have read := (acc.2.homeRead_unit src x.1 x.2 h).trans kept
    dsimp only
    split
    · exact kept
    · split <;> exact read

theorem Linked.bar2Write_mapped {s : State} {h : HostPort} (l : Linked s h) (ready : s.sbd.state = .ready) {off a : Nat}
    {data : List Byte} (m : Mapped s h off data.length a) :
    s.request h (.write off data) = (s.writeRange (.host h) a data).2.addUnacked h := by
  obtain ⟨inBar, free⟩ := (holds_of_mapped m).1 data rfl
  have may : s.mayStore a data.length = true := by simp [State.mayStore, m.live, ready, m.memory]
  rw [l.request_eq _ inBar free]
  simp [State.perform, State.memWrite, m.map, State.memStore, may]

theorem Linked.bar2Read_mapped {s : State} {h : HostPort} (l : Linked s h) (ready : s.sbd.state = .ready) {off n a : Nat}
    (m : Mapped s h off n a) : ∃ t, s.request h (.read off n) = answered t h (cellsGet 0 s.mem.cells a n) ∧ CleanAccess s t ∧
      t.mem.cells = s.mem.cells ∧ t.plots = s.plots := by
  obtain ⟨-, inBar, free⟩ := holds_of_mapped m
  have may : s.mayLoad a n = true := by simp [State.mayLoad, ready, m.memory]
  obtain ⟨t, e, clean, cells⟩ := State.readRange_clean s (.host h) a n m.clean
  have plots := State.readRange_unit s (.host h) a n trivial
  rw [e] at plots
  refine ⟨t, ?_, clean, cells, plots⟩
  rw [l.request_eq _ inBar free]
  simp [State.perform, State.memRead, m.map, may, e, State.answer, answered]

/-- A request outside the port's windows breaks a rule and waits for nothing. -/
theorem Linked.bar2_unmapped {s : State} {h : HostPort} (l : Linked s h) (off : Nat) (data : List Byte)
    (hb : off + data.length ≤ 2 ^ 37) (e : s.mapBar2 h off data.length = none) :
    s.request h (.write off data) = s.ruleBreak ∧
      s.request h (.read off data.length) = answered s.ruleBreak h (zeros data.length) := by
  constructor
  · rw [l.request_eq _ (by simpa [HeldReq.inBar] using hb) (by simp [State.holds, e])]
    simp [State.perform, State.memWrite, e]
  · rw [l.request_eq _ (by simpa [HeldReq.inBar] using hb) (by simp [State.holds, e])]
    simp [State.perform, State.memRead, e, State.answer, answered]

/-! ### MSI-X, configuration space and links (R402-R405, R418, R419) -/

/-- A message that the port may send now: it is due, the link is up in D0, and MSI-X is on (R418). -/
structure Sendable (s : State) (h : HostPort) (v : Fin 4) : Prop where
  live : s.evr.fallow = false
  up : (s.pci h).up = true
  d0 : (s.pci h).d3hot = false
  enabled : (s.pci h).msixEnable = true
  due : (s.pci h).due.getLsbD v.val = true

/-- The mask bit of a vector's table entry. -/
def Pci.vectorMasked (p : Pci) (v : Fin 4) : Bool := bit (p.msix.toList.getD (4 * v.val + 3) 0) 0

theorem Sendable.masked {s : State} {h : HostPort} {v : Fin 4} (m : Sendable s h v)
    (mask : (s.pci h).msixMask = true ∨ (s.pci h).vectorMasked v = true) : execMsixMessage h v s =
      .next (s.modPci h fun p => { p with due := p.due &&& ~~~(1#4 <<< v.val), pba := p.pba ||| 1#4 <<< v.val }) := by
  unfold Pci.vectorMasked at mask
  simp only [execMsixMessage, m.live, m.up, m.d0, m.enabled, m.due, Bool.not_true, Bool.or_self, Bool.false_and,
    Bool.false_eq_true, if_false]
  rw [if_pos (by simpa using mask)]

theorem Sendable.unmasked {s : State} {h : HostPort} {v : Fin 4} (m : Sendable s h v) (mask : (s.pci h).msixMask = false)
    (vector : (s.pci h).vectorMasked v = false) : execMsixMessage h v s = .next (s.modPci h fun p => { p with
      due := p.due &&& ~~~(1#4 <<< v.val)
      sent := some (BitVec.ofNat 64 (((s.pci h).msix.toList.getD (4 * v.val) 0).toNat +
        ((s.pci h).msix.toList.getD (4 * v.val + 1) 0).toNat * 2 ^ 32), (s.pci h).msix.toList.getD (4 * v.val + 2) 0) }) := by
  unfold Pci.vectorMasked at vector
  simp only [execMsixMessage, m.live, m.up, m.d0, m.enabled, m.due, mask, vector, Bool.not_true, Bool.or_self, Bool.false_and,
    Bool.false_eq_true, if_false, Nat.add_zero]

theorem State.modPci_rest (s : State) (h : HostPort) (f : Pci → Pci) : { s.modPci h f with pciA := s.pciA, pciB := s.pciB } = s := by
  cases h <;> rfl

theorem execConfigurationRequest_known {s : State} {h : HostPort} (up : (s.pci h).up = true) (rails : s.pwr.railsOn = true)
    {off : Nat} {w : W32} (e : s.configWord h off = some w) :
    execConfigurationRequest h (.read off) s = .next (answered s h (bytesOfWord w)) := by
  simp [execConfigurationRequest, up, rails, e, State.answer, answered]

/-- A word that the spec does not give reads a free value, which counts as used. -/
theorem execConfigurationRequest_free {s : State} {h : HostPort} (up : (s.pci h).up = true) (rails : s.pwr.railsOn = true)
    {off : Nat} (e : s.configWord h off = none) : execConfigurationRequest h (.read off) s =
      .next { answered s h (bytesOfNat 4 s.free.1) with freeCtr := s.freeCtr + 1 } := by
  simp only [execConfigurationRequest, up, rails, e, Bool.not_true, Bool.or_self, Bool.false_eq_true, if_false]
  cases h <;> rfl

theorem execConfigurationRequest_write {s : State} {h : HostPort} (up : (s.pci h).up = true) (rails : s.pwr.railsOn = true) (off : Nat)
    (v : W32) : execConfigurationRequest h (.write off v) s = .next (s.modPci h fun p => p.configWrite off v) := by
  simp [execConfigurationRequest, up, rails]

end Sys2Proof.Machine
end

section
/-! The accesses of a port as whole commands, and the statement about the host ports (O53), assembled from the
lemmas about requests, reads and writes. -/

namespace Sys2Proof.Machine

open Sys2Proof.Claim

theorem Serves.read_noPlace {s : State} {h : HostPort} (sv : Serves s h) {off : Nat} (p : Plain off) (e : placeAt off = none) :
    s.request h (.regRead off 4) = answered s.ruleBreak h (zeros 4) := by
  rw [sv.request_regRead off 4 p.inside, s.busRead_word h p.noToken p.aligned, sv.readWord_noPlace e,
    bytesOfWord_zero]

theorem Serves.read_steady {s : State} {h : HostPort} (sv : Serves s h) {off : Nat} {x : Place} (p : Plain off)
    (e : placeAt off = some x) (st : Steady x.reg) :
    s.request h (.regRead off 4) = answered (if x.acc = .rc then s.clearReg x.reg else s) h
      (bytesOfWord (if x.compl = true then ~~~(s.regValue 0 x.reg) else s.regValue 0 x.reg)) := by
  rw [sv.request_regRead off 4 p.inside, s.busRead_word h p.noToken p.aligned,
    sv.readWord_place e (readable_of_steady st s) st.timing st.counter (fun _ => p.module), afterRead_of_steady st]

/-- A BAR2 write leaves its bytes in memory and one acknowledgement more to come; nothing else but caches has changed. -/
theorem Linked.bar2Write_holds {s : State} {h : HostPort} (l : Linked s h) (ready : s.sbd.state = .ready) {off a : Nat}
    {data : List Byte} (m : Mapped s h off data.length a) : ∃ t, exec (.bar2Write h off data) s = .next t ∧
      Holds s t a data.length (fun i => data.getD i 0) ∧ t.unacked h = s.unacked h + 1 ∧ t.plots = s.plots ∧ t.evr = s.evr ∧
      t.kuf = s.kuf ∧ t.job = s.job ∧ t.sync = s.sync ∧ t.pci h = s.pci h := by
  obtain ⟨u, e, clean, wrote⟩ := State.writeRange_clean s (.host h) a data m.clean m.form
  have plots := State.writeRange_unit s (.host h) a data trivial
  obtain ⟨-, acks⟩ : Awaits h (s.unacked h) (s.writeRange (.host h) a data).2 := Awaits.writeRange ⟨m.clean, rfl⟩ h a data
  rw [e] at plots acks
  have written := l.bar2Write_mapped ready m
  rw [e] at written
  obtain ⟨-, sync, -, job, -, -, kuf, -, -, pciA, pciB, -⟩ := (State.core_eq _ _).1 clean.core
  have cells := u.addUnacked_cells h
  refine ⟨u.addUnacked h, congrArg Host.Outcome.next written, ⟨?_, ?_⟩, ?_, ?_⟩
  · rw [cells]; exact wrote.inside
  · rw [cells]; exact wrote.outside
  · rw [u.addUnacked_unacked, acks]
  · cases h
    · exact ⟨plots, clean.evr, kuf, job, sync, pciA⟩
    · exact ⟨plots, clean.evr, kuf, job, sync, pciB⟩

/-- A BAR2 read answers with memory's bytes; nothing else but caches has changed. -/
theorem Linked.bar2Read_answers {s : State} {h : HostPort} (l : Linked s h) (ready : s.sbd.state = .ready) {off n a : Nat}
    (m : Mapped s h off n a) : ∃ t, exec (.bar2Read h off n) s = .next t ∧ t.mem.cells = s.mem.cells ∧
      (t.pci h).reply = some { data := cellsGet 0 s.mem.cells a n, ur := false, ep := false } ∧ t.plots = s.plots ∧
      t.evr = s.evr ∧ t.kuf = s.kuf ∧ t.job = s.job ∧ t.sync = s.sync := by
  obtain ⟨u, e, clean, cells, plots⟩ := l.bar2Read_mapped ready m
  obtain ⟨-, sync, -, job, -, -, kuf, -⟩ := (State.core_eq _ _).1 clean.core
  refine ⟨answered u h (cellsGet 0 s.mem.cells a n), congrArg Host.Outcome.next e, ?_, ?_⟩
  · simpa [answered] using cells
  · simp [answered, plots, clean.evr, kuf, job, sync]

/-- A link that trains ends with a rate and a width of R402. -/
theorem execLinkUp_trains {s : State} {h : HostPort} {speed width : BitVec 4} (flit : Bool) (low : 1 ≤ speed.toNat)
    (high : speed.toNat ≤ 6) (lanes : width = 1 ∨ width = 2 ∨ width = 4 ∨ width = 8) (perst : s.pins.perstHigh h = true)
    (rails : s.pwr.railsOn = true) (step : 3 ≤ s.sbd.step.toNat) (down : (s.pci h).up = false) :
    execLinkUp h speed width flit s =
      .next (s.modPci h fun p => { p with speed := speed, width := width, flit := flit || speed = 6 }) := by
  have known : width ∈ [1#4, 2#4, 4#4, 8#4] := by simpa using lanes
  have started : ¬ s.sbd.step.toNat < 3 := by omega
  simp [execLinkUp, low, high, known, perst, rails, started, down]

end Sys2Proof.Machine

namespace Sys2Proof.HostPorts

open Sys2Proof.Machine Sys2Proof.Claim

/-- Settles O53: a linked port performs each request at once, so that every access is the one read or write of its register, token
window or BAR2 window. -/
theorem portsServeTheirHosts : Obligations.PortsServeTheirHosts := by
  unfold Obligations.PortsServeTheirHosts
  refine ⟨fun s h off p => ⟨?dataHost, fun sv => ⟨?width, ?noPlace, fun x e => ⟨fun v => ⟨?readOnly, ?atOnce, ?pair⟩, ?read⟩⟩⟩,
    fun s h => ⟨?token, ?bar2, ?heldErrors, ?msix, ?config, ?linkUp, rfl⟩⟩
  case dataHost =>
    exact fun l d v => congrArg Host.Outcome.next ((l.request_regWrite off 4 v p.inside).trans (l.busWrite_dataHost p d v))
  case width =>
    exact fun w v hw hb => congrArg Host.Outcome.next ((sv.request_regWrite off w v hb).trans (sv.busWrite_width p hw v))
  case noPlace =>
    exact fun e => ⟨fun v => congrArg Host.Outcome.next ((sv.request_regWrite off 4 v p.inside).trans (sv.busWrite_noPlace p e v)),
      congrArg Host.Outcome.next (sv.read_noPlace p e)⟩
  case readOnly =>
    exact fun ha => congrArg Host.Outcome.next ((sv.request_word p v).trans (sv.writeWord_readOnly p.module e ha v))
  case atOnce =>
    exact fun ha => congrArg Host.Outcome.next ((sv.request_word p v).trans (sv.writeWord_atOnce p.module e ha v))
  case pair =>
    intro ha hc p' e'
    have second := sv.request_second p' e' ha rfl v
    refine ⟨s.holding h off v, ?_, rfl, ?_, fun w ne => ?_⟩
    · exact congrArg Host.Outcome.next ((sv.request_word p v).trans (sv.writeWord_first p.module e ha hc v))
    · exact congrArg Host.Outcome.next ((second (~~~v)).trans (if_pos rfl))
    · exact congrArg Host.Outcome.next ((second w).trans (if_neg ne))
  case read =>
    exact fun st => congrArg Host.Outcome.next (sv.read_steady p e st)
  case token =>
    intro l ready live q v
    refine ⟨fun compl free => ?_, fun ne => ?_⟩
    · have enters := (l.request_token q v).trans (s.writeToken_enters h q v ready live compl free)
      exact ⟨fun idle => congrArg Host.Outcome.next (enters.trans (if_pos idle)),
        fun waits => congrArg Host.Outcome.next (enters.trans (if_neg waits))⟩
    · exact congrArg Host.Outcome.next ((l.request_token q v).trans (s.writeToken_mismatch h _ v ne))
  case bar2 =>
    intro l ready
    refine ⟨fun off data a m => l.bar2Write_holds ready m, fun off n a m => l.bar2Read_answers ready m, fun off data hb e => ?_⟩
    obtain ⟨write, read⟩ := l.bar2_unmapped off data hb e
    exact ⟨congrArg Host.Outcome.next write, congrArg Host.Outcome.next read⟩
  case heldErrors =>
    exact fun sv => ⟨fun d => congrArg Host.Outcome.next (sv.read_errlog d),
      fun k => congrArg Host.Outcome.next (sv.read_bar2err k)⟩
  case msix =>
    intro v live up d0 enabled due
    have m : Sendable s h v := ⟨live, up, d0, enabled, due⟩
    refine ⟨m.masked, fun mask vector => ⟨_, m.unmasked mask vector, ?_, ?_, s.modPci_rest h _⟩⟩
    · rw [State.modPci_pci]
    · rw [State.modPci_pci]
  case config =>
    intro up rails
    have written := execConfigurationRequest_write up rails
    refine ⟨fun off w e => execConfigurationRequest_known up rails e,
      fun off e => ⟨_, execConfigurationRequest_free up rails e, bytesOfNat_length 4 _⟩, written 0x04, fun v on => ?_, fun v off => ?_⟩
    · exact (written 0x44 v).trans (congrArg Host.Outcome.next (State.modPci_congr _ _ _ _ (if_pos on)))
    · have ne : ¬ bits v 1 0 = 3 := by omega
      exact (written 0x44 v).trans (congrArg Host.Outcome.next (State.modPci_congr _ _ _ _ ((if_neg ne).trans (if_pos off))))
  case linkUp =>
    exact fun speed width flit low high lanes perst rails step down => execLinkUp_trains flit low high lanes perst rails step down

end Sys2Proof.HostPorts
end

section
/-! K groups of an outer-product pass: what a group does to each bank, and what committing it leaves unchanged (R57, R69,
R74, R75). -/

namespace Sys2Proof.Machine

/-! ### Banks (R69) -/

/-- A bank reads what was put into it, and every other bank what it held. -/
theorem Plot.bank_setBank (q : Plot) (a n : Nat) (b e : Fin 2) (t : Tile) (h : n < 4) :
    (q.setBank a b t).bank n e = if n = a ∧ e = b then t else q.bank n e := by
  have inside : 2 * n + e.val < 8 := by omega
  have sameBank : 2 * n + e.val = 2 * a + b.val ↔ n = a ∧ e = b := by omega
  simp [Plot.bank, Plot.setBank, inside, sameBank]

theorem HarDesc.enabled_nodup (d : HarDesc) : d.enabled.Nodup := List.nodup_range.filter _

theorem HarDesc.lt_four_of_mem_enabled {d : HarDesc} {n : Nat} (h : n ∈ d.enabled) : n < 4 :=
  List.mem_range.1 (List.mem_filter.1 h).1

/-! ### A K group as a change of the plot (R57, R74) -/

/-- Array a's part of a K group, with operands read from `m`: its bank takes the group's products and the plot its flags. -/
def HarDesc.groupOn (d : HarDesc) (c : Ctl) (m : List Host.Cell) (g : Nat) (q : Plot) (a : Nat) : Plot :=
  let r := d.groupTile c m (q.bank a d.bank) a g
  { q.setBank a d.bank r.1 with fpflags := q.fpflags ||| r.2 }

/-- The parts of a K group on a list of arrays, one after another. -/
def HarDesc.groupOver (d : HarDesc) (c : Ctl) (m : List Host.Cell) (g : Nat) (l : List Nat) (q : Plot) : Plot :=
  l.foldl (d.groupOn c m g) q

section
variable (d : HarDesc) (c : Ctl) (m : List Host.Cell) (g : Nat)

theorem HarDesc.groupOn_bank (q : Plot) (a n : Nat) (b : Fin 2) (h : n < 4) :
    (d.groupOn c m g q a).bank n b =
      if n = a ∧ b = d.bank then (d.groupTile c m (q.bank a d.bank) a g).1 else q.bank n b :=
  q.bank_setBank a n d.bank b _ h

/-- A K group changes banks and sticky flags only. -/
theorem HarDesc.groupOver_rest (l : List Nat) (q : Plot) :
    d.groupOver c m g l q =
      { q with banks := (d.groupOver c m g l q).banks, fpflags := (d.groupOver c m g l q).fpflags } := by
  induction l generalizing q with
  | nil => rfl
  | cons a l ih => exact ih (d.groupOn c m g q a)

/-- The banks of arrays that the group does not run on, and the other bank of each array, stay. -/
theorem HarDesc.groupOver_bank_spared {l : List Nat} {n : Nat} {b : Fin 2} (q : Plot) (h : n < 4) (out : n ∉ l ∨ b ≠ d.bank) :
    (d.groupOver c m g l q).bank n b = q.bank n b := by
  induction l generalizing q with
  | nil => rfl
  | cons a l ih =>
    have away : ¬ (n = a ∧ b = d.bank) := by grind
    have rest : n ∉ l ∨ b ≠ d.bank := by grind
    exact (ih (d.groupOn c m g q a) rest).trans <| (d.groupOn_bank c m g q a n b h).trans (if_neg away)

/-- The bank of an array that the group runs on takes the products once, whatever arrays came before it. -/
theorem HarDesc.groupOver_bank_taken {l : List Nat} {n : Nat} (q : Plot) (h : n < 4) (once : l.Nodup) (mem : n ∈ l) :
    (d.groupOver c m g l q).bank n d.bank = (d.groupTile c m (q.bank n d.bank) n g).1 := by
  induction l generalizing q with
  | nil => cases mem
  | cons a l ih =>
    obtain ⟨new, once⟩ := List.nodup_cons.1 once
    have first := d.groupOn_bank c m g q a n d.bank h
    obtain rfl | later := List.mem_cons.1 mem
    · rw [if_pos ⟨rfl, rfl⟩] at first
      exact (d.groupOver_bank_spared c m g _ h (.inl new)).trans first
    · have ne : n ≠ a := fun e => new (e ▸ later)
      rw [if_neg fun e => ne e.1] at first
      rw [← first]
      exact ih _ once later

end

/-! ### The group in the state -/

theorem State.modPlot_self (s : State) (p : PlotIx) : s.modPlot p (fun q => q) = s := by
  cases s; simp [State.modPlot, State.setPlot, State.plot, Vector.get_eq_getElem]

theorem State.modPlot_modPlot (s : State) (p : PlotIx) (f g : Plot → Plot) :
    (s.modPlot p f).modPlot p g = s.modPlot p fun q => g (f q) := by
  have read : (s.modPlot p f).plot p = f (s.plot p) := s.modPlot_plot p f
  have write : ∀ x y : Plot, (s.setPlot p x).setPlot p y = s.setPlot p y := fun x y =>
    congrArg (fun v => { s with plots := v }) (Vector.set_set _ p.isLt)
  exact (write _ _).trans (congrArg (fun x => s.setPlot p (g x)) read)

/-- A change of a plot counts only by what it makes of the plot as it stands. -/
theorem State.modPlot_congr (s : State) (p : PlotIx) {f g : Plot → Plot} (h : f (s.plot p) = g (s.plot p)) :
    s.modPlot p f = s.modPlot p g := congrArg (s.setPlot p) h

/-- Changes of one plot, one for each item of a list, are one change of it. -/
theorem State.forEach_modPlot {α : Type} (s : State) (p : PlotIx) (l : List α) (f : Plot → α → Plot) :
    (s.forEach l fun s x => s.modPlot p fun q => f q x) = s.modPlot p fun q => l.foldl f q := by
  induction l generalizing s with
  | nil => exact (s.modPlot_self p).symm
  | cons x l ih => exact (ih _).trans (s.modPlot_modPlot p _ _)

theorem State.runGroup_outer (s : State) (p : PlotIx) {d : HarDesc} (c : Ctl) (g : Nat) (outer : d.dkind = 1) :
    s.runGroup p d c g = s.modPlot p (d.groupOver c (s.plot p).store g d.enabled) := by
  have part : ∀ (u : State) (a : Nat), (u.modPlot p fun q => q.setBank a d.bank
        (d.groupTile c (s.plot p).store ((u.plot p).bank a d.bank) a g).1).setFlags p
        (d.groupTile c (s.plot p).store ((u.plot p).bank a d.bank) a g).2 =
      u.modPlot p fun q => d.groupOn c (s.plot p).store g q a :=
    fun u a => (u.modPlot_modPlot ..).trans (u.modPlot_congr p rfl)
  simp only [State.runGroup, outer, part]
  exact s.forEach_modPlot p _ _

theorem State.initPass_of_later (s : State) (p : PlotIx) {a : ActivePass} (c : Ctl) (later : a.start < a.next) :
    s.initPass p a c = s := by
  have ne : a.next ≠ a.start := by omega
  simp [State.initPass, ne]

/-! ### What stays elsewhere -/

/-- Of the parts that a group commit could reach, only plot p and the energy events may have changed. -/
structure OnlyPlot (s t : State) (p : PlotIx) : Prop where
  others : ∀ q, q ≠ p → t.plot q = s.plot q
  mem : t.mem = s.mem
  sync : t.sync = s.sync
  kuf : t.kuf = s.kuf
  evr : t.evr = s.evr
  job : t.job = s.job

theorem State.onlyPlot_refl (s : State) (p : PlotIx) : OnlyPlot s s p := ⟨fun _ _ => rfl, rfl, rfl, rfl, rfl, rfl⟩

theorem OnlyPlot.trans {s t u : State} {p : PlotIx} (h : OnlyPlot s t p) (g : OnlyPlot t u p) : OnlyPlot s u p :=
  ⟨fun q ne => (g.others q ne).trans (h.others q ne), g.mem.trans h.mem, g.sync.trans h.sync, g.kuf.trans h.kuf,
    g.evr.trans h.evr, g.job.trans h.job⟩

theorem State.modPlot_onlyPlot (s : State) (p : PlotIx) (f : Plot → Plot) : OnlyPlot s (s.modPlot p f) p :=
  ⟨fun _ ne => s.modPlot_plot_ne p _ f ne.symm, rfl, rfl, rfl, rfl, rfl⟩

theorem State.energy_onlyPlot (s : State) (p : PlotIx) (pos : Pos) (kind n : Nat) : OnlyPlot s (s.energy p pos kind n) p :=
  ⟨fun _ _ => rfl, rfl, rfl, rfl, rfl, rfl⟩

theorem State.count_onlyPlot (s : State) (p : PlotIx) (pos : Pos) (ev n : Nat) : OnlyPlot s (s.count p pos ev n) p := by
  unfold State.count State.countCh
  split
  · exact s.modPlot_onlyPlot p _
  · exact s.onlyPlot_refl p

/-- Counting a group's steps changes counters and energy events only (R342, R428). -/
theorem State.countSteps_onlyPlot (s : State) (p : PlotIx) (a : ActivePass) (strict : Bool) :
    OnlyPlot s (s.countSteps p a strict) p := by
  unfold State.countSteps
  dsimp only
  split
  · exact (((s.count_onlyPlot ..).trans (State.energy_onlyPlot ..)).trans (State.energy_onlyPlot ..)).trans
      (State.energy_onlyPlot ..)
  · exact ((s.count_onlyPlot ..).trans (State.energy_onlyPlot ..)).trans (State.energy_onlyPlot ..)

theorem State.countSteps_plotsKept (s : State) (p : PlotIx) (a : ActivePass) (strict : Bool) :
    PlotsKept s (s.countSteps p a strict) := by
  have steps : (s.countSteps p a strict).plots =
      (s.count p a.pos 0x01 ((a.desc.steps a.next).length * a.desc.enabled.length)).plots := by
    unfold State.countSteps; dsimp only; split <;> rfl
  exact State.plotsKept_trans (s.countCh_plotsKept ..) (State.plotsKept_of_eq steps)

/-! ### The head of the arrays (R74, R75) -/

theorem State.setHeadPass_plot (s : State) (p : PlotIx) (a : ActivePass) :
    (s.setHeadPass p a).plot p = { s.plot p with passes := a :: (s.plot p).passes.tail } := s.modPlot_plot p _

/-- What an outer-product pass leaves of its plot when its last group has committed: its tile is kept, written out, or both. -/
theorem State.endPass_plot (s : State) (p : PlotIx) {a : ActivePass} (outer : a.desc.dkind = 1) :
    (s.endPass p a).plot p =
      { s.plot p with
        passes := (s.plot p).passes.tail
        numctl := ((s.endPass p a).plot p).numctl
        kept := if a.desc.accout = 0 then (s.plot p).kept &&& ~~~a.desc.bankMask else (s.plot p).kept ||| a.desc.bankMask
        writeouts := if a.desc.accout = 1 then (s.plot p).writeouts
          else (s.plot p).writeouts ++
            [{ bank := a.desc.bank, arrays := a.desc.arrays, dst := a.desc.accdst, isRef := a.isRef }] } := by
  simp [State.endPass, State.dropHeadPass, State.showNumctl, outer]

theorem State.endPass_onlyPlot (s : State) (p : PlotIx) (a : ActivePass) : OnlyPlot s (s.endPass p a) p := by
  have dropped : OnlyPlot s (s.dropHeadPass p) p := by
    unfold State.dropHeadPass State.showNumctl
    exact (s.modPlot_onlyPlot p _).trans (State.modPlot_onlyPlot ..)
  unfold State.endPass
  dsimp only
  split
  · exact dropped
  · exact dropped.trans (State.modPlot_onlyPlot ..)

end Sys2Proof.Machine
end

section
/-! GROUP_COMMIT of a later group of an outer-product pass, and the statement about it (O15), assembled from the lemmas
about its group, its counts and the head of the arrays. -/

namespace Sys2Proof.Machine

/-- The oldest pass of the plot may commit a group after its first one: an outer-product pass in a clocked strip, with no
group to take again. -/
structure Commits (s : State) (p : PlotIx) (a : ActivePass) (c : Ctl) : Prop where
  head : (s.plot p).passes.head? = some a
  ctl : unitCtl a.desc.numctl = some c
  clocked : s.clocked p = true
  outer : a.desc.dkind = 1
  sound : a.redo ≠ some a.next
  left : a.next < a.desc.groups
  later : a.start < a.next

/-- The state in which the pass's next group has been taken and counted. -/
def State.grouped (s : State) (p : PlotIx) (a : ActivePass) (c : Ctl) : State :=
  (s.modPlot p (a.desc.groupOver c (s.plot p).store a.next a.desc.enabled)).countSteps p a c.strict

theorem Commits.execGroupCommit_grouped {s : State} {p : PlotIx} {a : ActivePass} {c : Ctl} (h : Commits s p a c) :
    execGroupCommit p s = .next (if a.next + 1 < a.desc.groups then (s.grouped p a c).setHeadPass p { a with next := a.next + 1 }
      else (s.grouped p a c).endPass p { a with next := a.next + 1 }) := by
  have taken : (s.initPass p a c).runGroup p a.desc c a.next =
      s.modPlot p (a.desc.groupOver c (s.plot p).store a.next a.desc.enabled) := by
    rw [s.initPass_of_later p c h.later, s.runGroup_outer p c a.next h.outer]
  have unfinished : ¬ a.desc.groups ≤ a.next := by have := h.left; omega
  simp [execGroupCommit, State.headPass, h.head, h.ctl, h.clocked, h.outer, h.sound, unfinished, taken, State.grouped]

theorem State.grouped_onlyPlot (s : State) (p : PlotIx) (a : ActivePass) (c : Ctl) : OnlyPlot s (s.grouped p a c) p :=
  (s.modPlot_onlyPlot p _).trans (State.countSteps_onlyPlot ..)

/-- A group changes banks, sticky flags and counters of its plot only. -/
theorem State.grouped_plot (s : State) (p : PlotIx) (a : ActivePass) (c : Ctl) :
    (s.grouped p a c).plot p =
      { s.plot p with
        banks := (a.desc.groupOver c (s.plot p).store a.next a.desc.enabled (s.plot p)).banks
        fpflags := (a.desc.groupOver c (s.plot p).store a.next a.desc.enabled (s.plot p)).fpflags
        counters := ((s.grouped p a c).plot p).counters } := by
  have counted := (State.countSteps_plotsKept
    (s.modPlot p (a.desc.groupOver c (s.plot p).store a.next a.desc.enabled)) p a c.strict).plot p
  rw [State.modPlot_plot, HarDesc.groupOver_rest] at counted
  exact counted

/-- In `t` the banks of the enabled arrays hold the pass's next group too; the other banks, the plot store and the plot's
sequencer are as in `s`. -/
structure TookGroup (s t : State) (p : PlotIx) (a : ActivePass) (c : Ctl) : Prop where
  taken : ∀ n ∈ a.desc.enabled, (t.plot p).bank n a.desc.bank =
    (a.desc.groupTile c (s.plot p).store ((s.plot p).bank n a.desc.bank) n a.next).1
  spared : ∀ n b, n < 4 → (n ∉ a.desc.enabled ∨ b ≠ a.desc.bank) → (t.plot p).bank n b = (s.plot p).bank n b
  store : (t.plot p).store = (s.plot p).store
  seq : (t.plot p).seq = (s.plot p).seq
  elsewhere : OnlyPlot s t p

theorem Plot.bank_congr {q x : Plot} (h : x.banks = q.banks) (n : Nat) (b : Fin 2) : x.bank n b = q.bank n b :=
  congrArg (fun v : Vector Tile 8 => v.toList.getD (2 * n + b.val) (Vector.replicate 1024 0)) h

theorem State.grouped_tookGroup (s : State) (p : PlotIx) (a : ActivePass) (c : Ctl) : TookGroup s (s.grouped p a c) p a c := by
  have plot := s.grouped_plot p a c
  have bank := Plot.bank_congr (congrArg Plot.banks plot)
  refine ⟨fun n mem => (bank n _).trans ?_, fun n b lt out => (bank n b).trans ?_, by rw [plot], by rw [plot],
    s.grouped_onlyPlot p a c⟩
  · exact a.desc.groupOver_bank_taken c _ _ _ (HarDesc.lt_four_of_mem_enabled mem) a.desc.enabled_nodup mem
  · exact a.desc.groupOver_bank_spared c _ _ _ lt out

/-- What then changes neither banks, plot store nor sequencer leaves the group taken. -/
theorem TookGroup.trans {s t u : State} {p : PlotIx} {a : ActivePass} {c : Ctl} (h : TookGroup s t p a c)
    (o : OnlyPlot t u p) (banks : (u.plot p).banks = (t.plot p).banks) (store : (u.plot p).store = (t.plot p).store)
    (seq : (u.plot p).seq = (t.plot p).seq) : TookGroup s u p a c :=
  ⟨fun n mem => (Plot.bank_congr banks n _).trans (h.taken n mem),
    fun n b lt out => (Plot.bank_congr banks n b).trans (h.spared n b lt out), store.trans h.store, seq.trans h.seq,
    h.elsewhere.trans o⟩

/-- A group that is not the pass's last one leaves the pass at the head, at its next group. -/
theorem Commits.execGroupCommit_goesOn {s : State} {p : PlotIx} {a : ActivePass} {c : Ctl} (h : Commits s p a c)
    (more : a.next + 1 < a.desc.groups) : ∃ t, execGroupCommit p s = .next t ∧ TookGroup s t p a c ∧
      (t.plot p).passes = { a with next := a.next + 1 } :: (s.plot p).passes.tail ∧
      (t.plot p).writeouts = (s.plot p).writeouts ∧ (t.plot p).kept = (s.plot p).kept := by
  have plot := (s.grouped p a c).setHeadPass_plot p { a with next := a.next + 1 }
  have before := s.grouped_plot p a c
  exact ⟨_, h.execGroupCommit_grouped.trans (congrArg Host.Outcome.next (if_pos more)),
    (s.grouped_tookGroup p a c).trans (State.modPlot_onlyPlot ..) (by rw [plot]) (by rw [plot]) (by rw [plot]),
    by rw [plot, before], by rw [plot, before], by rw [plot, before]⟩

/-- With its last group the pass leaves the rows, and its tile is kept, written out, or both (R75). -/
theorem Commits.execGroupCommit_ends {s : State} {p : PlotIx} {a : ActivePass} {c : Ctl} (h : Commits s p a c)
    (last : a.next + 1 = a.desc.groups) : ∃ t, execGroupCommit p s = .next t ∧ TookGroup s t p a c ∧
      (t.plot p).passes = (s.plot p).passes.tail ∧
      (t.plot p).kept = (if a.desc.accout = 0 then (s.plot p).kept &&& ~~~a.desc.bankMask
        else (s.plot p).kept ||| a.desc.bankMask) ∧
      (t.plot p).writeouts = (if a.desc.accout = 1 then (s.plot p).writeouts
        else (s.plot p).writeouts ++ [{ bank := a.desc.bank, arrays := a.desc.arrays, dst := a.desc.accdst,
                                        isRef := a.isRef }]) := by
  have plot := (s.grouped p a c).endPass_plot p (a := { a with next := a.next + 1 }) h.outer
  have before := s.grouped_plot p a c
  have noMore : ¬ a.next + 1 < a.desc.groups := by omega
  exact ⟨_, h.execGroupCommit_grouped.trans (congrArg Host.Outcome.next (if_neg noMore)),
    (s.grouped_tookGroup p a c).trans (State.endPass_onlyPlot ..) (by rw [plot]) (by rw [plot]) (by rw [plot]),
    by rw [plot, before], by rw [plot, before], by rw [plot, before]⟩

end Sys2Proof.Machine

namespace Sys2Proof.GroupCommit

open Sys2Proof.Machine

/-- Settles O15: a group is a fold over the enabled arrays, each of which puts its products into its own bank once; the pass
then goes on, or ends. -/
theorem groupCommitAccumulates : Obligations.GroupCommitAccumulates := by
  intro s p a r c passes ctl clocked outer sound left later
  have h : Commits s p a c := ⟨by rw [passes]; rfl, ctl, clocked, outer, sound, left, later⟩
  have tail : (s.plot p).passes.tail = r := by rw [passes]; rfl
  by_cases more : a.next + 1 < a.desc.groups
  · obtain ⟨t, run, took, head, writeouts, kept⟩ := h.execGroupCommit_goesOn more
    have o := took.elsewhere
    exact ⟨t, run, took.taken, took.spared, fun _ => ⟨tail ▸ head, writeouts, kept⟩, fun last => absurd last more.ne,
      took.store, took.seq, o.others, o.mem, o.sync, o.kuf, o.evr, o.job⟩
  · have last : a.next + 1 = a.desc.groups := by omega
    obtain ⟨t, run, took, head, kept, writeouts⟩ := h.execGroupCommit_ends last
    have o := took.elsewhere
    exact ⟨t, run, took.taken, took.spared, fun next => absurd next more, fun _ => ⟨head.trans tail, kept, writeouts⟩,
      took.store, took.seq, o.others, o.mem, o.sync, o.kuf, o.evr, o.job⟩

end Sys2Proof.GroupCommit
end

section
/-! What a plot's own steps leave alone: the changes of a plot, its counts and its trace records, and the sequencer's move to
the next command (R161, R428, R433). -/

namespace Sys2Proof.Machine

open Sys2Proof.Claim

/-! ### Steps of one plot -/

/-- Besides plot p only the trace units have changed, and device memory where one of them spills its ring (R436). -/
structure PlotAndTrace (s t : State) (p : PlotIx) : Prop where
  others : ∀ q, q ≠ p → t.plot q = s.plot q
  core : t.core = s.core
  evr : t.evr = s.evr
  mem : s.noSpill → t.mem = s.mem ∧ t.noSpill

theorem State.plotAndTrace_refl (s : State) (p : PlotIx) : PlotAndTrace s s p :=
  ⟨fun _ _ => rfl, rfl, rfl, fun h => ⟨rfl, h⟩⟩

theorem PlotAndTrace.trans {s t u : State} {p : PlotIx} (h : PlotAndTrace s t p) (g : PlotAndTrace t u p) :
    PlotAndTrace s u p := by
  refine ⟨fun q ne => (g.others q ne).trans (h.others q ne), g.core.trans h.core, g.evr.trans h.evr, fun silent => ?_⟩
  obtain ⟨mem, still⟩ := h.mem silent
  exact ⟨(g.mem still).1.trans mem, (g.mem still).2⟩

theorem PlotAndTrace.elsewhere {s t : State} {p : PlotIx} (h : PlotAndTrace s t p) : Elsewhere s t := by
  obtain ⟨pending, sync, smod, job, fb, rcv, kuf, pwr, sbd, pciA, pciB, pins⟩ := (State.core_eq _ _).1 h.core
  exact ⟨pending, sync, smod, job, fb, rcv, kuf, pwr, h.evr, sbd, pciA, pciB, pins, fun silent => (h.mem silent).1⟩

theorem State.modPlot_plotAndTrace (s : State) (p : PlotIx) (f : Plot → Plot) : PlotAndTrace s (s.modPlot p f) p :=
  ⟨fun _ ne => s.modPlot_plot_ne p _ f ne.symm, s.modPlot_core p f, rfl, fun h => ⟨rfl, h⟩⟩

theorem PlotAndTrace.modPlot {s t : State} {p : PlotIx} (h : PlotAndTrace s t p) (f : Plot → Plot) :
    PlotAndTrace s (t.modPlot p f) p := h.trans (t.modPlot_plotAndTrace p f)

theorem State.tracePlot_plotAndTrace (s : State) (p : PlotIx) (kind : BitVec 5) (pos : Pos) (d0 d1 : Nat) :
    PlotAndTrace s (s.tracePlot p kind pos d0 d1) p :=
  ⟨fun q _ => State.plot_of_plots (State.tracePlot_plots ..) q, State.tracePlot_core .., State.tracePlot_evr ..,
    State.tracePlot_noSpill s p kind pos d0 d1⟩

theorem State.count_plotAndTrace (s : State) (p : PlotIx) (pos : Pos) (ev n : Nat) : PlotAndTrace s (s.count p pos ev n) p := by
  unfold State.count State.countCh
  split
  · exact s.modPlot_plotAndTrace p _
  · exact s.plotAndTrace_refl p

/-- A count changes a plot's counters only. -/
theorem State.count_plot (s : State) (p : PlotIx) (pos : Pos) (ev n : Nat) :
    (s.count p pos ev n).plot p = { s.plot p with counters := ((s.count p pos ev n).plot p).counters } :=
  (s.countCh_plotsKept p pos none ev n).plot p

/-! ### The command at SEQPC is done (R161, R163) -/

theorem State.finish_plotAndTrace (s : State) (p : PlotIx) : PlotAndTrace s (s.finish p) p := by
  unfold State.finish State.finishAt State.seqAt State.modSeq
  exact ((s.tracePlot_plotAndTrace p _ _ _ _).modPlot _).modPlot _

theorem State.finish_plot (s : State) (p : PlotIx) :
    (s.finish p).plot p = { s.plot p with seq := ((s.finish p).plot p).seq } := s.finishAt_plot p _

/-- Where a command's work has left the sequencer as it was, moving on takes it behind the command. -/
theorem PlotAndTrace.finish_moved {s u : State} {p : PlotIx} (h : PlotAndTrace s u p) (seq : (u.plot p).seq = (s.plot p).seq) :
    Moved s (u.finish p) p (behind s p) := by
  obtain ⟨pc, ready, waiting, row, -, -⟩ := u.finishAt_seq p ((u.plot p).seq.pc.toNat + 16)
  exact ⟨pc.trans (by rw [seq, behind]), ready, waiting, row.trans (by rw [seq]), (h.trans (u.finish_plotAndTrace p)).others⟩

/-! ### Work that is issued (R78, R119, R297) -/

/-- A fetched command whose arguments are in range takes its effect behind its issue record. -/
theorem State.command_afterIssue {s s1 : State} {p : PlotIx} {opc : Nat} {c : Cmd} {ok : Cmd → State → Bool}
    (f : Cmd → Pos → State → State) (fetched : s.fetch p opc = .cmd c s1) (good : ok c s1 = true) :
    s.command p opc ok f = f c (c.pos (s1.plot p).seq.row) (afterIssue s1 p c) :=
  s.command_ok s1 p opc c ok f fetched good

/-- The state in which plot p's fetched command has issued its work and waits for it to begin. -/
def State.issued (s1 : State) (p : PlotIx) (c : Cmd) (b : SeqBusy) : State :=
  ((afterIssue s1 p c).unholdCommand p).modSeq p fun q => { q with busy := b }

theorem afterIssue_plotAndTrace (s1 : State) (p : PlotIx) (c : Cmd) : PlotAndTrace s1 (afterIssue s1 p c) p := by
  unfold afterIssue
  split
  · exact s1.plotAndTrace_refl p
  · exact s1.tracePlot_plotAndTrace ..

@[simp] theorem afterIssue_plot (s1 : State) (p : PlotIx) (c : Cmd) (q : PlotIx) : (afterIssue s1 p c).plot q = s1.plot q := by
  unfold afterIssue
  split
  · rfl
  · exact State.plot_of_plots (State.tracePlot_plots ..) q

@[simp] theorem afterIssue_psRead (s1 : State) (p : PlotIx) (c : Cmd) (q : PlotIx) (a n : Nat) :
    (afterIssue s1 p c).psRead q a n = s1.psRead q a n := by
  simp only [State.psRead, afterIssue_plot]

theorem State.issued_plotAndTrace (s1 : State) (p : PlotIx) (c : Cmd) (b : SeqBusy) : PlotAndTrace s1 (s1.issued p c b) p := by
  unfold State.issued State.unholdCommand State.setHeld State.modSeq
  exact (((afterIssue_plotAndTrace s1 p c).modPlot _).modPlot _).modPlot _

/-- Issued work changes the sequencer's command in progress and what is held. -/
theorem State.issued_plot (s1 : State) (p : PlotIx) (c : Cmd) (b : SeqBusy) :
    (s1.issued p c b).plot p =
      { s1.plot p with
        seq := { (s1.plot p).seq with busy := b, waiting := false }
        held := (s1.plot p).held.filter (· ≠ .fetch) } := by
  simp [State.issued, State.unholdCommand, State.setHeld]

theorem State.issued_stands (s1 : State) (p : PlotIx) (c : Cmd) (b : SeqBusy) : Stands s1 (s1.issued p c b) p :=
  ⟨by rw [s1.issued_plot], by rw [s1.issued_plot], (s1.issued_plotAndTrace p c b).others⟩

end Sys2Proof.Machine
end

section
/-! A pass or a stream is issued and begins: PASS, STREAM, PASS_ENTRY and STREAM_START, and the statements about them
(R72, R76, R78, R81, R82, R119, R123, R143). -/

namespace Sys2Proof.Machine

open Sys2Proof.Claim

/-! ### PASS and STREAM (R78, R81, R119, R123) -/

/-- The pass that a command issues with descriptor `d`. -/
def Cmd.newPass (c : Cmd) (row : Row) (d : HarDesc) : ActivePass :=
  { addr := c.arg1, desc := d, pos := c.pos row, start := 0, next := 0, redo := none, retried := none, isRef := false,
    resumed := false }

/-- The stream that a command issues with descriptor `d`. -/
def Cmd.newStream (c : Cmd) (row : Row) (d : DrlDesc) : ActiveStream :=
  { addr := c.arg1, desc := d, pos := c.pos row, epos := 0, sflags := 0, firstInv := 0xFFFFFFFF, started := false,
    retried := none, acc := 0 }

/-- A fetched command that names a descriptor of 64 bytes in the plot store, which no earlier work will still write. -/
structure Describes (s1 : State) (p : PlotIx) (c : Cmd) : Prop where
  inStore : c.arg1 < storeBytes
  arg2 : c.arg2 = 0
  arg3 : c.arg3 = 0
  readable : (s1.plot p).readHeld [extOf c.arg1 64] = false

theorem Describes.execPass_issues {s s1 : State} {p : PlotIx} {c : Cmd} (h : Describes s1 p c)
    (fetched : s.fetch p 0x01 = .cmd c s1)
    (sound : (HarDesc.ofBytes (s1.psRead p c.arg1 64)).refusal c.arg1 (s1.plot p).keptAhead = none) :
    execPass p s = .next (s1.issued p c (.passIssue
      (c.newPass (s1.plot p).seq.row (HarDesc.ofBytes (s1.psRead p c.arg1 64))))) := by
  rw [execPass, State.command_afterIssue _ fetched (by simp [h.inStore, h.arg2, h.arg3])]
  simp [h.readable, sound, State.issued, Cmd.newPass]

theorem Describes.execStream_issues {s s1 : State} {p : PlotIx} {c : Cmd} (h : Describes s1 p c)
    (fetched : s.fetch p 0x02 = .cmd c s1)
    (sound : (DrlDesc.ofBytes (s1.psRead p c.arg1 64)).refusal c.arg1 = none) :
    execStream p s = .next (s1.issued p c (.streamIssue
      (c.newStream (s1.plot p).seq.row (DrlDesc.ofBytes (s1.psRead p c.arg1 64))))) := by
  rw [execStream, State.command_afterIssue _ fetched (by simp [h.inStore, h.arg2, h.arg3])]
  simp [h.readable, sound, State.issued, Cmd.newStream]

/-! ### PASS_ENTRY (R72, R76, R82) -/

/-- The state in which pass a has taken its place behind the passes in the rows. -/
def State.entered (s : State) (p : PlotIx) (a : ActivePass) : State :=
  let s1 := (s.setHeld p .pass false).modPlot p fun q => { q with passes := q.passes ++ [a], harSpilled := false }
  if a.resumed then s1.showNumctl p else (s1.showNumctl p).count p a.pos 0x02 1

theorem State.entered_plotAndTrace (s : State) (p : PlotIx) (a : ActivePass) : PlotAndTrace s (s.entered p a) p := by
  unfold State.entered State.setHeld State.showNumctl
  dsimp only
  split
  · exact ((s.modPlot_plotAndTrace p _).modPlot _).modPlot _
  · exact (((s.modPlot_plotAndTrace p _).modPlot _).modPlot _).trans (State.count_plotAndTrace ..)

theorem State.entered_plot (s : State) (p : PlotIx) (a : ActivePass) :
    (s.entered p a).plot p =
      { s.plot p with
        passes := (s.plot p).passes ++ [a]
        harSpilled := false
        held := (s.plot p).held.filter (· ≠ .pass)
        numctl := ((s.entered p a).plot p).numctl
        counters := ((s.entered p a).plot p).counters } := by
  unfold State.entered
  dsimp only
  split
  · simp [State.showNumctl, State.setHeld]
  · rw [State.count_plot]
    simp [State.showNumctl, State.setHeld]

/-- An issued pass that nothing holds enters, and its command is done. -/
theorem State.tryEnter_enters {s : State} {p : PlotIx} {a : ActivePass} (busy : (s.plot p).seq.busy = .passIssue a)
    (clocked : s.clocked p = true) (bank : (s.plot p).bankBusy a.desc = false) (free : (s.plot p).passHeld a.desc = false) :
    s.tryEnter p = (s.entered p a).finish p := by
  have issued : ((s.entered p a).plot p).seq.busy = .passIssue a := by rw [s.entered_plot, busy]
  have enters : s.tryEnter p = s.enterPass p a := by simp [State.tryEnter, busy, SeqBusy.entering, clocked, bank, free]
  rw [enters]
  unfold State.entered at issued ⊢
  simp only [State.enterPass, issued]

/-! ### STREAM_START (R119, R143) -/

/-- The state in which stream a has begun. -/
def State.streaming (s : State) (p : PlotIx) (a : ActiveStream) : State :=
  ((s.setHeld p .stream false).modPlot p fun q =>
    { q with stream := some { a with started := true }, drlSpilled := false }).showNumctl p

theorem State.streaming_plotAndTrace (s : State) (p : PlotIx) (a : ActiveStream) : PlotAndTrace s (s.streaming p a) p := by
  unfold State.streaming State.setHeld State.showNumctl
  exact ((s.modPlot_plotAndTrace p _).modPlot _).modPlot _

theorem State.streaming_plot (s : State) (p : PlotIx) (a : ActiveStream) :
    (s.streaming p a).plot p =
      { s.plot p with
        stream := some { a with started := true }
        drlSpilled := false
        held := (s.plot p).held.filter (· ≠ .stream)
        numctl := ((s.streaming p a).plot p).numctl } := by
  simp [State.streaming, State.showNumctl, State.setHeld]

/-- An issued stream that nothing holds begins, and its command is done. -/
theorem State.tryStart_starts {s : State} {p : PlotIx} {a : ActiveStream} (busy : (s.plot p).seq.busy = .streamIssue a)
    (clocked : s.clocked p = true) (idle : (s.plot p).stream = none) (free : (s.plot p).streamHeld a.desc = false)
    (rake : (s.plot p).rakeLets a.desc = true) : s.tryStart p = (s.streaming p a).finish p := by
  simp [State.tryStart, State.streaming, busy, clocked, idle, free, rake]

end Sys2Proof.Machine

namespace Sys2Proof.HarrowArrays

open Sys2Proof.Machine Sys2Proof.Claim

/-- Settles O7: the issued work is the sequencer's command in progress, and only the issue record and the hold of the fetch
change besides. -/
theorem passAndStreamAreIssued : Obligations.PassAndStreamAreIssued := by
  intro s s1 p c inStore arg2 arg3 readable
  have h : Describes s1 p c := ⟨inStore, arg2, arg3, readable⟩
  have issues (b : SeqBusy) : ((s1.issued p c b).plot p).seq.busy = b ∧
      (s1.issued p c b).plot p =
        { s1.plot p with seq := ((s1.issued p c b).plot p).seq, held := ((s1.issued p c b).plot p).held } := by
    rw [s1.issued_plot]
    exact ⟨rfl, rfl⟩
  refine ⟨?pass, ?stream⟩
  case pass =>
    rintro fetched d rfl sound
    obtain ⟨busy, kept⟩ := issues _
    exact ⟨_, _, h.execPass_issues fetched sound, busy, rfl, rfl, rfl, rfl, s1.issued_stands ..,
      (s1.issued_plotAndTrace ..).elsewhere, kept⟩
  case stream =>
    rintro fetched d rfl sound
    obtain ⟨busy, kept⟩ := issues _
    exact ⟨_, _, h.execStream_issues fetched sound, busy, rfl, rfl, rfl, rfl, s1.issued_stands ..,
      (s1.issued_plotAndTrace ..).elsewhere, kept⟩

/-- Settles O14: entry puts the pass behind the others and moves the sequencer on; the release of a held pass is the same
entry. -/
theorem passEntersTheArrays : Obligations.PassEntersTheArrays := by
  intro s p a busy clocked bank free
  have entry : execPassEntry p s = .next ((s.entered p a).finish p) :=
    congrArg Host.Outcome.next (State.tryEnter_enters busy clocked bank free)
  have placed := s.entered_plot p a
  have after := (s.entered p a).finish_plot p
  have near := s.entered_plotAndTrace p a
  refine ⟨_, entry, near.finish_moved (by rw [placed]), (near.trans (State.finish_plotAndTrace ..)).elsewhere,
    by rw [after, placed], by rw [after, placed], ?_, by rw [after, placed], by rw [after, placed], by rw [after, placed],
    fun held => ?_⟩
  · rw [after, placed]
    simp
  · have released : execHeldAccessRelease p .pass s = execPassEntry p s := by simp [execHeldAccessRelease, held, clocked]
    exact released.trans entry

/-- Settles O20: the stream stands as the one that runs, and the sequencer moves on. -/
theorem streamStartsWhenNothingHoldsIt : Obligations.StreamStartsWhenNothingHoldsIt := by
  intro s p a busy clocked idle free rake
  have begun := s.streaming_plot p a
  have after := (s.streaming p a).finish_plot p
  have near := s.streaming_plotAndTrace p a
  refine ⟨_, congrArg Host.Outcome.next (State.tryStart_starts busy clocked idle free rake), near.finish_moved (by rw [begun]),
    (near.trans (State.finish_plotAndTrace ..)).elsewhere, by rw [after, begun], by rw [after, begun], ?_,
    by rw [after, begun], by rw [after, begun], by rw [after, begun]⟩
  rw [after, begun]
  simp

end Sys2Proof.HarrowArrays
end

section
/-! Tiles and reductions that reach the plot store, and the statement about them (R75, R77, R84). -/

namespace Sys2Proof.Machine

/-! ### Results in the plot store -/

/-- Byte strings that are put into a plot store one after another are one change of it. -/
theorem State.forEach_psWrite {α : Type} (s : State) (p : PlotIx) (l : List α) (addr : α → Nat) (bytes : α → List Byte) :
    (s.forEach l fun u x => u.psWrite p (addr x) (bytes x)) =
      s.modPlot p fun q => { q with store := l.foldl (fun m x => cellsPut 0 m (addr x) (bytes x)) q.store } := by
  induction l generalizing s with
  | nil => exact (s.modPlot_self p).symm
  | cons x l ih => exact (ih _).trans (s.modPlot_modPlot p _ _)

/-- Results with sticky flags that are put into a plot store one after another are one change of it. -/
theorem State.forEach_result {α : Type} (s : State) (p : PlotIx) (l : List α) (addr : α → Nat) (bytes : α → List Byte)
    (flags : α → Flags) :
    (s.forEach l fun u x => (u.psWrite p (addr x) (bytes x)).setFlags p (flags x)) =
      s.modPlot p fun q =>
        { q with store := l.foldl (fun m x => cellsPut 0 m (addr x) (bytes x)) q.store
                 fpflags := l.foldl (fun f x => f ||| flags x) q.fpflags } := by
  induction l generalizing s with
  | nil => exact (s.modPlot_self p).symm
  | cons x l ih => exact (ih _).trans <| (State.modPlot_modPlot ..).trans (s.modPlot_modPlot p _ _)

/-! ### Write-outs (R75, R77) -/

/-- The arrays whose tiles a write-out delivers. -/
def WriteOut.tiles (w : WriteOut) : List Nat := (List.range 4).filter fun a => w.arrays.getLsbD a

/-- The state in which write-out w of bank b has put its tiles and left. -/
def State.wroteOut (s : State) (p : PlotIx) (b : Fin 2) (w : WriteOut) : State :=
  let put := s.forEach w.tiles fun u a => u.psWrite p (w.dst + 0x1000 * a) (tileBytes ((s.plot p).bank a b))
  (put.energy p (s.plot p).pos 10 (64 * w.tiles.length)).modPlot p fun q => { q with writeouts := q.writeouts.erase w }

@[simp] theorem State.energy_plot (s : State) (p : PlotIx) (pos : Pos) (kind n : Nat) (q : PlotIx) :
    (s.energy p pos kind n).plot q = s.plot q := rfl

theorem State.wroteOut_plot (s : State) (p : PlotIx) (b : Fin 2) (w : WriteOut) :
    (s.wroteOut p b w).plot p =
      { s.plot p with
        store := w.tiles.foldl (fun m a => cellsPut 0 m (w.dst + 0x1000 * a) (tileBytes ((s.plot p).bank a b))) (s.plot p).store
        writeouts := (s.plot p).writeouts.erase w } := by
  simp [State.wroteOut, s.forEach_psWrite]

theorem State.wroteOut_onlyPlot (s : State) (p : PlotIx) (b : Fin 2) (w : WriteOut) : OnlyPlot s (s.wroteOut p b w) p := by
  rw [State.wroteOut, s.forEach_psWrite]
  exact ((s.modPlot_onlyPlot p _).trans (State.energy_onlyPlot ..)).trans (State.modPlot_onlyPlot ..)

/-- The oldest write-out of a bank puts its tiles and leaves; besides, the sequencer may learn that a reference tile is done
(R107). -/
theorem execTileWriteoutDone_wroteOut {s : State} {p : PlotIx} {b : Fin 2} {w : WriteOut} (clocked : s.clocked p = true)
    (oldest : (s.plot p).writeouts.find? (fun w => w.bank = b) = some w) :
    ∃ f, execTileWriteoutDone p b s = .next ((s.wroteOut p b w).modSeq p f) := by
  have stays : (s.wroteOut p b w).modSeq p (fun q => q) = s.wroteOut p b w := (s.wroteOut p b w).modPlot_self p
  simp only [execTileWriteoutDone, oldest, clocked, Bool.not_true, Bool.false_eq_true, if_false]
  split
  · exact ⟨_, rfl⟩
  · exact ⟨_, congrArg Host.Outcome.next stays.symm⟩

/-! ### Reductions (R84) -/

/-- Sum i of a reduction over the rows, or the columns, of a tile. -/
def HarDesc.lineSum (d : HarDesc) (c : Ctl) (t : Tile) (i : Nat) : Rounded :=
  tileSum c ((List.range 32).map fun j => (t.toArray.getD (if d.axis = 0 then 32 * i + j else 32 * j + i) 0).toNat)

/-- The bytes of the 32 sums of a tile. -/
def HarDesc.sumBytes (d : HarDesc) (c : Ctl) (t : Tile) : List Byte :=
  (List.range 32).flatMap fun i => bytesOfNat 4 (d.lineSum c t i).bits

/-- The sticky flags of the 32 sums of a tile. -/
def HarDesc.sumFlags (d : HarDesc) (c : Ctl) (t : Tile) : Flags :=
  (List.range 32).foldl (fun f i => f ||| (d.lineSum c t i).flags) 0

/-- The state in which a reduction of the tiles in a bank has delivered its sums and left the rows. -/
def State.reduced (s : State) (p : PlotIx) (d : HarDesc) (c : Ctl) : State :=
  (s.forEach d.enabled fun u n => (u.psWrite p (d.accdst + 128 * n) (d.sumBytes c ((s.plot p).bank n d.bank))).setFlags p
    (d.sumFlags c ((s.plot p).bank n d.bank))).dropHeadPass p

theorem State.reduced_plot (s : State) (p : PlotIx) (d : HarDesc) (c : Ctl) :
    (s.reduced p d c).plot p =
      { s.plot p with
        store := d.enabled.foldl (fun m n => cellsPut 0 m (d.accdst + 128 * n) (d.sumBytes c ((s.plot p).bank n d.bank)))
          (s.plot p).store
        fpflags := ((s.reduced p d c).plot p).fpflags
        passes := (s.plot p).passes.tail
        numctl := ((s.reduced p d c).plot p).numctl } := by
  simp [State.reduced, State.dropHeadPass, State.showNumctl, s.forEach_result]

theorem State.reduced_onlyPlot (s : State) (p : PlotIx) (d : HarDesc) (c : Ctl) : OnlyPlot s (s.reduced p d c) p := by
  rw [State.reduced, s.forEach_result, State.dropHeadPass, State.showNumctl]
  exact ((s.modPlot_onlyPlot p _).trans (State.modPlot_onlyPlot ..)).trans (State.modPlot_onlyPlot ..)

theorem execTileReductionDone_reduced {s : State} {p : PlotIx} {a : ActivePass} {c : Ctl} (clocked : s.clocked p = true)
    (head : (s.plot p).passes.head? = some a) (ctl : unitCtl a.desc.numctl = some c) (kind : a.desc.dkind = 3)
    (banks : a.desc.accinit = 2) (sound : a.redo = none) : execTileReductionDone p s = .next (s.reduced p a.desc c) := by
  simp [execTileReductionDone, State.headPass, head, ctl, clocked, kind, banks, sound, List.flatMap_map, List.foldl_map,
    State.reduced, HarDesc.sumBytes, HarDesc.sumFlags, HarDesc.lineSum]

end Sys2Proof.Machine

namespace Sys2Proof.HarrowArrays

open Sys2Proof.Machine

/-- Settles O16: the tiles, and the sums, are put into the plot store one array after another, with nothing else of the
module but energy events and the plot's own registers changed. -/
theorem tilesReachThePlotStore : Obligations.TilesReachThePlotStore := by
  intro s p clocked
  refine ⟨fun b w oldest => ?writeOut, fun a r c passes ctl kind banks sound => ?reduction⟩
  case writeOut =>
    obtain ⟨f, run⟩ := execTileWriteoutDone_wroteOut clocked oldest
    have plot := ((s.wroteOut p b w).modSeq_plot p f).trans (by rw [s.wroteOut_plot])
    have o := (s.wroteOut_onlyPlot p b w).trans (State.modPlot_onlyPlot _ p fun q => { q with seq := f q.seq })
    exact ⟨_, run, by rw [plot]; rfl, by rw [plot], by rw [plot], by rw [plot], o.others, o.mem, o.sync, o.kuf, o.evr⟩
  case reduction =>
    have plot := s.reduced_plot p a.desc c
    have o := s.reduced_onlyPlot p a.desc c
    refine ⟨_, execTileReductionDone_reduced clocked (by rw [passes]; rfl) ctl kind banks sound, by rw [plot]; rfl, ?_,
      by rw [plot], o.others, o.mem, o.sync, o.kuf, o.evr⟩
    rw [plot, passes]
    rfl

end Sys2Proof.HarrowArrays
end

section
/-! Parity errors of groups and of reductions, stops of passes with their spill records, and the statements about them
(R86-R90, R94). -/

namespace Sys2Proof.Machine

/-! ### How a stop meets the command in progress (R87, R178, R179) -/

/-- Plot p's watch is withdrawn in the next sync cycle (R179). -/
def State.withdrawWatch (s : State) (p : PlotIx) : State :=
  s.modUnit (dieOfPlot p) fun u => { u with withdraws := u.withdraws ++ [p] }

/-- A stop leaves the command in progress to its engines, or ends it; no other part of the plots changes, and none of the
recorder. -/
theorem State.settleStop_cases (s : State) (p : PlotIx) : ∃ u : State, u.plots = s.plots ∧ u.evr = s.evr ∧
    (s.settleStop p = u ∨ s.settleStop p = u.modSeq p fun q => { q with busy := .ready, waiting := false }) := by
  cases busy : (s.plot p).seq.busy with
  | watching => exact ⟨s.withdrawWatch p, rfl, rfl, .inl (by simp [State.settleStop, busy, State.withdrawWatch])⟩
  | collective id =>
    by_cases joined : s.collComplete id
    · exact ⟨s, rfl, rfl, .inl (by simp [State.settleStop, busy, joined])⟩
    · exact ⟨(s.leaveCollective p id).withdrawWatch p, rfl, rfl,
        .inr (by simp [State.settleStop, busy, joined, State.withdrawWatch])⟩
  | checking c =>
    by_cases compares : c.refDone
    · exact ⟨s, rfl, rfl, .inl (by simp [State.settleStop, busy, compares])⟩
    · exact ⟨s, rfl, rfl, .inr (by simp [State.settleStop, busy, compares])⟩
  | passIssue | streamIssue | fencing => exact ⟨s, rfl, rfl, .inr (by simp only [State.settleStop, busy])⟩
  | dmaHand | ready => exact ⟨s, rfl, rfl, .inl (by simp only [State.settleStop, busy])⟩

theorem State.settleStop_evr (s : State) (p : PlotIx) : (s.settleStop p).evr = s.evr := by
  obtain ⟨u, -, evr, e | e⟩ := s.settleStop_cases p
  · rw [e, evr]
  · rw [e, State.modSeq_evr, evr]

/-- Meeting the command in progress changes of the plot only what its sequencer waits for. -/
theorem State.settleStop_plot (s : State) (p : PlotIx) :
    (s.settleStop p).plot p =
      { s.plot p with
        seq := { (s.plot p).seq with
          busy := ((s.settleStop p).plot p).seq.busy
          waiting := ((s.settleStop p).plot p).seq.waiting } } := by
  obtain ⟨u, plots, -, e | e⟩ := s.settleStop_cases p
  · rw [e, State.plot_of_plots plots p]
  · rw [e, State.modSeq_plot, State.plot_of_plots plots p]

/-! ### Parity errors (R88, R89, R94) -/

theorem State.countRetry_plot (s : State) (p : PlotIx) :
    (s.countRetry p).plot p = { s.plot p with harParretry := satAdd (s.plot p).harParretry 1 } := s.modPlot_plot p _

theorem State.parityStop_half (s : State) (p : PlotIx) (pos : Pos) :
    ((s.parityStop p pos).half (halfOfDie (dieOfPlot p))).registered =
      (s.half (halfOfDie (dieOfPlot p))).registered ++ [plotErr p pos 0x0101 .recoverable 0 [] 1] := by
  have settled : ∀ u : State, ∀ h, (u.settleStop p).half h = u.half h := fun u h => by
    cases h <;> simp [State.half, u.settleStop_evr]
  rw [State.parityStop, settled]
  simp [State.stopEvent, State.plotRecoverable, State.raise_half]

/-- A parity stop of a plot that no stop has reached: REASON 0x4, and nothing of the plot but its sequencer has changed. -/
theorem State.parityStop_plot {s : State} {p : PlotIx} (pos : Pos) (runs : (s.plot p).seq.stopping = none) :
    (s.parityStop p pos).plot p =
      { s.plot p with
        seq := { (s.plot p).seq with
          stopping := some 4
          busy := ((s.parityStop p pos).plot p).seq.busy
          waiting := ((s.parityStop p pos).plot p).seq.waiting } } := by
  have stopped : ((s.plotRecoverable p pos 0x0101 0 [] 1).stopEvent p 4).plot p =
      { s.plot p with seq := { (s.plot p).seq with stopping := some 4 } } := by
    simp [State.stopEvent, State.plotRecoverable, runs]
  have settled := ((s.plotRecoverable p pos 0x0101 0 [] 1).stopEvent p 4).settleStop_plot p
  rw [stopped] at settled
  exact settled

/-- Pass a of plot p is to re-enter at its group g. -/
def State.markPass (s : State) (p : PlotIx) (a : ActivePass) (g : Nat) : State :=
  s.modPlot p fun q => { q with passes := q.passes.map fun x => if x = a then { a with redo := some g } else x }

theorem State.markPass_plot (s : State) (p : PlotIx) (a : ActivePass) (g : Nat) :
    (s.markPass p a g).plot p =
      { s.plot p with passes := (s.plot p).passes.map fun x => if x = a then { a with redo := some g } else x } :=
  s.modPlot_plot p _

/-- A parity error of group g of the only pass in the rows marks it for its re-entry there. -/
theorem execOperandParityError_marks {s : State} {p : PlotIx} {a : ActivePass} {g : Nat} (clocked : s.clocked p = true)
    (only : (s.plot p).passes = [a]) (kind : a.desc.dkind ≠ 3) (ahead : a.next ≤ g) (inside : g < a.desc.groups)
    (sound : a.redo = none) :
    execOperandParityError p g s = .next ((s.groupParity p a g).2.markPass p a g) := by
  have marked : (s.groupParity p a g).1 = { a with redo := some g } := by
    unfold State.groupParity
    dsimp only
    repeat' split
    all_goals rfl
  have group : a.desc.dkind ≠ 3#4 := kind
  simp [execOperandParityError, clocked, only, group, ahead, inside, sound, marked, State.markPass]

theorem execPassReentry_enters {s : State} {p : PlotIx} {a : ActivePass} (head : (s.plot p).passes.head? = some a)
    (clocked : s.clocked p = true) (runs : (s.plot p).seq.stopping = none) (kind : a.desc.dkind ≠ 3)
    (marked : a.redo = some a.next) :
    execPassReentry p s = .next (s.setHeadPass p { a with redo := none, retried := some a.next }) := by
  have group : a.desc.dkind ≠ 3#4 := kind
  simp [execPassReentry, State.headPass, head, clocked, runs, group, marked]

theorem execReductionParityError_retries {s : State} {p : PlotIx} {a : ActivePass} (head : (s.plot p).passes.head? = some a)
    (clocked : s.clocked p = true) (kind : a.desc.dkind = 3) (source : a.desc.accinit = 1) (sound : a.redo = none)
    (first : a.retried = none) :
    execReductionParityError p s = .next ((s.countRetry p).setHeadPass p { a with retried := some 0 }) := by
  simp [execReductionParityError, State.headPass, head, clocked, kind, source, sound, first]

/-! ### Stops of passes (R86, R87, R90) -/

theorem State.spill_plotAndTrace (s : State) (p : PlotIx) (a : ActivePass) (kpos : Nat) (reason : BitVec 4) :
    PlotAndTrace s (s.spill p a kpos reason) p := by
  unfold State.spill State.psWrite State.showNumctl
  exact ((((s.modPlot_plotAndTrace p _).modPlot _).modPlot _).trans (State.count_plotAndTrace ..)).trans
    (State.tracePlot_plotAndTrace ..)

theorem State.spill_plot (s : State) (p : PlotIx) (a : ActivePass) (kpos : Nat) (reason : BitVec 4) :
    (s.spill p a kpos reason).plot p =
      { s.plot p with
        store := cellsPut 0 (s.plot p).store (s.plot p).harSpillbase.toNat ((s.plot p).spillRecord a kpos reason)
        passes := []
        harSpilled := true
        numctl := ((s.spill p a kpos reason).plot p).numctl
        counters := ((s.spill p a kpos reason).plot p).counters } := by
  have traced : ∀ u : State, (u.tracePlot p 0x03 a.pos kpos reason.toNat).plot p = u.plot p := fun u =>
    State.plot_of_plots (State.tracePlot_plots ..) p
  unfold State.spill
  dsimp only
  rw [traced, State.count_plot]
  simp [State.showNumctl, State.psWrite]

/-- A stop between two groups of the only pass in the rows spills it at the next of them. -/
theorem execPassStop_spills {s : State} {p : PlotIx} {a : ActivePass} {c : Ctl} {reason : BitVec 4}
    (only : (s.plot p).passes = [a]) (stop : (s.plot p).seq.stopping = some reason) (ctl : unitCtl a.desc.numctl = some c)
    (clocked : s.clocked p = true) (drained : (s.plot p).writeouts = []) (kind : a.desc.dkind ≠ 3) (later : a.start < a.next)
    (left : a.next < a.desc.groups) : execPassStop p s = .next (s.spill p a (16 * a.next) reason) := by
  have group : a.desc.dkind ≠ 3#4 := kind
  simp [execPassStop, only, stop, ctl, clocked, drained, group, later, left, s.initPass_of_later p c later]

end Sys2Proof.Machine

namespace Sys2Proof.HarrowArrays

open Sys2Proof.Machine

/-- Settles O17: a first error only marks and counts, a re-entry only takes the mark away, and a second error of the same group
is a parity stop, which is not counted again (log entry 32). -/
theorem parityErrorsAreRetriedOnce : Obligations.ParityErrorsAreRetriedOnce := by
  intro s p a only clocked runs
  have head : (s.plot p).passes.head? = some a := by rw [only]; rfl
  have others : ∀ (u : State) (f : Plot → Plot) (q : PlotIx), q ≠ p → (u.modPlot p f).plot q = u.plot q :=
    fun u f q ne => u.modPlot_plot_ne p q f ne.symm
  refine ⟨fun g kind ahead inside sound new => ?first, fun g kind ahead inside sound again => ?second,
    fun kind marked => ?reentry, fun kind source sound new => ?reduction⟩
  case first =>
    have counted : (s.groupParity p a g).2 = s.countRetry p := by simp [State.groupParity, runs, new]
    have run := execOperandParityError_marks clocked only kind ahead inside sound
    rw [counted] at run
    have plot := (s.countRetry p).markPass_plot p a g
    rw [s.countRetry_plot] at plot
    exact ⟨_, run, by rw [plot, only]; simp, by rw [plot], by rw [plot], by rw [plot], by rw [plot], rfl,
      fun q ne => (others _ _ q ne).trans (others s _ q ne)⟩
  case second =>
    have stopped : (s.groupParity p a g).2 = s.parityStop p a.pos := by simp [State.groupParity, runs, again]
    have run := execOperandParityError_marks clocked only kind ahead inside sound
    rw [stopped] at run
    have plot := (s.parityStop p a.pos).markPass_plot p a g
    rw [State.parityStop_plot a.pos runs] at plot
    exact ⟨_, run, by rw [plot, only]; simp, by rw [plot], by rw [plot],
      (congrArg RecHalf.registered (State.modPlot_half ..)).trans (s.parityStop_half p a.pos)⟩
  case reentry =>
    have plot := s.setHeadPass_plot p { a with redo := none, retried := some a.next }
    exact ⟨_, execPassReentry_enters head clocked runs kind marked, by rw [plot, only]; rfl, by rw [plot], by rw [plot], rfl,
      others s _⟩
  case reduction =>
    have plot := (s.countRetry p).setHeadPass_plot p { a with retried := some 0 }
    rw [s.countRetry_plot] at plot
    exact ⟨_, execReductionParityError_retries head clocked kind source sound new, by rw [plot, only]; rfl, by rw [plot],
      by rw [plot], rfl, fun q ne => (others _ _ q ne).trans (others s _ q ne)⟩

/-- Settles O18: a pass that stops after its first group is spilled as it stands, and the spill changes its plot and the trace
only. -/
theorem passStopLeavesASpillRecord : Obligations.PassStopLeavesASpillRecord := by
  intro s p a c reason only stop ctl clocked drained kind later left
  have plot := s.spill_plot p a (16 * a.next) reason
  have near := s.spill_plotAndTrace p a (16 * a.next) reason
  exact ⟨_, execPassStop_spills only stop ctl clocked drained kind later left, by rw [plot], by rw [plot], by rw [plot],
    by rw [plot], by rw [plot], near.others, near.elsewhere⟩

end Sys2Proof.HarrowArrays
end

section
/-! Four-bit work of one plot: the branch on a layer's state, and sampled checks with their comparison, and the statements
about them (R104-R109, R163). -/

namespace Sys2Proof.Machine

open Sys2Proof.Claim

/-! ### Moving on (R161, R163) -/

theorem State.finishAt_plotAndTrace (s : State) (p : PlotIx) (pc : Nat) : PlotAndTrace s (s.finishAt p pc) p := by
  unfold State.finishAt State.seqAt State.modSeq
  exact ((s.tracePlot_plotAndTrace p _ _ _ _).modPlot _).modPlot _

theorem State.finishAt_moved (s : State) (p : PlotIx) (pc : Nat) : Moved s (s.finishAt p pc) p pc := by
  obtain ⟨at_pc, ready, waiting, row, -, -⟩ := s.finishAt_seq p pc
  exact ⟨at_pc, ready, waiting, row, (s.finishAt_plotAndTrace p pc).others⟩

theorem State.finish_moved (s : State) (p : PlotIx) : Moved s (s.finish p) p (behind s p) := s.finishAt_moved p _

/-! ### The branch (R104, R163) -/

/-- A branch whose target and entry are in range, and whose entry can be read, moves on by the STATE that it reads. -/
theorem execBrflt_branches {s s1 s2 : State} {p : PlotIx} {c : Cmd} {e : FltEntry} {st : Nat}
    (fetched : s.fetch p 0x10 = .cmd c s1) (index : c.arg1 < 512) (listed : c.arg1 < s1.fltEntries) (arg2 : c.arg2 = 0)
    (target : (s1.plot p).seq.targetOk c.arg3 = true)
    (entry : (afterIssue s1 p c).fltRead p (c.pos (s1.plot p).seq.row) c.arg1 = .entry e st s2) :
    execBrflt p s = .next (s2.finishAt p (if st = 2 then c.arg3 else behind s2 p)) := by
  rw [execBrflt, State.command_afterIssue _ fetched (by simp [index, listed, arg2, target])]
  simp only [entry]
  split <;> rfl

/-! ### Sampled checks (R105-R107) -/

/-- The reference pass of a check, which its descriptor `k` names, with descriptor `d`. -/
def Cmd.refPass (c : Cmd) (row : Row) (k : ChkDesc) (d : HarDesc) : ActivePass :=
  { addr := k.refdesc, desc := d, pos := c.pos row, start := 0, next := 0, redo := none, retried := none, isRef := true,
    resumed := false }

/-- The check that a command begins, with the FLT entry `e` of its layer and the threshold of HAR_FBCFG (R106, R108). -/
def Cmd.newCheck (c : Cmd) (row : Row) (k : ChkDesc) (e : FltEntry) (d : HarDesc) (fbcfg : W32) : CheckRun :=
  { array := k.array, fltidx := k.fltidx, layer := BitVec.ofNat 16 e.layer, outtile := k.outtile,
    reftile := d.accdst + 0x1000 * k.array.val,
    threshold := BitVec.ofNat 16 (if e.thsel then e.thresh else bits fbcfg 15 0), ref := some (c.refPass row k d),
    refDone := false }

@[simp] theorem Cmd.pos_row (c : Cmd) (row : Row) : (c.pos row).row = row := rfl
@[simp] theorem Cmd.pos_passno (c : Cmd) (row : Row) : (c.pos row).passno = c.passno := rfl

theorem afterIssue_fb (s1 : State) (p : PlotIx) (c : Cmd) : (afterIssue s1 p c).fb = s1.fb :=
  (afterIssue_plotAndTrace s1 p c).elsewhere.fb

theorem State.unholdCommand_psRead (s : State) (p : PlotIx) (a n : Nat) : (s.unholdCommand p).psRead p a n = s.psRead p a n := by
  simp [State.psRead, State.unholdCommand, State.setHeld]

/-- A fetched CHECK that names a descriptor inside the plot store. -/
structure ChecksAt (s s1 : State) (p : PlotIx) (c : Cmd) : Prop where
  fetched : s.fetch p 0x07 = .cmd c s1
  inStore : c.arg1 < storeBytes
  arg2 : c.arg2 = 0
  arg3 : c.arg3 = 0

/-- Its descriptor `k` can be read, checks are on, and the FLT entry `e` of the layer has been read in state `s2`. -/
structure ReadsEntry (s1 s2 : State) (p : PlotIx) (c : Cmd) (k : ChkDesc) (e : FltEntry) (st : Nat) : Prop where
  on : bit s1.fb.fbcfg 31 = true
  aligned : c.arg1 % 64 = 0
  readable : (s1.plot p).readHeld [extOf c.arg1 64] = false
  desc : k = ChkDesc.ofBytes (s1.psRead p c.arg1 64)
  listed : k.fltidx < ((afterIssue s1 p c).unholdCommand p).fltEntries
  entry : ((afterIssue s1 p c).unholdCommand p).fltRead p (c.pos (s1.plot p).seq.row) k.fltidx = .entry e st s2

section
variable {s s1 s2 : State} {p : PlotIx} {c : Cmd} {k : ChkDesc} {e : FltEntry} {st : Nat}

theorem ChecksAt.execCheck_off (h : ChecksAt s s1 p c) (off : bit s1.fb.fbcfg 31 = false) :
    execCheck p s = .next ((afterIssue s1 p c).finish p) := by
  rw [execCheck, State.command_afterIssue _ h.fetched (by simp [h.inStore, h.arg2, h.arg3])]
  simp only [afterIssue_fb, off, Bool.not_false, if_true]

theorem ChecksAt.execCheck_skips (h : ChecksAt s s1 p c) (r : ReadsEntry s1 s2 p c k e st)
    (skipped : s2.sampled e st (s1.plot p).seq.row.toNat c.passno.toNat = false) :
    execCheck p s = .next (s2.finish p) := by
  rw [execCheck, State.command_afterIssue _ h.fetched (by simp [h.inStore, h.arg2, h.arg3])]
  simp [afterIssue_fb, State.unholdCommand_psRead, ← r.desc, r.on, r.aligned, r.readable, Nat.not_le.2 r.listed, r.entry,
    skipped]

/-- A sampled check with a sound reference pass, which the Rake register's state lets run. -/
theorem ChecksAt.execCheck_begins (h : ChecksAt s s1 p c) (r : ReadsEntry s1 s2 p c k e st) {d : HarDesc}
    (sampled : s2.sampled e st (s1.plot p).seq.row.toNat c.passno.toNat = true)
    (readable : (s2.plot p).readHeld [extOf k.refdesc 64] = false) (desc : d = HarDesc.ofBytes (s2.psRead p k.refdesc 64))
    (ctl : (unitCtl d.numctl).isSome = true) (sound : k.ok d = true) (free : (s2.plot p).rakeTaken = false) :
    execCheck p s = .next (s2.modSeq p fun q => { q with
      busy := .checking (c.newCheck (s1.plot p).seq.row k e d s2.fb.fbcfg) }) := by
  rw [execCheck, State.command_afterIssue _ h.fetched (by simp [h.inStore, h.arg2, h.arg3])]
  simp [afterIssue_fb, State.unholdCommand_psRead, ← r.desc, r.on, r.aligned, r.readable, Nat.not_le.2 r.listed, r.entry,
    sampled, readable, ← desc, sound, free, Cmd.newCheck, Cmd.refPass, Option.isSome_iff_ne_none.1 ctl]

end

/-! ### The comparison (R108, R109) -/

/-- The code of an outcome in HAR_CHKLAST (R109). -/
def ChkOutcome.code : ChkOutcome → Nat
  | .pass => 1
  | .fail => 2
  | .void => 3

/-- The plot with the outcome of a check in HAR_CHKLAST, HAR_CHKCNT and the fail vector (R109). -/
def Plot.recordCheck (q : Plot) (c : CheckRun) (o : ChkOutcome) : Plot :=
  { q with
    chklast := w32 (o.code * 2 ^ 30 + c.fltidx * 2 ^ 16 + c.layer.toNat)
    chkcnt := w32 ((satAdd (q.chkcnt.extractLsb' 16 16) (if o = .fail then 1 else 0)).toNat * 2 ^ 16 +
      (satAdd (q.chkcnt.extractLsb' 0 16) 1).toNat)
    failvec := if o = .fail then q.failvec ||| BitVec.ofNat 512 (2 ^ c.fltidx) else q.failvec }

/-- The state with the outcome recorded, and a notice of a comparison that is void. -/
def State.compared (s : State) (p : PlotIx) (c : CheckRun) (o : ChkOutcome) : State :=
  let s1 := s.modPlot p fun q => q.recordCheck c o
  if o = .void then s1.raise (halfOfDie (dieOfPlot p)) (plotErr p (s.plot p).pos 0x0901 .notice c.layer.toNat [0x0C] 0)
  else s1

theorem State.compared_plot (s : State) (p : PlotIx) (c : CheckRun) (o : ChkOutcome) (q : PlotIx) :
    (s.compared p c o).plot q = (s.modPlot p fun x => x.recordCheck c o).plot q := by
  unfold State.compared
  split <;> simp

theorem State.compared_core (s : State) (p : PlotIx) (c : CheckRun) (o : ChkOutcome) : (s.compared p c o).core = s.core := by
  unfold State.compared
  split <;> simp

theorem State.compared_evr (s : State) (p : PlotIx) (c : CheckRun) {o : ChkOutcome} (sound : o ≠ .void) :
    (s.compared p c o).evr = s.evr := by
  simp [State.compared, sound]

/-- The comparison, once the reference tile is written out and no stream uses the Rake. -/
theorem execCheckCompare_compared {s : State} {p : PlotIx} {c : CheckRun} {o : ChkOutcome}
    (busy : (s.plot p).seq.busy = .checking c) (clocked : s.clocked p = true) (ref : c.refDone = true)
    (noStream : (s.plot p).stream = none) (readable : (s.plot p).readHeld [extOf c.outtile 0x1000] = false)
    (outcome : o = compareTiles (wordsOf (s.psRead p c.outtile 0x1000) 1024) (wordsOf (s.psRead p c.reftile 0x1000) 1024)
      c.threshold.toNat) : execCheckCompare p s = .next ((s.compared p c o).finish p) := by
  simp only [execCheckCompare, busy, clocked, ref, noStream, readable, ← outcome, Bool.not_true, Bool.or_false,
    Bool.false_eq_true, if_false]
  cases o <;> simp [State.compared, Plot.recordCheck, ChkOutcome.code, b2n, State.modPlot]

end Sys2Proof.Machine

namespace Sys2Proof.FourBit

open Sys2Proof.Machine Sys2Proof.Claim

/-- Settles O10: the branch moves the sequencer on by the STATE read, and nothing else. -/
theorem brfltBranchesOnTheLayersState : Obligations.BrfltBranchesOnTheLayersState := by
  intro s s1 s2 p c e st fetched index listed arg2 target entry
  exact ⟨_, execBrflt_branches fetched index listed arg2 target entry, s2.finishAt_moved p _,
    (s2.finishAt_plotAndTrace p _).elsewhere, s2.finishAt_plot p _⟩

/-- Settles O11: a check that is off or not sampled only moves the sequencer on; a sampled one leaves its run as the command in
progress. -/
theorem checkSamplesItsLayer : Obligations.CheckSamplesItsLayer := by
  intro s s1 p c fetched inStore arg2 arg3
  have h : ChecksAt s s1 p c := ⟨fetched, inStore, arg2, arg3⟩
  refine ⟨fun off => ?off, ?on⟩
  case off =>
    have near := (afterIssue_plotAndTrace s1 p c).trans (State.finish_plotAndTrace _ p)
    have after := (afterIssue s1 p c).finish_plot p
    rw [afterIssue_plot] at after
    exact ⟨_, h.execCheck_off off, (afterIssue_plotAndTrace s1 p c).finish_moved (by rw [afterIssue_plot]), near.elsewhere,
      after⟩
  case on =>
    rintro on aligned readable k u e st s2 desc rfl listed entry
    have r : ReadsEntry s1 s2 p c k e st := ⟨on, aligned, readable, desc, listed, entry⟩
    refine ⟨fun skipped => ?skipped, fun sampled readable d desc ctl sound free => ?sampled⟩
    case skipped =>
      exact ⟨_, h.execCheck_skips r skipped, s2.finish_moved p, (s2.finish_plotAndTrace p).elsewhere, s2.finish_plot p⟩
    case sampled =>
      have near := s2.modPlot_plotAndTrace p fun q => { q with
        seq := { q.seq with busy := .checking (c.newCheck (s1.plot p).seq.row k e d s2.fb.fbcfg) } }
      exact ⟨_, _, h.execCheck_begins r sampled readable desc ctl sound free, by rw [State.modSeq_plot], rfl, rfl, rfl, rfl,
        ⟨by rw [State.modSeq_plot], by rw [State.modSeq_plot], near.others⟩, near.elsewhere, by rw [State.modSeq_plot]⟩

/-- Settles O19: the outcome is recorded in the plot's registers and the sequencer moves on. -/
theorem checkCompareRecordsItsOutcome : Obligations.CheckCompareRecordsItsOutcome := by
  intro s p c o busy clocked ref noStream readable outcome
  have recorded : (s.compared p c o).plot p = (s.plot p).recordCheck c o :=
    (s.compared_plot p c o p).trans (s.modPlot_plot p _)
  have after := (s.compared p c o).finish_plot p
  have done := (s.compared p c o).finish_moved p
  have core : ((s.compared p c o).finish p).core = s.core := (State.finish_core ..).trans (s.compared_core p c o)
  obtain ⟨-, sync, -, -, -, -, kuf, -⟩ := (State.core_eq _ _).1 core
  obtain ⟨pc, ready, waiting, row, others⟩ := done
  refine ⟨_, execCheckCompare_compared busy clocked ref noStream readable outcome, ⟨?_, ready, waiting, ?_, fun q ne => ?_⟩,
    ?_, by rw [after, recorded, Plot.recordCheck], by rw [after, recorded, Plot.recordCheck],
    by rw [after, recorded, Plot.recordCheck], by rw [after, recorded, Plot.recordCheck], sync, kuf, fun sound => (State.finishAt_evr ..).trans (s.compared_evr p c sound)⟩
  · rw [pc, behind, recorded, Plot.recordCheck, behind]
  · rw [row, recorded, Plot.recordCheck]
  · rw [others q ne, s.compared_plot, State.modPlot_plot_ne _ _ _ _ ne.symm]
  · rw [after, recorded]
    cases o <;> simp [Plot.recordCheck, ChkOutcome.code]

end Sys2Proof.FourBit
end

section
/-! Combinations and the vote: how a plot joins one and how its result is delivered, and the statements about them (R111, R142,
R220, R262, R341). -/

namespace Sys2Proof.Machine

open Sys2Proof.Claim

/-! ### Joining (R142, R220) -/

/-- With this participant and its register a combination of `count` has these members and images. -/
def State.Gathers (s : State) (p : PlotIx) (id : Fin 4096) (count : Nat) (own : RakeReg) (members : List PlotIx)
    (images : List RakeReg) : Prop :=
  (s.openColl id = none ∧ members = [p] ∧ images = [own]) ∨
    ∃ x, s.openColl id = some x ∧ x.count = count ∧ members = x.members ++ [p] ∧ images = x.images ++ [own]

/-- The combination of an id with these members and images. -/
def gathered (id : Fin 4096) (count : Nat) (members : List PlotIx) (images : List RakeReg) : Collective :=
  { id := id, count := count, members := members, images := images,
    reg := if members.length ≥ count then some (combineAll images) else none, step := 0 }

/-- The collective watch of a plot that has joined (R220). -/
def State.collWatch (s : State) (p : PlotIx) (pos : Pos) (id : Fin 4096) (kind : WatchKind) : Watch :=
  { slot := 0, kind := kind, plot := p, dbg := 0, object := BitVec.ofNat 12 id.val, n := 0, consume := 0, elapsed := 0,
    timeout := s.smod.defaultus.toNat, pos := pos }

/-- The combination `c` stands in the place of the one of its id that waited for participants. -/
def State.setColl (s : State) (c : Collective) : State :=
  { s with kuf := { s.kuf with colls := (s.kuf.colls.filter fun (x : Collective) => !(x.id = c.id && x.reg.isNone)) ++ [c] } }

/-- The state in which plot p has joined combination c and waits for it. -/
def State.joined (s : State) (p : PlotIx) (pos : Pos) (c : Collective) (kind : WatchKind) : State :=
  (((s.setColl c).modUnit (dieOfPlot p) fun u => { u with regs := u.regs ++ [s.collWatch p pos c.id kind] }).beginWait
    p).modSeq p fun q => { q with busy := .collective c.id }

section
variable {s : State} {p : PlotIx} {pos : Pos} {id : Fin 4096} {count : Nat} {own : RakeReg} {members : List PlotIx}
  {images : List RakeReg}

/-- A participant whose kind and count agree with those before it joins. -/
theorem State.Gathers.joinColl_joined (h : s.Gathers p id count own members images) (agree : kindsAgree images = true)
    (kind : WatchKind) : s.joinColl p pos id count own kind = s.joined p pos (gathered id count members images) kind := by
  obtain ⟨none, rfl, rfl⟩ | ⟨x, some, same, rfl, rfl⟩ := h
  · simp only [List.nil_append, State.joinColl, none, agree]
    rfl
  · simp only [State.joinColl, some, same, agree]
    rfl

theorem State.Gathers.of_kuf {t : State} (h : s.Gathers p id count own members images) (same : t.kuf = s.kuf) :
    t.Gathers p id count own members images := by
  have openColl : t.openColl id = s.openColl id := by rw [State.openColl, State.openColl, same]
  rwa [State.Gathers, openColl]

end

/-- A plot that has joined waits, with everything but its sequencer and its tilling load as before. -/
theorem State.joined_plot (s : State) (p : PlotIx) (pos : Pos) (c : Collective) (kind : WatchKind) :
    (s.joined p pos c kind).plot p =
      { s.plot p with
        tilling := bits s.pwr.till 31 28
        seq := { (s.plot p).seq with waiting := true, busy := .collective c.id } } := by
  rw [State.joined, State.modSeq_plot, State.beginWait, State.modPlot_plot]
  rfl

theorem State.joined_others (s : State) {p q : PlotIx} (pos : Pos) (c : Collective) (kind : WatchKind) (ne : q ≠ p) :
    (s.joined p pos c kind).plot q = s.plot q := by
  rw [State.joined, State.modSeq_plot_ne _ _ _ _ ne.symm, State.beginWait, State.modPlot_plot_ne _ _ _ _ ne.symm]
  rfl

theorem State.joined_regs (s : State) (p : PlotIx) (pos : Pos) (c : Collective) (kind : WatchKind) :
    ((s.joined p pos c kind).unit (dieOfPlot p)).regs = (s.unit (dieOfPlot p)).regs ++ [s.collWatch p pos c.id kind] := by
  rw [State.joined, State.modSeq_unit, State.beginWait, State.modPlot_unit, State.modUnit_unit]
  rfl

/-- A plot joins in a state `u` that a fetch has left: what the statement says of both commands. -/
theorem PlotAndTrace.joined {s1 u : State} {p : PlotIx} (near : PlotAndTrace s1 u p) (pos : Pos) (c : Collective)
    (kind : WatchKind) (seq : (u.plot p).seq = { (s1.plot p).seq with waiting := (u.plot p).seq.waiting }) :
    (u.joined p pos c kind).kuf.colls = (s1.kuf.colls.filter fun x => !(x.id = c.id && x.reg.isNone)) ++ [c] ∧
      ((u.joined p pos c kind).unit (dieOfPlot p)).regs =
        (s1.unit (dieOfPlot p)).regs ++ [s1.collWatch p pos c.id kind] ∧
      Stands s1 (u.joined p pos c kind) p ∧ (u.joined p pos c kind).job = s1.job ∧ (u.joined p pos c kind).evr = s1.evr := by
  have same := near.elsewhere
  have plot := u.joined_plot p pos c kind
  refine ⟨?_, ?_, ⟨?_, ?_, fun q ne => (u.joined_others pos c kind ne).trans (near.others q ne)⟩, same.job, same.evr⟩
  · rw [← same.kuf]; rfl
  · rw [u.joined_regs, State.collWatch, State.unit, same.sync, same.smod]; rfl
  · rw [plot, seq]
  · rw [plot, seq]

/-- RCOMBINE joins with the plot's register (R142). -/
theorem execRcombine_joins {s s1 : State} {p : PlotIx} {c : Cmd} (fetched : s.fetch p 0x0D = .cmd c s1) (arg1 : c.arg1 = 0)
    (arg2 : c.arg2 < 4095) (low : 1 ≤ c.arg3) (high : c.arg3 ≤ 640) (idle : (s1.plot p).stream = none) :
    execRcombine p s = .next (((afterIssue s1 p c).unholdCommand p).joinColl p (c.pos (s1.plot p).seq.row)
      (Fin.ofNat 4096 c.arg2) c.arg3 (s1.plot p).rake .rcombine) := by
  rw [execRcombine, State.command_afterIssue _ fetched (by simp [arg1, arg2, low, high])]
  simp [idle]

/-- VOTE joins the combination of id 4,095 of the active plots, with the fail vector and the digest (R111). -/
theorem execVote_joins {s s1 : State} {p : PlotIx} {c : Cmd} {flt : Nat} (fetched : s.fetch p 0x08 = .cmd c s1)
    (arg1 : c.arg1 = 0) (arg2 : c.arg2 = 0) (arg3 : c.arg3 = 0) (base : s1.fltBase = some flt)
    (first : (s1.plot p).seq.voted = false) :
    execVote p s = .next ((afterIssue s1 p c).joinColl p (c.pos (s1.plot p).seq.row) 4095 s1.job.active.length
      (voteImage (s1.plot p).failvec ((afterIssue s1 p c).voteDigest flt)) .vote) := by
  have job := (afterIssue_plotAndTrace s1 p c).elsewhere.job
  have base' : (afterIssue s1 p c).fltBase = some flt := by rw [← base, State.fltBase, State.fltBase, job]
  rw [execVote, State.command_afterIssue _ fetched (by simp [arg1, arg2, arg3, base])]
  simp [base', first, job]

/-! ### Plots that one step each changes -/

/-- A step for each plot of a list, of which each keeps the invariant `I` and changes its plot alone, by a relation that doing it
again keeps. -/
theorem State.forEach_plots_of {f : State → PlotIx → State} {R : PlotIx → Plot → Plot → Prop} {I : State → Prop}
    (keeps : ∀ s p, I s → I (f s p)) (trans : ∀ {p a b c}, R p a b → R p b c → R p a c)
    (step : ∀ s p, I s → R p (s.plot p) ((f s p).plot p))
    (others : ∀ (s : State) {p q}, q ≠ p → (f s p).plot q = s.plot q) {s : State} (l : List PlotIx) (inv : I s) :
    (∀ p ∈ l, R p (s.plot p) ((s.forEach l f).plot p)) ∧ (∀ p, p ∉ l → (s.forEach l f).plot p = s.plot p) ∧
      I (s.forEach l f) := by
  induction l generalizing s with
  | nil => exact ⟨nofun, fun _ _ => rfl, inv⟩
  | cons a l ih =>
    obtain ⟨inside, outside, after⟩ := ih (keeps s a inv)
    refine ⟨fun p mem => ?_, fun p out => ?_, after⟩
    · by_cases e : p = a
      · subst e
        by_cases again : p ∈ l
        · exact trans (step s p inv) (inside p again)
        · exact (congrArg (R p (s.plot p)) (outside p again)).mpr (step s p inv)
      · exact others s e ▸ inside p (List.mem_of_ne_of_mem e mem)
    · obtain ⟨ne, out⟩ : p ≠ a ∧ p ∉ l := by simpa using out
      exact (outside p out).trans (others s ne)

theorem State.forEach_plots {f : State → PlotIx → State} {R : Plot → Plot → Prop} (trans : ∀ {a b c}, R a b → R b c → R a c)
    (step : ∀ s p, R (s.plot p) ((f s p).plot p)) (others : ∀ (s : State) {p q}, q ≠ p → (f s p).plot q = s.plot q)
    (s : State) (l : List PlotIx) :
    (∀ p ∈ l, R (s.plot p) ((s.forEach l f).plot p)) ∧ ∀ p, p ∉ l → (s.forEach l f).plot p = s.plot p := by
  obtain ⟨inside, outside, -⟩ := State.forEach_plots_of (R := fun _ => R) (I := fun _ => True) (fun _ _ _ => trivial)
    (fun h g => trans h g) (fun s p _ => step s p) others (s := s) l trivial
  exact ⟨inside, outside⟩

/-! ### Delivery (R111, R142, R220) -/

/-- A combination of id `id` whose combined register is `r` has reached a plot, which stood as `q` and now stands as `x`. -/
structure Delivered (id : Fin 4096) (r : RakeReg) (q x : Plot) : Prop where
  rake : x.rake = if id.val = 4095 then q.rake else r
  failvec : x.failvec = if id.val = 4095 then 0 else q.failvec
  done : q.seq.busy = .collective id → x.seq.pc = w32 (q.seq.pc.toNat + 16) ∧ x.seq.busy = .ready
  others : q.seq.busy ≠ .collective id → x.seq.pc = q.seq.pc ∧ x.seq.busy = q.seq.busy
  store : x.store = q.store
  row : x.seq.row = q.seq.row

/-- A second delivery changes nothing that the first has settled. -/
theorem Delivered.trans {id : Fin 4096} {r : RakeReg} {q x y : Plot} (h : Delivered id r q x) (g : Delivered id r x y) :
    Delivered id r q y := by
  refine ⟨?_, ?_, fun waits => ?_, fun ne => ?_, g.store.trans h.store, g.row.trans h.row⟩
  · rw [g.rake, h.rake]; split <;> rfl
  · rw [g.failvec, h.failvec]; split <;> rfl
  · obtain ⟨pc, ready⟩ := h.done waits
    obtain ⟨pc', ready'⟩ := g.others (by rw [ready]; exact nofun)
    exact ⟨pc'.trans pc, ready'.trans ready⟩
  · obtain ⟨pc, busy⟩ := h.others ne
    obtain ⟨pc', busy'⟩ := g.others (busy ▸ ne)
    exact ⟨pc'.trans pc, busy'.trans busy⟩

theorem Delivered.sown {id : Fin 4096} {r : RakeReg} {q x : Plot} (h : Delivered id r q x) (b : Bool) :
    Delivered id r q { x with seq := { x.seq with sowing := b } } :=
  ⟨h.rake, h.failvec, h.done, h.others, h.store, h.row⟩

theorem State.endCollWatch_plot (s : State) (p : PlotIx) (id : Fin 4096) (q : PlotIx) :
    (s.endCollWatch p id).plot q = s.plot q := State.plot_of_plots (State.traceDie_plots ..) q

/-- What the delivery makes of a participant's registers before its command is done. -/
def Plot.receive (q : Plot) (id : Fin 4096) (r : RakeReg) : Plot :=
  if id.val = 4095 then { q with failvec := 0, seq := { q.seq with voted := true } } else { q with rake := r }

theorem Plot.receive_seq (q : Plot) (id : Fin 4096) (r : RakeReg) :
    (q.receive id r).seq = { q.seq with voted := (q.receive id r).seq.voted } := by
  unfold Plot.receive
  split <;> rfl

theorem Plot.receive_rake (q : Plot) (id : Fin 4096) (r : RakeReg) :
    (q.receive id r).rake = if id.val = 4095 then q.rake else r := by
  unfold Plot.receive
  split <;> rfl

theorem Plot.receive_failvec (q : Plot) (id : Fin 4096) (r : RakeReg) :
    (q.receive id r).failvec = if id.val = 4095 then 0 else q.failvec := by
  unfold Plot.receive
  split <;> rfl

theorem Plot.receive_store (q : Plot) (id : Fin 4096) (r : RakeReg) : (q.receive id r).store = q.store := by
  unfold Plot.receive
  split <;> rfl

theorem State.deliver_receive (s : State) (p : PlotIx) (id : Fin 4096) (r : RakeReg) :
    s.deliver p id r =
      if (s.plot p).seq.busy = .collective id then ((s.endCollWatch p id).modPlot p fun q => q.receive id r).finish p
      else (s.endCollWatch p id).modPlot p fun q => q.receive id r := by
  have busy : (((s.endCollWatch p id).modPlot p fun q => q.receive id r).plot p).seq.busy = (s.plot p).seq.busy := by
    rw [State.modPlot_plot, s.endCollWatch_plot, Plot.receive_seq]
  rw [← busy]
  rfl

/-- The delivery reaches its plot. -/
theorem State.deliver_delivered (s : State) (p : PlotIx) (id : Fin 4096) (r : RakeReg) :
    Delivered id r (s.plot p) ((s.deliver p id r).plot p) := by
  have received : ((s.endCollWatch p id).modPlot p fun q => q.receive id r).plot p = (s.plot p).receive id r := by
    rw [State.modPlot_plot, s.endCollWatch_plot]
  rw [s.deliver_receive]
  split
  case isTrue waits =>
    have after := ((s.endCollWatch p id).modPlot p fun q => q.receive id r).finish_plot p
    have moved := ((s.endCollWatch p id).modPlot p fun q => q.receive id r).finish_moved p
    exact ⟨by rw [after, received, Plot.receive_rake], by rw [after, received, Plot.receive_failvec],
      fun _ => ⟨by rw [moved.pc, behind, received, Plot.receive_seq], moved.ready⟩, fun ne => absurd waits ne,
      by rw [after, received, Plot.receive_store], by rw [moved.row, received, Plot.receive_seq]⟩
  case isFalse free =>
    rw [received]
    exact ⟨Plot.receive_rake .., Plot.receive_failvec .., fun waits => absurd waits free,
      fun _ => ⟨by rw [Plot.receive_seq], by rw [Plot.receive_seq]⟩, Plot.receive_store .., by rw [Plot.receive_seq]⟩

theorem State.deliver_others (s : State) {p q : PlotIx} (id : Fin 4096) (r : RakeReg) (ne : q ≠ p) :
    (s.deliver p id r).plot q = s.plot q := by
  have received : ((s.endCollWatch p id).modPlot p fun q => q.receive id r).plot q = s.plot q := by
    rw [State.modPlot_plot_ne _ _ _ _ ne.symm, s.endCollWatch_plot]
  rw [s.deliver_receive]
  split
  · exact ((State.finish_plotAndTrace _ p).others q ne).trans received
  · exact received

/-- The parts of the module that a delivery leaves alone. -/
def State.outside (s : State) := (s.kuf, s.fb, s.job, s.evr, s.pwr)

theorem State.outside_of_core {s t : State} (core : t.core = s.core) (evr : t.evr = s.evr) : t.outside = s.outside := by
  obtain ⟨-, -, -, job, fb, -, kuf, pwr, -⟩ := (State.core_eq _ _).1 core
  simp only [State.outside, job, fb, kuf, pwr, evr]

theorem State.deliver_outside (s : State) (p : PlotIx) (id : Fin 4096) (r : RakeReg) :
    (s.deliver p id r).outside = s.outside := by
  have ended : (s.endCollWatch p id).outside = s.outside := by
    unfold State.endCollWatch
    exact (State.outside_of_core (State.traceDie_core ..) (State.traceDie_evr ..)).trans rfl
  rw [s.deliver_receive]
  split
  · exact (State.outside_of_core (State.finish_core ..) (State.finishAt_evr ..)).trans ended
  · exact ended

/-- The delivery to a list of participants reaches each of them, and no other plot. -/
theorem State.forEach_deliver (s : State) (l : List PlotIx) (id : Fin 4096) (r : RakeReg) :
    (∀ p ∈ l, Delivered id r (s.plot p) ((s.forEach l fun u p => u.deliver p id r).plot p)) ∧
      ∀ p, p ∉ l → (s.forEach l fun u p => u.deliver p id r).plot p = s.plot p :=
  State.forEach_plots (fun h g => h.trans g) (fun u p => u.deliver_delivered p id r) (fun u _ _ => u.deliver_others id r) s l

/-! ### The end of a sowing barrier (R341) -/

/-- A sowing barrier holds every plot's next command while sowing is on, and changes nothing else of it. -/
theorem State.sowBarrier_plot (s : State) (p : PlotIx) :
    s.sowBarrier.plot p =
      { s.plot p with seq := { (s.plot p).seq with sowing := bit s.pwr.sow 31 || (s.plot p).seq.sowing } } := by
  unfold State.sowBarrier
  split
  case isTrue on => simp [State.plot, Vector.get_eq_getElem, on]
  case isFalse off => simp [off]

theorem State.sowBarrier_evr (s : State) : s.sowBarrier.evr = s.evr := by
  unfold State.sowBarrier
  split <;> rfl

/-! ### COMBINE_DELIVERY -/

/-- The state in which combination c has left the list, and its register has gone to the allocator if it is the vote's. -/
def State.takeColl (s : State) (c : Collective) (id : Fin 4096) (r : RakeReg) : State :=
  { s with
    kuf := { s.kuf with colls := s.kuf.colls.erase c }
    fb := if id.val = 4095 then { s.fb with voteReady := some r } else s.fb }

theorem execCombineDelivery_delivers {s : State} {id : Fin 4096} {c : Collective} {r : RakeReg}
    (found : s.kuf.colls.find? (fun c => c.id = id && c.reg.isSome) = some c) (reg : c.reg = some r)
    (done : (s.schedule id).length ≤ c.step) :
    execCombineDelivery id s =
      .next ((s.takeColl c id r).forEach c.members fun u p => u.deliver p id r).sowBarrier := by
  simp only [execCombineDelivery, found, reg, Nat.not_lt.2 done, if_false]
  by_cases vote : id.val = 4095 <;> simp [State.takeColl, vote]

end Sys2Proof.Machine

namespace Sys2Proof.FourBit

open Sys2Proof.Machine Sys2Proof.Claim

/-- Settles O12: both commands join by the same operation, with their own register, count and kind of watch. -/
theorem combineAndVoteJoin : Obligations.CombineAndVoteJoin := by
  intro s s1 p c members images w id count own kind i command gathers agree
  obtain ⟨u, run, near, seq, store, rake⟩ : ∃ u, exec i s = .next (u.joinColl p (c.pos (s1.plot p).seq.row) id count own kind) ∧
      PlotAndTrace s1 u p ∧ (u.plot p).seq = { (s1.plot p).seq with waiting := (u.plot p).seq.waiting } ∧
      (u.plot p).store = (s1.plot p).store ∧ (u.plot p).rake = (s1.plot p).rake := by
    obtain ⟨rfl, fetched, arg1, arg2, low, high, idle, rfl, rfl, rfl, rfl⟩ |
      ⟨flt, rfl, fetched, arg1, arg2, arg3, base, first, rfl, rfl, rfl, rfl⟩ := command
    · have plot : ((afterIssue s1 p c).unholdCommand p).plot p =
          { s1.plot p with seq := { (s1.plot p).seq with waiting := false }, held := (s1.plot p).held.filter (· ≠ .fetch) } := by
        simp [State.unholdCommand, State.setHeld]
      exact ⟨_, execRcombine_joins fetched arg1 arg2 low high idle,
        ((afterIssue_plotAndTrace s1 p c).modPlot _).modPlot fun q => { q with seq := { q.seq with waiting := false } },
        by rw [plot], by rw [plot], by rw [plot]⟩
    · exact ⟨_, execVote_joins fetched arg1 arg2 arg3 base first, afterIssue_plotAndTrace s1 p c, by rw [afterIssue_plot],
        by rw [afterIssue_plot], by rw [afterIssue_plot]⟩
  have joins := (State.Gathers.of_kuf gathers near.elsewhere.kuf).joinColl_joined (pos := c.pos (s1.plot p).seq.row) agree kind
  rw [joins] at run
  obtain ⟨colls, regs, stands, job, evr⟩ :=
    near.joined (c.pos (s1.plot p).seq.row) (gathered id count members images) kind seq
  have plot := u.joined_plot p (c.pos (s1.plot p).seq.row) (gathered id count members images) kind
  refine ⟨_, run, colls, ?_, by rw [plot]; rfl, by rw [plot], stands, job, evr, by rw [plot, store], by rw [plot, rake]⟩
  rintro rfl
  exact regs

/-- Settles O25: the participants are served one after another, and a second delivery to the same plot changes nothing. -/
theorem combineDeliveryReachesEveryParticipant : Obligations.CombineDeliveryReachesEveryParticipant := by
  intro s id c r found reg done
  have delivered := (s.takeColl c id r).forEach_deliver c.members id r
  have kept := State.forEach_keeps State.outside (s.takeColl c id r) c.members (fun u p => u.deliver p id r)
    fun u p => u.deliver_outside p id r
  generalize served : ((s.takeColl c id r).forEach c.members fun u p => u.deliver p id r) = u at delivered kept
  obtain ⟨inside, outside⟩ := delivered
  simp only [State.outside, Prod.mk.injEq] at kept
  obtain ⟨kuf, fb, job, evr, pwr⟩ := kept
  obtain ⟨-, -, -, job', fb', -, kuf', pwr', -⟩ := (State.core_eq _ _).1 u.sowBarrier_core
  refine ⟨_, execCombineDelivery_delivers found reg done, ?_⟩
  rw [served]
  refine ⟨kuf'.trans kuf, fun p mem => ?_, fun p out => ?_, fb'.trans fb, job'.trans job, u.sowBarrier_evr.trans evr,
    pwr'.trans pwr⟩
  · have sown := (inside p mem).sown (bit u.pwr.sow 31 || (u.plot p).seq.sowing)
    rw [← u.sowBarrier_plot p] at sown
    exact ⟨sown.rake, sown.failvec, sown.done, sown.others, sown.store, sown.row⟩
  · rw [u.sowBarrier_plot, outside p out, pwr]
    by_cases on : bit s.pwr.sow 31 = true <;> simp [State.takeColl, State.plot, on]

end Sys2Proof.FourBit
end

section
/-! The fallback allocator: the order in which it takes the layers, the words that it writes into their entries, and the statement
about it (R103, R112, R113). -/

namespace Sys2Proof.Machine

/-! ### Sorting by a key -/

theorem insertKey_perm {α : Type} (key : α → Nat) (x : α) (l : List α) : (insertKey key x l).Perm (x :: l) := by
  induction l with
  | nil => exact .refl _
  | cons y l ih =>
    unfold insertKey
    split
    · exact .refl _
    · exact (ih.cons y).trans (.swap x y l)

theorem foldl_insertKey_perm {α : Type} (key : α → Nat) (l acc : List α) :
    (l.foldl (fun acc x => insertKey key x acc) acc).Perm (l ++ acc) := by
  induction l generalizing acc with
  | nil => exact .refl _
  | cons x l ih =>
    exact (ih _).trans (((insertKey_perm key x acc).append_left l).trans List.perm_middle)

/-- Sorting keeps the items of a list. -/
theorem sortKey_perm {α : Type} (key : α → Nat) (l : List α) : (sortKey key l).Perm l := by
  simpa [sortKey] using foldl_insertKey_perm key l []

/-! ### The allocation (R113) -/

/-- An entry of the allocation either changes and is listed with its index, or is left alone; the units in use stay within the
capacity. -/
theorem Alloc.visit_changes (total : Nat) (v : BitVec 512) (a : Alloc) (x : Nat × FltEntry) :
    (a.visit total v x).changes = a.changes ∨ ∃ y, (a.visit total v x).changes = a.changes ++ [(x.1, y)] := by
  simp only [Alloc.visit]
  repeat' split
  all_goals simp

theorem Alloc.visit_used (total : Nat) (v : BitVec 512) (a : Alloc) (x : Nat × FltEntry) (fits : a.used ≤ total) :
    (a.visit total v x).used ≤ total := by
  simp only [Alloc.visit]
  split
  · exact fits
  · split
    · rename_i room
      simp only [Bool.and_eq_true, decide_eq_true_eq] at room
      exact room.2
    · split <;> exact fits

theorem Alloc.foldl_visit_used (total : Nat) (v : BitVec 512) (l : List (Nat × FltEntry)) (a : Alloc) (fits : a.used ≤ total) :
    (l.foldl (Alloc.visit total v) a).used ≤ total :=
  List.foldlRecOn (motive := fun a : Alloc => a.used ≤ total) l _ fits fun a h x _ => a.visit_used total v x h

/-- The entries that an allocation changes are entries of its list, in the list's order. -/
theorem Alloc.foldl_visit_changes (total : Nat) (v : BitVec 512) (l : List (Nat × FltEntry)) (a : Alloc) :
    ∃ r, r.Sublist (l.map (·.1)) ∧
      (l.foldl (Alloc.visit total v) a).changes.map (·.1) = a.changes.map (·.1) ++ r := by
  induction l generalizing a with
  | nil => exact ⟨[], .refl _, by simp⟩
  | cons x l ih =>
    obtain ⟨r, sub, e⟩ := ih (a.visit total v x)
    rw [List.foldl_cons, e]
    obtain same | ⟨y, more⟩ := a.visit_changes total v x
    · exact ⟨r, sub.trans (List.sublist_cons_self _ _), by rw [same]⟩
    · exact ⟨x.1 :: r, sub.cons_cons _, by rw [more]; simp⟩

/-- An allocation over a table's entries changes each of them at most once. -/
theorem Alloc.changes_nodup (total : Nat) (v : BitVec 512) (key : Nat × FltEntry → Nat) (n used : Nat) (f : Nat → FltEntry) :
    (((sortKey key ((List.range n).map fun i => (i, f i))).foldl (Alloc.visit total v)
      { used := used, blocked := false, changes := [] }).changes.map (·.1)).Nodup := by
  obtain ⟨r, sub, e⟩ := Alloc.foldl_visit_changes total v (sortKey key ((List.range n).map fun i => (i, f i)))
    { used := used, blocked := false, changes := [] }
  rw [e]
  have once : ((sortKey key ((List.range n).map fun i => (i, f i))).map (·.1)).Nodup := by
    refine (((sortKey_perm key _).map _).nodup_iff).2 ?_
    simpa [Function.comp_def] using List.nodup_range
  exact sub.nodup once

/-! ### Words of device memory -/

theorem State.memWord_congr {s t : State} {a : Nat}
    (same : ∀ b, a ≤ b → b < a + 4 → cellGet 0 t.mem.cells b = cellGet 0 s.mem.cells b) : t.memWord a = s.memWord a := by
  have bytes : t.memBytes a 4 = s.memBytes a 4 :=
    List.map_congr_left fun i mem => same _ (by omega) (by have := List.mem_range.1 mem; omega)
  rw [State.memWord, State.memWord, bytes]

/-- A word that an engine has written is read back. -/
theorem State.memWord_engineWrite (s : State) (a : Nat) (w : W32) (form : Memory.wf s.mem.cells = true) :
    (s.engineWrite a (bytesOfWord w)).memWord a = w := by
  have bytes : (s.engineWrite a (bytesOfWord w)).memBytes a 4 = bytesOfWord w :=
    cellsGet_cellsPut_self 0 s.mem.cells a (bytesOfWord w) form
  rw [State.memWord, bytes, wordAt_bytesOfWord_self]

theorem State.cellGet_engineWrite_ne (s : State) {a b : Nat} (w : W32) (form : Memory.wf s.mem.cells = true)
    (apart : b < a ∨ a + 4 ≤ b) :
    cellGet 0 (s.engineWrite a (bytesOfWord w)).mem.cells b = cellGet 0 s.mem.cells b := by
  rw [State.engineWrite, cellGet_cellsPut 0 s.mem.cells a b _ form, bytesOfWord_length, if_neg (by omega)]

theorem State.memWord_engineWrite_ne (s : State) {a b : Nat} (w : W32) (form : Memory.wf s.mem.cells = true)
    (apart : b + 4 ≤ a ∨ a + 4 ≤ b) : (s.engineWrite a (bytesOfWord w)).memWord b = s.memWord b :=
  State.memWord_congr fun _ _ _ => s.cellGet_engineWrite_ne w form (by omega)

/-- An engine writes several words, one after another. -/
def State.putWords (s : State) (l : List (Nat × W32)) : State := s.forEach l fun u x => u.engineWrite x.1 (bytesOfWord x.2)

theorem State.putWords_form (s : State) (l : List (Nat × W32)) (form : Memory.wf s.mem.cells = true) :
    Memory.wf (s.putWords l).mem.cells = true :=
  List.foldlRecOn (motive := fun u : State => Memory.wf u.mem.cells = true) l _ form fun u h x _ =>
    u.engineWrite_wf x.1 (bytesOfWord x.2) h

theorem State.cellGet_putWords_ne (s : State) (l : List (Nat × W32)) {b : Nat} (form : Memory.wf s.mem.cells = true)
    (apart : ∀ x ∈ l, b < x.1 ∨ x.1 + 4 ≤ b) : cellGet 0 (s.putWords l).mem.cells b = cellGet 0 s.mem.cells b := by
  induction l generalizing s with
  | nil => rfl
  | cons x l ih =>
    exact (ih _ (s.engineWrite_wf _ _ form) fun y mem => apart y (List.mem_cons_of_mem _ mem)).trans
      (s.cellGet_engineWrite_ne x.2 form (apart x List.mem_cons_self))

/-- Words written side by side are all read back. -/
theorem State.memWord_putWords (s : State) (l : List (Nat × W32)) (form : Memory.wf s.mem.cells = true)
    (apart : l.Pairwise fun x y => x.1 + 4 ≤ y.1 ∨ y.1 + 4 ≤ x.1) : ∀ x ∈ l, (s.putWords l).memWord x.1 = x.2 := by
  induction l generalizing s with
  | nil => exact nofun
  | cons x l ih =>
    obtain ⟨first, rest⟩ := List.pairwise_cons.1 apart
    have next := ih (s.engineWrite x.1 (bytesOfWord x.2)) (s.engineWrite_wf _ _ form) rest
    intro y mem
    obtain rfl | later := List.mem_cons.1 mem
    · refine (State.memWord_congr fun b low high => ?_).trans (s.memWord_engineWrite y.1 y.2 form)
      refine State.cellGet_putWords_ne _ l (s.engineWrite_wf _ _ form) fun z mem => ?_
      have := first z mem
      omega
    · exact next y later

/-! ### The changed entries (R103, R112) -/

/-- The word of STATE of a changed entry, whose word was `old`. -/
def changedState (old : W32) (x : Nat × Nat × Nat) : W32 := w32 (old.toNat / 4 * 4 + x.2.1)

/-- The word of RESOFF and of the upper bits of SWITCHROW of an entry that is switched from a row on. -/
def changedReserve (row : Nat) (x : Nat × Nat × Nat) : W32 := w32 (x.2.2 * 2 ^ 16 + row / 2 ^ 32 % 2 ^ 16)

/-- The words of a changed entry at address `a`, whose word of STATE was `old`, with their complements (R103). -/
def changeWords (old : W32) (a row : Nat) (x : Nat × Nat × Nat) : List (Nat × W32) :=
  [(a + 0x0C, changedState old x), (a + 0x18, ~~~(changedState old x))] ++
    if x.2.1 = 2 then [(a + 0x10, w32 row), (a + 0x14, changedReserve row x), (a + 0x1C, ~~~(changedReserve row x))] else []

theorem changeWords_apart (old : W32) (a row : Nat) (x : Nat × Nat × Nat) :
    (changeWords old a row x).Pairwise fun x y => x.1 + 4 ≤ y.1 ∨ y.1 + 4 ≤ x.1 := by
  unfold changeWords
  split <;> simp

theorem changeWords_inside (old : W32) (a row : Nat) (x : Nat × Nat × Nat) :
    ∀ y ∈ changeWords old a row x, a + 0x0C ≤ y.1 ∧ y.1 + 4 ≤ a + 0x20 := by
  unfold changeWords
  split <;> simp

/-- The parts of the module that the allocator's work on the entries leaves alone. -/
def State.beside (s : State) := (s.plots, s.sync, s.job, s.kuf, s.fb)

theorem State.writeChange_putWords (s : State) (flt row : Nat) (x : Nat × Nat × Nat) :
    ∃ f, s.writeChange flt row x =
      ((s.putWords (changeWords (s.memWord (fltEntryAddr flt x.1 + 0x0C)) (fltEntryAddr flt x.1) row x)).noteGuarded
        (fltEntryAddr flt x.1)).notice f x.1 [] := by
  unfold State.writeChange changeWords
  split <;> exact ⟨_, rfl⟩

theorem State.noteGuarded_mem (s : State) (a : Nat) : (s.noteGuarded a).mem = s.mem := by
  unfold State.noteGuarded
  split <;> rfl

theorem State.noteGuarded_beside (s : State) (a : Nat) : (s.noteGuarded a).beside = s.beside := by
  unfold State.noteGuarded
  split <;> rfl

theorem State.writeChange_mem (s : State) (flt row : Nat) (x : Nat × Nat × Nat) :
    (s.writeChange flt row x).mem =
      (s.putWords (changeWords (s.memWord (fltEntryAddr flt x.1 + 0x0C)) (fltEntryAddr flt x.1) row x)).mem := by
  obtain ⟨f, e⟩ := s.writeChange_putWords flt row x
  rw [e, State.notice_mem, State.noteGuarded_mem]

theorem State.writeChange_beside (s : State) (flt row : Nat) (x : Nat × Nat × Nat) :
    (s.writeChange flt row x).beside = s.beside := by
  have put : ∀ l, (s.putWords l).beside = s.beside := fun l => State.forEach_keeps State.beside s l _ fun _ _ => rfl
  have noted : ∀ u : State, ∀ f, (u.notice f x.1 []).beside = u.beside := fun u f => by simp [State.beside]
  obtain ⟨f, e⟩ := s.writeChange_putWords flt row x
  rw [e, noted, State.noteGuarded_beside, put]

/-- In `t` the entry of a change holds its new state, and of a switch SWITCHROW and RESOFF, with their complements (R103). -/
structure EntryChanged (s t : State) (flt row : Nat) (x : Nat × Nat × Nat) : Prop where
  state : t.memWord (fltEntryAddr flt x.1 + 0x0C) = changedState (s.memWord (fltEntryAddr flt x.1 + 0x0C)) x
  complement : t.memWord (fltEntryAddr flt x.1 + 0x18) = ~~~(t.memWord (fltEntryAddr flt x.1 + 0x0C))
  switched : x.2.1 = 2 → t.memWord (fltEntryAddr flt x.1 + 0x10) = w32 row ∧
    t.memWord (fltEntryAddr flt x.1 + 0x14) = changedReserve row x ∧
    t.memWord (fltEntryAddr flt x.1 + 0x1C) = ~~~(t.memWord (fltEntryAddr flt x.1 + 0x14))

theorem State.writeChange_form (s : State) (flt row : Nat) (x : Nat × Nat × Nat) (form : Memory.wf s.mem.cells = true) :
    Memory.wf (s.writeChange flt row x).mem.cells = true := by
  rw [s.writeChange_mem]
  exact s.putWords_form _ form

theorem State.writeChange_changed (s : State) (flt row : Nat) (x : Nat × Nat × Nat) (form : Memory.wf s.mem.cells = true) :
    EntryChanged s (s.writeChange flt row x) flt row x := by
  have words : ∀ a w, (a, w) ∈ changeWords (s.memWord (fltEntryAddr flt x.1 + 0x0C)) (fltEntryAddr flt x.1) row x →
      (s.writeChange flt row x).memWord a = w := fun a w mem =>
    (State.memWord_congr fun _ _ _ => by rw [s.writeChange_mem]).trans
      (s.memWord_putWords _ form (changeWords_apart ..) (a, w) mem)
  have state := words _ _ (List.mem_append_left _ List.mem_cons_self)
  have complement := words _ _ (List.mem_append_left _ (List.mem_cons_of_mem _ List.mem_cons_self))
  refine ⟨state, by rw [complement, state], fun switch => ?_⟩
  have from_row := words (fltEntryAddr flt x.1 + 0x10) (w32 row) (by simp [changeWords, switch])
  have reserve := words (fltEntryAddr flt x.1 + 0x14) (changedReserve row x) (by simp [changeWords, switch])
  have complement := words (fltEntryAddr flt x.1 + 0x1C) (~~~(changedReserve row x)) (by simp [changeWords, switch])
  exact ⟨from_row, reserve, by rw [complement, reserve]⟩

theorem State.cellGet_writeChange_ne (s : State) (flt row : Nat) (x : Nat × Nat × Nat) {b : Nat}
    (form : Memory.wf s.mem.cells = true)
    (apart : b < fltEntryAddr flt x.1 + 0x0C ∨ fltEntryAddr flt x.1 + 0x20 ≤ b) :
    cellGet 0 (s.writeChange flt row x).mem.cells b = cellGet 0 s.mem.cells b := by
  rw [s.writeChange_mem]
  refine s.cellGet_putWords_ne _ form fun y mem => ?_
  have := changeWords_inside _ _ _ _ y mem
  omega

/-- Writing the entry of another layer neither reaches an entry nor what has been written into it. -/
theorem EntryChanged.congr {s t s' t' : State} {flt row : Nat} {x : Nat × Nat × Nat} (h : EntryChanged s t flt row x)
    (before : ∀ k, 0x0C ≤ k → k < 0x20 → cellGet 0 s'.mem.cells (fltEntryAddr flt x.1 + k) =
      cellGet 0 s.mem.cells (fltEntryAddr flt x.1 + k))
    (after : ∀ k, 0x0C ≤ k → k < 0x20 → cellGet 0 t'.mem.cells (fltEntryAddr flt x.1 + k) =
      cellGet 0 t.mem.cells (fltEntryAddr flt x.1 + k)) : EntryChanged s' t' flt row x := by
  have words : ∀ u u' : State, (∀ k, 0x0C ≤ k → k < 0x20 → cellGet 0 u'.mem.cells (fltEntryAddr flt x.1 + k) =
      cellGet 0 u.mem.cells (fltEntryAddr flt x.1 + k)) → ∀ k, 0x0C ≤ k → k + 4 ≤ 0x20 →
      u'.memWord (fltEntryAddr flt x.1 + k) = u.memWord (fltEntryAddr flt x.1 + k) := by
    intro u u' same k low high
    refine State.memWord_congr fun b first last => ?_
    obtain ⟨d, rfl⟩ := Nat.exists_eq_add_of_le first
    rw [Nat.add_assoc]
    exact same _ (by omega) (by omega)
  have old := words s s' before
  have new := words t t' after
  refine ⟨?_, ?_, fun switch => ?_⟩
  · rw [new _ (by omega) (by omega), old _ (by omega) (by omega), h.state]
  · rw [new _ (by omega) (by omega), new _ (by omega) (by omega), h.complement]
  · rw [new _ (by omega) (by omega), new _ (by omega) (by omega), new _ (by omega) (by omega)]
    exact h.switched switch

/-- The allocator's writes, one entry after another. -/
def State.writeChanges (s : State) (flt : Nat) (l : List (Nat × Nat × Nat)) : State :=
  s.forEach l fun u x => u.writeChange flt (u.job.row.toNat + 1) x

theorem State.writeChanges_beside (s : State) (flt : Nat) (l : List (Nat × Nat × Nat)) :
    (s.writeChanges flt l).beside = s.beside :=
  State.forEach_keeps State.beside s l _ fun _ _ => State.writeChange_beside ..

theorem State.cellGet_writeChanges_ne (s : State) (flt : Nat) (l : List (Nat × Nat × Nat)) {b : Nat}
    (form : Memory.wf s.mem.cells = true)
    (apart : ∀ x ∈ l, b < fltEntryAddr flt x.1 + 0x0C ∨ fltEntryAddr flt x.1 + 0x20 ≤ b) :
    cellGet 0 (s.writeChanges flt l).mem.cells b = cellGet 0 s.mem.cells b := by
  induction l generalizing s with
  | nil => rfl
  | cons x l ih =>
    exact (ih _ (s.writeChange_form _ _ _ form) fun y mem => apart y (List.mem_cons_of_mem _ mem)).trans
      (s.cellGet_writeChange_ne _ _ _ form (apart x List.mem_cons_self))

/-- Entries of distinct layers all hold their changes. -/
theorem State.writeChanges_changed (s : State) (flt : Nat) (l : List (Nat × Nat × Nat)) (form : Memory.wf s.mem.cells = true)
    (once : (l.map (·.1)).Nodup) : ∀ x ∈ l, EntryChanged s (s.writeChanges flt l) flt (s.job.row.toNat + 1) x := by
  induction l generalizing s with
  | nil => exact nofun
  | cons x l ih =>
    obtain ⟨new, once⟩ := List.nodup_cons.1 once
    have form' := s.writeChange_form flt (s.job.row.toNat + 1) x form
    have next := ih _ form' once
    have job : (s.writeChange flt (s.job.row.toNat + 1) x).job = s.job := by
      have := s.writeChange_beside flt (s.job.row.toNat + 1) x
      simp only [State.beside, Prod.mk.injEq] at this
      exact this.2.2.1
    intro y mem
    obtain rfl | later := List.mem_cons.1 mem
    · refine (s.writeChange_changed flt _ y form).congr (fun _ _ _ => rfl) fun k low high => ?_
      refine State.cellGet_writeChanges_ne _ flt l form' fun z mem => ?_
      have ne : z.1 ≠ y.1 := fun e => new (List.mem_map.2 ⟨z, mem, e⟩)
      simp only [fltEntryAddr]
      omega
    · have ne : y.1 ≠ x.1 := fun e => new (List.mem_map.2 ⟨y, later, e⟩)
      rw [job] at next
      refine (next y later).congr (fun k low high => ?_) fun _ _ _ => rfl
      refine (s.cellGet_writeChange_ne flt _ x form ?_).symm
      simp only [fltEntryAddr]
      omega

/-! ### FALLBACK_ALLOCATION -/

/-- The state that an allocation `a` of `total` units over `n` entries leaves, with the combined fail vector `v` (R112, R116). -/
def State.switchLayers (s : State) (flt n total : Nat) (a : Alloc) (v : BitVec 512) : State :=
  let s1 := { s with fb := { s.fb with voteReady := none } }.writeChanges flt a.changes
  let after := (List.range n).map fun i => (s1.fltEntryAt flt i).state
  { s1 with fb := { s1.fb with
      used := a.used, resfree := BitVec.ofNat 16 (total - a.used), pendingN := BitVec.ofNat 10 (after.filter (· = 1)).length
      switchedN := BitVec.ofNat 10 (after.filter (· = 2)).length, fbrow := s.job.row, fblast := v, allocDone := true } }

theorem execFallbackAllocation_differs {s : State} {r : RakeReg} {flt : Nat} (ready : s.fb.voteReady = some r)
    (base : s.fltBase = some flt)
    (differ : w32 (r.value.toNat / 2 ^ 512) ^^^ w32 (r.value.toNat / 2 ^ 544) ≠ 0xFFFFFFFF#32) :
    execFallbackAllocation s = .next ({ s with fb := { s.fb with voteReady := none } }.raiseLead
      (s.mkErr 0x0205 .jobFatal srcEngine (w32 (r.value.toNat / 2 ^ 512)).toNat [(w32 (r.value.toNat / 2 ^ 544)).toNat])) := by
  simp only [execFallbackAllocation, ready, base]
  exact if_pos differ

theorem execFallbackAllocation_allocates {s : State} {r : RakeReg} {flt : Nat} (ready : s.fb.voteReady = some r)
    (base : s.fltBase = some flt)
    (agree : w32 (r.value.toNat / 2 ^ 512) ^^^ w32 (r.value.toNat / 2 ^ 544) = 0xFFFFFFFF#32) :
    execFallbackAllocation s = .next (s.switchLayers flt (s.fltHdrAt flt).entries ((s.fltHdrAt flt).rescap + s.fb.extra.toNat)
      ((sortKey (fun x => x.2.prio * 1024 + x.1) ((List.range (s.fltHdrAt flt).entries).map fun i => (i, s.fltEntryAt flt i))).foldl
        (Alloc.visit ((s.fltHdrAt flt).rescap + s.fb.extra.toNat) (BitVec.ofNat 512 r.value.toNat))
        { used := s.fb.used, blocked := false, changes := [] }) (BitVec.ofNat 512 r.value.toNat)) := by
  simp only [execFallbackAllocation, ready, base, State.switchLayers, State.writeChanges]
  rw [if_neg (not_not.2 agree)]

end Sys2Proof.Machine

namespace Sys2Proof.FourBit

open Sys2Proof.Machine

/-- Settles O26: the allocation lists each changed entry once, and the writes of distinct entries do not meet. -/
theorem fallbackAllocationSwitchesLayers : Obligations.FallbackAllocationSwitchesLayers := by
  rintro s r flt total row d1 d2 es a ready base rfl rfl rfl rfl rfl alloc
  refine ⟨fun differ => ?differ, fun agree form => ?agree⟩
  case differ =>
    exact ⟨_, execFallbackAllocation_differs ready base differ, State.raiseLead_fb .., State.raiseLead_mem ..,
      State.raiseLead_plots .., State.raiseLead_job .., State.raiseLead_kuf ..,
      congrArg RecHalf.registered (State.raise_half ..)⟩
  case agree =>
    have once := Alloc.changes_nodup ((s.fltHdrAt flt).rescap + s.fb.extra.toNat) (BitVec.ofNat 512 r.value.toNat)
      (fun x => x.2.prio * 1024 + x.1) (s.fltHdrAt flt).entries s.fb.used (s.fltEntryAt flt)
    have run := execFallbackAllocation_allocates ready base agree
    rw [← alloc] at once run
    have changed := State.writeChanges_changed { s with fb := { s.fb with voteReady := none } } flt a.changes form once
    have kept := State.writeChanges_beside { s with fb := { s.fb with voteReady := none } } flt a.changes
    simp only [State.beside, Prod.mk.injEq] at kept
    obtain ⟨plots, sync, job, kuf, fb⟩ := kept
    refine ⟨_, run, congrArg FourBit.voteReady fb, rfl, rfl, rfl, rfl, rfl, ?_, ?_, ?_, plots, sync, job, kuf⟩
    · rw [alloc]
      exact Alloc.foldl_visit_used _ _ _ { used := s.fb.used, blocked := false, changes := [] }
    · rintro x mem e rfl
      obtain ⟨state, complement, switched⟩ := changed x mem
      exact ⟨state, complement, switched⟩
    · exact fun b => State.cellGet_writeChanges_ne _ flt a.changes form

end Sys2Proof.FourBit
end

section
/-! Registered stops and the debugger's commands at a plot, through the port of the control host (R95, R153, R178, R440, R441). -/

namespace Sys2Proof.Machine

open Sys2Proof.Claim

/-! ### Registered stops (R178, R179) -/

/-- A stop with REASON `r` is registered at plot p, unless one is already, and has met the command in progress: of the plots only
p's sequencer has changed, and else only the sync units and the links. -/
structure StopsAt (s t : State) (p : PlotIx) (r : BitVec 4) : Prop where
  plot : t.plot p =
    { s.plot p with
      seq := { (s.plot p).seq with
        stopping := some ((s.plot p).seq.stopping.getD r)
        busy := (t.plot p).seq.busy
        waiting := (t.plot p).seq.waiting } }
  others : ∀ q, q ≠ p → t.plot q = s.plot q
  elsewhere : { t with plots := s.plots, sync := s.sync, kuf := s.kuf } = s

namespace StopsAt
variable {s t : State} {p : PlotIx} {r : BitVec 4}

theorem mem (h : StopsAt s t p r) : t.mem = s.mem := (congrArg State.mem h.elsewhere :)
theorem job (h : StopsAt s t p r) : t.job = s.job := (congrArg State.job h.elsewhere :)
theorem evr (h : StopsAt s t p r) : t.evr = s.evr := (congrArg State.evr h.elsewhere :)
theorem stopping (h : StopsAt s t p r) : (t.plot p).seq.stopping = some ((s.plot p).seq.stopping.getD r) := by rw [h.plot]

end StopsAt

theorem State.settleStop_others (s : State) {p q : PlotIx} (ne : q ≠ p) : (s.settleStop p).plot q = s.plot q := by
  obtain ⟨u, plots, -, e | e⟩ := s.settleStop_cases p
  · rw [e, State.plot_of_plots plots q]
  · rw [e, State.modSeq_plot_ne _ _ _ _ ne.symm, State.plot_of_plots plots q]

theorem State.settleStop_elsewhere (s : State) (p : PlotIx) :
    { s.settleStop p with plots := s.plots, sync := s.sync, kuf := s.kuf } = s := by
  unfold State.settleStop
  dsimp only
  repeat' split
  all_goals rfl

/-- A stop event keeps the REASON of an earlier one. -/
theorem Seq.stopWith (q : Seq) (r : BitVec 4) :
    (if q.stopping.isNone then { q with stopping := some r } else q) = { q with stopping := some (q.stopping.getD r) } := by
  obtain ⟨⟩ := q
  rename_i stopping _ _ _ _ _ _
  cases stopping <;> rfl

theorem State.stopEvent_plot (s : State) (p : PlotIx) (r : BitVec 4) :
    (s.stopEvent p r).plot p =
      { s.plot p with seq := { (s.plot p).seq with stopping := some ((s.plot p).seq.stopping.getD r) } } := by
  rw [State.stopEvent, State.modSeq_plot, Seq.stopWith]

theorem State.stop_stopsAt (s : State) (p : PlotIx) (r : BitVec 4) : StopsAt s ((s.stopEvent p r).settleStop p) p r := by
  refine ⟨?_, fun q ne => ?_, ?_⟩
  · have settled := (s.stopEvent p r).settleStop_plot p
    rwa [s.stopEvent_plot] at settled
  · rw [State.settleStop_others _ ne, State.stopEvent, State.modSeq_plot_ne _ _ _ _ ne.symm]
  · exact congrArg (fun u : State => { u with plots := s.plots }) ((s.stopEvent p r).settleStop_elsewhere p)

theorem inPart_iff_not_atRest (q : Seq) : inPart q ↔ q.state.atRest = false := by
  simp [inPart, SeqState.atRest, and_assoc]

/-- A plot in a part of the plan takes the stop. -/
theorem State.requestStop_stopsAt {s : State} {p : PlotIx} (runs : inPart (s.plot p).seq) (r : BitVec 4) :
    StopsAt s (s.requestStop p r) p r := by
  obtain ⟨idle, stopped, ended, failed⟩ := runs
  cases stop : (s.plot p).seq.stopping with
  | none =>
    have e : s.requestStop p r = (s.stopEvent p r).settleStop p := by
      simp [State.requestStop, idle, stopped, ended, failed, stop]
    exact e ▸ s.stop_stopsAt p r
  | some x =>
    have e : s.requestStop p r = s := by simp [State.requestStop, stop]
    rw [e]
    refine ⟨?_, fun q _ => rfl, rfl⟩
    have same : some ((s.plot p).seq.stopping.getD r) = (s.plot p).seq.stopping := by rw [stop]; rfl
    rw [same]

/-- A plot at rest has nothing to stop. -/
theorem State.requestStop_of_rest {s : State} {p : PlotIx} (rests : ¬inPart (s.plot p).seq) (r : BitVec 4) :
    s.requestStop p r = s := by
  have rest : (s.plot p).seq.state.atRest = true := by simpa [inPart_iff_not_atRest] using rests
  have stays : ((s.plot p).seq.state.atRest || (s.plot p).seq.stopping.isSome) = true := by rw [rest, Bool.true_or]
  exact if_pos stays

/-! ### STOP, STOPREQ, STEP and RUN (R95, R153, R178, R440) -/

theorem Serves.writeBoth_at {s : State} {h : HostPort} (sv : Serves s h) {off : Nat} {r : Reg} (at_off : PairAt off r) {v : W32}
    {x : Option State} (write : s.writeReg h r v = x) : writeBoth h off v s = .next (x.getD (ruleBroken s)) :=
  congrArg Host.Outcome.next ((s.pairWrite_at h off r v sv at_off).trans (congrArg (·.getD s.ruleBreak) write))

/-- The plot with STOPREQ of HAR_CTL or DRL_CTL set. -/
def Plot.withStopreq (q : Plot) (har : Bool) : Plot :=
  if har then { q with harStopreq := true } else { q with drlStopreq := true }

theorem State.stopreq_of_part {s : State} {p : PlotIx} (runs : inPart (s.plot p).seq) (har : Bool) :
    s.stopreq p har = (s.modPlot p fun q => q.withStopreq har).requestStop p 1 := by
  rw [State.stopreq, if_neg (by simp [State.plotRests, (inPart_iff_not_atRest _).1 runs])]
  rfl

theorem State.stopreq_of_rest {s : State} {p : PlotIx} (rests : ¬inPart (s.plot p).seq) (har : Bool) : s.stopreq p har = s :=
  if_pos (by simpa [State.plotRests, inPart_iff_not_atRest] using rests)

/-- What the statement says of STOP and of STOPREQ: `u` is the state with the request in its register. -/
theorem StopsAt.requested {s t : State} {p : PlotIx} {har drl : Bool}
    (h : StopsAt (s.modPlot p fun q => { q with harStopreq := q.harStopreq || har, drlStopreq := q.drlStopreq || drl }) t p 1)
    (runs : (s.plot p).seq.stopping = none) :
    (t.plot p).seq.stopping = some 1 ∧ (t.plot p).seq.pc = (s.plot p).seq.pc ∧
      (t.plot p).harStopreq = ((s.plot p).harStopreq || har) ∧ (t.plot p).drlStopreq = ((s.plot p).drlStopreq || drl) ∧
      (t.plot p).store = (s.plot p).store ∧ (∀ q, q ≠ p → t.plot q = s.plot q) ∧ t.mem = s.mem ∧ t.evr = s.evr ∧
      t.job = s.job := by
  have plot := h.plot
  rw [State.modPlot_plot] at plot
  refine ⟨?_, ?_, ?_, ?_, ?_, fun q ne => (h.others q ne).trans (s.modPlot_plot_ne p q _ ne.symm), h.mem, h.evr, h.job⟩
  · rw [h.stopping, State.modPlot_plot, runs]; rfl
  all_goals rw [plot]

theorem Serves.exec_stop {s : State} {h : HostPort} (sv : Serves s h) (p : PlotIx) :
    exec (.stop h p) s = .next (if s.plotRests p then s else s.requestStop p 1) :=
  sv.writeBoth_at (pairAt_pctl p) (x := some _) rfl

theorem Serves.exec_stopreqHar {s : State} {h : HostPort} (sv : Serves s h) (p : PlotIx) :
    exec (.stopreqHar h p) s = .next (s.stopreq p true) :=
  sv.writeBoth_at (pairAt_harctl p) (x := some _) rfl

theorem Serves.exec_stopreqDrl {s : State} {h : HostPort} (sv : Serves s h) (p : PlotIx) :
    exec (.stopreqDrl h p) s = .next (s.stopreq p false) :=
  sv.writeBoth_at (pairAt_drlctl p) (x := some _) rfl

/-- STOP, or STOPREQ of HAR_CTL or DRL_CTL, at a plot in a part of the plan. -/
theorem Serves.exec_requests {s : State} {h : HostPort} (sv : Serves s h) {p : PlotIx} (runs : inPart (s.plot p).seq)
    {c : Instr} (hc : c = .stop h p ∨ c = .stopreqHar h p ∨ c = .stopreqDrl h p) :
    ∃ t, exec c s = .next t ∧
      StopsAt (s.modPlot p fun q => { q with
        harStopreq := q.harStopreq || decide (c = .stopreqHar h p)
        drlStopreq := q.drlStopreq || decide (c = .stopreqDrl h p) }) t p 1 := by
  obtain rfl | rfl | rfl := hc
  · refine ⟨_, sv.exec_stop p, ?_⟩
    rw [if_neg (by simp [State.plotRests, (inPart_iff_not_atRest _).1 runs])]
    have same : (s.modPlot p fun q => { q with
        harStopreq := q.harStopreq || decide (Instr.stop h p = .stopreqHar h p)
        drlStopreq := q.drlStopreq || decide (Instr.stop h p = .stopreqDrl h p) }) = s := by simp [s.modPlot_self p]
    exact same.symm ▸ State.requestStop_stopsAt runs 1
  · refine ⟨_, sv.exec_stopreqHar p, ?_⟩
    rw [State.stopreq_of_part runs]
    simpa [Plot.withStopreq] using State.requestStop_stopsAt (s := s.modPlot p _) (by simpa using runs) 1
  · refine ⟨_, sv.exec_stopreqDrl p, ?_⟩
    rw [State.stopreq_of_part runs]
    simpa [Plot.withStopreq] using State.requestStop_stopsAt (s := s.modPlot p _) (by simpa using runs) 1

/-- STOP and STOPREQ find a plot at rest as it is. -/
theorem Serves.exec_stop_of_rest {s : State} {h : HostPort} (sv : Serves s h) {p : PlotIx} (rests : ¬inPart (s.plot p).seq) :
    exec (.stop h p) s = .next s ∧ exec (.stopreqHar h p) s = .next s ∧ exec (.stopreqDrl h p) s = .next s := by
  have rest : s.plotRests p = true := by simpa [State.plotRests, inPart_iff_not_atRest] using rests
  refine ⟨?_, ?_, ?_⟩
  · rw [sv.exec_stop, if_pos rest]
  · rw [sv.exec_stopreqHar, State.stopreq_of_rest rests]
  · rw [sv.exec_stopreqDrl, State.stopreq_of_rest rests]

/-- A stop of the debugger has stopped plot p, and no halt holds it. -/
def State.takesUp (s : State) (p : PlotIx) : Bool :=
  (s.plot p).seq.byStop && (s.plot p).seq.state = .stopped && s.job.state ≠ .halted

theorem Serves.exec_step {s : State} {h : HostPort} (sv : Serves s h) (p : PlotIx) :
    exec (.step h p) s = .next ((if s.takesUp p then some (s.resumePlot p true) else none).getD (ruleBroken s)) :=
  sv.writeBoth_at (pairAt_pctl p) rfl

theorem Serves.exec_run {s : State} {h : HostPort} (sv : Serves s h) (p : PlotIx) :
    exec (.run h p) s = .next ((if s.takesUp p then some (s.resumePlot p false) else none).getD (ruleBroken s)) :=
  sv.writeBoth_at (pairAt_pctl p) rfl

/-- A plot that stands in neither a pass nor a stream takes up at SEQPC. -/
theorem State.resumePlot_of_noSpill (s : State) (p : PlotIx) (step : Bool) (pass : (s.plot p).harSpilled = false)
    (stream : (s.plot p).drlSpilled = false) : s.resumePlot p step = s.setPlot p (resumed (s.plot p) step) := by
  have plot : (s.setPlot p (resumed (s.plot p) step)).plot p = resumed (s.plot p) step := s.modPlot_plot p fun _ => _
  have noPass : (s.setPlot p (resumed (s.plot p) step)).resumePass p = s.setPlot p (resumed (s.plot p) step) :=
    if_pos (by rw [plot]; simp [resumed, pass])
  have noStream : (s.setPlot p (resumed (s.plot p) step)).resumeStream p = s.setPlot p (resumed (s.plot p) step) :=
    if_pos (by rw [plot]; simp [resumed, stream])
  exact (congrArg (·.resumeStream p) noPass).trans noStream

/-! ### DBG_PSDATA (R441) -/

theorem Serves.exec_psdataWrite {s : State} {h : HostPort} (sv : Serves s h) (p : PlotIx) (v : W32) :
    exec (.dbgPsdataWrite h p v) s = .next ((s.writePsdata p v).getD (ruleBroken s)) := by
  obtain ⟨aligned, module, noToken, inside⟩ := plotWindow_facts p 0x4010 (by decide) (by decide)
  have place := (placeAt_plot p 0x4010 (by decide)).trans (plotBlock_psdata p)
  refine congrArg Host.Outcome.next ?_
  rw [sv.request_regWrite _ 4 _ (by omega), s.busWrite_word h _ v noToken aligned sv.notData,
    sv.writeWord_atOnce module place (.inl rfl)]
  rfl

theorem Serves.exec_psdataRead {s : State} {h : HostPort} (sv : Serves s h) {p : PlotIx} (rests : (s.plot p).debuggable = true) :
    exec (.dbgPsdataRead h p) s = .next (answered (s.movePsaddr p) h
      (bytesOfWord (wordAt (s.psRead p (s.plot p).psaddr.toNat 4) 0))) := by
  obtain ⟨aligned, module, noToken, inside⟩ := plotWindow_facts p 0x4010 (by decide) (by decide)
  have place := (placeAt_plot p 0x4010 (by decide)).trans (plotBlock_psdata p)
  refine congrArg Host.Outcome.next ?_
  rw [sv.request_regRead _ 4 (by omega), s.busRead_word h noToken aligned,
    sv.readWord_place place rests rfl rfl (fun ha => nomatch ha)]
  simp [State.afterRead, sv.control, State.regValue]

/-- A register that the debugger may not read now answers 0, and the read is counted. -/
theorem Serves.readWord_unreadable {s : State} {h : HostPort} (sv : Serves s h) {off : Nat} {x : Place}
    (e : placeAt off = some x) (unreadable : s.readable x.reg = false) : s.readWord h off = (0, s.ruleBreak) := by
  simp [State.readWord, s.spoil_of_noPairs h off 4 sv.pairs, sv.mayRead off, e, unreadable]

theorem Serves.exec_psdataRead_refused {s : State} {h : HostPort} (sv : Serves s h) {p : PlotIx}
    (works : (s.plot p).debuggable = false) :
    exec (.dbgPsdataRead h p) s = .next (answered (ruleBroken s) h (zeros 4)) := by
  obtain ⟨aligned, module, noToken, inside⟩ := plotWindow_facts p 0x4010 (by decide) (by decide)
  have place := (placeAt_plot p 0x4010 (by decide)).trans (plotBlock_psdata p)
  refine congrArg Host.Outcome.next ?_
  rw [sv.request_regRead _ 4 (by omega), s.busRead_word h noToken aligned, sv.readWord_unreadable place works,
    ← bytesOfWord_zero]
  rfl

/-- The plot with a word in its store at DBG_PSADDR, which has moved on by 4. -/
def Plot.takePsdata (q : Plot) (v : W32) : Plot :=
  { q with store := cellsPut 0 q.store q.psaddr.toNat (bytesOfWord v), psaddr := q.psaddr + 4 }

theorem Serves.exec_psdataWrite_stores {s : State} {h : HostPort} (sv : Serves s h) {p : PlotIx}
    (rests : (s.plot p).debuggable = true) (v : W32) :
    exec (.dbgPsdataWrite h p v) s = .next (s.modPlot p fun q => q.takePsdata v) := by
  rw [sv.exec_psdataWrite, State.writePsdata, if_neg (by simp [rests]), State.movePsaddr, State.psWrite, State.modPlot_modPlot,
    Option.getD_some]
  exact congrArg Host.Outcome.next (s.modPlot_congr p rfl)

theorem Serves.exec_psdataWrite_refused {s : State} {h : HostPort} (sv : Serves s h) {p : PlotIx}
    (works : (s.plot p).debuggable = false) (v : W32) : exec (.dbgPsdataWrite h p v) s = .next (ruleBroken s) := by
  rw [sv.exec_psdataWrite, State.writePsdata, if_pos (by simp [works])]
  rfl

/-! ### PLOT_STOP_COMPLETE (R178) -/

/-- A plot whose stop is complete, with REASON `r` (R178). -/
def Plot.stopDone (q : Plot) (r : BitVec 4) : Plot :=
  { q with
    harStopped := true, drlStopped := true, harStopreq := false, drlStopreq := false, held := []
    drlSpillbase := q.drlSpillnext.getD q.drlSpillbase, drlSpillnext := none
    seq := { q.seq with state := if r = 3 then .failed else .stopped, part := q.seq.state, stopping := none, waiting := false,
                        byStop := decide (r = 1) } }

/-- With no halt to note and no stop map due, plots that come to rest leave the state as it is. -/
theorem State.haltComplete_of_nothing (s : State) (note : s.job.haltNote = false) (map : s.dbg.mapDue = none) :
    s.haltComplete = s := by
  unfold State.haltComplete
  simp [note, map]

theorem execPlotStopComplete_stops {s : State} {p : PlotIx} {r : BitVec 4} (stop : (s.plot p).seq.stopping = some r)
    (ready : (s.plot p).seq.busy = .ready) (quiet : (s.plot p).allQuiet = true) (runs : inPart (s.plot p).seq)
    (note : s.job.haltNote = false) (map : s.dbg.mapDue = none) (noResume : ¬(r = 2 ∧ s.job.state = .running)) :
    execPlotStopComplete p s = .next (s.modPlot p fun q => q.stopDone r) := by
  have nothing : (s.modPlot p fun q => q.stopDone r).haltComplete = s.modPlot p fun q => q.stopDone r :=
    State.haltComplete_of_nothing _ note map
  have stays : ¬(decide (r = 2) && decide ((s.modPlot p fun q => q.stopDone r).job.state = .running)) = true := by
    rwa [Bool.and_eq_true, decide_eq_true_iff, decide_eq_true_iff]
  simp only [execPlotStopComplete, stop, ready, quiet, (inPart_iff_not_atRest _).1 runs]
  exact congrArg Host.Outcome.next ((congrArg (fun u : State =>
    if decide (r = 2) && decide (u.job.state = .running) then u.resumePlot p false else u) nothing).trans (if_neg stays))

end Sys2Proof.Machine
end

section
/-! Halts and resumes of the job through the port of the control host (R280-R285, R291). -/

namespace Sys2Proof.Machine

open Sys2Proof.Claim

/-! ### The plan's state, and reports of the lead half (R182, R359, R418) -/

/-- The plan's STATE and HALT take values; else only the ports' interrupts change. -/
theorem State.setPlan_eq (s : State) (st : PlanState) (h : HaltState) :
    s.setPlan st h = { s with
      job := { s.job with state := st, halt := h }, pciA := (s.setPlan st h).pciA, pciB := (s.setPlan st h).pciB } := by
  unfold State.setPlan
  dsimp only
  split <;> rfl

@[simp] theorem State.setPlan_job (s : State) (st : PlanState) (h : HaltState) :
    (s.setPlan st h).job = { s.job with state := st, halt := h } := by rw [State.setPlan_eq]
@[simp] theorem State.setPlan_plots (s : State) (st : PlanState) (h : HaltState) : (s.setPlan st h).plots = s.plots := by
  rw [State.setPlan_eq]
@[simp] theorem State.setPlan_sync (s : State) (st : PlanState) (h : HaltState) : (s.setPlan st h).sync = s.sync := by
  rw [State.setPlan_eq]
@[simp] theorem State.setPlan_mem (s : State) (st : PlanState) (h : HaltState) : (s.setPlan st h).mem = s.mem := by
  rw [State.setPlan_eq]
@[simp] theorem State.setPlan_fb (s : State) (st : PlanState) (h : HaltState) : (s.setPlan st h).fb = s.fb := by
  rw [State.setPlan_eq]
@[simp] theorem State.setPlan_rcv (s : State) (st : PlanState) (h : HaltState) : (s.setPlan st h).rcv = s.rcv := by
  rw [State.setPlan_eq]
@[simp] theorem State.setPlan_kuf (s : State) (st : PlanState) (h : HaltState) : (s.setPlan st h).kuf = s.kuf := by
  rw [State.setPlan_eq]
@[simp] theorem State.setPlan_pwr (s : State) (st : PlanState) (h : HaltState) : (s.setPlan st h).pwr = s.pwr := by
  rw [State.setPlan_eq]
@[simp] theorem State.setPlan_evr (s : State) (st : PlanState) (h : HaltState) : (s.setPlan st h).evr = s.evr := by
  rw [State.setPlan_eq]
@[simp] theorem State.setPlan_sbd (s : State) (st : PlanState) (h : HaltState) : (s.setPlan st h).sbd = s.sbd := by
  rw [State.setPlan_eq]
@[simp] theorem State.setPlan_dbg (s : State) (st : PlanState) (h : HaltState) : (s.setPlan st h).dbg = s.dbg := by
  rw [State.setPlan_eq]
theorem State.setPlan_plot (s : State) (st : PlanState) (h : HaltState) (p : PlotIx) : (s.setPlan st h).plot p = s.plot p :=
  State.plot_of_plots (s.setPlan_plots st h) p

theorem State.half_of_evr {s t : State} (e : t.evr = s.evr) (g : Half) : t.half g = s.half g := by
  cases g <;> simp [State.half, e]

theorem State.raise_reports (s : State) (g : Half) (e : ErrRep) : Reports s (s.raise g e) g [e] :=
  ⟨s.raise_half g e, fun _ ne => s.modHalf_half_ne _ _ _ ne.symm⟩

/-- An error of the lead half stays its one report while the recorder stays as it is. -/
theorem State.raiseLead_reports {s t : State} {e : ErrRep} (same : t.evr = (s.raiseLead e).evr) : Reports s t s.lead [e] := by
  obtain ⟨here, there⟩ := s.raise_reports s.lead e
  exact ⟨(State.half_of_evr same _).trans here, fun g ne => (State.half_of_evr same g).trans (there g ne)⟩

theorem State.raiseLead_elsewhere (s : State) (e : ErrRep) : { s.raiseLead e with evr := s.evr } = s := by
  unfold State.raiseLead State.raise State.modHalf
  split <;> rfl

/-! ### Step tokens (R246, R272, R287) -/

/-- The parts of the module that a message into the links leaves alone. -/
def State.besideLinks (s : State) :=
  (s.plots, s.sync, s.mem, s.fb, s.rcv, s.pwr, s.sbd, s.dbg, { s.job with tseqs := [] })

theorem State.raiseLead_besideLinks (s : State) (e : ErrRep) : (s.raiseLead e).besideLinks = s.besideLinks := by
  unfold State.raiseLead State.raise State.modHalf
  split <;> rfl

theorem State.sendOn_besideLinks (s : State) (m : List Byte) : (s.sendOn m).2.besideLinks = s.besideLinks := by
  unfold State.sendOn
  dsimp only
  split
  · rfl
  · exact s.raiseLead_besideLinks _

theorem State.pump_besideLinks (s : State) (node : BitVec 12) (ch : BitVec 8) :
    (s.pump node ch).besideLinks = s.besideLinks := by
  unfold State.pump
  split
  · rfl
  · split
    · rfl
    · exact State.forEach_keeps State.besideLinks s _ _ fun s m => s.sendOn_besideLinks m.bytes

theorem State.modTx_besideLinks (s : State) (node : BitVec 12) (ch : BitVec 8) (f : TxPair → TxPair) :
    (s.modTx node ch f).besideLinks = s.besideLinks := rfl

theorem State.sendOpen_besideLinks (s : State) (node : BitVec 12) (ch : BitVec 8) :
    (s.sendOpen node ch).besideLinks = s.besideLinks := by
  rw [State.sendOpen, State.modTx_besideLinks, State.sendOn_besideLinks]

theorem State.pairSend_besideLinks (s : State) (node : BitVec 12) (ch : BitVec 8) (mtype : Nat) (body : List Byte) :
    (s.pairSend node ch mtype body).2.besideLinks = s.besideLinks := by
  unfold State.pairSend
  dsimp only
  rw [State.pump_besideLinks, State.modTx_besideLinks]
  split
  · rfl
  · rw [State.sendOpen_besideLinks]
    rfl

theorem State.sendToken_besideLinks (s : State) (node : BitVec 12) (ch : BitVec 8) (queue : BitVec 15) (payload : W32) :
    (s.sendToken node ch queue payload).besideLinks = s.besideLinks := by
  have taken : (s.takeTseq node ch (dieOfQueue queue)).2.besideLinks = s.besideLinks := rfl
  unfold State.sendToken State.sendTokenSeq
  dsimp only
  rw [State.pairSend_besideLinks, taken]

theorem State.sendHalts_besideLinks (s : State) (sender : Option (BitVec 12)) (abort : Bool) :
    (s.sendHalts sender abort).besideLinks = s.besideLinks := by
  unfold State.sendHalts
  split
  · rfl
  · exact State.forEach_keeps State.besideLinks s _ _ fun s n => s.sendToken_besideLinks n 255 _ _

/-! ### HALTNOW (R283, R284, R291) -/

/-- A module whose plan runs, in the state that a halt now leaves before the plots' stops. -/
def State.halting (s : State) : State :=
  let s1 := s.setPlan .halted .now
  { s1 with
    job := { s1.job with haltNote := true }
    dbg := { s1.dbg with mapDue := if s1.dbg.stopmapEn then some 2 else s1.dbg.mapDue } }

/-- Each plot of a list that runs gets a stop with REASON `r`. -/
def State.stopPlots (s : State) (l : List PlotIx) (r : BitVec 4) : State := s.forEach l fun s p => s.requestStop p r

theorem State.haltNow_running {s : State} (runs : s.job.state = .running) :
    s.haltNow none = ((s.halting.stopPlots s.job.active 2).sendHalts none false).haltComplete := by
  have active : s.halting.job.active = s.job.active := by simp [State.halting]
  rw [← active]
  simp only [State.haltNow, runs]
  rfl

/-- What a request of a stop with REASON `r` makes of its plot. -/
def Plot.Stopped (r : BitVec 4) (a b : Plot) : Prop :=
  inPart a.seq → inPart b.seq ∧ b.seq.stopping = some (a.seq.stopping.getD r)

theorem State.requestStop_stopped (s : State) (p : PlotIx) (r : BitVec 4) :
    Plot.Stopped r (s.plot p) ((s.requestStop p r).plot p) := fun runs => by
  have stops := State.requestStop_stopsAt runs r
  refine ⟨?_, stops.stopping⟩
  rw [stops.plot]
  exact runs

theorem State.requestStop_others (s : State) {p q : PlotIx} (r : BitVec 4) (ne : q ≠ p) :
    (s.requestStop p r).plot q = s.plot q := by
  by_cases runs : inPart (s.plot p).seq
  · exact (State.requestStop_stopsAt runs r).others q ne
  · rw [State.requestStop_of_rest runs]

theorem State.requestStop_elsewhere (s : State) (p : PlotIx) (r : BitVec 4) :
    { s.requestStop p r with plots := s.plots, sync := s.sync, kuf := s.kuf } = s := by
  by_cases runs : inPart (s.plot p).seq
  · exact (State.requestStop_stopsAt runs r).elsewhere
  · rw [State.requestStop_of_rest runs]

theorem State.stopPlots_plots (s : State) (l : List PlotIx) (r : BitVec 4) :
    (∀ p ∈ l, Plot.Stopped r (s.plot p) ((s.stopPlots l r).plot p)) ∧ ∀ p, p ∉ l → (s.stopPlots l r).plot p = s.plot p :=
  State.forEach_plots
    (fun h g runs => by
      obtain ⟨runs', stop⟩ := h runs
      obtain ⟨runs'', stop'⟩ := g runs'
      exact ⟨runs'', by rw [stop', stop]; rfl⟩)
    (fun s p => s.requestStop_stopped p r) (fun s _ _ => s.requestStop_others r) s l

/-- Where no stop map is due, plots that have come to rest change only the recorder and the note that waits for them. -/
theorem State.haltComplete_keeps {s : State} (map : s.dbg.mapDue = none) :
    s.haltComplete.plots = s.plots ∧ s.haltComplete.mem = s.mem ∧
      s.haltComplete.job.state = s.job.state ∧ s.haltComplete.job.halt = s.job.halt ∧ s.haltComplete.job.row = s.job.row := by
  unfold State.haltComplete
  cases rest : s.job.active.all fun p => (s.plot p).seq.state.atRest
  · exact ⟨rfl, rfl, rfl, rfl, rfl⟩
  · cases note : s.job.haltNote <;> simp [map]

theorem State.besideLinks_eq {s t : State} (e : t.besideLinks = s.besideLinks) :
    t.plots = s.plots ∧ t.sync = s.sync ∧ t.mem = s.mem ∧ t.fb = s.fb ∧ t.rcv = s.rcv ∧ t.pwr = s.pwr ∧ t.sbd = s.sbd ∧
      t.dbg = s.dbg ∧ { t.job with tseqs := [] } = { s.job with tseqs := [] } := by
  simpa only [State.besideLinks, Prod.mk.injEq] using e

/-- The parts of the module that the plots' stops leave alone. -/
def State.besideStops (s : State) := (s.mem, s.job, s.dbg)

theorem State.stopPlots_besideStops (s : State) (l : List PlotIx) (r : BitVec 4) :
    (s.stopPlots l r).besideStops = s.besideStops :=
  State.forEach_keeps State.besideStops s l _ fun s p => (congrArg State.besideStops (s.requestStop_elsewhere p r) :)

/-- A halt now, as the host asks for it: the plan is halted at its row, and the active plots have their stops. -/
structure HaltedNow (s t : State) : Prop where
  state : t.job.state = .halted
  halt : t.job.halt = .now
  row : t.job.row = s.job.row
  mem : t.mem = s.mem
  stopped : ∀ p ∈ s.job.active, inPart (s.plot p).seq → (t.plot p).seq.stopping = some ((s.plot p).seq.stopping.getD 2)
  others : ∀ p, p ∉ s.job.active → t.plot p = s.plot p

theorem State.haltNow_halts {s : State} (runs : s.job.state = .running) (noMap : s.dbg.stopmapEn = false)
    (map : s.dbg.mapDue = none) : HaltedNow s (s.haltNow none) := by
  have ordered : s.halting.mem = s.mem ∧ s.halting.job.state = .halted ∧ s.halting.job.halt = .now ∧
      s.halting.job.row = s.job.row ∧ s.halting.dbg.mapDue = none := by
    simp [State.halting, noMap, map]
  obtain ⟨mem0, state0, halt0, row0, map0⟩ := ordered
  have plot0 : ∀ p, s.halting.plot p = s.plot p := fun p => s.setPlan_plot .halted .now p
  obtain ⟨stopped, others⟩ := s.halting.stopPlots_plots s.job.active 2
  have kept := s.halting.stopPlots_besideStops s.job.active 2
  simp only [State.besideStops, Prod.mk.injEq] at kept
  obtain ⟨mem1, job1, dbg1⟩ := kept
  obtain ⟨plots2, -, mem2, -, -, -, -, dbg2, job2⟩ :=
    State.besideLinks_eq ((s.halting.stopPlots s.job.active 2).sendHalts_besideLinks none false)
  obtain ⟨plots3, mem3, state3, halt3, row3⟩ := State.haltComplete_keeps
    (s := (s.halting.stopPlots s.job.active 2).sendHalts none false) (by rw [dbg2, dbg1, map0])
  have plots : ∀ p, (s.haltNow none).plot p = (s.halting.stopPlots s.job.active 2).plot p := fun p => by
    rw [State.haltNow_running runs]
    exact State.plot_of_plots (plots3.trans plots2) p
  refine ⟨?_, ?_, ?_, ?_, fun p active part => ?_, fun p out => ?_⟩
  · rw [State.haltNow_running runs, state3, (congrArg Job.state job2 :), job1, state0]
  · rw [State.haltNow_running runs, halt3, (congrArg Job.halt job2 :), job1, halt0]
  · rw [State.haltNow_running runs, row3, (congrArg Job.row job2 :), job1, row0]
  · rw [State.haltNow_running runs, mem3, mem2, mem1, mem0]
  · have stop := stopped p active
    rw [Plot.Stopped, plot0] at stop
    rw [plots]
    exact (stop part).2
  · rw [plots, others p out, plot0]

/-! ### PLT_JOBCTL (R282, R283, R285, R291) -/

/-- A word of PLT_JOBCTL with HALTNOW `now`, RESUME `res`, HALTAT `at_` and HALTNEXT `next`. -/
structure JobctlWord (v : W32) (now res at_ next : Bool) : Prop where
  ok : Reg.wordOk .jobctl v = true
  now : bit v 3 = now
  res : bit v 2 = res
  at_ : bit v 1 = at_
  next : bit v 0 = next

theorem JobctlWord.of_bits (now res at_ next : Bool) :
    JobctlWord (w32 (b2n now * 8 + b2n res * 4 + (b2n at_ * 2 + b2n next))) now res at_ next := by
  constructor <;> revert now res at_ next <;> decide

/-- The state with HALTAT and HALTNEXT of PLT_JOBCTL. -/
def State.withRequests (s : State) (at_ next : Bool) : State :=
  { s with job := { s.job with haltat := at_, haltnext := next } }

theorem Serves.exec_jobctl {s : State} {h : HostPort} (sv : Serves s h) {v : W32} {now res at_ next : Bool}
    (w : JobctlWord v now res at_ next) :
    writeBoth h 0x28 v s = .next (((
      if now && !(s.job.state = .running || s.job.state = .halted) then none
      else if res && !(s.job.halt = .boundary || s.job.halt = .now) then none
      else
        let s1 := s.withRequests at_ next
        let s2 := if now then s1.haltNow none else s1
        some (if res then s2.resumeJob else s2))).getD (ruleBroken s)) := by
  obtain ⟨ok, rfl, rfl, rfl, rfl⟩ := w
  exact sv.writeBoth_at pairAt_jobctl (by rw [State.writeReg, ok]; rfl)

theorem State.withRequests_self (s : State) : s.withRequests s.job.haltat s.job.haltnext = s := rfl

section
variable {s : State} {h : HostPort}

theorem Serves.exec_haltnow (sv : Serves s h) (may : s.job.state = .running ∨ s.job.state = .halted) :
    exec (.haltnow h) s = .next (s.haltNow none) := by
  refine (sv.exec_jobctl (.of_bits true false s.job.haltat s.job.haltnext)).trans ?_
  have on : (decide (s.job.state = .running) || decide (s.job.state = .halted)) = true := by simpa using may
  rw [on, s.withRequests_self]
  rfl

theorem Serves.exec_haltnow_refused (sv : Serves s h) (idle : s.planIdle = true) :
    exec (.haltnow h) s = .next (ruleBroken s) := by
  refine (sv.exec_jobctl (.of_bits true false s.job.haltat s.job.haltnext)).trans ?_
  have off : (decide (s.job.state = .running) || decide (s.job.state = .halted)) = false := by
    revert idle
    unfold State.planIdle
    cases s.job.state <;> decide
  rw [off]
  rfl

theorem Serves.exec_resume (sv : Serves s h) (may : s.job.halt = .boundary ∨ s.job.halt = .now) :
    exec (.resume h) s = .next s.resumeJob := by
  refine (sv.exec_jobctl (.of_bits false true s.job.haltat s.job.haltnext)).trans ?_
  have on : (decide (s.job.halt = .boundary) || decide (s.job.halt = .now)) = true := by simpa using may
  rw [on, s.withRequests_self]
  rfl

theorem Serves.exec_resume_refused (sv : Serves s h) (none : s.job.halt = .none ∨ s.job.halt = .aborted) :
    exec (.resume h) s = .next (ruleBroken s) := by
  refine (sv.exec_jobctl (.of_bits false true s.job.haltat s.job.haltnext)).trans ?_
  have off : (decide (s.job.halt = .boundary) || decide (s.job.halt = .now)) = false := by
    obtain e | e := none <;> rw [e] <;> rfl
  rw [off]
  rfl

theorem Serves.exec_haltat (sv : Serves s h) :
    exec (.haltat h) s = .next (s.withRequests true s.job.haltnext) := by
  have word : b2n false * 8 + b2n false * 4 + (b2n true * 2 + b2n s.job.haltnext) = 2 + b2n s.job.haltnext := by simp [b2n]
  exact (congrArg (fun n => writeBoth h 0x28 (w32 n) s) word.symm).trans <|
    sv.exec_jobctl (.of_bits false false true s.job.haltnext)

theorem Serves.exec_haltnext (sv : Serves s h) :
    exec (.haltnext h) s = .next (s.withRequests s.job.haltat true) := by
  have word : b2n false * 8 + b2n false * 4 + (b2n s.job.haltat * 2 + b2n true) = b2n s.job.haltat * 2 + 1 := by simp [b2n]
  exact (congrArg (fun n => writeBoth h 0x28 (w32 n) s) word.symm).trans <|
    sv.exec_jobctl (.of_bits false false s.job.haltat true)

end

/-! ### RESUME (R282, R285) -/

theorem State.sowBarrier_elsewhere (s : State) : { s.sowBarrier with plots := s.plots } = s := by
  unfold State.sowBarrier
  split <;> rfl

/-- The state of a module that runs the round of its row again after a halt at a boundary, before the sowing barrier. -/
def State.againRound (s : State) : State := ((s.noticeFrom srcEngine 0x0A 0 []).setPlan .running .none).beginRound

theorem State.resumeJob_boundary {s : State} (halt : s.job.halt = .boundary) : s.resumeJob = s.againRound.sowBarrier := by
  simp only [State.resumeJob, halt]
  rfl

theorem State.againRound_job (s : State) :
    s.againRound.job.state = .running ∧ s.againRound.job.halt = .none ∧ s.againRound.job.row = s.job.row ∧
      s.againRound.job.stepAge = 0 ∧ s.againRound.job.upSent = false := by
  simp [State.againRound, State.beginRound]

theorem State.againRound_evr (s : State) : s.againRound.evr = (s.noticeFrom srcEngine 0x0A 0 []).evr :=
  State.setPlan_evr ..

theorem State.againRound_plot (s : State) (p : PlotIx) : s.againRound.plot p = s.plot p :=
  ((s.noticeFrom srcEngine 0x0A 0 []).setPlan_plot .running .none p).trans (State.plot_of_plots (State.noticeFrom_plots ..) p)

theorem State.againRound_others (s : State) :
    s.againRound.mem = s.mem ∧ s.againRound.sync = s.sync ∧ s.againRound.kuf = s.kuf ∧ s.againRound.rcv = s.rcv ∧
      s.againRound.fb = s.fb ∧ s.againRound.pwr = s.pwr := by
  simp [State.againRound, State.beginRound]

/-- The plots of a list that a halt now has stopped, and no stop of the debugger, take up (R178, R285). -/
def State.haltedPlots (s : State) : List PlotIx :=
  s.job.active.filter fun p => (s.plot p).seq.state = .stopped && !(s.plot p).seq.byStop

/-- The state of a module that a resume has set running at its row, before its plots take up. -/
def State.resuming (s : State) : State :=
  let s1 := (s.noticeFrom srcEngine 0x0A 0 []).setPlan .running .none
  { s1 with job := { s1.job with stepAge := 0 } }

/-- The state of a module whose plots have taken up after a halt now, before the sowing barrier. -/
def State.takenUp (s : State) : State := s.resuming.forEach s.resuming.haltedPlots fun s p => s.resumePlot p false

theorem State.resumeJob_now {s : State} (halt : s.job.halt = .now) :
    s.resumeJob = s.takenUp.sowBarrier := by
  simp only [State.resumeJob, halt]
  rfl

theorem State.resuming_job (s : State) :
    s.resuming.job = { s.job with state := .running, halt := .none, stepAge := 0 } := by
  simp [State.resuming]

theorem State.resuming_evr (s : State) : s.resuming.evr = (s.noticeFrom srcEngine 0x0A 0 []).evr := State.setPlan_evr ..

theorem State.resuming_plot (s : State) (p : PlotIx) : s.resuming.plot p = s.plot p :=
  ((s.noticeFrom srcEngine 0x0A 0 []).setPlan_plot .running .none p).trans (State.plot_of_plots (State.noticeFrom_plots ..) p)

theorem State.resuming_others (s : State) :
    s.resuming.mem = s.mem ∧ s.resuming.sync = s.sync ∧ s.resuming.kuf = s.kuf ∧ s.resuming.pwr = s.pwr := by
  simp [State.resuming]

theorem State.mem_haltedPlots (s : State) (p : PlotIx) :
    p ∈ s.resuming.haltedPlots ↔ p ∈ s.job.active ∧ (s.plot p).seq.state = .stopped ∧ (s.plot p).seq.byStop = false := by
  simp [State.haltedPlots, s.resuming_plot, s.resuming_job]

/-- Plots without a spill record take up, each at its SEQPC, and nothing else changes. -/
theorem State.forEach_resumePlot {s : State} {l : List PlotIx}
    (noSpill : ∀ p ∈ l, (s.plot p).harSpilled = false ∧ (s.plot p).drlSpilled = false) :
    let t := s.forEach l fun s p => s.resumePlot p false
    (∀ p ∈ l, t.plot p = resumed (s.plot p) false) ∧ (∀ p, p ∉ l → t.plot p = s.plot p) ∧
      { t with plots := s.plots } = s := by
  induction l generalizing s with
  | nil => exact ⟨nofun, fun _ _ => rfl, rfl⟩
  | cons a l ih =>
    obtain ⟨pass, stream⟩ := noSpill a (by simp)
    have taken := s.resumePlot_of_noSpill a false pass stream
    have here : (s.resumePlot a false).plot a = resumed (s.plot a) false := by
      rw [taken]; exact s.modPlot_plot a fun _ => _
    have there : ∀ p, p ≠ a → (s.resumePlot a false).plot p = s.plot p := fun p ne => by
      rw [taken]; exact s.modPlot_plot_ne a p (fun _ => _) ne.symm
    obtain ⟨inside, outside, elsewhere⟩ := ih (s := s.resumePlot a false) fun p mem => by
      by_cases e : p = a
      · subst e; rw [here]; exact ⟨pass, stream⟩
      · rw [there p e]; exact noSpill p (by simp [mem])
    refine ⟨fun p mem => ?_, fun p out => ?_, ?_⟩
    · by_cases again : p ∈ l
      · refine (inside p again).trans ?_
        by_cases e : p = a
        · subst e; rw [here]; rfl
        · rw [there p e]
      · obtain rfl : p = a := by simpa [again] using mem
        exact (outside p again).trans here
    · obtain ⟨ne, out⟩ : p ≠ a ∧ p ∉ l := by simpa using out
      exact (outside p out).trans (there p ne)
    · refine (congrArg (fun u : State => { u with plots := s.plots }) elsewhere).trans ?_
      rw [taken]
      rfl

/-- A resume from a halt now, of plots of which none stands in a pass or a stream. -/
theorem State.takenUp_of_noSpill {s : State}
    (noSpill : ∀ p ∈ s.job.active, (s.plot p).harSpilled = false ∧ (s.plot p).drlSpilled = false) :
    (∀ p, s.takenUp.plot p = if p ∈ s.job.active ∧ (s.plot p).seq.state = .stopped ∧ (s.plot p).seq.byStop = false
      then resumed (s.plot p) false else s.plot p) ∧ { s.takenUp with plots := s.resuming.plots } = s.resuming := by
  obtain ⟨inside, outside, elsewhere⟩ := State.forEach_resumePlot (s := s.resuming) (l := s.resuming.haltedPlots)
    fun p mem => by
      rw [s.resuming_plot]
      exact noSpill p ((s.mem_haltedPlots p).1 mem).1
  refine ⟨fun p => ?_, elsewhere⟩
  split
  case isTrue halted => exact (inside p ((s.mem_haltedPlots p).2 halted)).trans (by rw [s.resuming_plot])
  case isFalse other => exact (outside p (mt (s.mem_haltedPlots p).1 other)).trans (s.resuming_plot p)

end Sys2Proof.Machine
end

section
/-! SET and RETURN of PLT_BUDDYCTL, and the reserve of HAR_FBRES, through the port of the control host (R115, R314, R318, R323). -/

namespace Sys2Proof.Machine

open Sys2Proof.Claim

theorem w32_toNat {n : Nat} (small : n < 2 ^ 32) : (w32 n).toNat = n := by simpa [w32] using small

theorem bit_w32 {n : Nat} (k : Nat) (small : n < 2 ^ 32) : bit (w32 n) k = decide (n / 2 ^ k % 2 = 1) := by
  rw [bit, ← BitVec.testBit_toNat, w32_toNat small, Nat.testBit_eq_decide_div_mod_eq]

theorem bits_w32 {n : Nat} (hi lo : Nat) (small : n < 2 ^ 32) : bits (w32 n) hi lo = n / 2 ^ lo % 2 ^ (hi + 1 - lo) := by
  rw [bits, w32_toNat small, Nat.shiftRight_eq_div_pow]

theorem b2n_le_one (b : Bool) : b2n b ≤ 1 := by cases b <;> decide
theorem decide_b2n (b : Bool) : decide (b2n b = 1) = b := by cases b <;> rfl

/-- A register with one reserved field takes every word in which that field is 0. -/
theorem Reg.wordOk_of_reserved {r : Reg} {hi lo : Nat} {v : W32} (fields : r.fields = [rsv hi lo]) (ne : r ≠ .pwrcap)
    (zero : bits v hi lo = 0) : r.wordOk v = true := by
  simp [Reg.wordOk, fields, ne, Field.ok, rsv, zero]

/-! ### PLT_BUDDYCTL (R314, R318, R323) -/

/-- A word of PLT_BUDDYCTL with SET `set`, RETURN `ret`, TARGET and OWNER. -/
structure BuddyctlWord (v : W32) (set ret : Bool) (target owner : BitVec 12) : Prop where
  ok : Reg.wordOk .buddyctl v = true
  set : bit v 31 = set
  ret : bit v 30 = ret
  target : BitVec.ofNat 12 (bits v 23 12) = target
  owner : BitVec.ofNat 12 (bits v 11 0) = owner

theorem BuddyctlWord.of_fields {n : Nat} (set ret : Bool) (target owner : BitVec 12)
    (e : n = b2n set * 2 ^ 31 + b2n ret * 2 ^ 30 + target.toNat * 2 ^ 12 + owner.toNat) :
    BuddyctlWord (w32 n) set ret target owner := by
  have ht := target.isLt
  have ho := owner.isLt
  have hs := b2n_le_one set
  have hr := b2n_le_one ret
  have small : n < 2 ^ 32 := by omega
  constructor
  · exact Reg.wordOk_of_reserved (hi := 29) (lo := 24) rfl nofun (by rw [bits_w32 _ _ small]; omega)
  · rw [bit_w32 _ small]
    exact (decide_eq_decide.2 (by omega)).trans (decide_b2n set)
  · rw [bit_w32 _ small]
    exact (decide_eq_decide.2 (by omega)).trans (decide_b2n ret)
  · refine BitVec.eq_of_toNat_eq ?_
    rw [bits_w32 _ _ small, BitVec.toNat_ofNat]
    omega
  · refine BitVec.eq_of_toNat_eq ?_
    rw [bits_w32 _ _ small, BitVec.toNat_ofNat]
    omega

/-- The state with TARGET and OWNER of PLT_BUDDYCTL. -/
def State.withReturn (s : State) (target owner : BitVec 12) : State :=
  { s with rcv := { s.rcv with target := target, owner := owner } }

section
variable {s : State} {h : HostPort}

theorem Serves.exec_buddyctl (sv : Serves s h) {v : W32} {set ret : Bool} {target owner : BitVec 12}
    (w : BuddyctlWord v set ret target owner) :
    writeBoth h 0x78 v s = .next ((
      if set && (s.job.stateCode = 1 || s.job.stateCode = 2) then none
      else if ret && ((decide (s.job.state = .checking) || decide (s.job.state = .running)) || s.rcv.ret.isSome) then none
      else
        let s1 := s.withReturn target owner
        let s2 := if set then s1.setPairing else s1
        some (if ret then s2.beginReturn s2.rcv.owner s2.rcv.target else s2)).getD (ruleBroken s)) := by
  obtain ⟨ok, rfl, rfl, rfl, rfl⟩ := w
  exact sv.writeBoth_at pairAt_buddyctl (by rw [State.writeReg, ok]; rfl)

theorem setWord (s : State) : BuddyctlWord (w32 (2 ^ 31 + s.rcv.target.toNat * 2 ^ 12 + s.rcv.owner.toNat)) true false
    s.rcv.target s.rcv.owner := .of_fields _ _ _ _ (by simp [b2n])

theorem Serves.exec_set (sv : Serves s h) (checks : s.job.stateCode ≠ 1) (runs : s.job.stateCode ≠ 2) :
    exec (.set h) s = .next s.setPairing := by
  refine (sv.exec_buddyctl (setWord s)).trans ?_
  rw [decide_eq_false checks, decide_eq_false runs]
  rfl

theorem Serves.exec_set_refused (sv : Serves s h) (busy : s.job.stateCode = 1 ∨ s.job.stateCode = 2) :
    exec (.set h) s = .next (ruleBroken s) := by
  refine (sv.exec_buddyctl (setWord s)).trans ?_
  have on : (decide (s.job.stateCode = 1) || decide (s.job.stateCode = 2)) = true := by simpa using busy
  rw [on]
  rfl

theorem State.setPairing_good {hd : PlanHdr} (hdr : s.job.hdr = some hd) (interval : hd.buddyint ≠ 0)
    (good : s.listBad hd = none) :
    s.setPairing = s.beginPairing { pairing := Pairing.ofBytes s.listBytes, bySet := true, restart := false, row := s.job.row,
                                    restore := false } := by
  simp only [State.setPairing, hdr, interval, if_false, good]

theorem State.setPairing_bad {hd : PlanHdr} {k : Nat} (hdr : s.job.hdr = some hd) (interval : hd.buddyint ≠ 0)
    (bad : s.listBad hd = some k) : s.setPairing = s.noticeFrom srcEngine 0x0C 0 [] := by
  simp only [State.setPairing, hdr, interval, if_false, bad]

theorem Serves.exec_return (sv : Serves s h) (checks : s.job.state ≠ .checking) (runs : s.job.state ≠ .running)
    (none : s.rcv.ret = none) (owner target : BitVec 12) :
    exec (.return_ h owner target) s = .next ((s.withReturn target owner).beginReturn owner target) := by
  refine (sv.exec_buddyctl (.of_fields false true target owner (by simp [b2n]))).trans ?_
  rw [decide_eq_false checks, decide_eq_false runs, none]
  rfl

/-- No slot holds a copy of the owner: the RESULT says so. -/
theorem State.beginReturn_absent {owner : BitVec 12} (target : BitVec 12) (absent : s.heldSlot owner = none) :
    (s.withReturn target owner).beginReturn owner target =
      { s with rcv := { s.rcv with owner := owner, target := target, result := 2 } } := by
  have absent' : (s.withReturn target owner).heldSlot owner = none := absent
  unfold State.beginReturn
  dsimp only
  split
  case h_1 => rfl
  case h_2 found => exact absurd (found.symm.trans absent') nofun

/-- The held copy is to go to the target over the pairing's channel. -/
theorem State.beginReturn_held {owner : BitVec 12} {a : Nat} (target : BitVec 12) (held : s.heldSlot owner = some a) :
    (s.withReturn target owner).beginReturn owner target =
      { s with rcv := { s.rcv with
        owner := owner, target := target, ret := some {
          target := target, slotAddr := a, sent := false
          channel := ((s.rcv.pairing).getD (Pairing.ofBytes s.listBytes)).channel } } } := by
  have held' : (s.withReturn target owner).heldSlot owner = some a := held
  unfold State.beginReturn
  dsimp only
  split
  case h_1 none => exact absurd (none.symm.trans held') nofun
  case h_2 found =>
    obtain rfl := Option.some.inj (found.symm.trans held')
    rfl

/-! ### HAR_FBRES (R115) -/

/-- The state in which HAR_FBRES.EXTRA is x. -/
def State.withExtra (s : State) (x : BitVec 16) : State := { s with fb := { s.fb with extra := x } }

/-- The state in which HAR_FBRES.EXTRA is x and the reserve has grown by what it adds. -/
def State.growReserve (s : State) (x : BitVec 16) : State :=
  { s with fb := { s.fb with extra := x, resfree := BitVec.ofNat 16 (s.fb.resfree.toNat + x.toNat - s.fb.extra.toNat) } }

/-- A write of HAR_FBRES that the rules of R115 let through. -/
def State.mayGrow (s : State) (x : BitVec 16) : Prop :=
  s.job.halt = .boundary ∧ s.fb.extra.toNat ≤ x.toNat ∧ planReserve s + x.toNat ≤ 65535

theorem State.storeReg_fbres (s : State) (x : BitVec 16) : s.storeReg .fbres (w32 x.toNat) = s.withExtra x := by
  have extra : BitVec.ofNat 16 (w32 x.toNat).toNat = x := by
    rw [w32_toNat (Nat.lt_trans x.isLt (by decide)), BitVec.ofNat_toNat, BitVec.setWidth_eq]
  exact congrArg s.withExtra extra

theorem State.writeFbres_grows {x : BitVec 16} (may : s.mayGrow x) :
    s.writeFbres (w32 x.toNat) = some ((s.growReserve x).notice 0x0B 0 []) := by
  obtain ⟨halt, more, fits⟩ := may
  have may : ¬(decide (s.job.halt ≠ .boundary) || decide (x.toNat < s.fb.extra.toNat) ||
      decide (65535 < planReserve s + x.toNat)) = true := by
    simp [halt, more, fits]
  rw [State.writeFbres, w32_toNat (Nat.lt_trans x.isLt (by decide)), State.storeReg_fbres]
  exact if_neg may

theorem State.writeFbres_refused (halt : s.job.halt ≠ .boundary) (v : W32) : s.writeFbres v = none := by
  simp [State.writeFbres, halt]

theorem Serves.exec_fbres (sv : Serves s h) (x : BitVec 16) :
    exec (.harFbresWrite h x) s = .next ((s.writeFbres (w32 x.toNat)).getD (ruleBroken s)) := by
  have hx := x.isLt
  have ok : Reg.wordOk .fbres (w32 x.toNat) = true :=
    Reg.wordOk_of_reserved (hi := 31) (lo := 16) rfl nofun (by rw [bits_w32 _ _ (by omega)]; omega)
  exact sv.writeBoth_at pairAt_fbres (by rw [State.writeReg, ok]; rfl)

theorem Serves.exec_fbres_grows (sv : Serves s h) {x : BitVec 16} (may : s.mayGrow x) :
    exec (.harFbresWrite h x) s = .next ((s.growReserve x).notice 0x0B 0 []) := by
  rw [sv.exec_fbres, State.writeFbres_grows may, Option.getD_some]

theorem Serves.exec_fbres_refused (sv : Serves s h) (halt : s.job.halt ≠ .boundary) (x : BitVec 16) :
    exec (.harFbresWrite h x) s = .next (ruleBroken s) := by
  rw [sv.exec_fbres, State.writeFbres_refused halt, Option.getD_none]

end

end Sys2Proof.Machine
end

section
/-! ABORT through the port of the control host (R181). -/

namespace Sys2Proof.Machine

open Sys2Proof.Claim

/-- Plot p has the error of an abort, and its stop (R181). -/
def State.abortAt (s : State) (p : PlotIx) : State := s.fatal p (s.plot p).pos 0x0207 0 []

/-- The report of an abort at a plot, whose command stands at a position. -/
def abortErr (p : PlotIx) (pos : Pos) : ErrRep := plotErr p pos 0x0207 .jobFatal 0 [] 4

/-- The plots that run the plan. -/
def State.runners (s : State) : List PlotIx := s.job.active.filter fun p => decide (p ∉ s.job.ended)

theorem State.abortAt_stopsAt (s : State) (p : PlotIx) :
    StopsAt (s.raise (halfOfDie (dieOfPlot p)) (abortErr p (s.plot p).pos)) (s.abortAt p) p 3 := State.stop_stopsAt _ p 3

/-- What an abort makes of its plot: a stop, at the position where it stands. -/
def Plot.Aborted (a b : Plot) : Prop := b.seq.stopping = some (a.seq.stopping.getD 3) ∧ b.pos = a.pos

theorem State.abortAt_aborted (s : State) (p : PlotIx) : Plot.Aborted (s.plot p) ((s.abortAt p).plot p) := by
  have stops := s.abortAt_stopsAt p
  have plot := stops.plot
  have stopping := stops.stopping
  rw [State.raise_plot] at plot stopping
  exact ⟨stopping, by rw [plot]; rfl⟩

theorem State.abortAt_others (s : State) {p q : PlotIx} (ne : q ≠ p) : (s.abortAt p).plot q = s.plot q :=
  ((s.abortAt_stopsAt p).others q ne).trans (State.raise_plot ..)

theorem State.abortAt_reports (s : State) (p : PlotIx) :
    Reports s (s.abortAt p) (halfOfDie (dieOfPlot p)) [abortErr p (s.plot p).pos] := by
  obtain ⟨here, there⟩ := s.raise_reports (halfOfDie (dieOfPlot p)) (abortErr p (s.plot p).pos)
  have same := State.half_of_evr (s.abortAt_stopsAt p).evr
  exact ⟨(same _).trans here, fun g ne => (same g).trans (there g ne)⟩

theorem State.abortAt_keeps (s : State) (p : PlotIx) : (s.abortAt p).job = s.job ∧ (s.abortAt p).mem = s.mem :=
  ⟨(s.abortAt_stopsAt p).job.trans (State.raise_job ..), (s.abortAt_stopsAt p).mem.trans (State.raise_mem ..)⟩

/-- An error that a half has registered stays registered while others are added. -/
theorem registered_of_reports {s t : State} {h : Half} {l : List ErrRep} (r : Reports s t h l) {g : Half} {e : ErrRep}
    (mem : e ∈ (s.half g).registered) : e ∈ (t.half g).registered := by
  obtain ⟨here, there⟩ := r
  by_cases same : g = h
  · subst same
    rw [here]
    exact List.mem_append_left _ mem
  · rwa [there g same]

theorem State.forEach_abortAt_keeps (s : State) (l : List PlotIx) {g : Half} {e : ErrRep} (mem : e ∈ (s.half g).registered) :
    e ∈ ((s.forEach l State.abortAt).half g).registered := by
  induction l generalizing s with
  | nil => exact mem
  | cons a l ih => exact ih (s.abortAt a) (registered_of_reports (s.abortAt_reports a) mem)

theorem State.abortAt_pos (s : State) (a p : PlotIx) : ((s.abortAt a).plot p).pos = (s.plot p).pos := by
  by_cases e : p = a
  · exact e ▸ (s.abortAt_aborted a).2
  · rw [s.abortAt_others e]

/-- Every plot of a list has its report, with the position at which it stood. -/
theorem State.forEach_abortAt_reports (s : State) {l : List PlotIx} {p : PlotIx} (mem : p ∈ l) :
    abortErr p (s.plot p).pos ∈ ((s.forEach l State.abortAt).half (halfOfDie (dieOfPlot p))).registered := by
  induction l generalizing s with
  | nil => exact absurd mem List.not_mem_nil
  | cons a l ih =>
    obtain e | later := List.mem_cons.1 mem
    · subst e
      refine State.forEach_abortAt_keeps (s.abortAt p) l ?_
      rw [(s.abortAt_reports p).1]
      exact List.mem_append_right _ (List.mem_singleton_self _)
    · exact s.abortAt_pos a p ▸ ih (s.abortAt a) later

theorem State.abortPlan_plots (s : State) :
    (∀ p ∈ s.runners, Plot.Aborted (s.plot p) (s.abortPlan.plot p)) ∧ ∀ p, p ∉ s.runners → s.abortPlan.plot p = s.plot p :=
  State.forEach_plots (fun ⟨stop, pos⟩ ⟨stop', pos'⟩ => ⟨by rw [stop', stop]; rfl, pos'.trans pos⟩)
    State.abortAt_aborted (fun s _ _ => s.abortAt_others) s s.runners

theorem State.abortPlan_job (s : State) : s.abortPlan.job = s.job :=
  State.forEach_keeps State.job s s.runners State.abortAt fun s p => (s.abortAt_keeps p).1

theorem State.abortPlan_mem (s : State) : s.abortPlan.mem = s.mem :=
  State.forEach_keeps State.mem s s.runners State.abortAt fun s p => (s.abortAt_keeps p).2

theorem State.mem_runners (s : State) (p : PlotIx) : p ∈ s.runners ↔ p ∈ s.job.active ∧ p ∉ s.job.ended := by
  simp [State.runners]

/-! ### PLT_PLANCTL (R181) -/

theorem Serves.exec_start {s : State} {h : HostPort} (sv : Serves s h) :
    exec (.start h) s = .next ((if !s.planIdle then none else some s.startPlan).getD (ruleBroken s)) :=
  sv.writeBoth_at pairAt_planctl rfl

theorem Serves.exec_abort {s : State} {h : HostPort} (sv : Serves s h) :
    exec (.abort h) s = .next (if s.running then s.abortPlan else s) :=
  sv.writeBoth_at pairAt_planctl (x := some _) rfl

end Sys2Proof.Machine
end

section
/-! START and the restart of PLT_RESTART through the port of the control host (R176, R257, R310). -/

namespace Sys2Proof.Machine

open Sys2Proof.Claim

/-! ### What the checks of a plan depend on (R156, R157, R176, R257) -/

/-- Two states in which the checks of a plan see the same: device memory with its layout, PLT_PLANBASE, the module's node and
the ports' use of alternates. -/
structure SameImage (s t : State) : Prop where
  mem : t.mem = s.mem
  order : t.sbd.order = s.sbd.order
  base : t.job.planbase = s.job.planbase
  node : t.kuf.node = s.kuf.node
  alternates : ∀ k, (t.kport k).altuse = (s.kport k).altuse

namespace SameImage
variable {s t u : State}

theorem trans (h : SameImage s t) (g : SameImage t u) : SameImage s u :=
  ⟨g.mem.trans h.mem, g.order.trans h.order, g.base.trans h.base, g.node.trans h.node,
    fun k => (g.alternates k).trans (h.alternates k)⟩

theorem memBytes (h : SameImage s t) (a n : Nat) : t.memBytes a n = s.memBytes a n := by
  rw [State.memBytes, h.mem, State.memBytes]

theorem memWord (h : SameImage s t) (a : Nat) : t.memWord a = s.memWord a := by
  rw [State.memWord, h.memBytes, State.memWord]

theorem imageAddr (h : SameImage s t) (off : Nat) : t.imageAddr off = s.imageAddr off := by
  rw [State.imageAddr, h.base, State.imageAddr]

theorem sliceCached (h : SameImage s t) (k : Nat) : t.sliceCached k = s.sliceCached k := by
  rw [State.sliceCached, State.die, h.mem]
  rfl

theorem isDevice (h : SameImage s t) (a : Nat) : t.isDevice a = s.isDevice a := by
  simp only [State.isDevice, h.sliceCached, h.mem, h.order]

theorem isGuarded (h : SameImage s t) (a : Nat) : t.isGuarded a = s.isGuarded a := by
  simp only [State.isGuarded, h.sliceCached, h.mem, h.order]

theorem rangeGuarded (h : SameImage s t) (a n : Nat) : t.rangeGuarded a n = s.rangeGuarded a n := by
  simp only [State.rangeGuarded, State.rangeDevice, h.isGuarded, h.isDevice]

theorem headerBytes (h : SameImage s t) : t.headerBytes = s.headerBytes := by
  rw [State.headerBytes, h.memBytes, h.base, State.headerBytes]

theorem plotEntry (h : SameImage s t) (p : PlotIx) : t.plotEntry p = s.plotEntry p := by
  simp only [State.plotEntry, h.imageAddr, h.memBytes]

theorem entryOk (h : SameImage s t) (p : PlotIx) : t.entryOk p = s.entryOk p := by
  simp only [State.entryOk, h.plotEntry, h.imageAddr, h.rangeGuarded]

theorem fltHdrAt (h : SameImage s t) (a : Nat) : t.fltHdrAt a = s.fltHdrAt a := by
  rw [State.fltHdrAt, h.memBytes, State.fltHdrAt]

theorem fltEntryAt (h : SameImage s t) (a n : Nat) : t.fltEntryAt a n = s.fltEntryAt a n := by
  rw [State.fltEntryAt, h.memBytes, State.fltEntryAt]

theorem fltBad (h : SameImage s t) (a : Nat) (restart : Bool) : t.fltBad a restart = s.fltBad a restart := by
  simp only [State.fltBad, h.fltHdrAt, h.fltEntryAt]

theorem placed (h : SameImage s t) (x : PlanHdr) : t.placed x = s.placed x := by
  simp only [State.placed, h.rangeGuarded, h.base, h.fltHdrAt]

theorem loadCheck (h : SameImage s t) (restart : Bool) : t.loadCheck restart = s.loadCheck restart := by
  simp only [State.loadCheck, h.headerBytes, h.base, h.node, h.placed, h.entryOk, h.fltBad]

theorem readRoutes (h : SameImage s t) (a : Nat) : t.readRoutes a = s.readRoutes a := by
  simp only [State.readRoutes, State.routeNow, h.memWord, h.memBytes, h.node, h.rangeGuarded, h.alternates]

end SameImage

/-! ### What a start clears (R176, R210) -/

theorem State.clearPlan_evr (s : State) : s.clearPlan.evr = s.evr := State.setPlan_evr ..
theorem State.clearPlan_mem (s : State) : s.clearPlan.mem = s.mem := State.setPlan_mem ..
theorem State.clearPlan_pwr (s : State) : s.clearPlan.pwr = s.pwr := State.setPlan_pwr ..
theorem State.clearPlan_sbd (s : State) : s.clearPlan.sbd = s.sbd := State.setPlan_sbd ..

theorem State.clearPlan_job (s : State) :
    s.clearPlan.job = { s.job with
      tokens := [], tseqs := [], loaderr := 0, hdr := none, active := [], ended := [], haltat := false, haltnext := false
      complete := false, ups := [], haltreq := false, upSent := false, stepAge := 0, waitAge := 0, abortDue := none
      haltNote := false, state := .checking, halt := .none } := State.setPlan_job ..

theorem State.clearPlan_extra (s : State) : s.clearPlan.fb.extra = s.fb.extra := by
  rw [State.clearPlan, State.setPlan_fb]
  rfl

theorem State.clearPlan_restart (s : State) :
    s.clearPlan.rcv.restartrow = s.rcv.restartrow ∧ s.clearPlan.rcv.need = s.rcv.need := by
  rw [State.clearPlan, State.setPlan_rcv]
  exact ⟨rfl, rfl⟩

theorem State.clearPlan_plot (s : State) (p : PlotIx) : s.clearPlan.plot p = (s.plot p).clear := by
  rw [State.clearPlan, State.setPlan_plot]
  simp [State.plot, State.emptySync, Vector.get_eq_getElem]

theorem State.clearPlan_unit (s : State) (d : DieIx) : s.clearPlan.unit d = (s.unit d).empty := by
  rw [State.clearPlan, State.unit, State.setPlan_sync]
  simp [State.unit, State.emptySync, Vector.get_eq_getElem]

theorem State.clearPlan_sameImage (s : State) : SameImage s s.clearPlan where
  mem := s.clearPlan_mem
  order := congrArg Sbd.order s.clearPlan_sbd
  base := by rw [s.clearPlan_job]
  node := by
    rw [State.clearPlan, State.setPlan_kuf]
    rfl
  alternates k := by
    rw [State.clearPlan, State.kport, State.setPlan_kuf]
    simp [State.kport, State.emptySync, Vector.get_eq_getElem]

/-! ### The first row (R176, R177) -/

/-- A plot begins the plan at a row, at the prologue of its table entry, or at its body where the prologue is empty. -/
structure Begins (e : Nat × Nat × Nat × Bool) (row : Row) (a b : Plot) : Prop where
  rest : b.store = a.store ∧ b.passes = a.passes ∧ b.stream = a.stream ∧ b.failvec = a.failvec
  row : b.seq.row = row
  pc : b.seq.pc = w32 e.1
  state : b.seq.state = if e.1 = e.2.1 then .body else .prologue

theorem Begins.trans {e : Nat × Nat × Nat × Bool} {row : Row} {a b c : Plot} (h : Begins e row a b) (g : Begins e row b c) :
    Begins e row a c := by
  obtain ⟨store, passes, stream, failvec⟩ := h.rest
  obtain ⟨store', passes', stream', failvec'⟩ := g.rest
  exact ⟨⟨store'.trans store, passes'.trans passes, stream'.trans stream, failvec'.trans failvec⟩, g.row, g.pc, g.state⟩

theorem State.beginPlot_begins (s : State) (p : PlotIx) (row : Row) :
    Begins (s.plotEntry p) row (s.plot p) ((s.beginPlot p row).plot p) := by
  unfold State.beginPlot
  dsimp only
  constructor <;> simp [State.seqAt]

theorem State.beginPlot_others (s : State) {p q : PlotIx} (row : Row) (ne : q ≠ p) :
    (s.beginPlot p row).plot q = s.plot q := by
  unfold State.beginPlot State.seqAt
  dsimp only
  rw [State.modSeq_plot_ne _ _ _ _ ne.symm, State.modSeq_plot_ne _ _ _ _ ne.symm]

/-- The parts of the module that the plots' begin leaves alone. -/
def State.besidePlots (s : State) := (s.sync, s.mem, s.job, s.fb, s.rcv, s.kuf, s.pwr, s.evr, s.sbd)

theorem State.beginPlot_besidePlots (s : State) (p : PlotIx) (row : Row) : (s.beginPlot p row).besidePlots = s.besidePlots := rfl

theorem State.plotEntry_of_besidePlots {s t : State} (e : t.besidePlots = s.besidePlots) (p : PlotIx) :
    t.plotEntry p = s.plotEntry p := by
  simp only [State.besidePlots, Prod.mk.injEq] at e
  obtain ⟨-, mem, job, -, -, kuf, -, -, sbd⟩ := e
  exact SameImage.plotEntry ⟨mem, by rw [sbd], by rw [job], by rw [kuf], fun k => by rw [State.kport, kuf, State.kport]⟩ p

/-- The plots of a list begin the plan at a row, each at its table entry, and nothing else changes. -/
theorem State.forEach_beginPlot (s : State) (l : List PlotIx) (row : Row) :
    let t := s.forEach l fun u p => u.beginPlot p row
    (∀ p ∈ l, Begins (s.plotEntry p) row (s.plot p) (t.plot p)) ∧ (∀ p, p ∉ l → t.plot p = s.plot p) ∧
      t.besidePlots = s.besidePlots :=
  State.forEach_plots_of (R := fun p => Begins (s.plotEntry p) row) (I := fun u => u.besidePlots = s.besidePlots)
    (fun u p same => (u.beginPlot_besidePlots p row).trans same) (fun h g => h.trans g)
    (fun u p same => State.plotEntry_of_besidePlots same p ▸ u.beginPlot_begins p row)
    (fun u _ _ => u.beginPlot_others row) l rfl

/-- The state with the allocator's figures and the row count, in which the plan runs but no plot has begun. -/
def State.atRow (s : State) (row : Row) : State :=
  { s.countReserve with job := { s.job with row := row, ended := [] } }.setPlan .running .none

theorem State.atRow_job (s : State) (row : Row) :
    (s.atRow row).job = { s.job with row := row, ended := [], state := .running, halt := .none } := State.setPlan_job ..

theorem State.atRow_plot (s : State) (row : Row) (p : PlotIx) : (s.atRow row).plot p = s.plot p := State.setPlan_plot ..

theorem State.atRow_extra (s : State) (row : Row) : (s.atRow row).fb.extra = s.fb.extra := by
  rw [State.atRow, State.setPlan_fb]
  rfl

theorem State.atRow_rest (s : State) (row : Row) :
    (s.atRow row).sync = s.sync ∧ (s.atRow row).mem = s.mem ∧ (s.atRow row).rcv = s.rcv ∧ (s.atRow row).kuf = s.kuf ∧
      (s.atRow row).pwr = s.pwr ∧ (s.atRow row).evr = s.evr ∧ (s.atRow row).sbd = s.sbd :=
  ⟨State.setPlan_sync .., State.setPlan_mem .., State.setPlan_rcv .., State.setPlan_kuf .., State.setPlan_pwr ..,
    State.setPlan_evr .., State.setPlan_sbd ..⟩

/-- The state in which every active plot stands at its first command. -/
def State.rowsBegun (s : State) (row : Row) : State :=
  (s.atRow row).forEach s.job.active fun u p => u.beginPlot p row

theorem State.beginRows_eq (s : State) (row : Row) (restart : Bool) :
    s.beginRows row restart = if restart then (s.rowsBegun row).sowBarrier else s.rowsBegun row := by
  have active : (s.atRow row).job.active = s.job.active := by rw [s.atRow_job]
  rw [State.rowsBegun, ← active]
  rfl

/-- A start in state `s` has passed its checks and stands in state `u` before its rows: what it has cleared, and what it has
read from the image and the route table (R176, R257). -/
structure Passed (s u : State) (rt : RouteTable) : Prop where
  image : SameImage s u
  hdr : u.job.hdr = some (PlanHdr.ofBytes s.headerBytes)
  active : u.job.active = allPlots.filter fun p => (s.plotEntry p).2.2.2
  job : u.job.loaderr = 0 ∧ u.job.haltat = false ∧ u.job.haltnext = false
  route : u.kuf.route = some rt
  units : ∀ d, u.unit d = (s.unit d).empty
  plots : ∀ p, u.plot p = (s.plot p).clear
  rest : u.evr = s.evr ∧ u.pwr = s.pwr
  digest : u.sbd = { s.sbd with planDigest := digest384 s.headerBytes }

/-- The rows begin after a start that has passed its checks. -/
theorem Passed.rowsBegun {s u : State} {rt : RouteTable} (h : Passed s u rt) (row : Row) :
    Begun s (u.rowsBegun row) row rt := by
  obtain ⟨inside, outside, same⟩ := (u.atRow row).forEach_beginPlot u.job.active row
  simp only [State.besidePlots, Prod.mk.injEq] at same
  obtain ⟨sync, mem, job, -, -, kuf, pwr, evr, sbd⟩ := same
  obtain ⟨sync', mem', -, kuf', pwr', evr', sbd'⟩ := u.atRow_rest row
  have job : (u.rowsBegun row).job = { u.job with row := row, ended := [], state := .running, halt := .none } :=
    job.trans (u.atRow_job row)
  have entry : ∀ p, (u.atRow row).plotEntry p = s.plotEntry p := fun p =>
    (h.image.trans ⟨mem', by rw [sbd'], by rw [u.atRow_job], by rw [kuf'],
      fun k => by rw [State.kport, kuf', State.kport]⟩).plotEntry p
  have begins : ∀ p ∈ u.job.active, Begins (s.plotEntry p) row (s.plot p).clear ((u.rowsBegun row).plot p) := fun p mem => by
    have begins := inside p mem
    rwa [entry, u.atRow_plot, h.plots] at begins
  constructor
  case hdr => rw [job, ← h.hdr]
  case state => rw [job]; exact ⟨rfl, rfl, h.job⟩
  case row => rw [job]
  case active => rw [job, ← h.active]
  case route => exact (congrArg Kuf.route (kuf.trans kuf')).trans h.route
  case units => exact fun d => (congrArg (fun v : Vector SyncDie 8 => v.get d) (sync.trans sync')).trans (h.units d)
  case plots =>
    intro p
    by_cases mem : p ∈ u.job.active
    · exact (begins p mem).rest
    · rw [State.rowsBegun, outside p mem, u.atRow_plot, h.plots]
      exact ⟨rfl, rfl, rfl, rfl⟩
  case begun =>
    intro p mem
    rw [job] at mem
    obtain ⟨-, row, pc, state⟩ := begins p mem
    exact ⟨row, pc, state⟩
  case rest => exact ⟨mem.trans (mem'.trans h.image.mem), evr.trans (evr'.trans h.rest.1), pwr.trans (pwr'.trans h.rest.2)⟩
  case digest => exact sbd.trans (sbd'.trans h.digest)

/-- The sowing barrier of a restart only holds the plots' first commands. -/
theorem begun_sown {s t : State} {row : Row} {rt : RouteTable} (h : Begun s t row rt) : Begun s t.sowBarrier row rt := by
  have sown := t.sowBarrier_elsewhere
  have job : t.sowBarrier.job = t.job := (congrArg State.job sown :)
  constructor
  case hdr => exact job ▸ h.hdr
  case state => exact job ▸ h.state
  case row => exact job ▸ h.row
  case active => exact job ▸ h.active
  case route => exact (congrArg (fun u : State => u.kuf.route) sown :).trans h.route
  case units => exact fun d => (congrArg (fun u : State => u.unit d) sown :).trans (h.units d)
  case plots => intro p; rw [t.sowBarrier_plot]; exact h.plots p
  case begun => intro p mem; rw [t.sowBarrier_plot]; exact h.begun p (job ▸ mem)
  case rest =>
    obtain ⟨mem, evr, pwr⟩ := h.rest
    exact ⟨(congrArg State.mem sown :).trans mem, (congrArg State.evr sown :).trans evr, (congrArg State.pwr sown :).trans pwr⟩
  case digest => exact (congrArg State.sbd sown :).trans h.digest

theorem State.beginRows_begun {s u : State} {rt : RouteTable} (h : Passed s u rt) (row : Row) (restart : Bool) :
    Begun s (u.beginRows row restart) row rt := by
  rw [u.beginRows_eq]
  cases restart
  · exact h.rowsBegun row
  · exact begun_sown (h.rowsBegun row)

/-- The figures of the allocator aside, the rows leave the reserve's EXTRA and the recovery as they are. -/
theorem State.beginRows_keeps (s : State) (row : Row) (restart : Bool) :
    (s.beginRows row restart).fb.extra = s.fb.extra ∧ (s.beginRows row restart).rcv = s.rcv := by
  have same := ((s.atRow row).forEach_beginPlot s.job.active row).2.2
  simp only [State.besidePlots, Prod.mk.injEq] at same
  obtain ⟨-, -, -, fb, rcv, -, -, -, -⟩ := same
  have rows : (s.rowsBegun row).fb.extra = s.fb.extra ∧ (s.rowsBegun row).rcv = s.rcv :=
    ⟨(congrArg FourBit.extra fb).trans (s.atRow_extra row), rcv.trans (s.atRow_rest row).2.2.1⟩
  have sown := (s.rowsBegun row).sowBarrier_elsewhere
  rw [s.beginRows_eq]
  cases restart
  · exact rows
  · exact ⟨(congrArg (fun u : State => u.fb.extra) sown :).trans rows.1, (congrArg State.rcv sown :).trans rows.2⟩

/-! ### The checks (R176, R257, R310) -/

/-- A state with what a plan's image says. -/
def State.withImage (s : State) (hdr : PlanHdr) (active : List PlotIx) (digest : BitVec 384) : State :=
  { s with job := { s.job with hdr := some hdr, active := active }, sbd := { s.sbd with planDigest := digest } }

/-- A state with what a plan's image and route table say. -/
def State.withPlan (s : State) (hdr : PlanHdr) (active : List PlotIx) (digest : BitVec 384) (rt : RouteTable) : State :=
  { s.withImage hdr active digest with kuf := { s.kuf with route := some rt } }

theorem State.withImage_sameImage (s : State) (hdr : PlanHdr) (active : List PlotIx) (digest : BitVec 384) :
    SameImage s (s.withImage hdr active digest) := ⟨rfl, rfl, rfl, rfl, fun _ => rfl⟩

/-- The parts of the module that the identity requests leave alone. -/
def State.besidePorts (s : State) := (s.plots, s.sync, s.mem, s.job, s.fb, s.rcv, s.pwr, s.evr, s.sbd, s.kuf.route, s.kuf.node)

theorem State.identityRequests_besidePorts (s : State) : s.identityRequests.besidePorts = s.besidePorts :=
  State.forEach_keeps State.besidePorts s allPorts _ fun _ _ => rfl

theorem State.identityRequests_altuse (s : State) (k : KPort) : (s.identityRequests.kport k).altuse = (s.kport k).altuse := by
  refine State.forEach_keeps (fun u => (u.kport k).altuse) s allPorts _ fun u j => ?_
  by_cases e : j = k
  · subst e
    rw [State.modKport_kport]
    split <;> rfl
  · rw [State.modKport_kport_ne _ _ _ _ e]

/-- What a plan's image and route table say leaves the rest of the module as it is, and so do the identity requests. -/
theorem State.planned_rest (s : State) (hdr : PlanHdr) (active : List PlotIx) (digest : BitVec 384) (rt : RouteTable) :
    let u := (s.withPlan hdr active digest rt).identityRequests
    u.job = { s.job with hdr := some hdr, active := active } ∧ u.sbd = { s.sbd with planDigest := digest } ∧
      u.kuf.route = some rt ∧ u.plots = s.plots ∧ u.sync = s.sync ∧ u.mem = s.mem ∧ u.fb = s.fb ∧ u.rcv = s.rcv ∧
      u.pwr = s.pwr ∧ u.evr = s.evr ∧ u.kuf.node = s.kuf.node := by
  have same := (s.withPlan hdr active digest rt).identityRequests_besidePorts
  simp only [State.besidePorts, Prod.mk.injEq] at same
  obtain ⟨plots, sync, mem, job, fb, rcv, pwr, evr, sbd, route, node⟩ := same
  exact ⟨job, sbd, route, plots, sync, mem, fb, rcv, pwr, evr, node⟩

theorem State.planned_sameImage (s : State) (hdr : PlanHdr) (active : List PlotIx) (digest : BitVec 384) (rt : RouteTable) :
    SameImage s (s.withPlan hdr active digest rt).identityRequests := by
  obtain ⟨job, sbd, -, -, -, mem, -, -, -, -, node⟩ := s.planned_rest hdr active digest rt
  exact ⟨mem, by rw [sbd], by rw [job], node, State.identityRequests_altuse _⟩

/-- A start or restart in state `s` has cleared the module for its plan, and stands in state `c`. -/
structure Cleared (s c : State) : Prop where
  image : SameImage s c
  job : c.job.loaderr = 0 ∧ c.job.haltat = false ∧ c.job.haltnext = false
  units : ∀ d, c.unit d = (s.unit d).empty
  plots : ∀ p, c.plot p = (s.plot p).clear
  rest : c.evr = s.evr ∧ c.pwr = s.pwr
  sbd : c.sbd = s.sbd

/-- The state in which the plan of a cleared state has passed its checks, before its rows. -/
def State.planned (c : State) (rt : RouteTable) : State :=
  (c.withPlan (PlanHdr.ofBytes c.headerBytes) (allPlots.filter fun p => (c.plotEntry p).2.2.2) (digest384 c.headerBytes)
    rt).identityRequests

theorem Cleared.passed {s c : State} (h : Cleared s c) (rt : RouteTable) : Passed s (c.planned rt) rt := by
  have active : (fun p => (c.plotEntry p).2.2.2) = fun p => (s.plotEntry p).2.2.2 := funext fun p => by rw [h.image.plotEntry]
  rw [State.planned, h.image.headerBytes, active]
  obtain ⟨job, sbd, route, plots, sync, -, -, -, pwr, evr, -⟩ := c.planned_rest (PlanHdr.ofBytes s.headerBytes)
    (allPlots.filter fun p => (s.plotEntry p).2.2.2) (digest384 s.headerBytes) rt
  constructor
  case image => exact h.image.trans (c.planned_sameImage ..)
  case hdr => rw [job]
  case active => rw [job]
  case job => rw [job]; exact h.job
  case route => exact route
  case units => exact fun d => (congrArg (fun v : Vector SyncDie 8 => v.get d) sync).trans (h.units d)
  case plots => exact fun p => (State.plot_of_plots plots p).trans (h.plots p)
  case rest => exact ⟨evr.trans h.rest.1, pwr.trans h.rest.2⟩
  case digest => rw [sbd, h.sbd]

/-- What the checks see lets a start of the plan pass in either state. -/
theorem SameImage.startable {s t : State} (h : SameImage s t) {restart : Bool} {rt : RouteTable} (ok : Startable s restart rt) :
    Startable t restart rt where
  memory := h.mem ▸ ok.memory
  checks := (h.loadCheck restart).trans ok.checks
  routes := h.headerBytes ▸ (h.readRoutes _).trans ok.routes
  node := h.headerBytes ▸ h.node ▸ ok.node
  queue := h.headerBytes ▸ ok.queue
  buddy := h.headerBytes ▸ ok.buddy

/-- A plan without a buddy list, with this module's node in its step tree, goes on with its rows. -/
theorem State.pairForStart_begins {s : State} {hdr : PlanHdr} (node : s.kuf.node.toNat < hdr.modules)
    (queue : hdr.stepqueue.toNat % 4096 ≤ 4093) (buddy : hdr.buddyint = 0) (row : Row) (restart : Bool) :
    s.pairForStart hdr row restart false = s.beginRows row restart := by
  rw [State.pairForStart, if_neg (Nat.not_le.2 node), if_neg (Nat.not_lt.2 queue), if_pos buddy]
  rfl

/-- A start, or a restart at a row without RESTORE, of a plan that passes its checks goes on with its rows. -/
theorem State.runChecks_passes {c : State} {rt : RouteTable} {restart : Option Row} (ok : Startable c restart.isSome rt) :
    c.runChecks (restart.map fun row => (row, false)) =
      (c.planned rt).beginRows (restart.getD (PlanHdr.ofBytes c.headerBytes).rowfirst) restart.isSome := by
  have node : (c.planned rt).kuf.node = c.kuf.node := (c.planned_sameImage _ _ _ rt).node
  have begins := State.pairForStart_begins (s := c.planned rt) (by rw [node]; exact ok.node) ok.queue ok.buddy
  have checks : c.loadCheck (restart.map fun row => (row, false)).isSome = none := by
    rw [Option.isSome_map]; exact ok.checks
  have routes := (c.withImage_sameImage (PlanHdr.ofBytes c.headerBytes) (allPlots.filter fun p => (c.plotEntry p).2.2.2)
    (digest384 c.headerBytes)).readRoutes (PlanHdr.ofBytes c.headerBytes).route |>.trans ok.routes
  unfold State.withImage at routes
  simp only [State.runChecks, checks, routes]
  cases restart
  · exact begins _ _
  · exact begins _ _

/-! ### START and the restart (R115, R176, R310) -/

/-- Clearing the plan clears it for a state from which only the four-bit work and the recovery differ. -/
theorem Cleared.of_requested {s u : State} (requested : { u with fb := s.fb, rcv := s.rcv } = s) : Cleared s u.clearPlan := by
  have kuf : u.kuf = s.kuf := (congrArg State.kuf requested :)
  have sbd : u.sbd = s.sbd := (congrArg State.sbd requested :)
  have job : u.job = s.job := (congrArg State.job requested :)
  have image : SameImage s u := ⟨(congrArg State.mem requested :), by rw [sbd], by rw [job], by rw [kuf],
    fun k => by rw [State.kport, kuf, State.kport]⟩
  constructor
  case image => exact image.trans u.clearPlan_sameImage
  case job => rw [u.clearPlan_job]; exact ⟨rfl, rfl, rfl⟩
  case units => exact fun d => (u.clearPlan_unit d).trans (congrArg (fun x : State => (x.unit d).empty) requested :)
  case plots => exact fun p => (u.clearPlan_plot p).trans (congrArg (fun x : State => (x.plot p).clear) requested :)
  case rest =>
    exact ⟨u.clearPlan_evr.trans (congrArg State.evr requested :), u.clearPlan_pwr.trans (congrArg State.pwr requested :)⟩
  case sbd => exact u.clearPlan_sbd.trans sbd

/-- A START takes EXTRA and the slots' key away. -/
def State.asStart (s : State) : State := { s with fb := { s.fb with extra := 0 }, rcv := { s.rcv with slotKey := none } }

/-- A restart without RESTORE takes the record of what is needed away. -/
def State.asRestart (s : State) : State := { s with rcv := { s.rcv with restore := false, need := 0 } }

theorem State.startPlan_checks {s : State} (memory : s.mem.layState ≠ 1) : s.startPlan = s.asStart.clearPlan.runChecks none := by
  refine if_neg ?_
  rw [State.clearPlan_mem]
  exact memory

theorem State.restartPlan_checks {s : State} (memory : s.mem.layState ≠ 1) :
    s.restartPlan false = s.asRestart.clearPlan.runChecks (some (s.rcv.restartrow, false)) := by
  have row : s.asRestart.clearPlan.rcv.restartrow = s.rcv.restartrow := s.asRestart.clearPlan_restart.1
  rw [← row]
  refine if_neg ?_
  rw [State.clearPlan_mem]
  exact memory

theorem State.planned_extra (s : State) (rt : RouteTable) : (s.planned rt).fb.extra = s.fb.extra :=
  congrArg FourBit.extra (s.planned_rest _ _ _ rt).2.2.2.2.2.2.1

theorem State.planned_need (s : State) (rt : RouteTable) : (s.planned rt).rcv.need = s.rcv.need :=
  congrArg Recovery.need (s.planned_rest _ _ _ rt).2.2.2.2.2.2.2.1

theorem State.startPlan_begins {s : State} {rt : RouteTable} (ok : Startable s false rt) :
    Begun s s.startPlan (PlanHdr.ofBytes s.headerBytes).rowfirst rt ∧ s.startPlan.fb.extra = 0 := by
  have cleared : Cleared s s.asStart.clearPlan := .of_requested rfl
  have start : s.startPlan = (s.asStart.clearPlan.planned rt).beginRows (PlanHdr.ofBytes s.headerBytes).rowfirst false := by
    rw [State.startPlan_checks ok.memory, ← cleared.image.headerBytes]
    exact State.runChecks_passes (restart := none) (cleared.image.startable ok)
  rw [start]
  exact ⟨State.beginRows_begun (cleared.passed rt) _ _,
    (State.beginRows_keeps ..).1.trans ((State.planned_extra ..).trans s.asStart.clearPlan_extra)⟩

theorem State.restartPlan_begins {s : State} {rt : RouteTable} (ok : Startable s true rt) :
    Begun s (s.restartPlan false) s.rcv.restartrow rt ∧ (s.restartPlan false).rcv.need = 0 ∧
      (s.restartPlan false).fb.extra = s.fb.extra := by
  have cleared : Cleared s s.asRestart.clearPlan := .of_requested rfl
  have start : s.restartPlan false = (s.asRestart.clearPlan.planned rt).beginRows s.rcv.restartrow true := by
    rw [State.restartPlan_checks ok.memory]
    exact State.runChecks_passes (restart := some s.rcv.restartrow) (cleared.image.startable ok)
  rw [start]
  obtain ⟨extra, rcv⟩ := (s.asRestart.clearPlan.planned rt).beginRows_keeps s.rcv.restartrow true
  exact ⟨State.beginRows_begun (cleared.passed rt) _ _,
    (congrArg Recovery.need rcv).trans ((State.planned_need ..).trans s.asRestart.clearPlan_restart.2),
    extra.trans ((State.planned_extra ..).trans s.asRestart.clearPlan_extra)⟩

/-! ### A start that fails its checks (R176, R359) -/

/-- The cleared state, idle and with LOADERR `n`. -/
def State.refused (s : State) (n : Nat) : State :=
  { s with job := { s.job with loaderr := BitVec.ofNat 4 n } }.setPlan .idle .none

theorem State.startPlan_fails {s : State} {n obj : Nat} (memory : s.mem.layState ≠ 1) (failed : s.loadCheck false = some (n, obj)) :
    s.startPlan = (s.asStart.clearPlan.refused n).raiseLead
      ((s.asStart.clearPlan.refused n).mkErr 0x0206 .recoverable srcService obj [n]) := by
  have cleared : Cleared s s.asStart.clearPlan := .of_requested rfl
  have checks : s.asStart.clearPlan.loadCheck false = some (n, obj) := (cleared.image.loadCheck false).trans failed
  rw [State.startPlan_checks memory]
  simp only [State.runChecks, Option.isSome_none, checks]
  rfl

/-- The module is idle with LOADERR, its plan cleared, and the lead half has the record. -/
structure StartFailed (s t : State) (n obj : Nat) : Prop where
  state : t.job.state = .idle
  loaderr : t.job.loaderr = BitVec.ofNat 4 n
  reports : Reports s t s.lead [s.mkErr 0x0206 .recoverable srcService obj [n]]
  mem : t.mem = s.mem
  units : ∀ d, t.unit d = (s.unit d).empty

theorem State.startPlan_failed {s : State} {n obj : Nat} (memory : s.mem.layState ≠ 1)
    (failed : s.loadCheck false = some (n, obj)) : StartFailed s s.startPlan n obj := by
  have cleared : Cleared s s.asStart.clearPlan := .of_requested rfl
  have job : (s.asStart.clearPlan.refused n).job =
      { s.asStart.clearPlan.job with loaderr := BitVec.ofNat 4 n, state := .idle, halt := .none } := State.setPlan_job ..
  have row : (s.asStart.clearPlan.refused n).job.row = s.job.row := by rw [job, State.clearPlan_job]; rfl
  have evr : (s.asStart.clearPlan.refused n).evr = s.evr := (State.setPlan_evr ..).trans cleared.rest.1
  have sbd : (s.asStart.clearPlan.refused n).sbd = s.sbd := (State.setPlan_sbd ..).trans cleared.sbd
  have lead : (s.asStart.clearPlan.refused n).lead = s.lead := by rw [State.lead, sbd, State.lead]
  have err : (s.asStart.clearPlan.refused n).mkErr 0x0206 .recoverable srcService obj [n] =
      s.mkErr 0x0206 .recoverable srcService obj [n] := by rw [State.mkErr, row, State.mkErr]
  rw [State.startPlan_fails memory failed, err]
  constructor
  case state => rw [State.raiseLead_job, job]
  case loaderr => rw [State.raiseLead_job, job]
  case reports =>
    obtain ⟨here, there⟩ := (s.asStart.clearPlan.refused n).raise_reports s.lead (s.mkErr 0x0206 .recoverable srcService obj [n])
    simp only [State.half_of_evr evr] at here there
    rw [State.raiseLead, lead]
    exact ⟨here, there⟩
  case mem => exact (State.raiseLead_mem ..).trans ((State.setPlan_mem ..).trans cleared.image.mem)
  case units =>
    intro d
    rw [State.unit, State.raiseLead_sync, State.refused, State.setPlan_sync]
    exact cleared.units d

/-! ### PLT_RESTART (R310) -/

/-- A restart may begin: no plan runs, or it is halted, and RESTARTROW lies in the plan. -/
def State.mayRestart (s : State) : Bool := (s.planIdle || s.job.halt ≠ .none) && s.restartRowOk

theorem Serves.exec_go {s : State} {h : HostPort} (sv : Serves s h) (restore : Bool) :
    exec (.go h restore) s = .next ((if s.mayRestart then some (s.restartPlan restore) else none).getD (ruleBroken s)) := by
  cases restore <;> exact sv.writeBoth_at pairAt_restart rfl

end Sys2Proof.Machine
end

section
/-! The statement about the commands of the plan and of the debugger, through the port of the control host. -/

namespace Sys2Proof.HostCommands

open Sys2Proof.Machine Sys2Proof.Claim

/-- Settles O54: each command is one write of its register; a stop changes its plot's sequencer alone, halts and aborts are a stop
for each plot, and a start sees in the cleared module what it saw before. -/
theorem planAndPlotCommandsOfTheHost : Obligations.PlanAndPlotCommandsOfTheHost := by
  unfold Obligations.PlanAndPlotCommandsOfTheHost
  refine ⟨fun s h sv => ⟨?start, ?startBroken, ?go, ?goBroken, ?abortIdle, ?abort, ?haltnow, ?haltnowHalted, ?haltnowBroken,
    sv.exec_haltat, sv.exec_haltnext, ?resumeRound, ?resumeNow, fun halt => sv.exec_resume_refused halt, ?set, ?setBroken,
    ?return_, ?reserve, ?reserveBroken⟩,
    fun s h p => ⟨fun sv => ⟨?requests, ?rests, ?takesUp, ?refused, ?data, ?noData⟩, ?complete⟩⟩
  case start =>
    intro idle
    have run := sv.exec_start
    rw [idle] at run
    refine ⟨fun rt ok => ⟨_, run, State.startPlan_begins ok⟩, fun n obj memory failed => ?_⟩
    have fails := State.startPlan_failed memory failed
    exact ⟨_, run, fails.state, fails.loaderr, fails.reports, fails.mem, fails.units⟩
  case startBroken =>
    intro busy
    rw [sv.exec_start, busy]
    rfl
  case go =>
    intro free row rt ok
    have may : s.mayRestart = true := by simpa [State.mayRestart, row] using free
    have run := sv.exec_go false
    rw [may] at run
    exact ⟨_, run, State.restartPlan_begins ok⟩
  case goBroken =>
    intro held b
    have no : s.mayRestart = false := by
      obtain ⟨busy, none⟩ | bad := held
      · simp [State.mayRestart, busy, none]
      · simp [State.mayRestart, bad]
    rw [sv.exec_go, no]
    rfl
  case abortIdle =>
    intro idle
    rw [sv.exec_abort, idle]
    rfl
  case abort =>
    intro runs
    have run := sv.exec_abort
    rw [runs] at run
    obtain ⟨inside, outside⟩ := s.abortPlan_plots
    refine ⟨_, run, s.abortPlan_job, s.abortPlan_mem, fun p active runner => ?_, fun p out => outside p fun mem => ?_⟩
    · have mem := (s.mem_runners p).2 ⟨active, runner⟩
      exact ⟨(inside p mem).1, s.forEach_abortAt_reports mem⟩
    · obtain ⟨active, runner⟩ := (s.mem_runners p).1 mem
      exact out.elim (· active) runner
  case haltnow =>
    intro runs noMap map
    have halts := State.haltNow_halts runs noMap map
    exact ⟨_, sv.exec_haltnow (.inl runs), halts.state, halts.halt, halts.row, halts.mem, halts.stopped, halts.others⟩
  case haltnowHalted =>
    intro halted boundary
    have notes : s.haltNow none = s.noticeFrom srcEngine 0x0A 0 [] := by simp only [State.haltNow, halted, boundary, if_true]
    exact ⟨_, (sv.exec_haltnow (.inr halted)).trans (congrArg _ notes), State.raiseLead_reports rfl, s.raiseLead_elsewhere _⟩
  case haltnowBroken => exact fun idle => sv.exec_haltnow_refused idle
  case resumeRound =>
    intro halt
    obtain ⟨state, none, row, age, upSent⟩ := s.againRound_job
    obtain ⟨mem, sync, kuf, rcv, fb, pwr⟩ := s.againRound_others
    have sown := s.againRound.sowBarrier_elsewhere
    have job : s.againRound.sowBarrier.job = s.againRound.job := (congrArg State.job sown :)
    refine ⟨_, State.resumeJob_boundary halt ▸ sv.exec_resume (.inl halt), job ▸ state, job ▸ none, job ▸ row, job ▸ age,
      job ▸ upSent, State.raiseLead_reports (s.againRound.sowBarrier_evr.trans s.againRound_evr), fun p => ?_,
      (congrArg State.mem sown :).trans mem, (congrArg State.sync sown :).trans sync, (congrArg State.kuf sown :).trans kuf,
      (congrArg State.rcv sown :).trans rcv, (congrArg State.fb sown :).trans fb⟩
    rw [State.sowBarrier_plot, s.againRound_plot, pwr]
    cases bit s.pwr.sow 31 <;> simp
  case resumeNow =>
    intro halt noSpill
    obtain ⟨plots, elsewhere⟩ := State.takenUp_of_noSpill noSpill
    obtain ⟨mem, sync, kuf, pwr⟩ := s.resuming_others
    have sown := s.takenUp.sowBarrier_elsewhere
    refine ⟨_, State.resumeJob_now halt ▸ sv.exec_resume (.inr halt), ?_, State.raiseLead_reports ?_,
      fun p q hq => ?_, ?_, ?_, ?_⟩
    · exact (congrArg State.job sown :).trans <| (congrArg State.job elsewhere :).trans s.resuming_job
    · exact s.takenUp.sowBarrier_evr.trans <| (congrArg State.evr elsewhere :).trans s.resuming_evr
    · rw [State.sowBarrier_plot, plots, ← hq, (congrArg State.pwr elsewhere :), pwr]
    · exact (congrArg State.mem sown :).trans <| (congrArg State.mem elsewhere :).trans mem
    · exact (congrArg State.sync sown :).trans <| (congrArg State.sync elsewhere :).trans sync
    · exact (congrArg State.kuf sown :).trans <| (congrArg State.kuf elsewhere :).trans kuf
  case set =>
    refine fun checks runs hd hdr interval => ⟨fun f good hf => ?_, fun k bad => ?_⟩
    · subst hf
      rw [sv.exec_set checks runs, State.setPairing_good hdr interval good, State.beginPairing, State.sendBuddy, Nat.one_mul]
    · exact ⟨_, (sv.exec_set checks runs).trans (congrArg _ (State.setPairing_bad hdr interval bad)),
        State.raiseLead_reports rfl, s.raiseLead_elsewhere _⟩
  case setBroken => exact fun busy => sv.exec_set_refused busy
  case return_ =>
    intro checks runs none owner target
    rw [sv.exec_return checks runs none]
    exact ⟨fun absent => congrArg _ (State.beginReturn_absent target absent),
      fun a held => congrArg _ (State.beginReturn_held target held)⟩
  case reserve =>
    intro x halt more fits
    exact ⟨_, sv.exec_fbres_grows ⟨halt, more, fits⟩, State.raiseLead_fb .., State.raiseLead_reports (s := s.growReserve x) rfl,
      (congrArg (fun u : State => { u with fb := s.fb }) ((s.growReserve x).raiseLead_elsewhere _) :)⟩
  case reserveBroken => exact fun x halt => sv.exec_fbres_refused halt x
  case requests =>
    intro runs free c hc
    obtain ⟨t, run, stops⟩ := sv.exec_requests runs hc
    exact ⟨t, run, stops.requested free⟩
  case rests => exact fun rests => sv.exec_stop_of_rest rests
  case takesUp =>
    intro byStop stopped noHalt pass stream
    have takes : s.takesUp p = true := by simp [State.takesUp, byStop, stopped, noHalt]
    rw [sv.exec_step, sv.exec_run, if_pos takes, if_pos takes, s.resumePlot_of_noSpill p _ pass stream,
      s.resumePlot_of_noSpill p _ pass stream]
    exact ⟨rfl, rfl⟩
  case refused =>
    intro other
    have no : ¬s.takesUp p = true := by
      simp only [State.takesUp, Bool.and_eq_true, decide_eq_true_eq]
      rintro ⟨⟨byStop, stopped⟩, noHalt⟩
      obtain h | h | h := other <;> simp_all
    rw [sv.exec_step, sv.exec_run, if_neg no, if_neg no]
    exact ⟨rfl, rfl⟩
  case data =>
    refine fun rests => ⟨sv.exec_psdataRead rests, fun v wf => ?_⟩
    have plot : (s.modPlot p fun q => q.takePsdata v).plot p = (s.plot p).takePsdata v := s.modPlot_plot p _
    refine ⟨_, sv.exec_psdataWrite_stores rests v, fun b => ?_, ?_, fun q ne => s.modPlot_plot_ne p q _ ne.symm, rfl⟩
    · rw [plot]
      exact cellGet_cellsPut 0 _ _ b _ wf
    · rw [plot]
      rfl
  case noData => exact fun works => ⟨sv.exec_psdataRead_refused works, sv.exec_psdataWrite_refused works⟩
  case complete =>
    exact fun r stop ready quiet runs note map noResume =>
      execPlotStopComplete_stops stop ready quiet runs note map noResume

end Sys2Proof.HostCommands
end

section
/-! The Drill: what running a stream's units leaves of the module, the end of a stream, its stops with their records, parity errors
and tilling load, and the statements about them (R118, R128-R130, R143-R149, R152, R340). -/

namespace Sys2Proof.Machine

open Sys2Proof.Claim

/-! ### The units of a stream (R118, R128) -/

/-- The state in which the Drill has run the units of stream a up to element `hi`. -/
def State.ran (s : State) (p : PlotIx) (a : ActiveStream) (c : Ctl) (hi : Nat) : State := (s.runStream p a c hi).2

/-- Running units leaves the stream that the statements carry on, in the state that has run them. -/
theorem State.runStream_eq (s : State) (p : PlotIx) (a : ActiveStream) (c : Ctl) (hi : Nat) :
    s.runStream p a c hi = (carried s p a c hi, s.ran p a c hi) := rfl

theorem State.ran_plot (s : State) (p : PlotIx) (a : ActiveStream) (c : Ctl) (hi : Nat) :
    (s.ran p a c hi).plot p =
      { s.plot p with
        store := (ranTo s p a c hi).store
        rake := (ranTo s p a c hi).reg
        counters := ((s.ran p a c hi).plot p).counters } := by
  simp only [State.ran, State.runStream, State.energy_plot]
  rw [State.count_plot, State.count_plot, State.modPlot_plot]
  rfl

theorem State.ran_onlyPlot (s : State) (p : PlotIx) (a : ActiveStream) (c : Ctl) (hi : Nat) : OnlyPlot s (s.ran p a c hi) p := by
  unfold State.ran State.runStream
  exact ((((((s.modPlot_onlyPlot p _).trans (State.count_onlyPlot ..)).trans (State.count_onlyPlot ..)).trans
    (State.energy_onlyPlot ..)).trans (State.energy_onlyPlot ..)).trans (State.energy_onlyPlot ..)).trans
    (State.energy_onlyPlot ..)

/-! ### The end of a stream (R129, R130, R143, R152) -/

/-- The plot when stream `b`, whose units have all run, is over: its flags stand in the registers, and with FLAGWR in their
record. -/
def Plot.endStream (q : Plot) (b : ActiveStream) : Plot :=
  { q with
    store := if b.desc.flagwr then cellsPut 0 q.store b.desc.flagaddr b.flagRecord else q.store
    stream := none
    sflags := b.sflags
    firstinv := b.firstInv
    fpflags := q.fpflags ||| b.sflags.truncate 8
    rakeHeld := q.rakeHeld || (decide (b.desc.rakeop ≠ 0) && !b.desc.rakerow)
    numctl := { q with stream := none }.shownNumctl }

/-- The state in which stream a has run all its units and is over. -/
def State.streamEnded (s : State) (p : PlotIx) (a : ActiveStream) (c : Ctl) : State :=
  (s.ran p a c a.desc.count).modPlot p fun q => q.endStream (carried s p a c a.desc.count)

theorem State.streamEnded_plot (s : State) (p : PlotIx) (a : ActiveStream) (c : Ctl) :
    (s.streamEnded p a c).plot p =
      { s.plot p with
        store := if a.desc.flagwr then
            cellsPut 0 (ranTo s p a c a.desc.count).store a.desc.flagaddr (carried s p a c a.desc.count).flagRecord
          else (ranTo s p a c a.desc.count).store
        stream := none
        rake := (ranTo s p a c a.desc.count).reg
        rakeHeld := (s.plot p).rakeHeld || (decide (a.desc.rakeop ≠ 0) && !a.desc.rakerow)
        sflags := (ranTo s p a c a.desc.count).sflags
        firstinv := (ranTo s p a c a.desc.count).firstInv
        fpflags := (s.plot p).fpflags ||| (ranTo s p a c a.desc.count).sflags.truncate 8
        numctl := ((s.streamEnded p a c).plot p).numctl
        counters := ((s.streamEnded p a c).plot p).counters } := by
  rw [State.streamEnded, State.modPlot_plot, s.ran_plot]
  rfl

theorem State.streamEnded_onlyPlot (s : State) (p : PlotIx) (a : ActiveStream) (c : Ctl) : OnlyPlot s (s.streamEnded p a c) p :=
  (s.ran_onlyPlot p a c a.desc.count).trans (State.modPlot_onlyPlot ..)

theorem execStreamEnd_ends {s : State} {p : PlotIx} {a : ActiveStream} {c : Ctl} (stream : (s.plot p).stream = some a)
    (ctl : unitCtl a.desc.numctl = some c) (clocked : s.clocked p = true) :
    execStreamEnd p s = .next (s.streamEnded p a c) := by
  simp only [execStreamEnd, stream, ctl, clocked, State.runStream_eq, Bool.not_true, Bool.false_eq_true, if_false]
  unfold State.streamEnded Plot.endStream
  by_cases flagwr : (carried s p a c a.desc.count).desc.flagwr = true
  · simp only [if_pos flagwr, State.setFlags, State.psWrite, State.showNumctl, State.modPlot_modPlot]
    rfl
  · simp only [if_neg flagwr, State.setFlags, State.showNumctl, State.modPlot_modPlot]
    rfl

/-! ### Stops of streams (R144, R145) -/

/-- The number of an image is the register's wherever the spec states one (R135, log entry 17). -/
theorem State.imageValue_of_stated (s : State) {r : RakeReg} (stated : r.loose = false) : (s.imageValue r).1 = r.value.toNat := by
  simp [State.imageValue, stated]

/-- Taking an image's number changes no part of the module: a free value may count as used. -/
theorem State.imageValue_state (s : State) (r : RakeReg) : ∃ n, (s.imageValue r).2 = { s with freeCtr := n } := by
  unfold State.imageValue
  split <;> exact ⟨_, rfl⟩

theorem State.imageValue_plot (s : State) (r : RakeReg) (q : PlotIx) : (s.imageValue r).2.plot q = s.plot q := by
  obtain ⟨n, e⟩ := s.imageValue_state r
  rw [e]
  rfl

theorem State.imageValue_plotAndTrace (s : State) (r : RakeReg) (p : PlotIx) : PlotAndTrace s (s.imageValue r).2 p := by
  obtain ⟨n, e⟩ := s.imageValue_state r
  rw [e]
  exact ⟨fun _ _ => rfl, rfl, rfl, fun silent => ⟨rfl, silent⟩⟩

theorem State.stopStream_plotAndTrace (s : State) (p : PlotIx) (a : ActiveStream) (reason : BitVec 4) :
    PlotAndTrace s (s.stopStream p a reason) p := by
  unfold State.stopStream State.psWrite State.showNumctl
  exact (((((s.imageValue_plotAndTrace _ p).modPlot _).modPlot _).modPlot _).trans (State.count_plotAndTrace ..)).trans
    (State.tracePlot_plotAndTrace ..)

theorem State.stopStream_plot (s : State) (p : PlotIx) (a : ActiveStream) (reason : BitVec 4) :
    (s.stopStream p a reason).plot p =
      { s.plot p with
        store := cellsPut 0 (s.plot p).store (s.plot p).drlSpillbase.toNat
          ((s.plot p).streamRecord a reason (s.imageValue (s.plot p).rake).1)
        stream := none
        drlSpilled := true
        numctl := ((s.stopStream p a reason).plot p).numctl
        counters := ((s.stopStream p a reason).plot p).counters } := by
  have traced : ∀ u : State, (u.tracePlot p 0x03 a.pos a.epos reason.toNat).plot p = u.plot p := fun u =>
    State.plot_of_plots (State.tracePlot_plots ..) p
  unfold State.stopStream
  dsimp only
  rw [traced, State.count_plot]
  simp [State.showNumctl, State.psWrite, State.imageValue_plot]

/-- The state in which stream a has run its units up to element `epos` and has stopped there. -/
def State.stoppedAt (s : State) (p : PlotIx) (a : ActiveStream) (c : Ctl) (epos : Nat) (reason : BitVec 4) : State :=
  (s.ran p a c epos).stopStream p (carried s p a c epos) reason

/-- Plot p has stopped its stream before element `epos`: the units before it have run, and the stop record, with the number `v` for
the register's image, stands at DRL_SPILLBASE. -/
structure StoppedBefore (s t : State) (p : PlotIx) (a : ActiveStream) (c : Ctl) (epos : Nat) (reason : BitVec 4) (v : Nat) :
    Prop where
  value : (ranTo s p a c epos).reg.loose = false → v = (ranTo s p a c epos).reg.value.toNat
  store : (t.plot p).store = cellsPut 0 (ranTo s p a c epos).store (s.plot p).drlSpillbase.toNat
    ({ s.plot p with rake := (ranTo s p a c epos).reg }.streamRecord (carried s p a c epos) reason v)
  stream : (t.plot p).stream = none
  spilled : (t.plot p).drlSpilled = true
  rake : (t.plot p).rake = (ranTo s p a c epos).reg
  seq : (t.plot p).seq = (s.plot p).seq

theorem State.stoppedAt_stopped (s : State) (p : PlotIx) (a : ActiveStream) (c : Ctl) (epos : Nat) (reason : BitVec 4) :
    ∃ v, StoppedBefore s (s.stoppedAt p a c epos reason) p a c epos reason v := by
  have plot := (s.ran p a c epos).stopStream_plot p (carried s p a c epos) reason
  rw [s.ran_plot] at plot
  refine ⟨((s.ran p a c epos).imageValue (ranTo s p a c epos).reg).1, State.imageValue_of_stated _, ?_, ?_, ?_, ?_, ?_⟩
  · rw [State.stoppedAt, plot]
    simp only [Plot.streamRecord]
  all_goals rw [State.stoppedAt, plot]

/-- Of the module besides plot p the sync units, the links, the job and the recorder stay as they were. -/
theorem State.stoppedAt_beside (s : State) (p : PlotIx) (a : ActiveStream) (c : Ctl) (epos : Nat) (reason : BitVec 4) :
    (∀ q, q ≠ p → (s.stoppedAt p a c epos reason).plot q = s.plot q) ∧ (s.stoppedAt p a c epos reason).sync = s.sync ∧
      (s.stoppedAt p a c epos reason).kuf = s.kuf ∧ (s.stoppedAt p a c epos reason).job = s.job ∧
      (s.stoppedAt p a c epos reason).evr = s.evr := by
  have ran := s.ran_onlyPlot p a c epos
  have stopped := (s.ran p a c epos).stopStream_plotAndTrace p (carried s p a c epos) reason
  have same := stopped.elsewhere
  exact ⟨fun q ne => (stopped.others q ne).trans (ran.others q ne), same.sync.trans ran.sync, same.kuf.trans ran.kuf,
    same.job.trans ran.job, same.evr.trans ran.evr⟩

theorem execStreamStop_stops {s : State} {p : PlotIx} {a : ActiveStream} {c : Ctl} {reason : BitVec 4} {epos : Nat}
    (stream : (s.plot p).stream = some a) (stop : (s.plot p).seq.stopping = some reason)
    (ctl : unitCtl a.desc.numctl = some c) (clocked : s.clocked p = true) (start : a.desc.unitStart epos = true)
    (ahead : a.epos < epos) : execStreamStop p epos s = .next (s.stoppedAt p a c epos reason) := by
  simp [execStreamStop, stream, stop, ctl, clocked, start, ahead, State.runStream_eq, State.stoppedAt]

/-! ### Parity errors of the Drill (R147) -/

/-- A unit that may be read: stream a runs, and a stop unit begins at element `epos`, which lies ahead. -/
structure ReadsUnit (s : State) (p : PlotIx) (a : ActiveStream) (c : Ctl) (epos : Nat) : Prop where
  stream : (s.plot p).stream = some a
  ctl : unitCtl a.desc.numctl = some c
  clocked : s.clocked p = true
  start : a.desc.unitStart epos = true
  ahead : a.epos ≤ epos

/-- The plot that reads the unit at `epos` of stream `b` again. -/
def Plot.reread (q : Plot) (b : ActiveStream) (epos : Nat) : Plot :=
  { q with stream := some { b with retried := some epos }, drlParretry := satAdd q.drlParretry 1 }

theorem ReadsUnit.execDrillParityError_rereads {s : State} {p : PlotIx} {a : ActiveStream} {c : Ctl} {epos : Nat}
    (h : ReadsUnit s p a c epos) (new : a.retried ≠ some epos) :
    execDrillParityError p epos s = .next ((s.ran p a c epos).modPlot p fun q => q.reread (carried s p a c epos) epos) := by
  simp [execDrillParityError, h.stream, h.ctl, h.clocked, h.start, h.ahead, new, State.runStream_eq, Plot.reread]

theorem ReadsUnit.execDrillParityError_stops {s : State} {p : PlotIx} {a : ActiveStream} {c : Ctl} {epos : Nat}
    (h : ReadsUnit s p a c epos) (again : a.retried = some epos) :
    execDrillParityError p epos s = .next ((s.stoppedAt p a c epos 4).parityStop p a.pos) := by
  simp [execDrillParityError, h.stream, h.ctl, h.clocked, h.start, h.ahead, again, State.runStream_eq, State.stoppedAt]

/-! ### Tilling load (R149, R340) -/

/-- A report to a half reaches the recorder alone. -/
theorem State.raise_elsewhere (s : State) (h : Half) (e : ErrRep) : { s.raise h e with evr := s.evr } = s := by
  cases h <;> rfl

/-- The notice of a parity error of plot p's tilling load. -/
def State.tillingNotice (s : State) (p : PlotIx) : ErrRep :=
  { plotErr p (Pos.none s.job.row) 0x0901 .notice 0 [0x08] 0 with source := srcPower }

theorem execTillingParityError_counts {s : State} {p : PlotIx} (clocked : s.clocked p = true) (load : 0 < (s.plot p).tilling)
    (idle : (s.plot p).stream = none) : execTillingParityError p s =
      .next ((s.modPlot p fun q => { q with drlTillpar := satAdd q.drlTillpar 1 }).raise (halfOfDie (dieOfPlot p))
        (s.tillingNotice p)) := by
  simp [execTillingParityError, clocked, load, idle, State.tillingNotice]

theorem execTillingIntensityStep_steps {s : State} {p : PlotIx} (clocked : s.clocked p = true) (load : 0 < (s.plot p).tilling)
    (free : (s.plot p).seq.waiting = true ∨ (s.plot p).seq.sowing = false) :
    execTillingIntensityStep p s = .next (s.modPlot p fun q => { q with tilling := q.tilling - 1 }) := by
  have some_load : (s.plot p).tilling ≠ 0 := fun none => by simp [none] at load
  have falls : (!(s.plot p).seq.waiting && (s.plot p).seq.sowing) = false := by
    obtain h | h := free <;> simp [h]
  simp [execTillingIntensityStep, clocked, some_load, falls]

end Sys2Proof.Machine

namespace Sys2Proof.DrillAndRake

open Sys2Proof.Machine Sys2Proof.Claim

/-- Settles O21: the units run first, and the end of the stream then is one change of the plot. -/
theorem streamEndDeliversResultsAndFlags : Obligations.StreamEndDeliversResultsAndFlags := by
  rintro s p a c w stream ctl clocked rfl
  have plot := s.streamEnded_plot p a c
  have o := s.streamEnded_onlyPlot p a c
  exact ⟨_, execStreamEnd_ends stream ctl clocked, by rw [plot], by rw [plot]; rfl, by rw [plot],
    by rw [plot], by rw [plot], by rw [plot], by rw [plot], by rw [plot], by rw [plot], o.others, o.mem, o.sync, o.kuf,
    o.job, o.evr⟩

/-- Settles O22: the units before the stop run, and the stop writes its record behind them. -/
theorem streamStopLeavesAStopRecord : Obligations.StreamStopLeavesAStopRecord := by
  rintro s p a c reason epos w stream stop ctl clocked start ahead rfl
  obtain ⟨v, at_epos⟩ := s.stoppedAt_stopped p a c epos reason
  exact ⟨_, v, execStreamStop_stops stream stop ctl clocked start ahead, at_epos.value, at_epos.store, at_epos.stream,
    at_epos.spilled, at_epos.rake, at_epos.seq, s.stoppedAt_beside p a c epos reason⟩

/-- Settles O23: a first error only counts and marks the unit, and a second one is a stop at the unit with a parity stop of the
plot. -/
theorem drillParityErrorRereadsOnce : Obligations.DrillParityErrorRereadsOnce := by
  rintro s p a c epos w stream ctl clocked start ahead rfl
  have h : ReadsUnit s p a c epos := ⟨stream, ctl, clocked, start, ahead⟩
  refine ⟨fun new => ?first, fun again runs => ?second⟩
  case first =>
    have plot := (s.ran p a c epos).modPlot_plot p fun q => q.reread (carried s p a c epos) epos
    rw [s.ran_plot, Plot.reread] at plot
    have o := (s.ran_onlyPlot p a c epos).trans (State.modPlot_onlyPlot _ p fun q => q.reread (carried s p a c epos) epos)
    exact ⟨_, h.execDrillParityError_rereads new, by rw [plot], by rw [plot], by rw [plot], by rw [plot],
      by rw [plot], o.evr, o.others⟩
  case second =>
    obtain ⟨v, at_epos⟩ := s.stoppedAt_stopped p a c epos 4
    obtain ⟨-, -, -, -, evr⟩ := s.stoppedAt_beside p a c epos 4
    have plot := State.parityStop_plot a.pos ((congrArg Seq.stopping at_epos.seq).trans runs)
    have half : (s.stoppedAt p a c epos 4).half (halfOfDie (dieOfPlot p)) = s.half (halfOfDie (dieOfPlot p)) := by
      cases halfOfDie (dieOfPlot p) <;> simp only [State.half, evr]
    refine ⟨_, v, h.execDrillParityError_stops again, at_epos.value, ?_, ?_, ?_, ?_, ?_⟩
    · rw [plot]; exact at_epos.store
    · rw [plot]; exact at_epos.stream
    · rw [plot]; exact at_epos.spilled
    · rw [plot]
    · rw [State.parityStop_half, half]

/-- Settles O24: the parity error changes the plot's count and the recorder, the intensity step the plot's load alone. -/
theorem tillingLoadStepsDown : Obligations.TillingLoadStepsDown := by
  intro s p clocked load
  refine ⟨fun idle => ?parity, fun free => ?step⟩
  case parity =>
    have near := s.modPlot_plotAndTrace p fun q => { q with drlTillpar := satAdd q.drlTillpar 1 }
    refine ⟨_, execTillingParityError_counts clocked load idle, ?_, fun q ne => ?_, ?_, ?_⟩
    · rw [State.raise_plot, State.modPlot_plot]
    · rw [State.raise_plot, near.others q ne]
    · rw [State.raise_half, State.modPlot_half]
      rfl
    · exact (State.raise_elsewhere ..).symm ▸ near.elsewhere
  case step =>
    have near := s.modPlot_plotAndTrace p fun q => { q with tilling := q.tilling - 1 }
    exact ⟨_, execTillingIntensityStep_steps clocked load free, s.modPlot_plot p _, near.others, near.elsewhere⟩

end Sys2Proof.DrillAndRake
end

section
/-! The Rake commands of a plot: their accesses, their effects on the register and the plot store, and the statement about them
(R138, R140, R141). -/

namespace Sys2Proof.Machine

open Sys2Proof.Claim

/-! ### A command that has its access (R161, R297) -/

/-- The state in which plot p's fetched command, behind its issue record, is held no longer. -/
def State.accessed (s1 : State) (p : PlotIx) (c : Cmd) : State := (afterIssue s1 p c).unholdCommand p

theorem State.accessed_plotAndTrace (s1 : State) (p : PlotIx) (c : Cmd) : PlotAndTrace s1 (s1.accessed p c) p := by
  unfold State.accessed State.unholdCommand State.setHeld State.modSeq
  exact ((afterIssue_plotAndTrace s1 p c).modPlot _).modPlot _

theorem State.accessed_plot (s1 : State) (p : PlotIx) (c : Cmd) :
    (s1.accessed p c).plot p =
      { s1.plot p with
        seq := { (s1.plot p).seq with waiting := false }
        held := (s1.plot p).held.filter (· ≠ .fetch) } := by
  simp [State.accessed, State.unholdCommand, State.setHeld]

/-- A command whose work leaves its sequencer where it stands is done, and besides its plot only the trace has changed. -/
theorem PlotAndTrace.finish_command {s u : State} {p : PlotIx} (h : PlotAndTrace s u p)
    (pc : (u.plot p).seq.pc = (s.plot p).seq.pc) (row : (u.plot p).seq.row = (s.plot p).seq.row) :
    Moved s (u.finish p) p (behind s p) ∧ Elsewhere s (u.finish p) := by
  have near := h.trans (u.finish_plotAndTrace p)
  have done := u.finish_moved p
  refine ⟨⟨?_, done.ready, done.waiting, done.row.trans row, near.others⟩, near.elsewhere⟩
  rw [done.pc, behind, behind, pc]

/-- A command that has its access in state `v`, and whose effect is the change `f` of the plot, is done. -/
theorem PlotAndTrace.finish_effect {s1 v : State} {p : PlotIx} {c : Cmd} (h : PlotAndTrace s1 v p)
    (plot : v.plot p = (s1.accessed p c).plot p) (f : Plot → Plot) (seq : ∀ q, (f q).seq = q.seq) :
    Moved s1 ((v.modPlot p f).finish p) p (behind s1 p) ∧ Elsewhere s1 ((v.modPlot p f).finish p) ∧
      ((v.modPlot p f).finish p).plot p =
        { f ((s1.accessed p c).plot p) with seq := (((v.modPlot p f).finish p).plot p).seq } := by
  have after : (v.modPlot p f).plot p = f ((s1.accessed p c).plot p) := (v.modPlot_plot p f).trans (congrArg f plot)
  obtain ⟨moved, elsewhere⟩ := (h.modPlot f).finish_command (by rw [after, seq, s1.accessed_plot])
    (by rw [after, seq, s1.accessed_plot])
  exact ⟨moved, elsewhere, by rw [← after]; exact State.finish_plot ..⟩

/-! ### The commands (R138, R140, R141) -/

section
variable {s s1 : State} {p : PlotIx} {c : Cmd}

/-- Bytes put into a plot's store. -/
def Plot.put (q : Plot) (a : Nat) (v : List Byte) : Plot := { q with store := cellsPut 0 q.store a v }

theorem Plot.put_seq (q : Plot) (a : Nat) (v : List Byte) : (q.put a v).seq = q.seq := rfl

/-- The `n` bytes of a rounded value put into a plot's store, with its sticky flags (R47). -/
def Plot.putRounded (q : Plot) (a n : Nat) (r : Rounded) : Plot :=
  { q.put a (bytesOfNat n r.bits) with fpflags := q.fpflags ||| r.flags }

theorem execRclear_clears (fetched : s.fetch p 0x09 = .cmd c s1) (idle : (s1.plot p).stream = none) (arg1 : c.arg1 = 0)
    (arg2 : c.arg2 = 0) (arg3 : c.arg3 = 0) : execRclear p s =
      .next (((s1.accessed p c).modPlot p fun q => { q with rake := .cleared, rakeHeld := false }).finish p) := by
  rw [execRclear, State.command_afterIssue _ fetched (by simp [arg1, arg2, arg3])]
  simp [idle, State.accessed]

/-- RREAD with a sound control word, of a register that is not of kind OR. -/
theorem execRread_reads {ctl : Ctl} {n : Nat} {f : FFmt} (fetched : s.fetch p 0x0A = .cmd c s1)
    (idle : (s1.plot p).stream = none) (size : n = if c.arg2 = 1 then 8 else 4) (format : f = if c.arg2 = 1 then fB64 else fB32)
    (arg2 : c.arg2 ≤ 1) (arg3 : c.arg3 < 2 ^ 16) (inStore : c.arg1 + n ≤ storeBytes)
    (free : (s1.plot p).writeHeld [extOf c.arg1 n] = false) (kind : (s1.plot p).rake.kind ≠ .or)
    (sound : unitCtl (BitVec.ofNat 16 c.arg3) = some ctl) : execRread p s =
      .next (((s1.accessed p c).modPlot p fun q => q.putRounded c.arg1 n ((s1.plot p).rake.read f ctl)).finish p) := by
  subst size format
  rw [execRread, State.command_afterIssue _ fetched (by simp [arg2, arg3, inStore, -Nat.reducePow])]
  simp [idle, free, kind, sound, State.accessed, State.psWrite, State.setFlags, State.modPlot_modPlot, Plot.putRounded, Plot.put]

theorem execRsave_saves (fetched : s.fetch p 0x0B = .cmd c s1) (idle : (s1.plot p).stream = none) (aligned : c.arg1 % 64 = 0)
    (inStore : c.arg1 + 128 ≤ storeBytes) (arg2 : c.arg2 = 0) (arg3 : c.arg3 = 0)
    (free : (s1.plot p).writeHeld [extOf c.arg1 128] = false) : execRsave p s =
      .next ((((s1.accessed p c).imageValue (s1.plot p).rake).2.modPlot p fun q =>
        q.put c.arg1 ((s1.plot p).rake.imageOf ((s1.accessed p c).imageValue (s1.plot p).rake).1)).finish p) := by
  rw [execRsave, State.command_afterIssue _ fetched (by simp [aligned, inStore, arg2, arg3])]
  simp [idle, free, State.accessed, State.psWrite, Plot.put]

/-- RADD of a sound image whose kind may meet the register's. -/
theorem execRadd_adds {r : RakeReg} (fetched : s.fetch p 0x0C = .cmd c s1) (idle : (s1.plot p).stream = none)
    (aligned : c.arg1 % 64 = 0) (inStore : c.arg1 + 128 ≤ storeBytes) (arg2 : c.arg2 = 0) (arg3 : c.arg3 = 0)
    (free : (s1.plot p).readHeld [extOf c.arg1 128] = false) (image : RakeReg.ofImage (s1.psRead p c.arg1 128) = some r)
    (meets : kindsMeet (s1.plot p).rake.kind r.kind = true) : execRadd p s =
      .next (((s1.accessed p c).modPlot p fun q => { q with rake := q.rake.combine r, rakeHeld := true }).finish p) := by
  rw [execRadd, State.command_afterIssue _ fetched (by simp [aligned, inStore, arg2, arg3])]
  simp [idle, free, image, meets, State.accessed]

end

end Sys2Proof.Machine

namespace Sys2Proof.DrillAndRake

open Sys2Proof.Machine Sys2Proof.Claim

/-- Settles O8: each command is one change of its plot once it has its access; RSAVE first takes the number of its image. -/
theorem rakeCommandsComplete : Obligations.RakeCommandsComplete := by
  intro s s1 p c idle
  have effect := (s1.accessed_plotAndTrace p c).finish_effect (c := c) rfl
  have plot := s1.accessed_plot p c
  refine ⟨fun fetched arg1 arg2 arg3 => ?rclear, fun fetched arg2 arg3 inStore free kind ctl sound r hr => ?rread,
    fun fetched aligned inStore arg2 arg3 free => ?rsave, fun fetched aligned inStore arg2 arg3 free r image meets => ?radd⟩
  case rclear =>
    obtain ⟨moved, elsewhere, after⟩ := effect (fun q => { q with rake := .cleared, rakeHeld := false }) fun _ => rfl
    exact ⟨_, execRclear_clears fetched idle arg1 arg2 arg3, moved, elsewhere, by rw [after, plot]⟩
  case rread =>
    subst hr
    obtain ⟨moved, elsewhere, after⟩ := effect (fun q => q.putRounded c.arg1 (if c.arg2 = 1 then 8 else 4)
      ((s1.plot p).rake.read (if c.arg2 = 1 then fB64 else fB32) ctl)) fun _ => rfl
    exact ⟨_, execRread_reads fetched idle rfl rfl arg2 arg3 inStore free kind sound, moved, elsewhere,
      by rw [after, plot, Plot.putRounded, Plot.put]⟩
  case rsave =>
    have near := (s1.accessed_plotAndTrace p c).trans (State.imageValue_plotAndTrace _ (s1.plot p).rake p)
    obtain ⟨moved, elsewhere, after⟩ := near.finish_effect (c := c) (State.imageValue_plot ..) (fun q =>
      q.put c.arg1 ((s1.plot p).rake.imageOf ((s1.accessed p c).imageValue (s1.plot p).rake).1)) fun q => q.put_seq ..
    exact ⟨_, _, execRsave_saves fetched idle aligned inStore arg2 arg3 free, moved, elsewhere,
      State.imageValue_of_stated _, by rw [after, plot, Plot.put]⟩
  case radd =>
    obtain ⟨moved, elsewhere, after⟩ := effect (fun q => { q with rake := q.rake.combine r, rakeHeld := true }) fun _ => rfl
    exact ⟨_, execRadd_adds fetched idle aligned inStore arg2 arg3 free image meets, moved, elsewhere, by rw [after, plot]⟩

end Sys2Proof.DrillAndRake
end

section
/-! The steps of a collective schedule: images that are sent, combined and received, and the statement about them (R141, R254, R262,
R263). -/

namespace Sys2Proof.Machine

open Sys2Proof.Claim

/-! ### Messages that arrive (R242, R248, R259) -/

/-- A message that has arrived for this module goes to the row that claims its type, behind its removal from the port. -/
theorem receive_of_arrived {s : State} {k : KPort} {c : Fin 3} {m : List Byte} {h : MsgHdr} (a : Arrived s k c m h)
    {mine : Nat → Bool} (own : mine h.mtype = true) (f : MsgHdr → List Byte → State → State) :
    s.receive k c mine f = f h m (s.dropMsg k c m.length) := by
  obtain ⟨head, header, here, sound, reserved, awake⟩ := a
  subst header
  simp [State.receive, awake, head, own, here, sound, reserved]

theorem State.dropMsg_rx (s : State) (k : KPort) (c : Fin 3) (n : Nat) :
    ((s.dropMsg k c n).kport k).rx.get c = ((s.kport k).rx.get c).drop n := by
  rw [State.dropMsg, State.modKport_kport]
  exact vector_get_set_self ..

theorem State.dropMsg_others (s : State) {k j : KPort} (c : Fin 3) (n : Nat) (ne : j ≠ k) :
    (s.dropMsg k c n).kport j = s.kport j := s.modKport_kport_ne k j _ ne.symm

/-! ### COLLECTIVE_STEP (R254, R263) -/

/-- The row that a collective step message names. -/
def stepRow (m : List Byte) : Nat := (wordAt m 0x14).toNat + (wordAt m 0x18).toNat % 2 ^ 16 * 2 ^ 32

theorem stepRow_lt (m : List Byte) : stepRow m < 2 ^ 48 := by
  have := (wordAt m 0x14).isLt
  unfold stepRow
  omega

/-- The image that a collective step message carries, as it waits in the inbox. -/
def stepImage (h : MsgHdr) (m : List Byte) : InboxImage :=
  { collid := BitVec.ofNat 12 ((wordAt m 0x10).toNat % 2 ^ 12), row := BitVec.ofNat 48 (stepRow m)
    step := BitVec.ofNat 8 ((wordAt m 0x10).toNat / 2 ^ 12 % 2 ^ 8), node := h.src, image := (m.drop 0x20).take 128 }

/-- An image waits in the inbox behind the others. -/
def State.inboxed (s : State) (i : InboxImage) : State := { s with kuf := { s.kuf with inbox := s.kuf.inbox ++ [i] } }

/-- An image of this row or a later one enters an inbox that has room. -/
theorem execCollectiveStep_inboxed {s : State} {k : KPort} {m : List Byte} {h : MsgHdr} (a : Arrived s k 1 m h)
    (mtype : h.mtype = 3) (len : h.len = 144) (room : s.kuf.inbox.length < 256) (row : s.job.row.toNat ≤ stepRow m) :
    execCollectiveStep k s = .next ((s.dropMsg k 1 m.length).inboxed (stepImage h m)) := by
  have current : s.job.row ≤ BitVec.ofNat 48 (stepRow m) := by
    rwa [BitVec.le_def, BitVec.toNat_ofNat, Nat.mod_eq_of_lt (stepRow_lt m)]
  have words : (wordAt m 0x14).toNat + bits (wordAt m 0x18) 15 0 * 2 ^ 32 = stepRow m := by
    rw [bits_eq_div_mod, Nat.pow_zero, Nat.div_one]
    rfl
  rw [execCollectiveStep, receive_of_arrived a rfl]
  simp only [words, mtype, len, ne_eq, not_true, decide_false, Bool.or_self, Bool.false_eq_true, if_false]
  rw [if_neg (by simpa using ⟨room, current⟩)]
  simp only [bits_eq_div_mod, Nat.pow_zero, Nat.div_one]
  rfl

/-! ### Receiving steps (R141, R262) -/

/-- A receiving step takes its image, which `f` lets meet the register, and goes on with the register that `f` gives. -/
theorem State.recvStep_goesOn {s : State} {id : Fin 4096} {c : Collective} {r r' x : RakeReg} {st : CollStep} {i : InboxImage}
    {op : BitVec 4} (reached : s.collStep id = some (c, r, st)) (live : s.evr.fallow = false) (receives : st.op = op)
    (waits : s.inboxImage id st = some i) (image : RakeReg.ofImage i.image = some x) {f : RakeReg → RakeReg → Option RakeReg}
    (next : f r x = some r') :
    s.recvStep id op f = { s with kuf := { s.kuf with inbox := s.kuf.inbox.erase i, colls := stepped s c r' } } := by
  subst receives
  simp only [State.recvStep, reached, live, waits, image, next, Option.bind_some, ne_eq, not_true, decide_false, Bool.or_self,
    Bool.false_eq_true, if_false]
  rfl

/-! ### SEND (R254, R262) -/

/-- The bytes of a register's image (R140). -/
theorem RakeReg.imageOf_length (r : RakeReg) (v : Nat) : (r.imageOf v).length = 128 := by
  simp [RakeReg.imageOf, bytesOfWords_length, zeros]

theorem collBody_length (id : Fin 4096) (step : Nat) (row : Row) (image : List Byte) :
    (collBody id step row image).length = 16 + image.length := by
  simp [collBody, bytesOfWords_length]

/-- The message of a sending step that carries an image to a node. -/
def State.stepMessage (s : State) (id : Fin 4096) (c : Collective) (node : BitVec 12) (image : List Byte) : List Byte :=
  mkMessage { mtype := 3, channel := 0, hops := s.maxHops, len := 0, src := s.kuf.node, dst := node, mseq := 0 }
    (collBody id c.step s.job.row image)

theorem State.stepMessage_header (s : State) (id : Fin 4096) (c : Collective) (node : BitVec 12) (r : RakeReg) (v : Nat) :
    (MsgHdr.ofBytes (s.stepMessage id c node (r.imageOf v))).dst = node ∧
      classOfType (MsgHdr.ofBytes (s.stepMessage id c node (r.imageOf v))).mtype = 1 := by
  have short : (collBody id c.step s.job.row (r.imageOf v)).length < 512 := by
    rw [collBody_length, RakeReg.imageOf_length]
    omega
  rw [State.stepMessage, mkMessage_dst _ _ (by simp) s.maxHops_lt short, mkMessage_mtype _ _ (by simp) s.maxHops_lt short]
  exact ⟨rfl, rfl⟩

/-- The state in which the image of register `r`, with the number `v`, has left on port `k`, and the combination has gone on. -/
def State.sentStep (s : State) (id : Fin 4096) (c : Collective) (node : BitVec 12) (k : KPort) (r : RakeReg) (v : Nat) : State :=
  (s.txPush k (s.stepMessage id c node (r.imageOf v))).stepColl c r

/-- A sending step whose node has a route; the number of the image may be a free value, which counts as used. -/
theorem execSend_sends {s : State} {id : Fin 4096} {c : Collective} {r : RakeReg} {st : CollStep} {k : KPort}
    (live : s.evr.fallow = false) (reached : s.collStep id = some (c, r, st)) (op : st.op = 1)
    (route : s.routeOf st.node = some k) :
    ∃ n, execSend id s = .next ({ s with freeCtr := n }.sentStep id c st.node k r (s.imageValue r).1) := by
  obtain ⟨n, counted⟩ := s.imageValue_state r
  obtain ⟨dst, -⟩ := { s with freeCtr := n }.stepMessage_header id c st.node r (s.imageValue r).1
  have sends := State.sendOn_route { s with freeCtr := n } _ k st.node dst route
  refine ⟨n, ?_⟩
  simp only [execSend, reached, live, op, counted, ne_eq, not_true, decide_false, Bool.or_self, Bool.false_eq_true, if_false]
  exact congrArg (fun x : Option KPort × State => Host.Outcome.next (x.2.stepColl c r)) sends

end Sys2Proof.Machine

namespace Sys2Proof.DrillAndRake

open Sys2Proof.Machine Sys2Proof.Claim

/-- Settles O27: a sending step puts one message on a port, a receiving step takes one image, and an arriving image only enters the
inbox. -/
theorem collectiveStepsMoveImages : Obligations.CollectiveStepsMoveImages := by
  intro s id c r st live
  refine ⟨fun reached op k route => ?send, fun reached i x waits image => ⟨fun op meets => ?recvadd, fun op => ?recvset⟩,
    fun k m h a mtype len room row => ?arrives⟩
  case send =>
    obtain ⟨n, run⟩ := execSend_sends live reached op route
    obtain ⟨-, cls⟩ := { s with freeCtr := n }.stepMessage_header id c st.node r (s.imageValue r).1
    have pushed := State.txPush_txq { s with freeCtr := n } _ k 1 cls
    exact ⟨_, _, _, run, s.imageValue_of_stated, rfl, congrArg KufPort.txq pushed,
      fun j ne => State.txPush_ne { s with freeCtr := n } _ k j ne.symm, rfl, rfl, rfl, rfl, rfl, rfl, rfl⟩
  case recvadd =>
    exact congrArg Host.Outcome.next (State.recvStep_goesOn reached live op waits image (if_pos meets))
  case recvset =>
    exact congrArg Host.Outcome.next (State.recvStep_goesOn reached live op waits image rfl)
  case arrives =>
    exact ⟨_, execCollectiveStep_inboxed a mtype len room row, rfl, s.dropMsg_rx k 1 m.length,
      fun j ne => s.dropMsg_others 1 m.length ne, rfl, rfl, rfl, rfl, rfl, rfl⟩

end Sys2Proof.DrillAndRake
end

section
/-! The plan commands of one plot that only move its sequencer, fence it or end a part, WAIT and SIGNAL, the fetch that each
command begins with, and the statements about them (R160-R164, R177, R212, R215). -/

namespace Sys2Proof.Machine

open Sys2Proof.Claim

/-! ### The fetch (R161, R164) -/

/-- A fetched command is what the access of memory at SEQPC has read. -/
theorem State.fetch_reads {s s1 : State} {p : PlotIx} {opc : Nat} {c : Cmd} (fetched : s.fetch p opc = .cmd c s1) :
    ∃ b, s.homeRead (.plot p (s.plot p).pos) (s.imageAddr (s.plot p).seq.pc.toNat) 16 = (.ok b, s1) ∧ c = Cmd.ofBytes b := by
  simp only [State.fetch] at fetched
  repeat' split at fetched
  all_goals try contradiction
  rename_i b read _ _
  obtain ⟨rfl, rfl⟩ := Fetch.cmd.inj fetched
  exact ⟨b, Prod.ext read rfl, rfl⟩

theorem State.fetch_clean {s s1 : State} {p : PlotIx} {opc : Nat} {c : Cmd} (fetched : s.fetch p opc = .cmd c s1)
    (clean : s.mem.bad = []) :
    s1.mem.cells = s.mem.cells ∧ s1.evr = s.evr ∧
      c = Cmd.ofBytes (s.memBytes (s.imageAddr (s.plot p).seq.pc.toNat) 16) := by
  obtain ⟨b, read, rfl⟩ := State.fetch_reads fetched
  obtain ⟨t, reads, access, cells⟩ := s.homeRead_clean (.plot p (s.plot p).pos) (s.imageAddr (s.plot p).seq.pc.toNat) 16 clean
  obtain ⟨bytes, rfl⟩ := Prod.mk.inj (read.symm.trans reads)
  obtain rfl := Except.ok.inj bytes
  exact ⟨cells, access.evr, rfl⟩

/-- A command is fetched only where the one before it is done. -/
theorem State.busy_of_fetch {s s1 : State} {p : PlotIx} {opc : Nat} {c : Cmd} (fetched : s.fetch p opc = .cmd c s1) :
    (s.plot p).seq.busy = .ready := by
  obtain ⟨issue, -⟩ := s.fetch_cmd s1 p opc c fetched
  simp only [State.mayIssue, Seq.canIssue, Bool.and_eq_true, decide_eq_true_eq] at issue
  exact issue.2.1.2

/-! ### Behind the issue record (R433) -/

theorem afterIssue_core (s1 : State) (p : PlotIx) (c : Cmd) : (afterIssue s1 p c).core = s1.core :=
  (afterIssue_plotAndTrace s1 p c).core

theorem afterIssue_clocked (s1 : State) (p : PlotIx) (c : Cmd) : (afterIssue s1 p c).clocked p = s1.clocked p := by
  have elsewhere := (afterIssue_plotAndTrace s1 p c).elsewhere
  simp only [State.clocked, State.strip, elsewhere.pwr, elsewhere.evr]

theorem afterIssue_snap (s1 : State) (p : PlotIx) (c : Cmd) : (afterIssue s1 p c).dbg.snap = s1.dbg.snap := by
  unfold afterIssue
  split
  · rfl
  · have rest := s1.tracePlot_dbgRest p 0x01 (c.pos (s1.plot p).seq.row) (s1.plot p).seq.pc.toNat (c.opc * 2 ^ 24)
    exact (congrArg Dbg.snap rest :)

/-- A command that only moves its plot's sequencer on, from a state `u` in which only the trace has changed since the fetch. -/
theorem PlotAndTrace.finishAt_moved {s1 u : State} {p : PlotIx} (near : PlotAndTrace s1 u p) (plot : u.plot p = s1.plot p)
    (pc : Nat) :
    Moved s1 (u.finishAt p pc) p pc ∧ Elsewhere s1 (u.finishAt p pc) ∧
      (u.finishAt p pc).plot p = { s1.plot p with seq := ((u.finishAt p pc).plot p).seq } := by
  have whole := near.trans (u.finishAt_plotAndTrace p pc)
  have done := u.finishAt_moved p pc
  refine ⟨⟨done.pc, done.ready, done.waiting, done.row.trans (by rw [plot]), whole.others⟩, whole.elsewhere, ?_⟩
  rw [← plot]
  exact u.finishAt_plot p pc

/-- The same for the move to the next command. -/
theorem PlotAndTrace.finish_moves {s1 u : State} {p : PlotIx} (near : PlotAndTrace s1 u p) (plot : u.plot p = s1.plot p) :
    Moved s1 (u.finish p) p (behind s1 p) ∧ Elsewhere s1 (u.finish p) ∧
      (u.finish p).plot p = { s1.plot p with seq := ((u.finish p).plot p).seq } := by
  rw [show behind s1 p = behind u p by rw [behind, behind, plot]]
  exact near.finishAt_moved plot (behind u p)

theorem State.traceOn_plotAndTrace (s : State) (p : PlotIx) (d : DieIx) (r : TraceRec) (trig : Bool) :
    PlotAndTrace s (s.traceOn d r trig) p :=
  ⟨fun q _ => State.plot_of_plots (State.traceOn_plots ..) q, State.traceOn_core .., State.traceOn_evr ..,
    State.traceOn_noSpill s d r trig⟩

section
variable {s s1 : State} {p : PlotIx} {c : Cmd}

theorem execNop_finishes (fetched : s.fetch p 0x00 = .cmd c s1) (arg1 : c.arg1 = 0) (arg2 : c.arg2 = 0) (arg3 : c.arg3 = 0) :
    execNop p s = .next ((afterIssue s1 p c).finish p) := by
  rw [execNop, State.command_afterIssue _ fetched (by simp [arg1, arg2, arg3])]

theorem execJump_jumps (fetched : s.fetch p 0x11 = .cmd c s1) (arg1 : c.arg1 = 0) (arg2 : c.arg2 = 0)
    (target : (s1.plot p).seq.targetOk c.arg3 = true) : execJump p s = .next ((afterIssue s1 p c).finishAt p c.arg3) := by
  rw [execJump, State.command_afterIssue _ fetched (by simp [arg1, arg2, target])]

/-- MARK leaves some record with the trace unit of its die, and perhaps a trigger. -/
theorem execMark_marks (fetched : s.fetch p 0x14 = .cmd c s1) (arg1 : c.arg1 = 0) (arg2 : c.arg2 = 0) :
    ∃ r trig, execMark p s = .next (((afterIssue s1 p c).traceOn (dieOfPlot p) r trig).finish p) := by
  rw [execMark, State.command_afterIssue _ fetched (by simp [arg1, arg2])]
  exact ⟨_, _, rfl⟩

/-! ### WAIT and SIGNAL (R160, R212, R215) -/

/-- The watch that a WAIT registers, where SYN_TOCFG gives `defaultus` (R215). -/
def Cmd.waitWatch (c : Cmd) (p : PlotIx) (row : Row) (defaultus : Nat) : Watch :=
  { slot := 0, kind := .wait, plot := p, dbg := 0, object := BitVec.ofNat 12 c.arg1, n := c.arg2 % 128,
    consume := c.arg2 / 256, elapsed := 0, timeout := if c.arg3 = 0 then defaultus else c.arg3, pos := c.pos row }

/-- The state in which plot p has given a watch to its die's sync unit and waits. -/
def State.watched (s : State) (p : PlotIx) (w : Watch) : State :=
  ((s.modUnit (dieOfPlot p) fun u => { u with regs := u.regs ++ [w] }).beginWait p).modSeq p fun q => { q with busy := .watching }

theorem State.watched_plot (s : State) (p : PlotIx) (w : Watch) :
    (s.watched p w).plot p =
      { s.plot p with
        tilling := bits s.pwr.till 31 28
        seq := { (s.plot p).seq with waiting := true, busy := .watching } } := by
  rw [State.watched, State.modSeq_plot, State.beginWait, State.modPlot_plot]
  rfl

theorem State.watched_unit (s : State) (p : PlotIx) (w : Watch) :
    (s.watched p w).unit (dieOfPlot p) =
      { s.unit (dieOfPlot p) with regs := (s.unit (dieOfPlot p)).regs ++ [w] } := by
  rw [State.watched, State.modSeq_unit, State.beginWait, State.modPlot_unit, State.modUnit_unit]

theorem State.watched_unit_ne (s : State) (p : PlotIx) (w : Watch) {d : DieIx} (ne : d ≠ dieOfPlot p) :
    (s.watched p w).unit d = s.unit d := by
  rw [State.watched, State.modSeq_unit, State.beginWait, State.modPlot_unit, State.modUnit_unit_ne _ _ _ _ ne.symm]

/-- Besides the sync units, only the plot has changed. -/
theorem State.watched_plotAndTrace (s : State) (p : PlotIx) (w : Watch) :
    PlotAndTrace s { s.watched p w with sync := s.sync } p :=
  (s.modPlot_plotAndTrace p fun q => { q with tilling := bits s.pwr.till 31 28, seq := { q.seq with waiting := true } }).modPlot
    fun q => { q with seq := { q.seq with busy := .watching } }

theorem execWait_watches (fetched : s.fetch p 0x04 = .cmd c s1) (queue : c.arg1 < 4096) (low : 1 ≤ c.arg2 % 128)
    (high : c.arg2 % 128 ≤ 64) (consume : c.arg2 / 256 ≤ c.arg2 % 128) (reserved : c.arg2 / 128 % 2 = 0)
    (timeout : c.arg3 ≤ 60000000) (plain : queueNumber (dieOfPlot p) c.arg1 ∉ s1.stepQueues) :
    execWait p s = .next ((afterIssue s1 p c).watched p (c.waitWatch p (s1.plot p).seq.row s1.smod.defaultus.toNat)) := by
  rw [execWait, State.command_afterIssue _ fetched (by simp [queue, low, high, consume, reserved, timeout, plain]),
    (afterIssue_plotAndTrace s1 p c).elsewhere.smod]
  rfl

/-- What changes a plot and the trace behind a change of the links alone. -/
theorem PlotAndTrace.of_withKuf {t : State} {k : Kuf} (h : PlotAndTrace { s with kuf := k } t p) :
    PlotAndTrace s { t with kuf := s.kuf } p := by
  obtain ⟨pending, sync, smod, job, fb, rcv, -, pwr, sbd, pciA, pciB, pins⟩ := (State.core_eq _ _).1 h.core
  exact ⟨h.others, (State.core_eq _ _).2 ⟨pending, sync, smod, job, fb, rcv, rfl, pwr, sbd, pciA, pciB, pins⟩, h.evr, h.mem⟩

/-- A SIGNAL to a queue of this module sends its token on the way. -/
theorem execSignal_sends (fetched : s.fetch p 0x05 = .cmd c s1) (here : c.arg1 < 2 ^ 15) (plain : c.arg1 ∉ s1.stepQueues)
    (arg2 : c.arg2 = 0) : execSignal p s =
      .next (((afterIssue s1 p c).localToken 1 (BitVec.ofNat 12 p.val) (BitVec.ofNat 15 c.arg1) (w32 c.arg3)).finish p) := by
  have queue : c.arg1 % 2 ^ 15 = c.arg1 := Nat.mod_eq_of_lt here
  have node : c.arg1 / 2 ^ 15 = 0 := Nat.div_eq_of_lt here
  have channel : c.arg1 / 2 ^ 16 = 0 := Nat.div_eq_of_lt (by omega)
  rw [execSignal, State.command_afterIssue _ fetched (by rw [queue, node, channel]; simp [plain, arg2])]
  simp only [node, Nat.zero_mod, Nat.zero_ne_one, if_false]

/-! ### FENCE and the ends of parts (R160, R177) -/

theorem execFence_finishes (fetched : s.fetch p 0x06 = .cmd c s1) (mask : c.arg1 < 32) (arg2 : c.arg2 = 0) (arg3 : c.arg3 = 0)
    (quiet : (s1.plot p).quiet (BitVec.ofNat 5 c.arg1) = true) :
    execFence p s = .next ((afterIssue s1 p c).finish p) := by
  rw [execFence, State.busy_of_fetch fetched]
  dsimp only
  rw [State.command_afterIssue _ fetched (by simp [mask, arg2, arg3])]
  simp only [afterIssue_plot, quiet, if_true]

end

/-- A plot at ENDROW with its work complete reports its row, where no snapshot is due (R177, R431). -/
theorem State.reportRow_reports {s : State} {p : PlotIx} (atEnd : (s.plot p).seq.state = .atEndrow)
    (runs : (s.plot p).seq.stopping = none) (quiet : (s.plot p).allQuiet = true) (clocked : s.clocked p = true)
    (noSnap : s.dbg.snap = false) : s.reportRow p = s.modSeq p fun q => { q with rowDone := true } := by
  have unsnapped : s.snapshot p = s := by simp [State.snapshot, noSnap]
  unfold State.reportRow
  by_cases reported : (s.plot p).seq.rowDone = true
  · have same : s.modSeq p (fun q => { q with rowDone := true }) = s := by
      rw [State.modSeq_eq, s.modPlot_congr p (g := fun q => q) (by rw [← reported]), s.modPlot_self]
    simp [reported, same]
  · simp [atEnd, runs, quiet, clocked, reported, unsnapped]

/-- A plot that has come to ENDROW, waits there with a tilling load and has reported its row complete. -/
def Plot.rowReported (q : Plot) (level : Nat) : Plot :=
  { q with tilling := level, seq := { q.seq with waiting := true, state := .atEndrow, rowDone := true } }

section
variable {s s1 : State} {p : PlotIx} {c : Cmd}

theorem execEndrow_reports (fetched : s.fetch p 0x12 = .cmd c s1) (arg1 : c.arg1 = 0) (arg2 : c.arg2 = 0) (arg3 : c.arg3 = 0)
    (body : (s1.plot p).seq.state = .body) (before : (s.plot p).seq.state ≠ .atEndrow) (runs : (s1.plot p).seq.stopping = none)
    (quiet : (s1.plot p).allQuiet = true) (clocked : s1.clocked p = true) (noSnap : s1.dbg.snap = false) :
    execEndrow p s =
      .next ((afterIssue s1 p c).modPlot p fun q => q.rowReported (bits (afterIssue s1 p c).pwr.till 31 28)) := by
  rw [execEndrow, if_neg before, State.command_afterIssue _ fetched (by simp [arg1, arg2, arg3, body]), State.reportRow_reports]
  · simp only [State.beginWait, State.modSeq_eq, State.modPlot_modPlot, Plot.rowReported]
  · rw [State.modSeq_plot]
  · simp [State.beginWait, runs]
  · rw [State.modSeq_plot, State.beginWait, State.modPlot_plot, afterIssue_plot]
    exact quiet
  · rw [← clocked, ← afterIssue_clocked s1 p c]
    rfl
  · exact (afterIssue_snap s1 p c).trans noSnap

end

/-! ### The end of a plan (R177, R240, R280) -/

/-- Requests of a halt that are cleared are of the job, and their notice of the recorder. -/
theorem State.clearRequests_rest (s : State) :
    s.clearRequests.plots = s.plots ∧ s.clearRequests.sync = s.sync ∧ s.clearRequests.job.ended = s.job.ended ∧
      s.clearRequests.job.state = s.job.state ∧ s.clearRequests.job.halt = s.job.halt := by
  unfold State.clearRequests
  split
  · obtain ⟨-, sync, -, job, -⟩ := (State.core_eq _ _).1 (State.noticeFrom_core
      { s with job := { s.job with haltat := false, haltnext := false } } srcEngine 0x0A s.job.haltrow.toNat [])
    exact ⟨by simp [State.noticeFrom, State.raiseLead], sync, by rw [job], by rw [job], by rw [job]⟩
  · exact ⟨rfl, rfl, rfl, rfl, rfl⟩

theorem State.endPlan_rest (s : State) (st : PlanState) (h : HaltState) :
    (s.endPlan st h).plots = s.plots ∧ (s.endPlan st h).sync = s.sync ∧ (s.endPlan st h).job.ended = s.job.ended ∧
      (s.endPlan st h).job.state = st ∧ (s.endPlan st h).job.halt = h := by
  have ports := (s.setPlan st h).clearRequests.identityRequests_besidePorts
  simp only [State.besidePorts, Prod.mk.injEq] at ports
  obtain ⟨plots, sync, -, job, -⟩ := ports
  obtain ⟨plots', sync', ended, state, halt⟩ := (s.setPlan st h).clearRequests_rest
  simp only [State.endPlan, plots, sync, job]
  exact ⟨plots'.trans (s.setPlan_plots st h), sync'.trans (s.setPlan_sync st h), by rw [ended, State.setPlan_job],
    by rw [state, State.setPlan_job], by rw [halt, State.setPlan_job]⟩

/-- The state in which plot p stands behind its ENDPLAN, and the plan's list of such plots names it. -/
def State.partEnded (s : State) (p : PlotIx) : State :=
  let s1 := (s.modSeq p fun q => { q with state := .ended, busy := .ready, waiting := false }).tracePlot p 0x02 (s.plot p).pos
    (s.plot p).seq.pc.toNat (0x13 * 2 ^ 24)
  { s1 with job := { s1.job with ended := s1.job.ended ++ [p] } }

theorem State.plotEnded_eq (s : State) (p : PlotIx) :
    s.plotEnded p = if (s.partEnded p).job.active.all fun x => decide (x ∈ (s.partEnded p).job.ended)
      then (s.partEnded p).endPlan .ended .none else s.partEnded p := rfl

theorem State.partEnded_job (s : State) (p : PlotIx) :
    (s.partEnded p).job = { s.job with ended := s.job.ended ++ [p] } := by
  obtain ⟨-, -, -, job, -⟩ := (State.core_eq _ _).1 (State.tracePlot_core
    (s.modSeq p fun q => { q with state := .ended, busy := .ready, waiting := false }) p 0x02 (s.plot p).pos
    (s.plot p).seq.pc.toNat (0x13 * 2 ^ 24))
  simp only [State.partEnded, job, State.modSeq_job]

theorem State.partEnded_plotAndTrace (s : State) (p : PlotIx) : PlotAndTrace s { s.partEnded p with job := s.job } p := by
  have near := (s.modPlot_plotAndTrace p fun q => { q with seq := { q.seq with state := .ended, busy := .ready, waiting := false } }).trans
    (State.tracePlot_plotAndTrace _ p 0x02 (s.plot p).pos (s.plot p).seq.pc.toNat (0x13 * 2 ^ 24))
  have job := near.elsewhere.job
  exact ⟨near.others, by rw [← near.core, ← job]; rfl, near.evr, near.mem⟩

theorem State.partEnded_plot (s : State) (p : PlotIx) :
    (s.partEnded p).plot p = { s.plot p with seq := { (s.plot p).seq with state := .ended, busy := .ready, waiting := false } } :=
  (State.plot_of_plots (State.tracePlot_plots ..) p).trans (s.modSeq_plot p _)

/-- What a plot's ENDPLAN leaves: its part is at its end, and the plan is where this was the last part. -/
structure EndsPart (s t : State) (p : PlotIx) : Prop where
  state : (t.plot p).seq.state = .ended
  ready : (t.plot p).seq.busy = .ready
  ended : t.job.ended = s.job.ended ++ [p]
  others : ∀ q, q ≠ p → t.plot q = s.plot q
  sync : t.sync = s.sync
  last : (∀ x ∈ s.job.active, x ∈ s.job.ended ++ [p]) → t.job.state = .ended ∧ t.job.halt = .none
  more : (∃ x ∈ s.job.active, x ∉ s.job.ended ++ [p]) → t.job.state = s.job.state ∧ t.kuf = s.kuf

theorem State.plotEnded_endsPart (s : State) (p : PlotIx) : EndsPart s (s.plotEnded p) p := by
  have job := s.partEnded_job p
  have near := s.partEnded_plotAndTrace p
  have plot := s.partEnded_plot p
  obtain ⟨plots, sync, ended, state, halt⟩ := (s.partEnded p).endPlan_rest .ended .none
  rw [s.plotEnded_eq, job]
  by_cases all : ∀ x ∈ s.job.active, x ∈ s.job.ended ++ [p]
  · rw [if_pos (by simpa using all)]
    have same := State.plot_of_plots plots
    exact ⟨by rw [same, plot], by rw [same, plot], by rw [ended, job], fun q ne => (same q).trans (near.others q ne),
      sync.trans near.elsewhere.sync, fun _ => ⟨state, halt⟩, fun ⟨x, active, left⟩ => absurd (all x active) left⟩
  · rw [if_neg (by simpa using all)]
    exact ⟨by rw [plot], by rw [plot], by rw [job], near.others, near.elsewhere.sync, fun h => absurd h all,
      fun _ => ⟨by rw [job], near.elsewhere.kuf⟩⟩

theorem EndsPart.of_afterIssue {s1 t : State} {p : PlotIx} {c : Cmd} (h : EndsPart (afterIssue s1 p c) t p) :
    EndsPart s1 t p := by
  have elsewhere := (afterIssue_plotAndTrace s1 p c).elsewhere
  obtain ⟨state, ready, ended, others, sync, last, more⟩ := h
  rw [elsewhere.job] at ended last more
  exact ⟨state, ready, ended, fun q ne => (others q ne).trans (afterIssue_plot s1 p c q), sync.trans elsewhere.sync, last,
    fun left => ⟨(more left).1, (more left).2.trans elsewhere.kuf⟩⟩

theorem execEndplan_ends {s s1 : State} {p : PlotIx} {c : Cmd} (fetched : s.fetch p 0x13 = .cmd c s1) (arg1 : c.arg1 = 0)
    (arg2 : c.arg2 = 0) (arg3 : c.arg3 = 0) (outside : (s1.plot p).seq.state ≠ .body) (quiet : (s1.plot p).allQuiet = true) :
    execEndplan p s = .next ((afterIssue s1 p c).plotEnded p) := by
  rw [execEndplan, State.busy_of_fetch fetched]
  dsimp only
  rw [State.command_afterIssue _ fetched (by simp [arg1, arg2, arg3, outside])]
  simp only [afterIssue_plot, quiet, if_true]

end Sys2Proof.Machine

namespace Sys2Proof.PlansAndPlots

open Sys2Proof.Machine Sys2Proof.Claim

/-- Settles O2: each of the three commands is the move of its sequencer behind the issue record; MARK leaves one more trace
record. -/
theorem simpleCommandsAdvance : Obligations.SimpleCommandsAdvance := by
  intro s s1 p c
  have near := afterIssue_plotAndTrace s1 p c
  have plot := afterIssue_plot s1 p c p
  refine ⟨fun fetched arg1 arg2 arg3 => ?nop, fun fetched arg1 arg2 target => ?jump, fun fetched arg1 arg2 => ?mark⟩
  case nop => exact ⟨_, execNop_finishes fetched arg1 arg2 arg3, near.finish_moves plot⟩
  case jump => exact ⟨_, execJump_jumps fetched arg1 arg2 target, near.finishAt_moved plot c.arg3⟩
  case mark =>
    obtain ⟨r, trig, run⟩ := execMark_marks fetched arg1 arg2
    have marked := near.trans (State.traceOn_plotAndTrace (afterIssue s1 p c) p (dieOfPlot p) r trig)
    exact ⟨_, run, marked.finish_moves ((State.plot_of_plots (State.traceOn_plots ..) p).trans plot)⟩

/-- Settles O3: a fetch is one access of memory at SEQPC, and without a stored error the access reads the bytes that stand
there. -/
theorem fetchReadsTheCommandAtSeqpc : Obligations.FetchReadsTheCommandAtSeqpc := by
  intro s s1 p opc c fetched
  obtain ⟨issue, code, core, kept⟩ := s.fetch_cmd s1 p opc c fetched
  obtain ⟨-, sync, -, job, -, rcv, kuf, pwr, sbd, pciA, pciB, pins⟩ := (State.core_eq _ _).1 core
  exact ⟨code, issue, kept.plot, sync, job, kuf, rcv, pwr, sbd, pciA, pciB, pins, State.fetch_clean fetched⟩

/-- Settles O5: WAIT changes its die's sync unit and its plot, SIGNAL the tokens on their way, each behind the issue record. -/
theorem waitAndLocalSignalComplete : Obligations.WaitAndLocalSignalComplete := by
  intro s s1 p c
  have near := afterIssue_plotAndTrace s1 p c
  have plot := afterIssue_plot s1 p c p
  have unit : ∀ d, (afterIssue s1 p c).unit d = s1.unit d := fun d => congrArg (fun u => Vector.get u d) near.elsewhere.sync
  refine ⟨fun fetched queue low high consume reserved timeout plain => ?wait, fun fetched here plain arg2 => ?signal⟩
  case wait =>
    let w := c.waitWatch p (s1.plot p).seq.row s1.smod.defaultus.toNat
    have after := (afterIssue s1 p c).watched_plot p w
    have whole := near.trans ((afterIssue s1 p c).watched_plotAndTrace p w)
    rw [plot] at after
    refine ⟨_, _, execWait_watches fetched queue low high consume reserved timeout plain, rfl, ?_, fun d ne => ?_,
      by rw [after], by rw [after], ⟨by rw [after], by rw [after], whole.others⟩, ?_, by rw [after]⟩
    · rw [State.watched_unit, unit]
      rfl
    · rw [State.watched_unit_ne _ _ _ ne, unit]
    · exact near.elsewhere.sync ▸ whole.elsewhere
  case signal =>
    let u := (afterIssue s1 p c).localToken 1 (BitVec.ofNat 12 p.val) (BitVec.ofNat 15 c.arg1) (w32 c.arg3)
    have done := u.finish_plotAndTrace p
    have kuf : (u.finish p).kuf = u.kuf := done.elsewhere.kuf
    have whole := near.trans (PlotAndTrace.of_withKuf (s := afterIssue s1 p c) done)
    have links : u.kuf = { s1.kuf with transit := s1.kuf.transit ++
        [mkToken 1 (BitVec.ofNat 12 p.val) 0 (BitVec.ofNat 15 c.arg1) (w32 c.arg3) 0 0] } := by
      rw [← near.elsewhere.kuf]
      rfl
    refine ⟨_, execSignal_sends fetched here plain arg2, ?_, by rw [kuf, links], ?_, ?_⟩
    · have moved := u.finish_moved p
      exact ⟨moved.pc.trans (by rw [behind, behind, ← plot]; rfl), moved.ready, moved.waiting,
        moved.row.trans (by rw [← plot]; rfl), whole.others⟩
    · rw [kuf, links]
      exact near.elsewhere.kuf ▸ whole.elsewhere
    · rw [← plot]
      exact u.finish_plot p

/-- Settles O6: FENCE moves on, ENDROW is one change of its plot, and ENDPLAN closes its part, which ends the plan where it is the
last one. -/
theorem fenceAndPartEndsComplete : Obligations.FenceAndPartEndsComplete := by
  intro s s1 p c arg2 arg3
  have near := afterIssue_plotAndTrace s1 p c
  have plot := afterIssue_plot s1 p c p
  refine ⟨fun fetched mask quiet => ?fence, fun fetched arg1 body runs quiet clocked noSnap => ?endrow,
    fun fetched arg1 outside quiet => ?endplan⟩
  case fence => exact ⟨_, execFence_finishes fetched mask arg2 arg3 quiet, near.finish_moves plot⟩
  case endrow =>
    obtain ⟨-, -, -, kept⟩ := s.fetch_cmd s1 p 0x12 c fetched
    have before : (s.plot p).seq.state ≠ .atEndrow := by
      have same : (s1.plot p).seq = (s.plot p).seq := by rw [kept.plot p]
      rw [← same, body]
      decide
    have whole := near.modPlot fun q => q.rowReported (bits (afterIssue s1 p c).pwr.till 31 28)
    have after := (afterIssue s1 p c).modPlot_plot p fun q => q.rowReported (bits (afterIssue s1 p c).pwr.till 31 28)
    rw [plot] at after
    exact ⟨_, execEndrow_reports fetched arg1 arg2 arg3 body before runs quiet clocked noSnap, by rw [after]; rfl,
      by rw [after]; rfl, by rw [after]; rfl, ⟨by rw [after]; rfl, by rw [after]; rfl, whole.others⟩, whole.elsewhere,
      by rw [after, Plot.rowReported]⟩
  case endplan =>
    obtain ⟨state, ready, ended, others, sync, last, more⟩ :=
      ((afterIssue s1 p c).plotEnded_endsPart p).of_afterIssue
    exact ⟨_, execEndplan_ends fetched arg1 arg2 arg3 outside quiet, state, ready, ended, others, sync, last, more⟩

end Sys2Proof.PlansAndPlots
end

section
/-! The canonical form of the stores (R184, R185, R372, R383) in the words of the statements and of the laws, and at reset. -/

namespace Sys2Proof.Machine

open Sys2Proof.Claim

theorem canonical_iff_storesWf (s : State) : Canonical s ↔ s.storesWf :=
  ⟨fun ⟨memory, plots, blackbox, flash⟩ => ⟨memory, plots, blackbox, flash⟩,
    fun ⟨memory, plots, blackbox, flash⟩ => ⟨memory, plots, blackbox, flash⟩⟩

theorem State.reset_plot (p : PlotIx) : State.reset.plot p = .reset := by
  simp [State.plot, State.reset, Vector.get]

/-- At reset every store is empty: no byte is listed. -/
theorem State.reset_storesWf : State.reset.storesWf :=
  ⟨rfl, fun p => by rw [State.reset_plot]; rfl, rfl, rfl⟩

end Sys2Proof.Machine

namespace Sys2Proof.PlansAndPlots

open Sys2Proof.Machine Sys2Proof.Claim

/-- Settles O60: every store is empty at reset. -/
theorem resetStoresAreCanonical : Obligations.ResetStoresAreCanonical :=
  (canonical_iff_storesWf _).2 State.reset_storesWf

end Sys2Proof.PlansAndPlots
end

section
/-! Stores of bytes stay in canonical form: what the Drill, the movers and the arrays write into a plot store (R118-R133, R166,
R184). -/

namespace Sys2Proof.Machine

/-! ### Bits, elements and rows of a store -/

section
variable {m : List Host.Cell} (w : Memory.wf m = true)
include w

theorem Memory.wf_putByte (a : Nat) (v : Byte) : Memory.wf (cellPut 0 m a v) = true :=
  cellPut_wf 0 m none a v w fun _ e => nomatch e

theorem Memory.wf_putBits (pos n v : Nat) : Memory.wf (putBits m pos n v) = true := Memory.wf_put _ _ _ w

theorem Plane.padRow_wf (g : Plane) (r : Nat) : Memory.wf (g.padRow m r) = true := by
  unfold Plane.padRow
  dsimp only
  split
  · exact Memory.wf_putBits w _ _ _
  · exact w

theorem Plane.write_wf (g : Plane) (r n : Nat) (x : Stored) : Memory.wf (g.write m r n x) = true := by
  have bits := Memory.wf_putBits w (g.bitPos r n) (elemBits g.code) x.bits
  have scale : Memory.wf (if isBlock g.code
      then cellPut 0 (putBits m (g.bitPos r n) (elemBits g.code) x.bits) (g.scaleAt r n) (BitVec.ofNat 8 x.scale)
      else putBits m (g.bitPos r n) (elemBits g.code) x.bits) = true := by
    split
    · exact Memory.wf_putByte bits _ _
    · exact bits
  unfold Plane.write
  dsimp only
  split
  · exact Plane.padRow_wf scale g r
  · exact scale

end

/-- Writes one after another. -/
theorem Memory.wf_foldl {α : Type} {l : List α} {f : List Host.Cell → α → List Host.Cell} {m : List Host.Cell}
    (w : Memory.wf m = true) (step : ∀ m a, Memory.wf m = true → Memory.wf (f m a) = true) :
    Memory.wf (l.foldl f m) = true :=
  List.foldlRecOn (motive := fun m => Memory.wf m = true) l f w fun m w a _ => step m a w

theorem Memory.wf_fst {β : Type} {x : List Host.Cell × β} {m : List Host.Cell} {b : β} (w : Memory.wf x.1 = true)
    (e : x = (m, b)) : Memory.wf m = true := by
  subst e
  exact w

/-- Writes one after another that carry a value beside the store. -/
theorem Memory.wf_foldl_fst {α β : Type} {l : List α} {f : List Host.Cell × β → α → List Host.Cell × β}
    {x : List Host.Cell × β} (w : Memory.wf x.1 = true) (step : ∀ x a, Memory.wf x.1 = true → Memory.wf (f x a).1 = true) :
    Memory.wf (l.foldl f x).1 = true :=
  List.foldlRecOn (motive := fun x : List Host.Cell × β => Memory.wf x.1 = true) l f w fun x w a _ => step x a w

/-! ### The Drill's results (R124-R133, R137, R138) -/

section
variable {x : Work} (w : Memory.wf x.store = true)
include w

theorem DrlDesc.term_wf (d : DrlDesc) (c : Ctl) (e n : Nat) (v : Val × Flags) (word : Nat) :
    Memory.wf (d.term c x e n v word).store = true := by
  unfold DrlDesc.term
  dsimp only
  repeat' split
  all_goals exact w

theorem DrlDesc.clearAt_wf (d : DrlDesc) (e n : Nat) : Memory.wf (d.clearAt x e n).store = true := by
  unfold DrlDesc.clearAt
  repeat' split
  all_goals exact w

theorem DrlDesc.readRow_wf (d : DrlDesc) (c : Ctl) (e r n : Nat) : Memory.wf (d.readRow c x e r n).store = true := by
  unfold DrlDesc.readRow
  dsimp only
  split
  · exact w
  split
  all_goals exact Memory.wf_put _ _ _ w

theorem DrlDesc.rowUnit_wf (d : DrlDesc) (c : Ctl) (r : Nat) : Memory.wf (d.rowUnit c x r).store = true := by
  unfold DrlDesc.rowUnit
  dsimp only
  split
  · exact w
  · exact Memory.wf_foldl w fun m y wm => Plane.write_wf wm _ r y.2 y.1

theorem DrlDesc.repack_wf (d : DrlDesc) (lo hi : Nat) : Memory.wf (d.repack x lo hi).store = true := by
  unfold DrlDesc.repack
  dsimp only
  split
  · exact w
  refine Memory.wf_foldl w fun m n wm => Memory.wf_foldl wm fun m k wm => ?_
  by_cases pack : d.op = 0x32
  · simp only [if_pos pack]
    split
    · exact Memory.wf_putBits wm _ _ _
    · exact Memory.wf_putByte (Memory.wf_putBits wm _ _ _) _ _
  · simp only [if_neg pack]
    split
    · exact Memory.wf_putBits wm _ _ _
    · exact Memory.wf_putByte (Memory.wf_putBits wm _ _ _) _ _

end

/-- Elements one after another, each of which keeps the store's form. -/
theorem Work.foldl_wf {α : Type} {l : List α} {f : Work → α → Work} {x : Work} (w : Memory.wf x.store = true)
    (step : ∀ x a, Memory.wf x.store = true → Memory.wf (f x a).store = true) : Memory.wf (l.foldl f x).store = true :=
  List.foldlRecOn (motive := fun x : Work => Memory.wf x.store = true) l f w fun x w a _ => step x a w

section
variable {x : Work} (w : Memory.wf x.store = true)
include w

theorem DrlDesc.chunk_wf (d : DrlDesc) (c : Ctl) (lo hi : Nat) : Memory.wf (d.chunk c x lo hi).store = true := by
  unfold DrlDesc.chunk
  refine Work.foldl_wf w fun x y w => ?_
  dsimp only
  refine DrlDesc.readRow_wf (DrlDesc.term_wf ?_ d c _ _ _ _) d c _ _ _
  split
  · exact DrlDesc.clearAt_wf w d _ _
  · exact Plane.write_wf (DrlDesc.clearAt_wf w d _ _) _ _ _ _

theorem DrlDesc.permute_wf (d : DrlDesc) (lo hi : Nat) : Memory.wf (d.permute x lo hi).store = true := by
  unfold DrlDesc.permute
  refine Work.foldl_wf w fun x e w => ?_
  extract_lets j ok v w1
  have wf1 : Memory.wf w1.store = true := by
    unfold w1
    split
    · exact w
    · exact Plane.write_wf w _ _ _ _
  split
  · exact wf1
  · exact wf1

theorem DrlDesc.shuffle_wf (d : DrlDesc) (lo hi : Nat) : Memory.wf (d.shuffle x lo hi).store = true := by
  unfold DrlDesc.shuffle
  refine Work.foldl_wf w fun x e w => ?_
  dsimp only
  split
  · exact w
  · exact Plane.write_wf w _ _ _ _

/-- A stop unit keeps the store's form, whatever the stream's operation (R125). -/
theorem DrlDesc.unit_wf (d : DrlDesc) (c : Ctl) (lo : Nat) : Memory.wf (d.unit c x lo).store = true := by
  unfold DrlDesc.unit
  dsimp only
  split
  · exact DrlDesc.rowUnit_wf w d c _
  · exact DrlDesc.rowUnit_wf w d c _
  · exact DrlDesc.rowUnit_wf w d c _
  · exact DrlDesc.rowUnit_wf w d c _
  · exact DrlDesc.permute_wf w d _ _
  · exact DrlDesc.shuffle_wf w d _ _
  · exact DrlDesc.repack_wf w d _ _
  · exact DrlDesc.repack_wf w d _ _
  · exact DrlDesc.chunk_wf w d c _ _

end

theorem DrlDesc.units_wf (d : DrlDesc) (c : Ctl) (fuel : Nat) {x : Work} (w : Memory.wf x.store = true) (lo hi : Nat) :
    Memory.wf (d.units c fuel x lo hi).store = true := by
  induction fuel generalizing x lo with
  | zero => exact w
  | succ n ih =>
    unfold DrlDesc.units
    split
    · exact w
    · exact ih (DrlDesc.unit_wf w d c lo) _

/-! ### A transfer's rows (R166, R169) -/

theorem Transfer.rowToPlane_wf (t : Transfer) {m : List Host.Cell} (w : Memory.wf m = true) (r : Nat) :
    Memory.wf (t.rowToPlane m r).1 = true :=
  Memory.wf_foldl w fun _ _ w => Plane.write_wf w _ r _ _

theorem Transfer.allRows_wf (t : Transfer) {m : List Host.Cell} (w : Memory.wf m = true) :
    Memory.wf (t.allRows t.rowToPlane m).1 = true :=
  Memory.wf_foldl_fst w fun _ r w => t.rowToPlane_wf w r

end Sys2Proof.Machine
end

section
/-! When the stores that an answer of the model holds are in canonical form, and how the form passes through a change of the
state: beside the stores, of one plot, of memory, of the black box and of the flash (R184, R185, R372, R383). -/

namespace Sys2Proof.Machine

/-! ### Answers that hold a state -/

/-- The outcome is a next state whose stores are in canonical form. -/
def NextStoresWf : Host.Outcome State Fault Refusal → Prop
  | .next t => t.storesWf
  | _ => False

theorem NextStoresWf.exists_next {o : Host.Outcome State Fault Refusal} (w : NextStoresWf o) :
    ∃ t, o = .next t ∧ t.storesWf := by
  cases o with
  | next t => exact ⟨t, rfl, w⟩
  | _ => exact w.elim

/-- A register takes a write only with its stores in canonical form. -/
def SomeStoresWf : Option State → Prop
  | some t => t.storesWf
  | none => True

/-- Whatever a fetch answers with a state has its stores in canonical form. -/
def Fetch.storesWf : Fetch → Prop
  | .off => True
  | .stopped t => t.storesWf
  | .cmd _ t => t.storesWf

def FltRead.storesWf : FltRead → Prop
  | .failed t => t.storesWf
  | .entry _ _ t => t.storesWf

def Accepted.storesWf : Accepted → Prop
  | .wait => True
  | .refused t => t.storesWf
  | .ok _ t => t.storesWf

theorem State.storesWf.of_snd {α : Type} {x : α × State} {a : α} {t : State} (w : x.2.storesWf) (e : x = (a, t)) :
    t.storesWf := by
  subst e
  exact w

theorem State.storesWf.of_fst {α : Type} {x : State × α} {a : α} {t : State} (w : x.1.storesWf) (e : x = (t, a)) :
    t.storesWf := by
  subst e
  exact w

theorem State.storesWf.of_snd_snd {α β : Type} {x : α × β × State} {a : α} {b : β} {t : State} (w : x.2.2.storesWf)
    (e : x = (a, b, t)) : t.storesWf := by
  subst e
  exact w

/-- A register that takes no write leaves another state of the module. -/
theorem SomeStoresWf.getD {x : Option State} {t : State} (w : SomeStoresWf x) (other : t.storesWf) : (x.getD t).storesWf := by
  cases x with
  | none => exact other
  | some u => exact w

theorem Fetch.storesWf.of_stopped {x : Fetch} {t : State} (w : x.storesWf) (e : x = .stopped t) : t.storesWf := by
  subst e
  exact w

theorem Fetch.storesWf.of_cmd {x : Fetch} {c : Cmd} {t : State} (w : x.storesWf) (e : x = .cmd c t) : t.storesWf := by
  subst e
  exact w

theorem FltRead.storesWf.of_failed {x : FltRead} {t : State} (w : x.storesWf) (e : x = .failed t) : t.storesWf := by
  subst e
  exact w

theorem FltRead.storesWf.of_entry {x : FltRead} {y : FltEntry} {n : Nat} {t : State} (w : x.storesWf) (e : x = .entry y n t) :
    t.storesWf := by
  subst e
  exact w

theorem Accepted.storesWf.of_refused {x : Accepted} {t : State} (w : x.storesWf) (e : x = .refused t) : t.storesWf := by
  subst e
  exact w

theorem Accepted.storesWf.of_ok {x : Accepted} {y : Transfer} {t : State} (w : x.storesWf) (e : x = .ok y t) :
    t.storesWf := by
  subst e
  exact w

/-! ### Changes of the state -/

section
variable {s : State} (wf : s.storesWf)
include wf

theorem State.storesWf.store (p : PlotIx) : Memory.wf (s.plot p).store = true := wf.2.1 p

/-- A change of the module beside its stores. -/
theorem State.storesWf.beside {t : State} (mem : t.mem.cells = s.mem.cells := by rfl) (plots : t.plots = s.plots := by rfl)
    (blackbox : t.evr.blackbox = s.evr.blackbox := by rfl) (flash : t.sbd.flash = s.sbd.flash := by rfl) : t.storesWf := by
  obtain ⟨wmem, wplots, wblackbox, wflash⟩ := wf
  exact ⟨mem ▸ wmem, fun p => by rw [State.plot_of_plots plots]; exact wplots p, blackbox ▸ wblackbox, flash ▸ wflash⟩

theorem State.storesWf.ite {t : State} {c : Prop} {_ : Decidable c} (g : t.storesWf) :
    (if c then s else t).storesWf := by
  split
  · exact wf
  · exact g

theorem State.storesWf.modPlot {p : PlotIx} {f : Plot → Plot}
    (keeps : ∀ q, Memory.wf q.store = true → Memory.wf (f q).store = true := by exact fun _ w => w) :
    (s.modPlot p f).storesWf := by
  obtain ⟨memory, plots, rest⟩ := wf
  refine ⟨memory, fun q => ?_, rest⟩
  by_cases e : p = q
  · subst e
    rw [State.modPlot_plot]
    exact keeps _ (plots p)
  · rw [State.modPlot_plot_ne _ _ _ _ e]
    exact plots q

theorem State.storesWf.mapPlots {f : Plot → Plot}
    (keeps : ∀ q, Memory.wf q.store = true → Memory.wf (f q).store = true := by exact fun _ w => w) :
    { s with plots := s.plots.map f }.storesWf := by
  obtain ⟨memory, plots, rest⟩ := wf
  refine ⟨memory, fun p => ?_, rest⟩
  have e : ({ s with plots := s.plots.map f } : State).plot p = f (s.plot p) := by
    simp [State.plot, Vector.get]
  rw [e]
  exact keeps _ (plots p)

theorem State.storesWf.modSeq {p f} : (s.modSeq p f).storesWf := wf.modPlot

theorem State.storesWf.modHalf {h f} : (s.modHalf h f).storesWf := by cases h <;> exact wf

theorem State.storesWf.modPci {h f} : (s.modPci h f).storesWf := by cases h <;> exact wf

/-- A write of device memory that keeps its form. -/
theorem State.storesWf.withMem {m : Mem} (form : Memory.wf m.cells = true) : { s with mem := m }.storesWf := by
  obtain ⟨-, rest⟩ := wf
  exact ⟨form, rest⟩

/-- A write of the black box that keeps its form. -/
theorem State.storesWf.withEvr {e : Evr} (form : Memory.wf e.blackbox = true) : { s with evr := e }.storesWf := by
  obtain ⟨memory, plots, -, flash⟩ := wf
  exact ⟨memory, plots, form, flash⟩

/-- A write of the flash that keeps its form. -/
theorem State.storesWf.withSbd {b : Sbd} (form : cellsWf 0xFF none b.flash = true) : { s with sbd := b }.storesWf := by
  obtain ⟨memory, plots, blackbox, -⟩ := wf
  exact ⟨memory, plots, blackbox, form⟩

/-- A write of bytes of device memory. -/
theorem State.storesWf.putMem {m : Mem} {a : Nat} {v : List Byte} (put : m.cells = cellsPut 0 s.mem.cells a v := by rfl) :
    { s with mem := m }.storesWf := wf.withMem (put ▸ Memory.wf_put _ a v wf.1)

/-- Bytes of device memory that become zero. -/
theorem State.storesWf.clearMem {m : Mem} {lo hi : Nat} (clear : m.cells = clearCells s.mem.cells lo hi := by rfl) :
    { s with mem := m }.storesWf := wf.withMem (clear ▸ Memory.wf_clear _ lo hi wf.1)

omit wf in
theorem State.storesWf.foldl {α : Type} {l : List α} {f : State → α → State} {s : State} (wf : s.storesWf)
    (step : ∀ s a, s.storesWf → (f s a).storesWf) : (l.foldl f s).storesWf :=
  List.foldlRecOn (motive := State.storesWf) l f wf fun s w a _ => step s a w

theorem State.storesWf.forEach {α : Type} {l : List α} {f : State → α → State}
    (step : ∀ s a, s.storesWf → (f s a).storesWf) : (s.forEach l f).storesWf := wf.foldl step

/-- A fold that carries a value beside the state. -/
theorem State.storesWf.foldl_snd {α β : Type} {l : List α} {f : β × State → α → β × State} {b : β}
    (step : ∀ x a, x.2.storesWf → (f x a).2.storesWf) : (l.foldl f (b, s)).2.storesWf :=
  List.foldlRecOn (motive := fun x : β × State => x.2.storesWf) l f wf fun x w a _ => step x a w

theorem State.storesWf.foldl_fst {α β : Type} {l : List α} {f : State × β → α → State × β} {b : β}
    (step : ∀ x a, x.1.storesWf → (f x a).1.storesWf) : (l.foldl f (s, b)).1.storesWf :=
  List.foldlRecOn (motive := fun x : State × β => x.1.storesWf) l f wf fun x w a _ => step x a w

end

/-! ### The boot controller's flash under changes of its other parts (R388, R389) -/

theorem Sbd.setCopy_flash (x : Sbd) (h : Half) (c : Option (W32 × BitVec 384)) : (x.setCopy h c).flash = x.flash := by
  cases h <;> rfl

theorem Sbd.setClaim_flash (x : Sbd) (h : Half) (seq : W32) : (x.setClaim h seq).flash = x.flash := by
  cases h <;> rfl

theorem Sbd.readImage_flash (x : Sbd) (h : Half) : (x.readImage h).flash = x.flash := by
  unfold Sbd.readImage
  extract_lets c
  clear_value c
  split
  · rw [Sbd.setClaim_flash, Sbd.setCopy_flash]
  · exact Sbd.setCopy_flash ..

theorem Sbd.latch_flash (x : Sbd) (h : Half) : (x.latch h).flash = x.flash := by
  unfold Sbd.latch
  extract_lets c y
  show y.flash = x.flash
  unfold y
  split
  · exact Sbd.setCopy_flash ..
  · rfl

section
variable {s : State} (wf : s.storesWf)
include wf

/-- A change of the boot controller beside the flash. -/
theorem State.storesWf.sbd {b : Sbd} (flash : b.flash = s.sbd.flash) : { s with sbd := b }.storesWf :=
  wf.withSbd (flash ▸ wf.2.2.2)

end

end Sys2Proof.Machine
end

section
/-! Every step keeps the stores canonical (R184, R185, R372, R383). Device memory, the plot stores, the black box and the flash are
written in few places: `cellsPut`, `cellsBlit` and `clearCells`, each of which keeps the form. Each of the model's functions of the
state is composed of these and of changes beside the stores, and has one lemma here; a lemma about a function cites those of the
functions that it calls. The lemmas are checked one after another: together they take more threads than a
run allows. -/

set_option Elab.async false

namespace Sys2Proof.Machine

section
variable {s : State} (wf : s.storesWf)
include wf

/-! ### The module's parts, counters, reports, commands and the fetch of a command -/

theorem State.storesWf.modUnit {d f} : (s.modUnit d f).storesWf := wf.beside

theorem State.storesWf.modDie {d f} : (s.modDie d f).storesWf := wf.beside

theorem State.storesWf.modKport {k f} : (s.modKport k f).storesWf := wf.beside

theorem State.storesWf.modStrip {i f} : (s.modStrip i f).storesWf := wf.beside

theorem State.storesWf.modTrace {d f} : (s.modTrace d f).storesWf := wf.beside

theorem State.storesWf.psWrite {p a v} : (s.psWrite p a v).storesWf := wf.modPlot fun q w => Memory.wf_put q.store a v w

theorem State.storesWf.free : s.free.2.storesWf := wf.beside

theorem State.storesWf.raise {h e} : (s.raise h e).storesWf := wf.modHalf

theorem State.storesWf.raiseLead {e} : (s.raiseLead e).storesWf := wf.raise

theorem State.storesWf.notice {ev obj det} : (s.notice ev obj det).storesWf := wf.raiseLead

theorem State.storesWf.noticeFrom {src ev obj det} : (s.noticeFrom src ev obj det).storesWf := wf.raiseLead

theorem State.storesWf.stopEvent {p reason} : (s.stopEvent p reason).storesWf := wf.modSeq

theorem State.storesWf.plotFatal {p pos code obj det} : (s.plotFatal p pos code obj det).storesWf := wf.raise.stopEvent

theorem State.storesWf.plotRecoverable {p pos code obj det need} :
    (s.plotRecoverable p pos code obj det need).storesWf :=
  wf.raise

theorem State.storesWf.irqEvent {v} : (s.irqEvent v).storesWf := wf.beside

theorem State.storesWf.setPlan {st h} : (s.setPlan st h).storesWf := wf.beside.ite wf.beside.irqEvent

theorem State.storesWf.setSbd {st} : (s.setSbd st).storesWf := wf.beside.ite wf.beside.irqEvent

theorem State.storesWf.setFlags {p f} : (s.setFlags p f).storesWf := wf.modPlot

theorem State.storesWf.countCh {p pos chan ev n} : (s.countCh p pos chan ev n).storesWf := wf.modPlot.ite wf

theorem State.storesWf.count {p pos ev n} : (s.count p pos ev n).storesWf := wf.countCh

theorem State.storesWf.settle {p} : (s.settle p).storesWf := by
  unfold State.settle
  split
  · exact wf.foldl fun _ _ wf => wf.beside.modPlot.ite wf
  · exact wf

theorem State.storesWf.energy {p pos kind n} : (s.energy p pos kind n).storesWf := wf.beside

theorem State.storesWf.traceStore {d slot r} : (s.traceStore d slot r).storesWf := wf.putMem.ite wf.modTrace

theorem State.storesWf.tracePlace {d r} : (s.tracePlace d r).storesWf := wf.traceStore.modTrace

theorem State.storesWf.traceWrite {d r} : (s.traceWrite d r).storesWf := by
  dsimp only [State.traceWrite]
  split
  · exact wf.modTrace
  split
  · exact wf
  split
  · exact wf.modTrace
  split
  · exact wf.tracePlace
  split
  · exact wf.tracePlace.modTrace.modTrace
  · exact wf.tracePlace.modTrace.tracePlace

theorem State.storesWf.traceTrigger {d r} : (s.traceTrigger d r).storesWf := by
  unfold State.traceTrigger
  extract_lets t rt _ s1 s2 s3
  split
  · exact wf
  have wf1 : s1.storesWf := wf.putMem.ite wf.modTrace
  have wf3 : s3.storesWf := wf1.modTrace.traceWrite.ite wf1.modTrace
  exact wf3.modTrace

theorem State.storesWf.traceSpread {d} : (s.traceSpread d).storesWf := by
  unfold State.traceSpread
  split
  · exact wf.forEach fun _ _ wf => wf.ite wf.traceTrigger
  · exact wf

theorem State.storesWf.traceOn {d r trig} : (s.traceOn d r trig).storesWf := by
  dsimp only [State.traceOn]
  split
  · exact wf
  split
  · exact wf.traceTrigger.traceSpread
  · exact wf.traceWrite.ite wf

theorem State.storesWf.tracePlot {p kind pos d0 d1} : (s.tracePlot p kind pos d0 d1).storesWf := wf.traceOn

theorem State.storesWf.traceDie {d kind d0 d1} : (s.traceDie d kind d0 d1).storesWf := wf.traceOn

theorem State.storesWf.sample {h q layer oper row v} : (s.sample h q layer oper row v).storesWf := by
  unfold State.sample
  split
  · exact wf
  · exact wf.modHalf.beside.ite wf.modHalf

theorem State.storesWf.rowAdd {q key n} : (s.rowAdd q key n).storesWf := wf.beside

/-! ### Device memory (chapter 6) -/

theorem State.storesWf.memReport {src a code sev need} : (s.memReport src a code sev need).storesWf := wf.raise

theorem State.storesWf.checkBlock {b} : (s.checkBlock b).2.storesWf := by
  unfold State.checkBlock
  extract_lets n beyond
  have drawn : beyond.2.storesWf := wf.free
  clear_value beyond
  split
  · exact wf
  split
  · split
    · exact wf
    split
    · exact wf
    · exact drawn
  split
  · split
    · split
      · exact wf
      split
      · exact wf
      · exact drawn
    split
    · exact wf
    · exact drawn
  · exact wf

theorem State.storesWf.memCorrected {src b} : (s.memCorrected src b).storesWf := by
  unfold State.memCorrected
  exact (wf.modDie (d := s.homeOf b) (f := fun x => { x with cecnt := satAdd x.cecnt 1 })).beside.memReport.rowAdd

theorem State.storesWf.memUncorrectable {src b} : (s.memUncorrectable src b).storesWf := wf.modDie.memReport

theorem State.storesWf.writeBack {src c} : (s.writeBack src c).storesWf := by
  unfold State.writeBack
  split
  · exact wf
  · exact wf.forEach fun _ _ wf => wf.memUncorrectable.putMem.ite (wf.memCorrected.ite wf)

theorem State.storesWf.cacheTouch {src a write} : (s.cacheTouch src a write).storesWf := by
  unfold State.cacheTouch
  split
  · exact wf
  extract_lets d n g tally s1 c old sets same
  have tallied (ev : Nat) : (tally s ev).storesWf := by
    unfold tally
    split
    · exact wf.count
    · exact wf
  split
  · exact wf
  split
  · exact (tallied _).modDie
  have wf1 : s1.storesWf := tallied _
  clear_value s1
  split
  · refine iteInduction (fun _ => ?_) fun _ => wf1
    refine iteInduction (fun _ => wf1.modDie) fun _ => ?_
    refine iteInduction (fun _ => wf1.modDie) fun _ => ?_
    split
    · exact wf1.writeBack.modDie
    · exact wf1
  · exact wf1

omit wf in
theorem State.storesWf.checkBlocks {s : State} (wf : s.storesWf) {src l} : (s.checkBlocks src l).2.2.storesWf := by
  induction l generalizing s with
  | nil => exact wf
  | cons b r ih =>
    unfold State.checkBlocks
    split
    rename_i s1 e
    have wf1 : s1.storesWf := wf.checkBlock.of_snd e
    split
    · exact wf1.memUncorrectable
    · exact ih wf1.memCorrected
    · exact ih wf1
    · exact ih wf1

theorem State.storesWf.homeReadTo {src a n} : (s.homeReadTo src a n).2.2.storesWf := by
  dsimp only [State.homeReadTo]
  split
  · exact wf.checkBlocks.ite wf.checkBlocks.cacheTouch
  · exact (wf.checkBlocks.ite wf.checkBlocks.cacheTouch).free

theorem State.storesWf.homeRead {src a n} : (s.homeRead src a n).2.storesWf := by
  unfold State.homeRead
  split
  rename_i s1 e1
  have wf1 : s1.storesWf := wf.homeReadTo.of_snd_snd e1
  split
  · exact wf1
  · exact wf1

omit wf in
theorem State.storesWf.putBlock {src a v b} {acc : Bool × State} (wf : acc.2.storesWf) :
    (putBlock src a v acc b).2.storesWf := by
  unfold Machine.putBlock
  dsimp only
  split
  · exact wf.cacheTouch.putMem
  · split
    · exact wf.checkBlocks
    · exact wf.checkBlocks.cacheTouch.putMem

theorem State.storesWf.homeWrite {src a v} : (s.homeWrite src a v).2.storesWf := wf.foldl_snd fun _ _ wf => wf.putBlock

theorem State.storesWf.inject {a wrong} : (s.inject a wrong).storesWf := wf.ite wf.beside

theorem State.storesWf.noteGuarded {a} : (s.noteGuarded a).storesWf := wf.beside.ite wf

theorem State.storesWf.readRange {src a n} : (s.readRange src a n).2.storesWf := by
  unfold State.readRange
  refine wf.foldl_snd fun acc x wf => ?_
  split
  · exact wf
  split
  rename_i s1 e1
  have wf1 : s1.storesWf := wf.homeRead.of_snd e1
  split
  · exact wf1
  · exact wf1

theorem State.storesWf.writeRange {src a v} : (s.writeRange src a v).2.storesWf := by
  unfold State.writeRange
  refine wf.foldl_snd fun acc x wf => ?_
  split
  rename_i s1 e1
  exact wf.homeWrite.of_snd e1

theorem State.storesWf.engineWrite {a v} : (s.engineWrite a v).storesWf := wf.putMem

/-! ### Commands of the sequencer -/

theorem State.storesWf.seqAt {p pc} : (s.seqAt p pc).storesWf := wf.modSeq

theorem State.storesWf.finishAt {p pc} : (s.finishAt p pc).storesWf := wf.tracePlot.modSeq.seqAt

theorem State.storesWf.finish {p} : (s.finish p).storesWf := wf.finishAt

theorem State.storesWf.refuseCmd {p pos} : (s.refuseCmd p pos).storesWf := wf.plotFatal

theorem State.storesWf.fetch {p opc} : (s.fetch p opc).storesWf := by
  dsimp only [State.fetch]
  split
  · exact trivial
  split
  · exact wf.refuseCmd
  split
  · exact wf.refuseCmd
  split
  · exact wf.homeRead
  split
  · exact wf.homeRead.refuseCmd
  split
  · exact trivial
  · exact wf.homeRead

theorem State.storesWf.command {p opc ok} {f : Cmd → Pos → State → State}
    (effect : ∀ c pos t, t.storesWf → (f c pos t).storesWf) : (s.command p opc ok f).storesWf := by
  unfold State.command
  split
  · exact wf
  · rename_i s1 e
    exact wf.fetch.of_stopped e
  · rename_i s1 e
    have wf1 : s1.storesWf := wf.fetch.of_cmd e
    dsimp only
    split
    · exact effect _ _ _ (wf1.ite wf1.tracePlot)
    · exact wf1.refuseCmd

theorem State.storesWf.showNumctl {p} : (s.showNumctl p).storesWf := wf.modPlot

theorem State.storesWf.beginWait {p} : (s.beginWait p).storesWf := wf.modPlot

theorem State.storesWf.sowBarrier : s.sowBarrier.storesWf := wf.mapPlots.ite wf

theorem State.storesWf.leaveCollective {p id} : (s.leaveCollective p id).storesWf := wf.beside

theorem State.storesWf.settleStop {p} : (s.settleStop p).storesWf := by
  unfold State.settleStop
  split
  · exact wf.modUnit
  · exact wf.ite wf.leaveCollective.modUnit.modSeq
  · exact wf.modSeq
  · exact wf.modSeq
  · exact wf.modSeq
  · exact wf.ite wf.modSeq
  · exact wf
  · exact wf

theorem State.storesWf.requestStop {p reason} : (s.requestStop p reason).storesWf := wf.ite wf.stopEvent.settleStop

theorem State.storesWf.fatal {p pos code obj det} : (s.fatal p pos code obj det).storesWf := wf.plotFatal.settleStop

/-! ### Operands of the Harrow -/

theorem State.storesWf.setHeld {p u h} : (s.setHeld p u h).storesWf := wf.modPlot

theorem State.storesWf.holdCommand {p} : (s.holdCommand p).storesWf := wf.setHeld.modSeq

theorem State.storesWf.unholdCommand {p} : (s.unholdCommand p).storesWf := wf.setHeld.modSeq

/-! ### Passes -/

theorem State.storesWf.initPass {p a c} : (s.initPass p a c).storesWf :=
  wf.ite (wf.forEach fun _ _ wf => wf.modPlot.setFlags)

theorem State.storesWf.diagStep {p d c m k a} : (s.diagStep p d c m k a).storesWf := wf.psWrite.setFlags

theorem State.storesWf.diagOrder {d} : (s.diagOrder d).2.storesWf := by
  unfold State.diagOrder
  split
  · split
    rename_i s1 e1
    exact wf.free.of_snd e1
  · exact wf

theorem State.storesWf.runGroup {p d c g} : (s.runGroup p d c g).storesWf := by
  unfold State.runGroup
  split
  · refine wf.forEach fun s x wf => ?_
    split
    rename_i s1 e1
    have wf1 : s1.storesWf := wf.diagOrder.of_snd e1
    exact wf1.forEach fun _ _ wf => wf.diagStep
  · exact wf.forEach fun _ _ wf => wf.modPlot.setFlags

theorem State.storesWf.countSteps {p a strict} : (s.countSteps p a strict).storesWf :=
  wf.count.energy.energy.energy.ite wf.count.energy.energy

theorem State.storesWf.setHeadPass {p a} : (s.setHeadPass p a).storesWf := wf.modPlot

theorem State.storesWf.dropHeadPass {p} : (s.dropHeadPass p).storesWf := wf.modPlot.showNumctl

theorem State.storesWf.endPass {p a} : (s.endPass p a).storesWf := wf.dropHeadPass.ite wf.dropHeadPass.modPlot

theorem State.storesWf.groupCommit {p} : NextStoresWf (execGroupCommit p s) := by
  unfold execGroupCommit
  split
  · exact wf
  split
  · exact wf
  split
  · exact wf
  · exact wf.initPass.runGroup.countSteps.setHeadPass.ite wf.initPass.runGroup.countSteps.endPass

theorem State.storesWf.tileWriteoutDone {p bank} : NextStoresWf (execTileWriteoutDone p bank s) := by
  unfold execTileWriteoutDone
  extract_lets q
  split
  · exact wf
  split
  · exact wf
  extract_lets arrays s1 s2 drop s3
  have wf1 : s1.storesWf := wf.forEach fun _ _ wf => wf.psWrite
  have wf3 : s3.storesWf := wf1.energy.modPlot
  exact wf3.modSeq.ite wf3

theorem State.storesWf.tileReductionDone {p} : NextStoresWf (execTileReductionDone p s) := by
  unfold execTileReductionDone
  split
  · exact wf
  split
  · exact wf
  split
  · exact wf
  · exact (wf.forEach fun _ _ wf => wf.psWrite.setFlags).dropHeadPass

theorem State.storesWf.pass {p} : NextStoresWf (execPass p s) := by
  dsimp only [execPass]
  refine wf.command fun c pos s wf => ?_
  split
  · exact wf.holdCommand
  split
  · exact wf.unholdCommand.fatal
  · exact wf.unholdCommand.modSeq

theorem State.storesWf.enterPass {p a} : (s.enterPass p a).storesWf := by
  dsimp only [State.enterPass]
  split
  · exact (wf.setHeld.modPlot.showNumctl.ite wf.setHeld.modPlot.showNumctl.count).modSeq
  · exact (wf.setHeld.modPlot.showNumctl.ite wf.setHeld.modPlot.showNumctl.count).finish

theorem State.storesWf.tryEnter {p} : (s.tryEnter p).storesWf := by
  dsimp only [State.tryEnter]
  split
  · exact wf
  split
  · exact wf
  · exact wf.setHeld.modSeq.ite wf.enterPass

theorem State.storesWf.passEntry {p} : NextStoresWf (execPassEntry p s) := wf.tryEnter

theorem State.storesWf.spill {p a kpos reason} : (s.spill p a kpos reason).storesWf :=
  wf.psWrite.modPlot.showNumctl.count.tracePlot

theorem State.storesWf.passStop {p} : NextStoresWf (execPassStop p s) := by
  unfold execPassStop
  split
  · split
    · exact wf
    split
    · exact wf
    split
    · split
      · exact wf.spill
      · exact wf
    split
    · exact wf.initPass.spill
    · exact wf
  · exact wf

theorem State.storesWf.parityStop {p pos} : (s.parityStop p pos).storesWf := wf.plotRecoverable.stopEvent.settleStop

theorem State.storesWf.countRetry {p} : (s.countRetry p).storesWf := wf.modPlot

theorem State.storesWf.groupParity {p a g} : (s.groupParity p a g).2.storesWf := by
  unfold State.groupParity
  split
  · exact wf
  split
  · exact wf.parityStop
  · exact wf.countRetry

theorem State.storesWf.operandParityError {p g} : NextStoresWf (execOperandParityError p g s) := by
  dsimp only [execOperandParityError]
  split
  · exact wf
  split
  · exact wf
  · exact wf.groupParity.modPlot

theorem State.storesWf.passReentry {p} : NextStoresWf (execPassReentry p s) := by
  unfold execPassReentry
  split
  · exact wf
  split
  · exact wf.setHeadPass
  · exact wf

theorem State.storesWf.reductionParityError {p} : NextStoresWf (execReductionParityError p s) := by
  unfold execReductionParityError
  split
  · exact wf
  split
  · exact wf
  split
  · exact wf.parityStop.setHeadPass
  · exact wf.countRetry.setHeadPass

theorem State.storesWf.reloadTiles {p rec a mask} : (s.reloadTiles p rec a mask).storesWf :=
  (wf.forEach fun _ _ wf => wf.modPlot).modPlot

theorem State.storesWf.resumep {p} : NextStoresWf (execResumep p s) := by
  dsimp only [execResumep]
  refine wf.command fun c pos s wf => ?_
  split
  · exact wf.holdCommand
  split
  · exact wf.unholdCommand.fatal
  · exact wf.unholdCommand.reloadTiles.modSeq

theorem State.storesWf.resumePass {p} : (s.resumePass p).storesWf := by
  dsimp only [State.resumePass]
  split
  · exact wf
  split
  · exact wf.fatal
  · exact wf.reloadTiles.modPlot.showNumctl

/-! ### Streams -/

theorem State.storesWf.runStream {p a c hi} : (s.runStream p a c hi).2.storesWf := by
  have units (w : Work) (w0 : w.store = (s.plot p).store) :
      (s.modPlot p fun q => { q with store := (a.desc.units c (a.desc.count + 1) w a.epos hi).store,
                                     rake := (a.desc.units c (a.desc.count + 1) w a.epos hi).reg }).storesWf :=
    wf.modPlot fun _ _ => DrlDesc.units_wf _ _ _ (w0 ▸ wf.store p) _ _
  unfold State.runStream
  exact (units _ rfl).count.count.energy.energy.energy.energy

theorem State.storesWf.stream {p} : NextStoresWf (execStream p s) := by
  dsimp only [execStream]
  refine wf.command fun c pos s wf => ?_
  split
  · exact wf.holdCommand
  split
  · exact wf.unholdCommand.fatal
  · exact wf.unholdCommand.modSeq

theorem State.storesWf.tryStart {p} : (s.tryStart p).storesWf := by
  dsimp only [State.tryStart]
  split
  · split
    · exact wf
    split
    · exact wf.setHeld.modSeq
    · exact wf.fatal.ite wf.setHeld.modPlot.showNumctl.finish
  · exact wf

theorem State.storesWf.streamStart {p} : NextStoresWf (execStreamStart p s) := wf.tryStart

theorem State.storesWf.streamEnd {p} : NextStoresWf (execStreamEnd p s) := by
  unfold execStreamEnd
  split
  · exact wf
  split
  · exact wf
  split
  · exact wf
  split
  rename_i s1 e1
  have wf1 : s1.storesWf := wf.runStream.of_snd e1
  exact (wf1.setFlags.modPlot.psWrite.ite wf1.setFlags.modPlot).showNumctl

theorem State.storesWf.imageValue {r} : (s.imageValue r).2.storesWf := by
  unfold State.imageValue
  split
  · exact wf.free
  · exact wf

theorem State.storesWf.stopStream {p a reason} : (s.stopStream p a reason).storesWf := by
  unfold State.stopStream
  split
  rename_i s1 e1
  have wf1 : s1.storesWf := wf.imageValue.of_snd e1
  exact wf1.psWrite.modPlot.showNumctl.count.tracePlot

theorem State.storesWf.streamStop {p epos} : NextStoresWf (execStreamStop p epos s) := by
  unfold execStreamStop
  split
  · split
    · exact wf
    split
    · split
      rename_i s1 e1
      have wf1 : s1.storesWf := wf.runStream.of_snd e1
      exact wf1.stopStream
    · exact wf
  · exact wf

theorem State.storesWf.drillParityError {p epos} : NextStoresWf (execDrillParityError p epos s) := by
  unfold execDrillParityError
  split
  · exact wf
  split
  · exact wf
  split
  · split
    rename_i s1 e1
    have wf1 : s1.storesWf := wf.runStream.of_snd e1
    split
    · exact wf1.stopStream.parityStop
    · exact wf1.modPlot
  · exact wf

theorem State.storesWf.tillingParityError {p} : NextStoresWf (execTillingParityError p s) := by
  dsimp only [execTillingParityError]
  split
  · exact wf.modPlot.raise
  · exact wf

theorem State.storesWf.continueStream {p a r} : (s.continueStream p a r).storesWf := wf.modPlot.showNumctl

theorem State.storesWf.resumes {p} : NextStoresWf (execResumes p s) := by
  dsimp only [execResumes]
  refine wf.command fun c pos s wf => ?_
  split
  · exact wf.holdCommand
  split
  · exact wf.unholdCommand.fatal
  · exact wf.unholdCommand.continueStream.finish

theorem State.storesWf.resumeStream {p} : (s.resumeStream p).storesWf := by
  dsimp only [State.resumeStream]
  split
  · exact wf
  split
  · exact wf.fatal
  · exact wf.continueStream

/-! ### Sync units -/

theorem State.storesWf.syncErr {d code sev objLo objHi det} : (s.syncErr d code sev objLo objHi det).storesWf :=
  wf.raise

theorem State.storesWf.setQueue {d q l} : (s.setQueue d q l).storesWf := wf.modUnit

theorem State.storesWf.engineAdd {queue payload src} : (s.engineAdd queue payload src).storesWf := by
  unfold State.engineAdd
  split
  · exact wf.beside
  · exact wf.beside.ite wf

theorem State.storesWf.engineDrop {queue all} : (s.engineDrop queue all).storesWf := wf.beside

theorem State.storesWf.engineTake {t} : (s.engineTake t).storesWf := wf.setQueue.engineDrop

theorem State.storesWf.enterQueue {d t} : (s.enterQueue d t).storesWf :=
  wf.modUnit.syncErr.ite wf.setQueue.traceDie.engineAdd

theorem State.storesWf.tokenArrival {i} : NextStoresWf (execTokenArrival i s) := by
  dsimp only [execTokenArrival]
  split
  · exact wf
  split
  · exact wf
  split
  · exact wf.beside.modUnit
  · exact wf.beside.syncErr

theorem State.storesWf.acceptRemote {d t} : (s.acceptRemote d t).storesWf := by
  unfold State.acceptRemote
  extract_lets u
  split
  · split
    · exact wf.syncErr
    split
    · exact wf.modUnit
    · exact wf.modUnit.traceDie
  · split
    · exact wf.modUnit
    dsimp only
    split
    · exact wf.syncErr
    · exact wf.beside.modUnit.traceDie

theorem State.storesWf.inboundEntry {d node ch} : (s.inboundEntry d node ch).2.storesWf := by
  dsimp only [State.inboundEntry]
  split
  · exact wf
  split
  · exact wf
  · exact wf.beside.modUnit

theorem State.storesWf.remoteToken {d t} : (s.remoteToken d t).storesWf := by
  dsimp only [State.remoteToken]
  split
  · rename_i s1 e1
    have wf1 : s1.storesWf := wf.inboundEntry.of_snd e1
    exact wf1.syncErr
  rename_i s2 e2
  have wf2 : s2.storesWf := wf.inboundEntry.of_snd e2
  split
  · exact wf2.modUnit.acceptRemote
  · exact wf2.syncErr.ite wf2.modUnit.modUnit.syncErr

theorem State.storesWf.rxApplied {node ch mseq} : (s.rxApplied node ch mseq).storesWf := wf.beside

theorem State.storesWf.remoteTokenArrival {i} : NextStoresWf (execRemoteTokenArrival i s) := by
  dsimp only [execRemoteTokenArrival]
  split
  · exact wf
  split
  · exact wf
  split
  · exact wf.beside.rxApplied.remoteToken
  · exact wf.beside.syncErr

theorem State.storesWf.tallyAdd {a} : (s.tallyAdd a).storesWf := by
  unfold State.tallyAdd
  extract_lets d u entered
  split
  · extract_lets n tooMany b q
    refine iteInduction (fun _ => wf.syncErr) fun _ => ?_
    exact wf.modUnit
  · refine iteInduction (fun _ => wf.syncErr) fun _ => ?_
    split
    · exact wf.syncErr
    · exact wf.beside.modUnit

theorem State.storesWf.announcedWriteAck : NextStoresWf (execAnnouncedWriteAck s) := by
  unfold execAnnouncedWriteAck
  split
  · exact wf
  split
  · exact wf
  · exact wf.beside.tallyAdd

theorem State.storesWf.handDone {d result} : (s.handDone d result).storesWf := wf.modUnit

theorem State.storesWf.handNotice {d payload} : (s.handNotice d payload).storesWf := wf.syncErr

theorem State.storesWf.handOp {d} : (s.handOp d).storesWf := by
  dsimp only [State.handOp]
  split
  · exact wf
  split
  · split
    · exact wf.modUnit.handDone
    · exact wf.handDone
  · split
    · exact wf.handDone.handNotice
    · exact wf.setQueue.traceDie.engineAdd.handDone.handNotice
  · split
    · exact wf.handDone.handNotice
    · exact wf.setQueue.engineDrop.handDone.handNotice
  · split
    · exact wf.handDone.handNotice
    · exact wf.setQueue.engineDrop.handDone.handNotice
  · split
    · exact wf.handDone.handNotice
    split
    · exact wf.handDone.handNotice.ite wf.modUnit.enterQueue.handDone.handNotice
    · exact wf.handDone
  · exact wf.handDone

theorem State.storesWf.withdraw {d p} : (s.withdraw d p).storesWf := by
  unfold State.withdraw
  split
  · exact wf
  · exact wf.modUnit.modPlot

theorem State.storesWf.modDbgWatch {d n f} : (s.modDbgWatch d n f).storesWf := wf.beside

theorem State.storesWf.register {d w} : (s.register d w).storesWf := by
  dsimp only [State.register]
  split
  · exact wf.beside.modUnit
  split
  · exact wf.modDbgWatch
  · exact wf

theorem State.storesWf.release {d w} : (s.release d w).storesWf := by
  dsimp only [State.release]
  split
  · split
    · exact wf.setQueue.modUnit.traceDie.modDbgWatch.traceOn
    · exact wf.setQueue.modUnit.traceDie.modDbgWatch
  split
  · exact wf.setQueue.modUnit.traceDie.modPlot.sample.finish
  · exact wf.setQueue.modUnit.traceDie.modPlot.sample

theorem State.storesWf.evaluate {d} : (s.evaluate d).storesWf := by
  unfold State.evaluate
  refine wf.forEach fun s x wf => ?_
  split
  · exact wf
  · exact wf
  · exact wf.release.ite wf

theorem State.storesWf.dump {trigger object waiter} : (s.dump trigger object waiter).2.storesWf := by
  unfold State.dump
  split
  · exact wf.beside
  split
  · exact wf.notice
  · exact wf.beside

theorem State.storesWf.expireError {d w} : (s.expireError d w).storesWf := by
  unfold State.expireError
  split
  · exact wf.raise.modUnit.modDbgWatch
  refine State.storesWf.stopEvent ?_
  refine State.storesWf.modPlot ?_
  split
  · exact wf.raise.modUnit
  · exact wf.raise.modUnit.leaveCollective

theorem State.storesWf.restartWatch {d slot} : (s.restartWatch d slot).storesWf := wf.modUnit

theorem State.storesWf.expire {d w} : (s.expire d w).storesWf := by
  dsimp only [State.expire]
  split
  · exact wf.expireError
  · exact wf.dump.raise.restartWatch
  · exact wf.dump.beside.ite wf.dump.expireError
  · exact wf

theorem State.storesWf.expireEarly {d e t} : (s.expireEarly d e t).storesWf := by
  unfold State.expireEarly
  extract_lets again
  have agains {t : State} (wf : t.storesWf) : (again t).storesWf := wf.modUnit
  split
  · exact wf.modUnit.raise
  · exact wf.dump.modUnit.raise
  · split
    rename_i taken s1 dumped
    have wf1 : s1.storesWf := wf.dump.of_snd dumped
    split
    · exact (agains wf1).beside
    · exact wf1.modUnit.raise
  · exact wf

theorem State.storesWf.watchExpiry {d slot} : NextStoresWf (execWatchExpiry d slot s) := by
  unfold execWatchExpiry
  split
  · exact wf
  split
  · split
    · exact wf.expire
    · exact wf
  · exact wf

theorem State.storesWf.earlyTokenExpiry {d slot} : NextStoresWf (execEarlyTokenExpiry d slot s) := by
  unfold execEarlyTokenExpiry
  split
  · exact wf
  split
  · split
    · split
      · exact wf.expireEarly
      · exact wf
    · exact wf
  · exact wf

theorem State.storesWf.syncDie {d} : (s.syncDie d).storesWf := by
  unfold State.syncDie
  extract_lets s1 u out outSlots toks s2 s3 u3 s4 s5 s6 regs lost s7 s8
  have wf3 : s3.storesWf := wf.handOp.modUnit.forEach fun _ _ wf => wf.enterQueue
  have wf5 : s5.storesWf := wf3.modUnit.forEach fun _ _ wf => wf.withdraw
  have wf6 : s6.storesWf := wf5.forEach fun _ _ wf => wf.modUnit.modDbgWatch
  have wf7 : s7.storesWf := wf6.forEach fun _ _ wf => wf.modPlot
  have wf8 : s8.storesWf := wf7.forEach fun _ _ wf => wf.register
  exact wf8.evaluate

theorem State.storesWf.syncExpire {d} : (s.syncExpire d).storesWf := by
  unfold State.syncExpire
  refine (wf.forEach fun _ _ wf => (wf.ite (wf.expire.ite wf))).forEach fun s x wf => ?_
  split
  · exact wf.expireEarly.ite wf
  · exact wf

theorem State.storesWf.tickModule {n} : (s.tickModule n).storesWf := wf.beside

theorem State.storesWf.syncCycle {elapsed} : NextStoresWf (execSyncCycle elapsed s) := by
  unfold execSyncCycle
  extract_lets s1 s2 s3
  have wf1 : s1.storesWf := wf.tickModule
  split
  · exact wf1
  have wf2 : s2.storesWf := wf1.forEach fun _ _ wf => wf.modUnit
  have wf3 : s3.storesWf := wf2.forEach fun _ _ wf => wf.syncDie
  exact wf3.forEach fun _ _ wf => wf.ite wf.syncExpire

theorem State.storesWf.dumpWritten : NextStoresWf (execDumpWritten s) := by
  unfold execDumpWritten
  split
  · exact wf
  rename_i f _
  extract_lets _ _ s1 s2
  have wf1 : s1.storesWf := by
    obtain ⟨memory, rest⟩ := wf
    exact ⟨cellsBlit_wf _ _ _ _ memory, rest⟩
  have wf2 : s2.storesWf := wf1.notice
  split
  · exact wf2
  · exact wf2.raiseLead
  · split
    · split
      · exact wf2.raise
      · exact wf2
    · exact wf2
  · split
    · exact wf2.expireError
    · exact wf2

/-! ### Rake registers and combinations -/

theorem State.storesWf.rclear {p} : NextStoresWf (execRclear p s) :=
  wf.command fun _ _ _ wf => wf.holdCommand.ite wf.unholdCommand.modPlot.finish

theorem State.storesWf.rread {p} : NextStoresWf (execRread p s) := by
  dsimp only [execRread]
  refine wf.command fun c pos s wf => ?_
  split
  · split
    · exact wf.holdCommand
    split
    · exact wf.unholdCommand.fatal
    · exact wf.unholdCommand.fatal.ite wf.unholdCommand.psWrite.setFlags.finish
  split
  · exact wf.holdCommand
  split
  · exact wf.unholdCommand.fatal
  · exact wf.unholdCommand.fatal.ite wf.unholdCommand.psWrite.setFlags.finish

theorem State.storesWf.rsave {p} : NextStoresWf (execRsave p s) := by
  dsimp only [execRsave]
  exact wf.command fun _ _ _ wf => wf.holdCommand.ite wf.unholdCommand.imageValue.psWrite.finish

theorem State.storesWf.radd {p} : NextStoresWf (execRadd p s) := by
  dsimp only [execRadd]
  refine wf.command fun c pos s wf => ?_
  split
  · exact wf.holdCommand
  split
  · exact wf.unholdCommand.fatal
  · exact wf.unholdCommand.modPlot.finish.ite wf.unholdCommand.fatal

theorem State.storesWf.collMismatch {id members} : (s.collMismatch id members).storesWf :=
  wf.beside.forEach fun _ _ wf => wf.modUnit.modSeq.fatal

theorem State.storesWf.joinColl {p pos id count r kind} : (s.joinColl p pos id count r kind).storesWf :=
  wf.collMismatch.ite wf.beside.modUnit.beginWait.modSeq

theorem State.storesWf.rcombine {p} : NextStoresWf (execRcombine p s) :=
  wf.command fun _ _ _ wf => wf.holdCommand.ite wf.unholdCommand.joinColl

theorem State.storesWf.endCollWatch {p id} : (s.endCollWatch p id).storesWf := wf.modUnit.traceDie

theorem State.storesWf.deliver {p id r} : (s.deliver p id r).storesWf := by
  unfold State.deliver
  split
  · exact wf.endCollWatch.modPlot.finish.ite wf.endCollWatch.modPlot
  · exact wf.endCollWatch.modPlot.finish.ite wf.endCollWatch.modPlot

theorem State.storesWf.combineDelivery {id} : NextStoresWf (execCombineDelivery id s) := by
  unfold execCombineDelivery
  split
  · exact wf
  split
  · exact wf
  split
  · exact wf
  · exact ((wf.beside.beside.ite wf.beside).forEach fun _ _ wf => wf.deliver).sowBarrier

/-! ### Four-bit checks and the allocator -/

theorem State.storesWf.fltRead {p pos idx} : (s.fltRead p pos idx).storesWf := by
  dsimp only [State.fltRead]
  split
  · exact wf.fatal
  split
  · exact wf.homeRead
  split
  · exact wf.homeRead
  split
  · exact wf.homeRead.fatal
  · exact wf.homeRead.modSeq

theorem State.storesWf.brflt {p} : NextStoresWf (execBrflt p s) := by
  unfold execBrflt
  refine wf.command fun c pos s wf => ?_
  split
  · rename_i s1 e1
    exact wf.fltRead.of_failed e1
  rename_i s2 e2
  have wf2 : s2.storesWf := wf.fltRead.of_entry e2
  exact wf2.finishAt.ite wf2.finish

theorem State.storesWf.check {p} : NextStoresWf (execCheck p s) := by
  refine wf.command fun c pos s wf => ?_
  split
  · exact wf.finish
  split
  · exact wf.holdCommand
  extract_lets s0 k
  have wf0 : s0.storesWf := wf.unholdCommand
  split
  · exact wf0.fatal
  split
  · rename_i s1 failed
    exact wf0.fltRead.of_failed failed
  rename_i s1 entry
  have wf1 : s1.storesWf := wf0.fltRead.of_entry entry
  split
  · exact wf1.finish
  split
  · exact wf1.holdCommand
  extract_lets d
  split
  · exact wf1.fatal
  split
  · exact wf1.fatal
  split
  · exact wf1.fatal
  · exact wf1.modSeq

theorem State.storesWf.checkCompare {p} : NextStoresWf (execCheckCompare p s) := by
  dsimp only [execCheckCompare]
  split
  · split
    · split
      · exact wf
      · exact (wf.modPlot.raise.ite wf.modPlot).finish
    split
    · exact wf
    · exact (wf.modPlot.raise.ite wf.modPlot).finish
  · exact wf

theorem State.storesWf.vote {p} : NextStoresWf (execVote p s) := by
  unfold execVote
  refine wf.command fun c pos s wf => ?_
  split
  · exact wf
  · exact wf.fatal.ite wf.joinColl

theorem State.storesWf.writeChange {flt row x} : (s.writeChange flt row x).storesWf :=
  (wf.engineWrite.engineWrite.engineWrite.engineWrite.engineWrite.ite wf.engineWrite.engineWrite).noteGuarded.notice

theorem State.storesWf.fallbackAllocation : NextStoresWf (execFallbackAllocation s) := by
  unfold execFallbackAllocation
  split
  · extract_lets _ _ _ _ s0 _ _ _ _ s1
    have wf0 : s0.storesWf := wf.beside
    split
    · exact wf0.raiseLead
    · have wf1 : s1.storesWf := wf0.forEach fun _ _ wf => wf.writeChange
      clear_value s1
      exact wf1.beside
  · exact wf

/-! ### Kufort messages -/

theorem State.storesWf.transportErr {d lo hi det} : (s.transportErr d lo hi det).storesWf := wf.raise

theorem State.storesWf.txPush {k m} : (s.txPush k m).storesWf := wf.modKport

theorem State.storesWf.sendOn {m} : (s.sendOn m).2.storesWf := by
  dsimp only [State.sendOn]
  split
  · exact wf.txPush
  · exact wf.raiseLead

theorem State.storesWf.modTx {node ch f} : (s.modTx node ch f).storesWf := wf.beside

theorem State.storesWf.pump {node ch} : (s.pump node ch).storesWf := by
  unfold State.pump
  split
  · exact wf
  split
  · exact wf
  refine wf.forEach fun s x wf => ?_
  split
  rename_i s1 e1
  have wf1 : s1.storesWf := wf.sendOn.of_snd e1
  exact wf1.modTx

theorem State.storesWf.sendOpen {node ch} : (s.sendOpen node ch).storesWf := wf.sendOn.modTx

theorem State.storesWf.pairSend {node ch mtype body} : (s.pairSend node ch mtype body).2.storesWf :=
  (wf.ite wf.beside.sendOpen).modTx.pump

theorem State.storesWf.sendData {node ch addr ann data} : (s.sendData node ch addr ann data).2.storesWf := wf.pairSend

theorem State.storesWf.takeTseq {node ch d} : (s.takeTseq node ch d).2.storesWf := wf.beside

theorem State.storesWf.sendTokenSeq {node ch queue payload bytes tseq} :
    (s.sendTokenSeq node ch queue payload bytes tseq).2.storesWf :=
  wf.pairSend

theorem State.storesWf.sendToken {node ch queue payload} : (s.sendToken node ch queue payload).storesWf :=
  wf.beside.sendTokenSeq

theorem State.storesWf.localToken {kind src queue payload} : (s.localToken kind src queue payload).storesWf := wf.beside

theorem State.storesWf.resendMsg {node ch m} : (s.resendMsg node ch m).storesWf := by
  unfold State.resendMsg
  extract_lets set
  split
  · exact wf
  split
  · exact wf.modTx.raiseLead
  split
  rename_i k s1 sent
  have wf1 : s1.storesWf := wf.sendOn.of_snd sent
  exact State.storesWf.rowAdd (State.storesWf.beside (s := set s1 (m.sends + 1) k) wf1.modTx)

/-! ### Transfers -/

theorem State.storesWf.setMover {p m l} : (s.setMover p m l).storesWf := wf.modPlot

theorem State.storesWf.modHead {p m f} : (s.modHead p m f).storesWf := by
  unfold State.modHead
  split
  · exact wf
  · exact wf.setMover

theorem State.storesWf.looseNibble {e m} : (s.looseNibble e m).2.storesWf := by
  unfold State.looseNibble
  split
  · split
    rename_i s1 e1
    exact wf.free.of_snd e1
  · exact wf

theorem State.storesWf.sendTransfer {p t img} : (s.sendTransfer p t img).2.storesWf := by
  unfold State.sendTransfer
  extract_lets d die ps
  have sequence : (if d.token then s.takeTseq d.node d.channel die else (0, s)).2.storesWf := by
    split
    · exact wf.takeTseq
    · exact wf
  split
  rename_i ts s1 taken
  have wf1 : s1.storesWf := sequence.of_snd taken
  split
  rename_i ids s2 sent
  have wf2 : s2.storesWf := by
    refine State.storesWf.of_snd (wf1.foldl_snd fun _ _ wf => ?_) sent
    exact wf.sendData
  exact wf2.countCh.countCh.energy

theorem State.storesWf.beginTransfer {p m t} : (s.beginTransfer p m t).storesWf := by
  dsimp only [State.beginTransfer]
  split
  · exact wf.setHeld.count.modHead
  split
  · split
    · exact wf.setHeld.count.setFlags.looseNibble.modHead
    · exact wf.setHeld.count.setFlags.looseNibble.sendTransfer.modHead
  · exact wf.setHeld.count.modHead

omit wf in
theorem State.storesWf.activate {n p m} {s : State} (wf : s.storesWf) : (State.activate n s p m).storesWf := by
  induction n generalizing s with
  | zero => exact wf
  | succ n ih =>
    unfold State.activate
    split
    · exact wf.setHeld
    split
    · exact wf
    split
    · exact ih wf.setMover
    split
    · exact wf.setHeld
    · exact wf.beginTransfer

theorem State.storesWf.acceptDma {p pos addr} : (s.acceptDma p pos addr).storesWf := by
  unfold State.acceptDma
  extract_lets bad d needs here go
  split
  · exact wf.fatal
  split
  · exact trivial
  split
  · exact wf.fatal
  split
  · exact wf.fatal
  split
  · exact wf.fatal
  split
  · exact wf.fatal
  have goes : ∀ (t : State) e, t.storesWf → (go t e).storesWf := by
    intro t e wf
    unfold go
    refine iteInduction (fun _ => wf.fatal) fun _ => ?_
    refine iteInduction (fun _ => trivial) fun _ => ?_
    exact iteInduction (fun _ => wf.fatal) fun _ => wf
  split
  · split
    · rename_i s1 failed
      exact wf.fltRead.of_failed failed
    · rename_i e st s1 entry
      exact goes _ (some (e, st)) (wf.fltRead.of_entry entry)
  · exact goes _ none wf

omit wf in
theorem State.storesWf.handOver {n p} {s : State} (wf : s.storesWf) : (State.handOver n s p).storesWf := by
  induction n generalizing s with
  | zero => exact wf
  | succ n ih =>
    unfold State.handOver
    split
    · split
      · exact wf.unholdCommand.finish
      split
      · exact wf
      split
      · exact wf.holdCommand
      · rename_i s1 refused
        exact (wf.acceptDma.of_refused refused).unholdCommand.modSeq
      · rename_i t s1 accepted
        exact ih (wf.acceptDma.of_ok accepted).setMover.modPlot.unholdCommand.activate
    · exact wf

theorem State.storesWf.dma {p} : NextStoresWf (execDma p s) := by
  unfold execDma
  split
  · exact wf.handOver.ite wf
  · exact wf.command fun _ _ _ wf => wf.modSeq.handOver

theorem State.storesWf.endTransfer {p m} : (s.endTransfer p m).storesWf := wf.setMover.activate.handOver

theorem State.storesWf.countAccess {p pos a n write} : (s.countAccess p pos a n write).storesWf :=
  wf.count.count.energy.ite wf.count.count.energy.energy

theorem State.storesWf.landBelow {p t missing} : (s.landBelow p t missing).storesWf := by
  unfold State.landBelow
  split
  · exact wf
  split
  rename_i store fl _ rows
  have form : Memory.wf store = true := by
    refine Memory.wf_fst (Memory.wf_foldl_fst (wf.store p) fun acc r w => ?_) rows
    split
    · exact Memory.wf_foldl w fun _ _ w => Plane.write_wf w _ _ _ _
    · exact w
  exact State.storesWf.setFlags (wf.modPlot fun _ _ => form)

theorem State.storesWf.homeAccess {p m wrongBytes} : NextStoresWf (execHomeAccess p m wrongBytes s) := by
  dsimp only [execHomeAccess]
  split
  · exact wf
  split
  · exact wf
  split
  · exact wf
  split
  · split
    · exact wf.inject.countAccess.homeReadTo.landBelow.endTransfer
    · exact wf.inject.countAccess.homeReadTo.modHead
  split
  · exact wf.inject.countAccess.homeWrite.modHead
  · exact wf.inject.countAccess.homeWrite.endTransfer

theorem State.storesWf.ackPair {node ch} : (s.ackPair node ch).storesWf := by
  unfold State.ackPair
  split
  · exact wf
  split
  · exact wf
  rename_i g _
  extract_lets s1 s2
  have wf2 : s2.storesWf := by
    unfold s2
    split
    · exact wf.rxApplied.noteGuarded
    · exact wf.rxApplied
  split
  · exact wf2.beside
  · exact wf2

theorem State.storesWf.ackHost {h} : (s.ackHost h).storesWf := by
  unfold State.ackHost
  extract_lets n _ s1 left out s2
  split
  · exact wf
  have wf1 : s1.storesWf := by
    unfold s1
    split
    · exact wf.beside
    · exact wf.beside
  have wf2 : s2.storesWf := wf1.modPci
  exact wf2.beside

theorem State.storesWf.writeAck {src} : NextStoresWf (execWriteAck src s) := by
  unfold execWriteAck
  split
  · split
    · split
      · exact wf.modHead.noteGuarded
      · exact wf
    · exact wf
  · exact wf.ackHost
  · exact wf.ackPair

theorem State.storesWf.landTransfer {p t} : (s.landTransfer p t).storesWf := by
  unfold State.landTransfer
  extract_lets land _ cross
  have lands : ∀ x, (land x).storesWf := by
    intro x
    unfold land
    exact State.storesWf.setFlags (wf.modPlot fun _ _ => t.allRows_wf (wf.store x))
  have crosses : ∀ t : State, t.storesWf → (cross t).storesWf := by
    intro t wf
    unfold cross
    split
    · exact wf.count.energy
    · exact wf
  split
  · exact crosses _ (lands _)
  · exact crosses _ (lands _)
  · exact wf

theorem State.storesWf.transferDone {p m} : NextStoresWf (execTransferDone p m s) := by
  unfold execTransferDone
  split
  · exact wf
  split
  · exact wf
  split
  · exact wf.landTransfer.modHead
  · exact wf.landTransfer.endTransfer

theorem State.storesWf.trailingToken {p m} : NextStoresWf (execTrailingToken p m s) := by
  dsimp only [execTrailingToken]
  split
  · exact wf
  split
  · exact wf
  split
  · exact wf.sendTokenSeq.countCh.energy.modHead
  · exact wf.localToken.endTransfer

/-! ### The course of a plan -/

theorem State.storesWf.nop {p} : NextStoresWf (execNop p s) := wf.command fun _ _ _ wf => wf.finish

theorem State.storesWf.jump {p} : NextStoresWf (execJump p s) := wf.command fun _ _ _ wf => wf.finishAt

theorem State.storesWf.mark {p} : NextStoresWf (execMark p s) := wf.command fun _ _ _ wf => wf.traceOn.finish

theorem State.storesWf.wait {p} : NextStoresWf (execWait p s) := wf.command fun _ _ _ wf => wf.modUnit.beginWait.modSeq

theorem State.storesWf.signal {p} : NextStoresWf (execSignal p s) := by
  refine wf.command fun c pos s wf => ?_
  extract_lets queue node ch s1
  refine iteInduction (fun _ => ?_) fun _ => wf.localToken.finish
  refine iteInduction (fun _ => wf.unholdCommand.fatal) fun _ => ?_
  refine iteInduction (fun _ => wf.holdCommand) fun _ => ?_
  exact wf.unholdCommand.sendToken.countCh.energy.finish

theorem State.storesWf.fence {p} : NextStoresWf (execFence p s) := by
  unfold execFence
  split
  · split
    · exact wf.finish
    · exact wf
  · exact wf.command fun _ _ _ wf => wf.finish.ite wf.beginWait.modSeq

theorem State.storesWf.snapshot {p} : (s.snapshot p).storesWf := by
  dsimp only [State.snapshot]
  split
  · split
    · exact wf
    · exact wf.notice.ite wf.settle.engineWrite
  split
  · exact wf
  · exact wf.notice.ite wf.settle.engineWrite

theorem State.storesWf.reportRow {p} : (s.reportRow p).storesWf := wf.snapshot.modSeq.ite wf

theorem State.storesWf.endrow {p} : NextStoresWf (execEndrow p s) := by
  unfold execEndrow
  split
  · exact wf.reportRow
  · exact wf.command fun _ _ _ wf => wf.beginWait.modSeq.reportRow

theorem State.storesWf.identityRequests : s.identityRequests.storesWf := wf.forEach fun _ _ wf => wf.modKport

theorem State.storesWf.clearRequests : s.clearRequests.storesWf := wf.beside.noticeFrom.ite wf

theorem State.storesWf.endPlan {st h} : (s.endPlan st h).storesWf := wf.setPlan.clearRequests.identityRequests

theorem State.storesWf.plotEnded {p} : (s.plotEnded p).storesWf :=
  wf.modSeq.tracePlot.beside.endPlan.ite wf.modSeq.tracePlot.beside

theorem State.storesWf.endplan {p} : NextStoresWf (execEndplan p s) := by
  unfold execEndplan
  split
  · split
    · exact wf.plotEnded
    · exact wf
  · exact wf.command fun _ _ _ wf => wf.plotEnded.ite wf.modSeq

theorem State.storesWf.retryCommand {p} : NextStoresWf (s.retryCommand p) := by
  unfold State.retryCommand
  split
  · exact wf.dma
  split
  · exact wf.pass
  · exact wf.stream
  · exact wf.signal
  · exact wf.check
  · exact wf.rclear
  · exact wf.rread
  · exact wf.rsave
  · exact wf.radd
  · exact wf.rcombine
  · exact wf.resumep
  · exact wf.resumes
  · exact wf

theorem State.storesWf.heldAccessRelease {p u} : NextStoresWf (execHeldAccessRelease p u s) := by
  unfold execHeldAccessRelease
  split
  · exact wf
  split
  · exact wf.retryCommand
  · exact wf.passEntry
  · exact wf.streamStart
  · exact wf.activate
  · exact wf.activate

theorem State.storesWf.haltComplete : s.haltComplete.storesWf := by
  unfold State.haltComplete
  extract_lets _ _ s1 _ _ s2
  split
  · exact wf
  have wf1 : s1.storesWf := by
    unfold s1
    split
    · exact wf.beside.noticeFrom
    · exact wf
  split
  · exact wf1
  have wf2 : s2.storesWf := wf1.beside
  extract_lets bytes
  split
  · exact wf2.engineWrite
  · exact wf2.notice

theorem State.storesWf.resumePlot {p stepping} : (s.resumePlot p stepping).storesWf :=
  wf.modPlot.resumePass.resumeStream

theorem State.storesWf.plotStopComplete {p} : NextStoresWf (execPlotStopComplete p s) := by
  dsimp only [execPlotStopComplete]
  split
  · exact wf
  split
  · exact wf
  · exact wf.modPlot.haltComplete.resumePlot.ite wf.modPlot.haltComplete

/-! ### Kufort ports and their messages -/

theorem State.storesWf.switchRoutes {k} : (s.switchRoutes k).storesWf := by
  unfold State.switchRoutes
  extract_lets _ s1
  have wf1 : s1.storesWf := wf.modKport
  exact wf1.beside

theorem State.storesWf.portErr {k det} : (s.portErr k det).storesWf := wf.raise

theorem State.storesWf.retrain {k} : (s.retrain k).storesWf := wf.modKport.switchRoutes

theorem State.storesWf.declareDown {k} : (s.declareDown k).storesWf :=
  wf.modKport.switchRoutes.portErr.forEach fun _ _ wf => wf.forEach fun _ _ wf => wf.resendMsg

theorem State.storesWf.portTrainingStateDone {k} : NextStoresWf (execPortTrainingStateDone k s) := by
  dsimp only [execPortTrainingStateDone]
  split
  · exact wf
  split
  · exact wf.modKport
  · exact wf.modKport
  · exact wf.modKport
  · split
    · exact wf.modKport
    · exact wf
  · exact wf

theorem State.storesWf.portStateBoundExceeded {k} : NextStoresWf (execPortStateBoundExceeded k s) := by
  dsimp only [execPortStateBoundExceeded]
  split
  · exact wf
  split
  · exact wf.declareDown
  · exact wf.modKport

theorem State.storesWf.codewordLockLost {k} : NextStoresWf (execCodewordLockLost k s) := by
  unfold execCodewordLockLost
  split
  · exact wf.modKport
  · exact wf

theorem State.storesWf.retraining {k} : NextStoresWf (execRetraining k s) := by
  dsimp only [execRetraining]
  split
  · exact wf.retrain
  · exact wf

theorem State.storesWf.portDeclaredDown {k} : NextStoresWf (execPortDeclaredDown k s) := by
  dsimp only [execPortDeclaredDown]
  split
  · exact wf.declareDown
  · exact wf

theorem State.storesWf.sendCtrl {k ftype payload f} : (s.sendCtrl k ftype payload f).storesWf := wf.modKport

theorem State.storesWf.sendMessageFlit {k c f} : (s.sendMessageFlit k c f).storesWf := wf.modKport

theorem State.storesWf.flitSend {k} : NextStoresWf (execFlitSend k s) := by
  dsimp only [execFlitSend]
  split
  · split
    · exact wf
    · exact wf.sendCtrl
  · split
    · exact wf
    · exact wf.sendCtrl
  · split
    · exact wf.sendCtrl
    · exact wf
  · split
    · exact wf.sendCtrl
    split
    · exact wf
    split
    · exact wf.sendCtrl
    split
    · exact wf.sendCtrl
    split
    · exact wf.modKport
    split
    · exact wf.sendMessageFlit
    · exact wf.sendCtrl
  · split
    · split
      · exact wf
      · exact wf.sendCtrl
    · exact wf
  · exact wf

theorem State.storesWf.flitReceive {k bytes corrected uncorrectable} :
    NextStoresWf (execFlitReceive k bytes corrected uncorrectable s) := by
  dsimp only [execFlitReceive]
  split
  · exact wf
  split
  · exact wf.modKport
  split
  · split
    · exact wf.modKport
    split
    · exact wf.modKport
    · exact wf.modKport
  · exact wf.modKport
  · exact wf.modKport

theorem State.storesWf.dropCtrl {k} : (s.dropCtrl k).storesWf := wf.modKport

theorem State.storesWf.replayRequest {k} : NextStoresWf (execReplayRequest k s) := by
  unfold execReplayRequest
  split
  · exact wf
  · exact wf.dropCtrl.modKport.rowAdd

theorem State.storesWf.identityFlit {k} : NextStoresWf (execIdentityFlit k s) := by
  dsimp only [execIdentityFlit]
  split
  · exact wf
  split
  · exact wf.dropCtrl.modKport.modKport
  · exact wf.dropCtrl.modKport.modKport.portErr.switchRoutes

theorem State.storesWf.identityAnswerTimeout {k} : NextStoresWf (execIdentityAnswerTimeout k s) := by
  dsimp only [execIdentityAnswerTimeout]
  split
  · exact wf.retrain
  · exact wf

theorem State.storesWf.downFlit {k} : NextStoresWf (execDownFlit k s) := by
  unfold execDownFlit
  split
  · exact wf
  split
  · exact wf
  · exact wf.dropCtrl.declareDown

theorem State.storesWf.dropMsg {k c n} : (s.dropMsg k c n).storesWf := wf.modKport

theorem State.storesWf.forward {m} : (s.forward m).storesWf := wf.transportErr.ite wf.sendOn

theorem State.storesWf.badMessage {h} : (s.badMessage h).storesWf := wf.transportErr

theorem State.storesWf.receive {k c mine f} (read : ∀ h m t, t.storesWf → (f h m t).storesWf) :
    (s.receive k c mine f).storesWf := by
  unfold State.receive
  split
  · exact wf
  split
  · exact wf
  extract_lets h s1
  split
  · exact wf
  have wf1 : s1.storesWf := wf.dropMsg
  split
  · exact wf1.forward
  split
  · exact wf1.badMessage
  · exact read _ _ _ wf1

theorem State.storesWf.noteReceived {h g} : (s.noteReceived h g).storesWf := wf.beside

theorem State.storesWf.classed {h} {apply : State → State} (applies : ∀ t, t.storesWf → (apply t).storesWf) :
    (s.classed h apply).storesWf := by
  unfold State.classed
  split
  · exact wf.badMessage
  extract_lets d
  split
  · exact applies _ wf
  split
  · exact wf.beside
  · exact wf.transportErr

theorem State.storesWf.dataOf {m} : (s.dataOf m).2.storesWf := by
  dsimp only [State.dataOf]
  split
  · exact wf
  · exact wf.free

theorem State.storesWf.dataWrite {k} : NextStoresWf (execDataWrite k s) := by
  dsimp only [execDataWrite]
  refine wf.receive fun h m s wf => ?_
  split
  · exact wf.badMessage
  refine wf.classed fun s wf => ?_
  split
  · exact wf.dataOf.transportErr
  · exact wf.dataOf.writeRange.ite wf.dataOf.writeRange.noteReceived

theorem State.storesWf.token {k} : NextStoresWf (execToken k s) := by
  unfold execToken
  refine wf.receive fun h m s wf => ?_
  split
  · exact wf.badMessage
  refine wf.classed fun s wf => ?_
  extract_lets w t s1
  have wf1 : s1.storesWf := wf.noteReceived
  exact wf1.beside

theorem State.storesWf.collectiveStep {k} : NextStoresWf (execCollectiveStep k s) := by
  unfold execCollectiveStep
  refine wf.receive fun h m s wf => ?_
  split
  · exact wf.badMessage
  · exact wf.raiseLead.ite wf.beside

theorem State.storesWf.openMsg {k} : NextStoresWf (execOpenMsg k s) := by
  unfold execOpenMsg
  refine wf.receive fun h m s wf => ?_
  split
  · exact wf.badMessage
  split
  · exact wf
  split
  · exact wf.sendOn
  · exact wf.sendOn.ite wf.beside.sendOn

theorem State.storesWf.grant {k} : NextStoresWf (execGrant k s) := by
  unfold execGrant
  refine wf.receive fun h m s wf => ?_
  exact wf.modTx.pump

theorem State.storesWf.refuse {k} : NextStoresWf (execRefuse k s) := by
  unfold execRefuse
  refine wf.receive fun h m s wf => ?_
  split
  · exact wf
  · exact wf.modTx.raiseLead

theorem State.storesWf.ack {k} : NextStoresWf (execAck k s) := by
  unfold execAck
  refine wf.receive fun h m s wf => ?_
  split
  · exact wf
  · exact wf.ite wf.modTx.mapPlots.pump

theorem State.storesWf.ackSend {node ch} : NextStoresWf (execAckSend node ch s) := by
  unfold execAckSend
  split
  · exact wf
  split
  · exact wf
  · exact wf.beside.sendOn

theorem State.storesWf.messageResend {node ch mseq} : NextStoresWf (execMessageResend node ch mseq s) := by
  unfold execMessageResend
  split
  · exact wf
  split
  · exact wf
  split
  · exact wf
  · exact wf.resendMsg

theorem State.storesWf.openResend {node ch} : NextStoresWf (execOpenResend node ch s) := by
  unfold execOpenResend
  split
  · exact wf
  split
  · exact wf
  · exact wf.sendOpen

theorem State.storesWf.stepColl {c r} : (s.stepColl c r).storesWf := wf.beside

theorem State.storesWf.send {id} : NextStoresWf (execSend id s) := by
  unfold execSend
  split
  · split
    · exact wf
    split
    rename_i s1 e1
    have wf1 : s1.storesWf := wf.imageValue.of_snd e1
    exact wf1.sendOn.stepColl
  · exact wf

theorem State.storesWf.recvStep {id op f} : (s.recvStep id op f).storesWf := by
  unfold State.recvStep
  split
  · exact wf
  split
  · exact wf
  split
  · exact wf
  split
  · exact wf.beside.stepColl
  · exact wf.beside.raiseLead

theorem State.storesWf.recvadd {id} : NextStoresWf (execRecvadd id s) := wf.recvStep

theorem State.storesWf.recvset {id} : NextStoresWf (execRecvset id s) := wf.recvStep

/-! ### Rows, halts and step time -/

theorem State.storesWf.sendStep {node q flag} : (s.sendStep node q flag).storesWf := wf.sendToken

theorem State.storesWf.rowMismatch {t} : (s.rowMismatch t).storesWf := wf.engineTake.raiseLead

theorem State.storesWf.beginRound : s.beginRound.storesWf := wf.beside

theorem State.storesWf.rowCompletion : NextStoresWf (execRowCompletion s) := by
  unfold execRowCompletion
  split
  · exact wf.beside.beginRound
  · exact wf

theorem State.storesWf.takeUps : s.takeUps.storesWf := (wf.forEach fun _ _ wf => wf.engineTake).beside

theorem State.storesWf.stepUp : NextStoresWf (execStepUp s) := by
  unfold execStepUp
  split
  · exact wf
  split
  · exact wf.rowMismatch
  · exact wf
  split
  · exact wf
  · exact wf.takeUps.beside.sendStep

theorem State.storesWf.beginPart {p part} : (s.beginPart p part).storesWf := wf.modSeq.seqAt

theorem State.storesWf.rowSamples : s.rowSamples.storesWf := by
  unfold State.rowSamples
  extract_lets row got s1 s2 s3 s4
  have wf1 : s1.storesWf := wf.forEach fun _ _ wf => wf.sample.sample
  have wf2 : s2.storesWf := wf1.forEach fun _ _ wf => wf.sample.sample
  have wf3 : s3.storesWf := wf2.forEach fun _ _ wf => wf.sample
  have wf4 : s4.storesWf := by
    unfold s4
    split
    · exact wf3.forEach fun _ _ wf => wf.free.sample
    · exact wf3
  exact wf4.beside

theorem State.storesWf.waitSample : s.waitSample.storesWf := by
  unfold State.waitSample
  split
  · exact wf
  · exact wf.sample

theorem State.storesWf.advance : s.advance.storesWf := by
  unfold State.advance
  extract_lets s1 last atEnd row _ _ _ s2 s3
  have wf2 : s2.storesWf := wf.waitSample.rowSamples.beside
  have wf3 : s3.storesWf := wf2.ite (wf2.forEach fun _ _ wf => wf.traceDie)
  exact (wf3.forEach fun _ _ wf => wf.beginPart).sowBarrier

theorem State.storesWf.haltAtBoundary : s.haltAtBoundary.storesWf := wf.beside.setPlan.noticeFrom

theorem State.storesWf.endRound {halt} : (s.endRound halt).storesWf := by
  unfold State.endRound
  split
  · exact (wf.forEach fun _ _ wf => wf.sendStep).haltAtBoundary
  · exact (wf.forEach fun _ _ wf => wf.sendStep).advance

theorem State.storesWf.advanceStep : NextStoresWf (execAdvance s) := by
  unfold execAdvance
  split
  · exact wf
  split
  · split
    · exact wf.rowMismatch
    split
    · exact wf
    · exact wf.takeUps.endRound
  split
  · exact wf
  split
  · exact wf.rowMismatch
  split
  · exact wf
  · exact wf.engineTake.endRound

theorem State.storesWf.sendHalts {sender abort} : (s.sendHalts sender abort).storesWf :=
  wf.ite (wf.forEach fun _ _ wf => wf.sendStep)

theorem State.storesWf.haltNow {sender} : (s.haltNow sender).storesWf := by
  unfold State.haltNow
  split
  · exact (wf.setPlan.beside.forEach fun _ _ wf => wf.requestStop).sendHalts.haltComplete
  · exact wf.noticeFrom.ite wf
  · exact wf

theorem State.storesWf.haltToken : NextStoresWf (execHaltToken s) := by
  unfold execHaltToken
  split
  · exact wf
  split
  · exact wf
  split
  · exact wf.engineTake
  split
  · exact wf.engineTake.raiseLead
  · exact wf.engineTake.haltNow

theorem State.storesWf.jobAbort : NextStoresWf (execJobAbort s) := by
  unfold execJobAbort
  split
  · exact wf
  extract_lets _ s1 s2 _ _ _ s3
  have wf1 : s1.storesWf := wf.beside
  split
  · exact wf
  split
  · exact wf1
  have wf2 : s2.storesWf := wf1.forEach fun _ _ wf => wf.requestStop
  have wf3 : s3.storesWf := wf2.beside
  exact wf3.sendHalts.endPlan.haltComplete

theorem State.storesWf.resumeJob : s.resumeJob.storesWf := by
  unfold State.resumeJob
  split
  · exact wf.noticeFrom.setPlan.beginRound.sowBarrier
  · exact (wf.noticeFrom.setPlan.beside.forEach fun _ _ wf => wf.resumePlot).sowBarrier
  · exact wf

theorem State.storesWf.stepTimeout : NextStoresWf (execStepTimeout s) := by
  unfold execStepTimeout
  split
  · exact wf
  extract_lets q _ again
  have wf1 : again.storesWf := wf.beside
  split
  · exact wf1.raiseLead
  · exact wf1.raiseLead.dump
  · split
    rename_i taken s1 dumped
    have wf2 : s1.storesWf := wf1.dump.of_snd dumped
    split
    · exact wf2.beside
    · exact wf2.raiseLead
  · exact wf

/-! ### The event recorder and the black box -/

theorem State.storesWf.applyChange {c} : (s.applyChange c).storesWf := by
  unfold State.applyChange
  split
  · exact wf.beside
  split
  · split
    · exact wf.modHalf.forEach fun _ _ wf => wf.traceOn
    · exact (wf.modHalf.forEach fun _ _ wf => wf.traceOn).irqEvent
  · exact wf.modHalf

theorem State.storesWf.change {c} : (s.change c).storesWf := by
  unfold State.change
  split
  · exact wf.applyChange
  · exact wf.beside.ite wf.beside

theorem State.storesWf.applyStaged : s.applyStaged.storesWf := wf.beside.forEach fun _ _ wf => wf.applyChange

theorem State.storesWf.freshRecord {h r} : (s.freshRecord h r).2.storesWf := (wf.modHalf.ite wf).change

theorem State.storesWf.record {h e} : (s.record h e).2.storesWf := by
  dsimp only [State.record]
  split
  · split
    · exact wf.change
    · exact wf.freshRecord
  · exact wf.freshRecord

theorem State.storesWf.bbWrite {off b} : (s.bbWrite off b).storesWf :=
  wf.withEvr (cellsBlit_wf 0 _ _ _ wf.2.2.1)

theorem State.storesWf.startFlush {t sev code} : (s.startFlush t sev code).storesWf := wf.beside

theorem State.storesWf.triggerFlush {t sev code} : (s.triggerFlush t sev code).storesWf := by
  unfold State.triggerFlush
  split
  · exact wf
  · exact wf.beside.ite wf.startFlush

theorem State.storesWf.setFlushing {f} : { s with evr := { s.evr with flushing := f } }.storesWf := wf.beside

theorem State.storesWf.abandonFlush : s.abandonFlush.storesWf := by
  unfold State.abandonFlush
  split
  · exact wf
  split
  rename_i v s1 drawn
  have wf1 : s1.storesWf := wf.free.of_snd drawn
  extract_lets slot image s2
  have wf2 : s2.storesWf := wf1.bbWrite.bbWrite
  exact wf2.setFlushing

theorem State.storesWf.recordPending {h} : (s.recordPending h).storesWf := wf.modHalf.forEach fun _ _ wf => wf.record

theorem State.storesWf.enterFallow : s.enterFallow.storesWf := by
  unfold State.enterFallow
  extract_lets s1 _ _ _ _ _ s2
  have wf1 : s1.storesWf := wf.abandonFlush.applyStaged
  have wf2 : s2.storesWf :=
    State.storesWf.beside (s := { s1 with plots := s1.plots.map Plot.stopFatal }) (wf1.mapPlots fun _ w => w)
  exact wf2.recordPending.recordPending.setSbd

theorem State.storesWf.moduleFatal : NextStoresWf (execModuleFatal s) := by
  dsimp only [execModuleFatal]
  split
  · exact wf
  split
  · exact wf.enterFallow.beside
  · exact wf.enterFallow.beside
  · exact wf.enterFallow.beside.startFlush

theorem State.storesWf.flushPathError : NextStoresWf (execFlushPathError s) := by
  unfold execFlushPathError
  extract_lets was
  split
  · exact wf
  split
  rename_i v s1 drawn
  have wf1 : s1.storesWf := wf.free.of_snd drawn
  extract_lets s2 _ e
  have wf2 : s2.storesWf := wf1.abandonFlush.applyStaged.ite wf1.enterFallow
  split
  rename_i n s3 recorded
  have wf3 : s3.storesWf := wf2.record.of_snd recorded
  extract_lets s4 _ s5 code
  have wf5 : s5.storesWf := State.storesWf.beside (s := s4) wf3.modHalf
  exact wf5.bbWrite.ite wf5

theorem State.storesWf.errorEffect {e} : (s.errorEffect e).storesWf := by
  unfold State.errorEffect
  split
  · split
    · exact wf
    · exact wf.beside.ite wf.beside.haltNow
    · exact wf.beside.beside
    · exact wf.beside.beside
  split
  · exact wf
  · exact wf.beside.ite wf.beside.haltNow
  · exact wf.beside.beside
  · exact wf.beside.beside

theorem State.storesWf.handle {h e} : (s.handle h e).storesWf := by
  unfold State.handle
  split
  rename_i s1 e1
  have wf1 : s1.storesWf := wf.record.of_snd e1
  split
  · exact wf1
  · exact wf1.errorEffect.modHalf.ite wf1.errorEffect.modHalf.triggerFlush

theorem State.storesWf.enqueue {h e} : (s.enqueue h e).storesWf := wf.modHalf.ite wf.beside

theorem State.storesWf.takeUp {h e} : (s.takeUp h e).storesWf := by
  unfold State.takeUp
  split
  · exact wf.handle.ite wf.enqueue
  split
  · split
    · exact wf.change
    · exact wf
  split
  · refine State.storesWf.handle ?_
    split
    · exact wf.change
    · exact wf
  · exact wf.enqueue

theorem State.storesWf.errorRecord {h} : NextStoresWf (execErrorRecord h s) := by
  unfold execErrorRecord
  split
  · exact wf
  · exact wf.modHalf.takeUp

theorem State.storesWf.pendingError {h} : NextStoresWf (execPendingError h s) := by
  unfold execPendingError
  split
  · exact wf.modHalf.handle
  · exact wf

theorem State.storesWf.startFollow : s.startFollow.storesWf := by
  unfold State.startFollow
  split
  · exact wf
  · exact wf.beside.modHalf.modHalf.startFlush

theorem State.storesWf.flushEnds {n} :
    ({ s with evr := { s.evr with flushing := none, nextseq := n } }.irqEvent 1).storesWf :=
  State.storesWf.irqEvent wf.beside

theorem State.storesWf.flushDone : NextStoresWf (execFlushDone s) := by
  unfold execFlushDone
  split
  · exact wf
  extract_lets _ _ _ s1 _ s2 s3
  have wf1 : s1.storesWf := wf.bbWrite.bbWrite.bbWrite
  have wf2 : s2.storesWf := wf1.flushEnds
  have wf3 : s3.storesWf := wf2.applyStaged.modHalf.modHalf
  clear_value s3
  split
  · exact wf3.beside
  · exact wf3.startFollow

theorem State.storesWf.setErase {e} : { s with evr := { s.evr with erase := e } }.storesWf := wf.beside

theorem State.storesWf.blackBoxEraseStep : NextStoresWf (execBlackBoxEraseStep s) := by
  unfold execBlackBoxEraseStep
  split
  · exact wf
  · exact wf
  · extract_lets s1 s2
    have wf1 : s1.storesWf := wf.bbWrite.bbWrite
    have wf2 : s2.storesWf := wf1.forEach fun _ _ wf => wf.bbWrite
    exact wf2.setErase
  · extract_lets s1
    have wf1 : s1.storesWf := wf.bbWrite
    clear_value s1
    split
    · exact State.storesWf.startFollow wf1.beside
    · exact wf1.beside
  · extract_lets s1
    have wf1 : s1.storesWf := wf.forEach fun _ _ wf => wf.bbWrite
    exact wf1.setErase.startFollow

/-! ### The start of a plan -/

theorem State.storesWf.emptySync : s.emptySync.storesWf := wf.beside

theorem State.storesWf.clearPlan : s.clearPlan.storesWf := by
  unfold State.clearPlan
  refine State.storesWf.setPlan ?_
  exact wf.emptySync.mapPlots

theorem State.storesWf.loadFail {n obj} : (s.loadFail n obj).storesWf := wf.beside.setPlan.raiseLead

theorem State.storesWf.startFatal {code obj det} : (s.startFatal code obj det).storesWf := wf.raiseLead

theorem State.storesWf.countReserve : s.countReserve.storesWf := wf.beside

theorem State.storesWf.beginPlot {p row} : (s.beginPlot p row).storesWf := wf.modSeq.seqAt

theorem State.storesWf.beginRows {row restart} : (s.beginRows row restart).storesWf := by
  unfold State.beginRows
  split
  · exact (wf.countReserve.beside.setPlan.forEach fun _ _ wf => wf.beginPlot).sowBarrier
  · exact wf.countReserve.beside.setPlan.forEach fun _ _ wf => wf.beginPlot

/-! ### Rows of memory and its packages -/

theorem State.storesWf.ringTransfer {link ascending crcOk} :
    NextStoresWf (execRingTransfer link ascending crcOk s) := by
  dsimp only [execRingTransfer]
  split
  · split
    · exact wf.beside.raise
    · exact wf.beside
  split
  · exact wf.beside.raise
  · exact wf.beside

theorem State.storesWf.scrubRead {addr wrongBytes} : NextStoresWf (execScrubRead addr wrongBytes s) := by
  dsimp only [execScrubRead]
  split
  · exact wf
  · exact wf.inject.homeRead.modDie

theorem State.storesWf.modPkg {p f} : (s.modPkg p f).storesWf := wf.beside

theorem State.storesWf.mr4Read {pkg demand} : NextStoresWf (execMr4Read pkg demand s) := wf.modPkg

theorem State.storesWf.pkgErr {pkg code sev t} : (s.pkgErr pkg code sev t).storesWf := wf.raise

theorem State.storesWf.packageSensorReading {pkg tenths} : NextStoresWf (execPackageSensorReading pkg tenths s) := by
  dsimp only [execPackageSensorReading]
  split
  · exact wf.modPkg
  split
  · exact wf.modPkg.pkgErr
  split
  · exact wf.modPkg.pkgErr
  · exact wf.modPkg

theorem State.storesWf.refreshStepFall {pkg} : NextStoresWf (execRefreshStepFall pkg s) := by
  dsimp only [execRefreshStepFall]
  split
  · exact wf
  split
  · exact wf.modPkg
  · exact wf

theorem State.storesWf.packageSensorTimeout {pkg} : NextStoresWf (execPackageSensorTimeout pkg s) := by
  unfold execPackageSensorTimeout
  split
  · exact wf.modPkg
  · exact wf.modPkg.raise

theorem State.storesWf.clearSlice {k} : (s.clearSlice k).storesWf := wf.clearMem

theorem State.storesWf.sliceModeDone {d} : (s.sliceModeDone d).storesWf := by
  unfold State.sliceModeDone
  split
  · exact wf
  · exact ((wf.forEach fun _ _ wf => wf.writeBack).forEach fun _ _ wf => wf.clearSlice).modDie.modTrace

/-! ### Feeds, copies and restarts -/

theorem State.storesWf.sendBuddy {type node p} : (s.sendBuddy type node p).storesWf := wf.sendToken

theorem State.storesWf.beginPairing {f} : (s.beginPairing f).storesWf := wf.beside.sendBuddy

theorem State.storesWf.afterFeed {f} : (s.afterFeed f).storesWf := by
  unfold State.afterFeed
  split
  · exact wf
  · exact wf.beside.ite wf.beginRows

theorem State.storesWf.pairWith {f mode} : (s.pairWith f mode).storesWf := wf.beside.afterFeed

theorem State.storesWf.sameFeed {f sev} : (s.sameFeed f sev).storesWf := wf.raiseLead

theorem State.storesWf.settleFeed {f reply} : (s.settleFeed f reply).storesWf := by
  dsimp only [State.settleFeed]
  split
  · split
    · exact wf.beside.pairWith
    split
    · exact wf.beside.sameFeed.pairWith
    · exact wf.beside.sameFeed.pairWith
    · exact wf.beside.sameFeed
  split
  · exact wf.beside.pairWith
  split
  · exact wf.beside.sameFeed.pairWith
  · exact wf.beside.sameFeed.pairWith
  · exact wf.beside.sameFeed

/-- What a queue of the engine gives up is a token. -/
theorem State.storesWf.takeBuddy {mine t s1} (taken : s.takeBuddy mine = some (t, s1)) : s1.storesWf := by
  unfold State.takeBuddy at taken
  split at taken
  · split at taken
    · cases taken
      exact wf.engineTake
    · cases taken
  · cases taken

theorem State.storesWf.feedquery : NextStoresWf (execFeedquery s) := by
  unfold execFeedquery
  split
  · exact wf
  rename_i t s1 taken
  have wf1 : s1.storesWf := wf.takeBuddy taken
  split
  · exact wf1.noticeFrom
  extract_lets
  split
  · exact wf1
  · exact wf1.sendBuddy

theorem State.storesWf.feedreply : NextStoresWf (execFeedreply s) := by
  unfold execFeedreply
  split
  · exact wf
  rename_i t s1 taken
  have wf1 : s1.storesWf := wf.takeBuddy taken
  split
  · exact wf1
  · exact wf1.settleFeed

theorem State.storesWf.feedCheckTimeout : NextStoresWf (execFeedCheckTimeout s) := by
  unfold execFeedCheckTimeout
  split
  · exact wf
  split
  · exact wf
  · exact wf.settleFeed

theorem State.storesWf.readState {ext} : (s.readState ext).2.storesWf := by
  refine wf.foldl_snd fun acc x wf => ?_
  split
  · exact wf
  split
  · rename_i s1 read
    exact wf.readRange.of_snd read
  · rename_i s1 read
    exact wf.readRange.of_snd read

theorem State.storesWf.sendBlock {node ch ann a b} : (s.sendBlock node ch ann a b).storesWf :=
  wf.foldl fun _ _ wf => wf.sendData

theorem State.storesWf.buddyCopy : NextStoresWf (execBuddyCopy s) := by
  unfold execBuddyCopy
  split
  · split
    · exact wf
    split
    rename_i s1 e1
    have wf1 : s1.storesWf := wf.readState.of_snd e1
    split
    · exact wf1
    split
    · exact wf1.beside
    · exact wf1.beside.sendBlock.sendBlock
    · exact wf
  · exact wf

theorem State.storesWf.buddyCopyHeader : NextStoresWf (execBuddyCopyHeader s) := by
  unfold execBuddyCopyHeader
  split
  · split
    · exact wf
    split
    · exact wf.beside
    · exact wf.beside.sendBlock
  · exact wf

theorem State.storesWf.beginReturn {owner target} : (s.beginReturn owner target).storesWf := by
  dsimp only [State.beginReturn]
  split
  · exact wf.beside
  · exact wf.beside

theorem State.storesWf.endReturn {r} : (s.endReturn r).storesWf := wf.beside

theorem State.storesWf.returnProgress : NextStoresWf (execReturnProgress s) := by
  unfold execReturnProgress
  split
  · exact wf
  split
  · exact wf
  split
  · exact wf.endReturn
  split
  · split
    · exact wf.endReturn
    · exact wf
  extract_lets p die head bytes ext flt parts
  split
  rename_i t s1 taken
  have wf1 : s1.storesWf := wf.takeTseq.of_snd taken
  extract_lets ann s2
  have wf2 : s2.storesWf := wf1.sendBlock
  split
  rename_i s3 _ sent
  have wf3 : s3.storesWf := by
    refine State.storesWf.of_fst (wf2.foldl_fst fun acc x wf => ?_) sent
    split
    · rename_i read
      exact (wf.readRange.of_snd read).sendBlock
    · rename_i read
      exact (wf.readRange.of_snd read).endReturn
  split
  · exact wf3
  split
  rename_i s4 ended
  have wf4 : s4.storesWf := wf3.sendTokenSeq.of_snd ended
  exact wf4.beside

theorem State.storesWf.returndone : NextStoresWf (execReturndone s) := by
  unfold execReturndone
  split
  · exact wf
  rename_i t s1 taken
  have wf1 : s1.storesWf := wf.takeBuddy taken
  split
  · exact wf1.noticeFrom
  extract_lets head ext
  split
  rename_i st s2 read
  have wf2 : s2.storesWf := wf1.readState.of_snd read
  extract_lets digest
  split
  · exact State.storesWf.beginRows wf2.beside
  · exact State.storesWf.startFatal wf2.beside

theorem State.storesWf.pairForStart {h row restart restore} : (s.pairForStart h row restart restore).storesWf := by
  unfold State.pairForStart
  split
  · exact wf.startFatal
  split
  · exact wf.startFatal
  split
  · exact wf.startFatal.ite wf.beginRows
  split
  · exact wf.startFatal
  · exact wf.beginPairing

theorem State.storesWf.loadHeader {h act d} :
    { s with job := { s.job with hdr := h, active := act }, sbd := { s.sbd with planDigest := d } }.storesWf := wf.beside

theorem State.storesWf.loadRoutes {j t} :
    { s with job := { s.job with loaderr := j }, kuf := { s.kuf with route := t } }.storesWf := wf.beside

theorem State.storesWf.setRoutes {t} : { s with kuf := { s.kuf with route := t } }.storesWf := wf.beside

theorem State.storesWf.runChecks {restart} : (s.runChecks restart).storesWf := by
  unfold State.runChecks
  split
  · exact wf.loadFail
  extract_lets h act _ _ s1
  have wf1 : s1.storesWf := wf.loadHeader
  clear_value s1
  split
  · exact wf1.loadRoutes.startFatal
  extract_lets s2
  have wf2 : s2.storesWf := wf1.setRoutes.identityRequests
  split
  · exact wf2.pairForStart
  · exact wf2.pairForStart

theorem State.storesWf.startPlan : s.startPlan.storesWf := wf.beside.clearPlan.ite wf.beside.clearPlan.runChecks

theorem State.storesWf.restartPlan {restore} : (s.restartPlan restore).storesWf := by
  unfold State.restartPlan
  extract_lets _ s1
  have wf1 : s1.storesWf := wf.beside.clearPlan
  split
  · exact wf1.beside
  · exact wf1.runChecks

theorem State.storesWf.setPairing : s.setPairing.storesWf := by
  unfold State.setPairing
  split
  · exact wf
  split
  · exact wf
  split
  · exact wf.noticeFrom
  · exact wf.beginPairing

theorem State.storesWf.abortPlan : s.abortPlan.storesWf := wf.forEach fun _ _ wf => wf.fatal

theorem State.storesWf.layoutInitDone : s.layoutInitDone.storesWf := by
  dsimp only [State.layoutInitDone]
  split
  · exact wf
  split
  · split
    · exact wf.clearMem.runChecks
    refine State.storesWf.runChecks ?_
    exact wf.clearMem
  · exact wf.clearMem

/-! ### Power and heat -/

theorem State.storesWf.decideCode {i} : (s.decideCode i).storesWf := wf.modStrip

theorem State.storesWf.eventEnergy : s.eventEnergy.2.storesWf := wf.foldl_snd fun _ _ wf => wf.beside.count

theorem State.storesWf.stripEnergy {i} : (s.stripEnergy i).2.storesWf := wf.foldl_snd fun _ _ wf => wf.beside.count

theorem State.storesWf.energyInterval : s.energyInterval.storesWf := by
  unfold State.energyInterval
  split
  rename_i e1 s1 first
  have wf1 : s1.storesWf := wf.eventEnergy.of_snd first
  split
  rename_i e2 s2 second
  have wf2 : s2.storesWf := by
    refine State.storesWf.of_snd (wf1.foldl_snd fun acc i wf => ?_) second
    exact wf.stripEnergy
  exact wf2.beside

theorem State.storesWf.packageStep {d} : (s.packageStep d).storesWf := by
  dsimp only [State.packageStep]
  split
  · exact wf.beside
  · exact wf.beside.ite wf.beside

theorem State.storesWf.setLevel : s.setLevel.storesWf := wf.beside.beside

theorem State.storesWf.checkUnmet {w} : (s.checkUnmet w).storesWf := by
  unfold State.checkUnmet
  split
  · exact wf.beside
  · exact wf.beside.noticeFrom.ite wf.beside

theorem State.storesWf.readTemps {r} : (s.readTemps r).storesWf := wf.forEach fun _ _ wf => wf.modStrip

theorem State.storesWf.powerControlPeriod {r} : NextStoresWf (execPowerControlPeriod r s) := by
  unfold execPowerControlPeriod
  extract_lets w hist win win16 _ s1 tgt s2 s3 s4
  split
  · exact wf
  split
  · exact wf.readTemps.ite wf
  have wf1 : s1.storesWf := wf.beside
  have wf2 : s2.storesWf := wf1.forEach fun _ _ wf => wf.modStrip
  have wf3 : s3.storesWf := (wf2.forEach fun _ _ wf => wf.packageStep).setLevel
  have wf4 : s4.storesWf := wf3.forEach fun _ _ wf => wf.decideCode.modStrip.rowAdd.ite wf.decideCode.modStrip
  exact wf4.checkUnmet.energyInterval

theorem State.storesWf.modelDeviationCheck : NextStoresWf (execModelDeviationCheck s) := by
  dsimp only [execModelDeviationCheck]
  split
  · exact wf
  split
  · split
    · exact wf.beside.noticeFrom
    · exact wf.beside
  split
  · exact wf.beside.noticeFrom
  · exact wf.beside

theorem State.storesWf.countStrip {i ev n} : (s.countStrip i ev n).storesWf := wf.forEach fun _ _ wf => wf.count

theorem State.storesWf.frequencyChangeStart {i} : NextStoresWf (execFrequencyChangeStart i s) := by
  dsimp only [execFrequencyChangeStart]
  split
  · exact wf
  · exact wf.modStrip.countStrip

theorem State.storesWf.railSlewDone {d} : NextStoresWf (execRailSlewDone d s) := by
  unfold execRailSlewDone
  split
  · exact wf
  · exact wf.beside.forEach fun _ _ wf => wf.modStrip

theorem State.storesWf.stripRestart {i} : NextStoresWf (execStripRestart i s) := by
  dsimp only [execStripRestart]
  split
  · exact wf
  split
  · exact wf
  · exact wf.modStrip.traceDie

theorem State.storesWf.supplyDroop {i cycles} : NextStoresWf (execSupplyDroop i cycles s) := by
  unfold execSupplyDroop
  split
  · exact wf
  · exact wf.rowAdd.countStrip

theorem State.storesWf.coreRailLow {d} : NextStoresWf (execCoreRailLow d s) := by
  unfold execCoreRailLow
  split
  · exact wf
  · exact wf.raise

theorem State.storesWf.thermalTrip {i tenths} : NextStoresWf (execThermalTrip i tenths s) := by
  unfold execThermalTrip
  split
  · exact wf
  split
  · exact wf.beside.modStrip
  · exact wf.beside.modStrip.raise

theorem State.storesWf.envelopeReading {millivolts} : NextStoresWf (execEnvelopeReading millivolts s) := by
  dsimp only [execEnvelopeReading]
  split
  · exact wf.beside
  split
  · exact wf.beside
  · exact wf

theorem State.storesWf.envelopeInvalidTimeout : NextStoresWf (execEnvelopeInvalidTimeout s) := by
  unfold execEnvelopeInvalidTimeout
  split
  · exact wf
  · exact wf.beside.noticeFrom

theorem State.storesWf.tillingIntensityStep {p} : NextStoresWf (execTillingIntensityStep p s) := by
  dsimp only [execTillingIntensityStep]
  split
  · exact wf
  · exact wf.modPlot

theorem State.storesWf.sowingSlot {i} : NextStoresWf (execSowingSlot i s) := wf.forEach fun _ _ wf => wf.modSeq

theorem State.storesWf.feedIdChange {v} : NextStoresWf (execFeedIdChange v s) := by
  dsimp only [execFeedIdChange]
  split
  · exact wf.beside.notice
  · exact wf.beside

/-! ### Values of registers -/

theorem State.storesWf.takeValue {r} : (s.takeValue r).2.storesWf := by
  unfold State.takeValue
  extract_lets s1
  have wf1 : s1.storesWf := by
    unfold s1
    split
    · exact wf.settle
    · exact wf
  split
  · split
    rename_i v s2 drawn
    exact wf1.free.of_snd drawn
  · exact wf1

theorem State.storesWf.clearReg {r} : (s.clearReg r).storesWf := by
  unfold State.clearReg
  split
  · exact wf.beside
  · exact wf.beside
  · exact wf.modKport
  · exact wf.modKport
  · exact wf.modKport
  · exact wf.modKport
  · exact wf.beside
  · exact wf.beside
  · exact wf.beside
  · exact wf.beside
  · exact wf.beside
  · exact wf.modPci
  · exact wf.modDie
  · exact wf.modDie
  · exact wf.modUnit
  · exact wf.modTrace
  · exact wf.modPlot
  · exact wf.modPlot
  · exact wf.modPlot
  · exact wf.modPlot
  · exact wf

theorem State.storesWf.storeReg {r v} : (s.storeReg r v).storesWf := by
  cases r
  case cntsel | cnttag => exact wf.settle.modPlot
  case drlspillbase p =>
    refine wf.modPlot fun q w => ?_
    split
    · exact w
    · exact w
  case harspillbase | psaddr => exact wf.modPlot
  case qcmd | qdata => exact wf.modUnit
  case portctl => exact wf.modKport
  case strip => exact wf.modStrip
  case slicemode => exact wf.modDie
  case irqen | win | msix => exact wf.modPci
  case trckind | trig | trigval | trcpage => exact wf.modTrace
  case dbgwatch => exact wf.modDbgWatch
  all_goals exact wf.beside

/-! ### Start-up, flash and resets -/

theorem State.storesWf.storeCfg {t v} : (s.storeCfg t v).storesWf := by
  unfold State.storeCfg
  split
  · exact wf.beside
  · exact wf.beside
  · exact wf.forEach fun _ _ wf => wf.modKport
  · exact wf.storeReg
  · exact wf.storeReg
  · exact wf

theorem State.storesWf.defaulted {off v} : (s.defaulted off v).storesWf := wf.notice

theorem State.storesWf.cfgNotices {off bad} : (s.cfgNotices off bad).storesWf := by
  unfold State.cfgNotices
  split
  · exact wf.forEach fun _ _ wf => wf.defaulted
  · exact (wf.forEach fun _ _ wf => wf.defaulted).beside

omit wf in
theorem State.storesWf.loadCfgWord {x : List W32 × State} {i} (wf : x.2.storesWf) : (State.loadCfgWord x i).2.storesWf :=
  wf.storeCfg.cfgNotices

omit wf in
theorem State.storesWf.loadTimingWord {x : List W32 × State} {i} (wf : x.2.storesWf) :
    (State.loadTimingWord x i).2.storesWf := by
  unfold State.loadTimingWord
  extract_lets
  refine State.storesWf.cfgNotices ?_
  split
  · exact wf.beside
  · exact wf

theorem State.storesWf.checkSeedLayout : s.checkSeedLayout.storesWf := by
  unfold State.checkSeedLayout
  split
  · exact wf
  · exact wf.beside.cfgNotices

theorem State.storesWf.loadConfig : s.loadConfig.storesWf := by
  unfold State.loadConfig
  split
  rename_i ws1 s1 control
  have wf1 : s1.storesWf := (wf.foldl_snd fun _ _ wf => wf.loadCfgWord).of_snd control
  split
  rename_i ws2 s2 timing
  have wf2 : s2.storesWf := (wf1.foldl_snd fun _ _ wf => wf.loadTimingWord).of_snd timing
  exact wf2.checkSeedLayout.beside

omit wf in
theorem State.storesWf.loadCurve {x : List Byte × State} {d} (wf : x.2.storesWf) : (loadCurve x d).2.storesWf := by
  unfold Machine.loadCurve
  extract_lets base step
  split
  rename_i b s1 loaded
  have wf1 : s1.storesWf := by
    refine State.storesWf.of_snd (State.storesWf.foldl_snd (s := x.2) (b := x.1) wf fun y j wf => ?_) loaded
    exact wf.forEach fun _ _ wf => wf.defaulted
  split
  · exact wf1
  · exact wf1.defaulted

omit wf in
theorem State.storesWf.loadCalField {x :
    List Byte × State} {f} (wf : x.2.storesWf) : (loadCalField x f).2.storesWf := by
  unfold Machine.loadCalField
  split
  split
  · exact wf
  · exact wf.defaulted

theorem State.storesWf.loadCalib : s.loadCalib.storesWf := by
  unfold State.loadCalib
  extract_lets b _ s1
  split
  · split
    rename_i b1 s2 curves
    have wf2 : s2.storesWf := (wf.foldl_snd fun _ _ wf => wf.loadCurve).of_snd curves
    split
    rename_i b2 s3 fields
    have wf3 : s3.storesWf := (wf2.foldl_snd fun _ _ wf => wf.loadCalField).of_snd fields
    exact wf3.beside
  · have wf1 : s1.storesWf := wf.beside
    exact wf1.raiseLead

theorem State.storesWf.cutFlash : s.cutFlash.storesWf := by
  unfold State.cutFlash
  split
  · exact wf
  rename_i f _
  extract_lets _ s1
  have wf1 : s1.storesWf := wf.beside
  refine iteInduction (fun _ => wf1) fun _ => ?_
  rcases drawn : s1.free with ⟨v, s2⟩
  have wf2 : s2.storesWf := wf1.free.of_snd drawn
  refine iteInduction (fun _ => wf2) fun _ => ?_
  extract_lets _ _ _ fl
  refine wf2.withSbd ?_
  show cellsWf 0xFF none fl = true
  unfold fl
  split
  · exact cellsBlit_wf _ _ _ _ wf.2.2.2
  · exact cellsBlit_wf _ _ _ _ wf.2.2.2

theorem State.storesWf.cutErase : s.cutErase.storesWf := by
  unfold State.cutErase
  split
  · exact wf
  split
  rename_i s1 e1
  have wf1 : s1.storesWf := wf.free.of_snd e1
  exact (wf1.forEach fun _ _ wf => wf.bbWrite).beside

theorem State.storesWf.rebooted : s.rebooted.storesWf := by
  unfold State.rebooted
  extract_lets k o
  obtain ⟨-, -, blackbox, flash⟩ : k.storesWf := wf.abandonFlush.cutErase.cutFlash
  have plots := State.reset_storesWf.2.1
  exact ⟨rfl, plots, blackbox, flash⟩

theorem State.storesWf.moduleReset : s.moduleReset.storesWf := wf.rebooted.ite wf

theorem State.storesWf.portReset {h} : (s.portReset h).storesWf := wf.modPci

theorem State.storesWf.moduleResetStep : NextStoresWf (execModuleReset s) := wf.moduleReset

theorem State.storesWf.perstBoth : NextStoresWf (execPerstBoth s) := wf.beside.moduleReset

theorem State.storesWf.perstOne {h high} : NextStoresWf (execPerstOne h high s) := wf.beside.ite wf.beside.portReset

theorem State.storesWf.powerFail : s.powerFail.storesWf := wf.ite wf.raiseLead

theorem State.storesWf.pwrFailN {high} : NextStoresWf (execPwrFailN high s) := by
  dsimp only [execPwrFailN]
  split
  · exact wf.beside
  split
  · exact wf.beside.powerFail
  split
  · exact wf.beside.rebooted.ite wf.beside
  · exact wf.beside.rebooted.ite wf.beside

theorem State.storesWf.supplyFailureThreshold : NextStoresWf (execSupplyFailureThreshold s) :=
  wf.beside.ite wf.beside.powerFail

theorem State.storesWf.holdUpEnd : NextStoresWf (execHoldUpEnd s) := by
  unfold execHoldUpEnd
  split
  · exact wf
  · exact wf.abandonFlush.cutErase.cutFlash.portReset.portReset.beside

theorem State.storesWf.supplyRise : NextStoresWf (execSupplyRise s) := by
  unfold execSupplyRise
  split
  · exact wf
  · exact wf.beside.rebooted.ite wf.beside

theorem State.storesWf.toStep {n} : (s.toStep n).storesWf := wf.beside

theorem State.storesWf.loadNextseq : s.loadNextseq.storesWf := by
  unfold State.loadNextseq
  split
  · exact wf.beside
  · exact wf.beside.beside

theorem State.storesWf.powerStrips : s.powerStrips.storesWf := by
  unfold State.powerStrips
  extract_lets f g v
  have emptied : { s with plots := s.plots.map g }.storesWf := wf.mapPlots fun _ _ => rfl
  exact emptied.beside

theorem State.storesWf.initMemory : s.initMemory.storesWf := wf.clearMem

theorem State.storesWf.initSlices : s.initSlices.storesWf :=
  (wf.forEach fun _ _ wf => wf.clearSlice).forEach fun _ _ wf => wf.modKport

theorem State.storesWf.setPwr {p} : { s with pwr := p }.storesWf := wf.beside

theorem State.storesWf.becomeReady : s.becomeReady.storesWf := by
  unfold State.becomeReady
  extract_lets s1 f _ s2 v
  have wf1 : s1.storesWf := wf.forEach fun _ _ wf => wf.decideCode
  have wf2 : s2.storesWf := wf1.setPwr
  exact wf2.setPwr.setSbd

theorem State.storesWf.stepEnds : s.stepEnds.storesWf := by
  unfold State.stepEnds
  split
  · exact wf.toStep
  · exact wf.beside.toStep
  · exact wf.toStep
  · exact wf.toStep
  · exact (wf.sbd (by rw [Sbd.readImage_flash, Sbd.readImage_flash])).toStep
  · exact wf.toStep.ite wf
  · exact wf.loadNextseq.toStep
  · exact wf.loadConfig.loadCalib.toStep
  · exact wf.powerStrips.toStep.ite wf
  · exact wf.toStep
  · exact wf.initMemory.toStep
  · exact wf.initSlices.toStep
  · exact wf.becomeReady
  · exact wf

theorem State.storesWf.startupStepDone : NextStoresWf (execStartupStepDone s) := wf.stepEnds.ite wf

theorem State.storesWf.startupStepOverrun : NextStoresWf (execStartupStepOverrun s) := by
  dsimp only [execStartupStepOverrun]
  split
  · exact wf
  split
  · exact wf.beside
  · exact wf.raiseLead

theorem State.storesWf.thermTripRelease : NextStoresWf (execThermTripRelease s) := by
  unfold execThermTripRelease
  split
  · exact wf.beside
  · exact wf

theorem State.storesWf.recover {reason} : (s.recover reason).storesWf := wf.beside.setSbd

theorem State.storesWf.halfArbitration {timeout} : NextStoresWf (execHalfArbitration timeout s) := by
  unfold execHalfArbitration
  split
  · exact wf
  split
  · exact wf.recover
  have latched (h : Half) : { s with sbd := s.sbd.latch h }.storesWf := wf.sbd (Sbd.latch_flash ..)
  split
  · exact latched _
  · exact (latched _).ite wf
  · exact (latched _).ite wf
  · exact wf.recover

theorem State.storesWf.changeLead {h} : (s.changeLead h).storesWf := wf.raise.beside

theorem State.storesWf.watchdogExpiry {h} : NextStoresWf (execWatchdogExpiry h s) := by
  unfold execWatchdogExpiry
  split
  · exact wf
  extract_lets x s1
  have flash : x.flash = s.sbd.flash := Sbd.readImage_flash ..
  clear_value x
  have read : s1.storesWf := wf.sbd flash
  split
  · split
    · exact read
    split
    · exact read.changeLead
    · exact read.beside
  · exact wf.sbd (by rw [Sbd.setCopy_flash, flash])
  · exact read

theorem State.storesWf.leadChange : NextStoresWf (execLeadChange s) := by
  unfold execLeadChange
  split
  · exact wf.changeLead.ite wf
  · exact wf

theorem State.storesWf.flashEnds {result} : (s.flashEnds result).storesWf := wf.beside

theorem State.storesWf.flashStore {f fl ok} (form : cellsWf 0xFF none fl = true) : (s.flashStore f fl ok).storesWf := by
  unfold State.flashStore
  split
  · exact State.storesWf.flashEnds (wf.withSbd form)
  · exact wf.beside.cutFlash.flashEnds

theorem State.storesWf.pushDone {h program ok} : (s.pushDone h program ok).storesWf := by
  unfold State.pushDone
  extract_lets f _ s1 half
  split
  · exact wf.beside.recover
  have wf1 : s1.storesWf := by
    unfold s1
    split
    · exact wf.flashStore (cellsBlit_wf _ _ _ _ wf.2.2.2)
    · exact wf.beside
  refine State.storesWf.setSbd (wf1.sbd ?_)
  show ((s1.sbd.setCopy half _).setClaim half _).flash = s1.sbd.flash
  rw [Sbd.setClaim_flash, Sbd.setCopy_flash]

theorem State.storesWf.flashOperationDone {ok} : NextStoresWf (execFlashOperationDone ok s) := by
  unfold execFlashOperationDone
  split
  · exact wf
  split
  · exact wf
  split
  · split
    · exact wf.flashEnds
    extract_lets len
    generalize imageValid _ _ _ = valid
    split
    · exact wf.flashEnds
    split
    · exact wf.flashEnds
    · exact wf.flashStore (cellsBlit_wf _ _ _ _ wf.2.2.2)
  · split
    · exact wf.flashEnds
    generalize calibInRange _ = inRange
    split
    · exact wf.flashEnds
    · exact wf.flashStore (cellsBlit_wf _ _ _ _ wf.2.2.2)
  · split
    · exact wf.flashEnds
    · exact wf.engineWrite.flashEnds
  · exact wf.pushDone

/-! ### Register writes -/

theorem State.storesWf.writePlanctl {v} : SomeStoresWf (s.writePlanctl v) := by
  unfold State.writePlanctl
  split
  · exact trivial
  · exact (wf.abortPlan.ite wf).startPlan.ite (wf.abortPlan.ite wf)

theorem State.storesWf.writeJobctl {v} : SomeStoresWf (s.writeJobctl v) := by
  dsimp only [State.writeJobctl]
  split
  · exact trivial
  split
  · exact trivial
  · exact (wf.storeReg.haltNow.ite wf.storeReg).resumeJob.ite (wf.storeReg.haltNow.ite wf.storeReg)

theorem State.storesWf.writeRestart {v} : SomeStoresWf (s.writeRestart v) := by
  unfold State.writeRestart
  split
  · exact wf.storeReg
  split
  · exact wf.restartPlan
  · exact trivial

theorem State.storesWf.writeBuddyctl {v} : SomeStoresWf (s.writeBuddyctl v) := by
  unfold State.writeBuddyctl
  extract_lets _ _ _ _ s1 s2
  split
  · exact trivial
  split
  · exact trivial
  have wf1 : s1.storesWf := wf.storeReg
  have wf2 : s2.storesWf := wf1.setPairing.ite wf1
  exact wf2.beginReturn.ite wf2

theorem State.storesWf.writeFbres {v} : SomeStoresWf (s.writeFbres v) := by
  dsimp only [State.writeFbres]
  split
  · split
    · exact trivial
    · exact wf.storeReg.beside.notice
  split
  · exact trivial
  · exact wf.storeReg.beside.notice

theorem State.storesWf.applyLayout : s.applyLayout.storesWf := by
  unfold State.applyLayout
  split
  · exact wf.beside.notice
  · exact wf.beside

theorem State.storesWf.writeLayout {v} : SomeStoresWf (s.writeLayout v) := by
  unfold State.writeLayout
  split
  · exact trivial
  · exact wf.storeReg.applyLayout.ite wf.storeReg

theorem State.storesWf.writeSlicemode {d v} : SomeStoresWf (s.writeSlicemode d v) := by
  unfold State.writeSlicemode
  split
  · exact trivial
  · exact wf.modDie

theorem State.storesWf.writeDumpctl {v} : SomeStoresWf (s.writeDumpctl v) := by
  unfold State.writeDumpctl
  split
  · exact trivial
  · exact (wf.beside.ite wf).dump.ite (wf.beside.ite wf)

theorem State.storesWf.writeNode {v} : SomeStoresWf (s.writeNode v) := by
  dsimp only [State.writeNode]
  split
  · exact trivial
  split
  · exact wf.storeReg
  · exact wf.storeReg.forEach fun _ _ wf => wf.retrain.ite wf

theorem State.storesWf.restoreRoutes {k} : (s.restoreRoutes k).storesWf := by
  unfold State.restoreRoutes
  extract_lets _ s1
  have wf1 : s1.storesWf := wf.modKport
  exact wf1.beside

theorem State.storesWf.enablePort {k on} : (s.enablePort k on).storesWf := by
  dsimp only [State.enablePort]
  split
  · exact wf
  split
  · exact wf.modKport
  · exact (wf.switchRoutes.ite wf).modKport

theorem State.storesWf.writePortctl {k v} : SomeStoresWf (s.writePortctl k v) := by
  dsimp only [State.writePortctl]
  split
  · exact trivial
  · exact (wf.restoreRoutes.ite wf).enablePort

theorem State.storesWf.freeHist {f} : (s.freeHist f).storesWf := wf.modHalf.modHalf

theorem State.storesWf.writeEvrctl {v} : SomeStoresWf (s.writeEvrctl v) := by
  unfold State.writeEvrctl
  extract_lets s1 s2 s3 first
  split
  · exact trivial
  have wf1 : s1.storesWf := wf.storeReg
  have wf2 : s2.storesWf := wf1.freeHist.ite wf1
  have wf3 : s3.storesWf := wf2.triggerFlush.ite wf2
  exact wf3.setErase.ite wf3

theorem State.storesWf.writeFlashctl {v} : SomeStoresWf (s.writeFlashctl v) := by
  unfold State.writeFlashctl
  split
  · exact trivial
  · exact wf.storeReg.beside

theorem State.storesWf.writeRecov {h v} : SomeStoresWf (s.writeRecov h v) := by
  unfold State.writeRecov
  split
  · exact trivial
  · exact wf.storeReg.beside.setSbd.ite wf.storeReg

theorem State.storesWf.writeCntctl {v} : (s.writeCntctl v).storesWf := by
  unfold State.writeCntctl
  extract_lets z s1 s2 _ s3
  have wf1 : s1.storesWf := wf.forEach fun _ _ wf => wf.settle
  have wf2 : s2.storesWf := wf1.mapPlots.ite wf1
  have wf3 : s3.storesWf := wf2.beside.ite wf2
  exact wf3.storeReg

theorem State.storesWf.writeTrigall {v} : (s.writeTrigall v).storesWf :=
  (wf.storeReg.forEach fun _ _ wf => wf.traceTrigger).ite wf.storeReg

theorem State.storesWf.writeTrcctl {d v} : SomeStoresWf (s.writeTrcctl d v) := by
  dsimp only [State.writeTrcctl]
  split
  · exact trivial
  · exact wf.modTrace.engineWrite.ite wf.modTrace

theorem State.storesWf.writeWatch {d n v} : (s.writeWatch d n v).storesWf := by
  dsimp only [State.writeWatch]
  split
  · split
    · exact wf.storeReg.modDbgWatch.modUnit.modUnit
    · exact wf.storeReg.modDbgWatch.modUnit
  · exact wf.storeReg.modUnit.ite wf.storeReg

theorem State.storesWf.stopreq {p har} : (s.stopreq p har).storesWf := by
  unfold State.stopreq
  split
  · exact wf
  refine State.storesWf.requestStop (wf.modPlot fun q w => ?_)
  split
  · exact w
  · exact w

theorem State.storesWf.writePctl {p v} : SomeStoresWf (s.writePctl p v) := by
  dsimp only [State.writePctl]
  split
  · exact trivial
  split
  · exact wf.ite wf.requestStop
  split
  · exact wf
  split
  · exact wf.resumePlot
  · exact trivial

theorem State.storesWf.movePsaddr {p} : (s.movePsaddr p).storesWf := wf.modPlot

theorem State.storesWf.writePsdata {p v} : SomeStoresWf (s.writePsdata p v) := by
  unfold State.writePsdata
  split
  · exact trivial
  · exact wf.psWrite.movePsaddr

theorem State.storesWf.writeReg {h r v} : SomeStoresWf (s.writeReg h r v) := by
  unfold State.writeReg
  split
  · exact trivial
  split
  · split
    · exact trivial
    · exact wf.storeReg
  · exact wf.writePlanctl
  · exact wf.writeJobctl
  · exact wf.writeRestart
  · exact wf.writeBuddyctl
  · split
    · exact trivial
    · exact wf.storeReg
  · exact wf.writeFbres
  · exact wf.writeLayout
  · exact wf.writeSlicemode
  · exact wf.writeDumpctl
  · split
    · exact trivial
    · exact wf.storeReg
  · exact wf.writeNode
  · exact wf.writePortctl
  · exact wf.writeEvrctl
  · split
    · exact wf.storeReg.freeHist
    · exact trivial
  · exact wf.writeFlashctl
  · exact wf.writeRecov
  · exact wf.moduleReset.ite wf
  · exact wf.storeReg.modPci
  · exact wf.writeCntctl
  · exact wf.writeTrigall
  · exact wf.writeTrcctl
  · exact wf.writeWatch
  · exact wf.stopreq.ite wf
  · exact wf.stopreq.ite wf
  · exact wf.writePctl
  · exact wf.writePsdata
  · exact wf.modPlot
  · exact wf.storeReg

/-! ### The host ports -/

theorem State.storesWf.ruleBreak : s.ruleBreak.storesWf := wf.beside

theorem State.storesWf.pairMiss : s.pairMiss.storesWf := wf.beside

theorem State.storesWf.dataHostWrite : s.dataHostWrite.storesWf := wf.beside

theorem State.storesWf.spoil {h off width} : (s.spoil h off width).storesWf := wf.modPci

theorem State.storesWf.writePair {h off x v} : (s.writePair h off x v).storesWf := by
  unfold State.writePair
  extract_lets base was s1 s2
  have wf1 : s1.storesWf := wf.modPci.modPci
  have wf2 : s2.storesWf := wf1.modPci
  clear_value was
  split
  · exact wf2.pairMiss.ite wf2
  split
  · split
    · exact SomeStoresWf.getD wf1.writeReg wf1.ruleBreak
    · exact wf1.pairMiss
  · exact wf1.pairMiss

theorem State.storesWf.writeWord {h off v} : (s.writeWord h off v).storesWf := by
  unfold State.writeWord
  split
  · exact wf.spoil.dataHostWrite
  split
  · exact wf.spoil.ruleBreak
  split
  · exact wf.ruleBreak
  split
  · exact wf.spoil
  · exact wf.spoil
  · exact wf.writePair
  · exact SomeStoresWf.getD wf.writeReg wf.ruleBreak
  · exact SomeStoresWf.getD wf.writeReg wf.ruleBreak

theorem State.storesWf.writeToken {h off width v} : (s.writeToken h off width v).storesWf := by
  dsimp only [State.writeToken]
  split
  · exact wf.ruleBreak
  · exact wf.beside.ite wf.modPci

theorem State.storesWf.busWrite {h off width v} : (s.busWrite h off width v).storesWf := by
  unfold State.busWrite
  split
  · exact wf.writeToken
  split
  · exact wf.spoil.dataHostWrite
  split
  · exact wf.writeWord.writeWord
  · exact wf.spoil.ruleBreak.ite wf.writeWord

theorem State.storesWf.afterRead {h r} : (s.afterRead h r).storesWf := by
  unfold State.afterRead
  split
  · exact wf.modDie
  · exact wf.modPci
  · exact wf.movePsaddr.ite wf
  · exact wf

theorem State.storesWf.readWord {h off} : (s.readWord h off).2.storesWf := by
  dsimp only [State.readWord]
  split
  · exact wf.spoil.ruleBreak
  split
  · exact wf.spoil.ruleBreak
  split
  · exact wf.spoil.ruleBreak
  split
  · exact wf.spoil
  · exact (wf.spoil.takeValue.clearReg.ite wf.spoil.takeValue).afterRead

theorem State.storesWf.answer {h data ur ep} : (s.answer h data ur ep).storesWf := wf.modPci

theorem State.storesWf.busRead {h off width} : (s.busRead h off width).storesWf := by
  dsimp only [State.busRead]
  split
  · exact wf.spoil.ruleBreak.answer
  · exact wf.readWord.readWord.answer.ite wf.readWord.answer

theorem State.storesWf.addUnacked {h} : (s.addUnacked h).storesWf := by
  unfold State.addUnacked
  split
  · exact wf.beside
  · exact wf.beside

theorem State.storesWf.memStore {h a data} : (s.memStore h a data).storesWf := wf.writeRange.addUnacked.ite wf.ruleBreak

theorem State.storesWf.memWrite {h off data} : (s.memWrite h off data).storesWf := by
  unfold State.memWrite
  split
  · exact wf.memStore
  · exact wf.ruleBreak

theorem State.storesWf.noteBar2 {h b} : (s.noteBar2 h b).storesWf := wf.ite wf.modPci

theorem State.storesWf.memRead {h off len} : (s.memRead h off len).storesWf := by
  unfold State.memRead
  split
  · exact wf.ruleBreak.answer
  split
  · exact wf.ruleBreak.answer
  split
  · rename_i s1 e1
    have wf1 : s1.storesWf := wf.readRange.of_snd e1
    exact wf1.answer
  rename_i s2 e2
  have wf2 : s2.storesWf := wf.readRange.of_snd e2
  exact wf2.noteBar2.answer

theorem State.storesWf.perform {h r} : (s.perform h r).storesWf := by
  unfold State.perform
  split
  · exact wf.busWrite
  · exact wf.busRead
  · exact wf.memWrite
  · exact wf.memRead
  · exact wf.memStore

omit wf in
theorem State.storesWf.drainPort {h n} {s : State} (wf : s.storesWf) : (State.drainPort h n s).storesWf := by
  induction n generalizing s with
  | zero => exact wf
  | succ n ih =>
    unfold State.drainPort
    split
    · exact wf
    split
    · exact wf
    · exact ih wf.modPci.perform

theorem State.storesWf.drain : s.drain.storesWf := wf.drainPort.drainPort

theorem State.storesWf.request {h q} : (s.request h q).storesWf := by
  dsimp only [State.request]
  split
  · exact wf
  split
  · exact wf.ite wf.answer
  split
  · exact wf.modPci.ite wf.modPci.answer
  · exact wf.drainPort.modPci.ite wf.drainPort.perform

theorem State.storesWf.registerWrite {h off width v} : NextStoresWf (execRegisterWrite h off width v s) := wf.request

theorem State.storesWf.registerRead {h off width} : NextStoresWf (execRegisterRead h off width s) := wf.request

theorem State.storesWf.tokenWrite {h off width v} : NextStoresWf (execTokenWrite h off width v s) := wf.request

theorem State.storesWf.bar2Read {h off len} : NextStoresWf (execBar2Read h off len s) := wf.request

theorem State.storesWf.bar2Write {h off data} : NextStoresWf (execBar2Write h off data s) := wf.request

theorem State.storesWf.layoutInitDoneStep : NextStoresWf (execLayoutInitDone s) := wf.layoutInitDone.drain

theorem State.storesWf.sliceModeChangeDone {d} : NextStoresWf (execSliceModeChangeDone d s) := wf.sliceModeDone.drain

theorem State.storesWf.pairWrite {h off v} : (s.pairWrite h off v).storesWf := wf.request.request

theorem State.storesWf.writeBoth {h off v} : NextStoresWf (writeBoth h off v s) := wf.pairWrite

theorem State.storesWf.start {h} : NextStoresWf (execStart h s) := wf.writeBoth

theorem State.storesWf.abort {h} : NextStoresWf (execAbort h s) := wf.writeBoth

theorem State.storesWf.haltnow {h} : NextStoresWf (execHaltnow h s) := wf.writeBoth

theorem State.storesWf.resume {h} : NextStoresWf (execResume h s) := wf.writeBoth

theorem State.storesWf.haltat {h} : NextStoresWf (execHaltat h s) := wf.writeBoth

theorem State.storesWf.haltnext {h} : NextStoresWf (execHaltnext h s) := wf.writeBoth

theorem State.storesWf.go {h restore} : NextStoresWf (execGo h restore s) := wf.writeBoth

theorem State.storesWf.set {h} : NextStoresWf (execSet h s) := wf.writeBoth

theorem State.storesWf.return_ {h owner target} : NextStoresWf (execReturn h owner target s) := wf.writeBoth

theorem State.storesWf.harFbresWrite {h extra} : NextStoresWf (execHarFbresWrite h extra s) := wf.writeBoth

theorem State.storesWf.apply {h v} : NextStoresWf (execApply h v s) := wf.writeBoth

theorem State.storesWf.bstSlicemodeWrite {h d modes} : NextStoresWf (execBstSlicemodeWrite h d modes s) := wf.writeBoth

theorem State.storesWf.handWrite {h d op queue} : NextStoresWf (handWrite h d op queue s) := wf.writeBoth

theorem State.storesWf.qread {h d queue} : NextStoresWf (execQread h d queue s) := wf.handWrite

theorem State.storesWf.qpush {h d queue} : NextStoresWf (execQpush h d queue s) := wf.handWrite

theorem State.storesWf.qpop {h d queue} : NextStoresWf (execQpop h d queue s) := wf.handWrite

theorem State.storesWf.qclear {h d queue} : NextStoresWf (execQclear h d queue s) := wf.handWrite

theorem State.storesWf.qrelease {h d queue} : NextStoresWf (execQrelease h d queue s) := wf.handWrite

theorem State.storesWf.req {h} : NextStoresWf (execReq h s) := wf.writeBoth

theorem State.storesWf.rearm {h} : NextStoresWf (execRearm h s) := wf.writeBoth

theorem State.storesWf.kufNodeWrite {h node} : NextStoresWf (execKufNodeWrite h node s) := wf.writeBoth

theorem State.storesWf.enable {h k on} : NextStoresWf (execEnable h k on s) := wf.writeBoth

theorem State.storesWf.restore {h k} : NextStoresWf (execRestore h k s) := wf.writeBoth

theorem State.storesWf.flush {h} : NextStoresWf (execFlush h s) := wf.writeBoth

theorem State.storesWf.clearhist {h} : NextStoresWf (execClearhist h s) := wf.writeBoth

theorem State.storesWf.bberase {h} : NextStoresWf (execBberase h s) := wf.writeBoth

theorem State.storesWf.evrQcfgWrite {h q v} : NextStoresWf (execEvrQcfgWrite h q v s) := wf.writeBoth

theorem State.storesWf.flashImageProgram {h} : NextStoresWf (execFlashImageProgram h s) := wf.writeBoth

theorem State.storesWf.calibrationWrite {h} : NextStoresWf (execCalibrationWrite h s) := wf.writeBoth

theorem State.storesWf.calibrationRead {h} : NextStoresWf (execCalibrationRead h s) := wf.writeBoth

theorem State.storesWf.sbdRecovGo {h program} : NextStoresWf (execSbdRecovGo h program s) := wf.writeBoth

theorem State.storesWf.reset {h} : NextStoresWf (execReset h s) := wf.writeBoth

theorem State.storesWf.cntctlClear {h v} : NextStoresWf (execCntctlClear h v s) := wf.writeBoth

theorem State.storesWf.fire {h spread} : NextStoresWf (execFire h spread s) := wf.writeBoth

theorem State.storesWf.arm {h d v} : NextStoresWf (execArm h d v s) := wf.writeBoth

theorem State.storesWf.reg {h d n count queue} : NextStoresWf (execReg h d n count queue s) := wf.writeBoth

theorem State.storesWf.wdraw {h d n} : NextStoresWf (execWdraw h d n s) := wf.writeBoth

theorem State.storesWf.stopreqHar {h p} : NextStoresWf (execStopreqHar h p s) := wf.writeBoth

theorem State.storesWf.stopreqDrl {h p} : NextStoresWf (execStopreqDrl h p s) := wf.writeBoth

theorem State.storesWf.stop {h p} : NextStoresWf (execStop h p s) := wf.writeBoth

theorem State.storesWf.step {h p} : NextStoresWf (execStep h p s) := wf.writeBoth

theorem State.storesWf.run {h p} : NextStoresWf (execRun h p s) := wf.writeBoth

theorem State.storesWf.dbgPsdataRead {h p} : NextStoresWf (execDbgPsdataRead h p s) := wf.request

theorem State.storesWf.dbgPsdataWrite {h p v} : NextStoresWf (execDbgPsdataWrite h p v s) := wf.request

theorem State.storesWf.memErrlogRead {h d} : NextStoresWf (execMemErrlogRead h d s) := wf.request

theorem State.storesWf.pciBar2errRead {h blk} : NextStoresWf (execPciBar2errRead h blk s) := wf.request

theorem State.storesWf.msixMessage {h v} : NextStoresWf (execMsixMessage h v s) := by
  dsimp only [execMsixMessage]
  split
  · exact wf
  split
  · exact wf.modPci
  · exact wf.modPci

theorem State.storesWf.configurationRequest {h r} : NextStoresWf (execConfigurationRequest h r s) := by
  unfold execConfigurationRequest
  split
  · exact wf
  split
  · exact wf.modPci
  split
  · exact wf.answer
  split
  rename_i s1 e1
  have wf1 : s1.storesWf := wf.free.of_snd e1
  exact wf1.answer

theorem State.storesWf.linkUp {h speed width flit} : NextStoresWf (execLinkUp h speed width flit s) := by
  dsimp only [execLinkUp]
  split
  · exact wf
  · exact wf.modPci

theorem State.storesWf.surpriseLinkDown {h} : NextStoresWf (execSurpriseLinkDown h s) := wf.modPci

/-! ### Management messages -/

theorem State.storesWf.sendMctp {h b} : (s.sendMctp h b).storesWf := wf.modPci

theorem State.storesWf.getHealth {h seq} : NextStoresWf (execGetHealth h seq s) := by
  unfold execGetHealth
  split
  · exact wf
  · exact wf.sendMctp

theorem State.storesWf.readBb {h seq off} : NextStoresWf (execReadBb h seq off s) := by
  unfold execReadBb
  split
  · exact wf
  split
  · exact wf.sendMctp
  · exact wf.sendMctp

theorem State.storesWf.resetModule {h seq} : NextStoresWf (execResetModule h seq s) := by
  unfold execResetModule
  split
  · exact wf
  split
  · exact wf.sendMctp
  · exact wf.modPci.sendMctp

theorem State.storesWf.setKey {i k} : (s.setKey i k).storesWf := wf.beside

theorem State.storesWf.fuseKey {h seq slot digest} : NextStoresWf (execFuseKey h seq slot digest s) := by
  dsimp only [execFuseKey]
  split
  · exact wf
  split
  · exact wf.sendMctp
  split
  · exact wf.sendMctp
  split
  · exact wf.sendMctp
  · exact wf.setKey.sendMctp

theorem State.storesWf.disableKey {h seq slot} : NextStoresWf (execDisableKey h seq slot s) := by
  dsimp only [execDisableKey]
  split
  · exact wf
  split
  · exact wf.sendMctp
  split
  · exact wf.sendMctp
  split
  · exact wf.free.sendMctp
  split
  · exact wf.sendMctp
  · exact wf.setKey.sendMctp

theorem State.storesWf.setEndpointId {h op eid} : NextStoresWf (execSetEndpointId h op eid s) := by
  unfold execSetEndpointId
  split
  · exact wf
  split
  · exact wf.sendMctp
  · exact (wf.ite wf.modPci).sendMctp

theorem State.storesWf.getEndpointId {h} : NextStoresWf (execGetEndpointId h s) := by
  unfold execGetEndpointId
  split
  · exact wf
  · exact wf.sendMctp

theorem State.storesWf.getEndpointUuid {h} : NextStoresWf (execGetEndpointUuid h s) := by
  unfold execGetEndpointUuid
  split
  · exact wf
  · exact wf.sendMctp

theorem State.storesWf.getMctpVersionSupport {h msgType} : NextStoresWf (execGetMctpVersionSupport h msgType s) := by
  unfold execGetMctpVersionSupport
  split
  · exact wf
  split
  · exact wf.sendMctp
  split
  · split
    rename_i s1 e1
    have wf1 : s1.storesWf := wf.free.of_snd e1
    exact wf1.sendMctp
  · exact wf.sendMctp

theorem State.storesWf.getMessageTypeSupport {h} : NextStoresWf (execGetMessageTypeSupport h s) := by
  unfold execGetMessageTypeSupport
  split
  · exact wf
  · exact wf.sendMctp

theorem State.storesWf.getVendorMessageSupport {h selector} :
    NextStoresWf (execGetVendorMessageSupport h selector s) := by
  unfold execGetVendorMessageSupport
  split
  · exact wf
  split
  · exact wf.sendMctp
  split
  rename_i s1 e1
  have wf1 : s1.storesWf := wf.free.of_snd e1
  exact wf1.sendMctp

theorem State.storesWf.sendSpdm {h b} : (s.sendSpdm h b).storesWf := wf.sendMctp

theorem State.storesWf.spdmError {h code} : (s.spdmError h code).storesWf := wf.sendSpdm

theorem State.storesWf.unsupportedRequest {h isSpdm code} : NextStoresWf (execUnsupportedRequest h isSpdm code s) := by
  dsimp only [execUnsupportedRequest]
  split
  · split
    · exact wf
    · exact wf.sendSpdm
  split
  · exact wf
  · exact wf.sendMctp

theorem State.storesWf.getVersion {h} : NextStoresWf (execGetVersion h s) := by
  unfold execGetVersion
  split
  · exact wf
  · exact wf.modPci.sendSpdm

theorem State.storesWf.getCapabilities {h request} : NextStoresWf (execGetCapabilities h request s) := by
  unfold execGetCapabilities
  split
  · exact wf
  split
  · exact wf.spdmError
  split
  rename_i s1 e1
  have wf1 : s1.storesWf := wf.free.of_snd e1
  exact wf1.modPci.sendSpdm

theorem State.storesWf.negotiateAlgorithms {h request} : NextStoresWf (execNegotiateAlgorithms h request s) := by
  unfold execNegotiateAlgorithms
  split
  · exact wf
  split
  · exact wf.spdmError
  · exact wf.modPci.sendSpdm

theorem State.storesWf.getDigests {h} : NextStoresWf (execGetDigests h s) := by
  unfold execGetDigests
  split
  · exact wf
  split
  · exact wf.spdmError
  · exact wf.modPci.sendSpdm

theorem State.storesWf.getCertificate {h slot offset length} :
    NextStoresWf (execGetCertificate h slot offset length s) := by
  dsimp only [execGetCertificate]
  split
  · exact wf
  split
  · exact wf.spdmError
  split
  · exact wf.spdmError
  · exact wf.modPci.sendSpdm

theorem State.storesWf.challenge {h slot hashType nonce} : NextStoresWf (execChallenge h slot hashType nonce s) := by
  unfold execChallenge
  split
  · exact wf
  split
  · exact wf.spdmError
  split
  · exact wf.spdmError
  split
  rename_i s1 e1
  have wf1 : s1.storesWf := wf.free.of_snd e1
  split
  rename_i s2 e2
  have wf2 : s2.storesWf := wf1.free.of_snd e2
  exact wf2.modPci.sendSpdm

theorem State.storesWf.getMeasurements {h signed operation nonce slot} :
    NextStoresWf (execGetMeasurements h signed operation nonce slot s) := by
  dsimp only [execGetMeasurements]
  split
  · exact wf
  split
  · exact wf.spdmError
  split
  · exact wf.spdmError
  · exact wf.free.modPci.sendSpdm

/-! ### The sideband -/

theorem State.storesWf.setdasa {address} : NextStoresWf (execSetdasa address s) := by
  unfold execSetdasa
  split
  · exact wf
  · exact wf.beside

theorem State.storesWf.sidebandPointerWrite {data} : NextStoresWf (execSidebandPointerWrite data s) := by
  unfold execSidebandPointerWrite
  split
  · split
    · exact wf.beside
    · exact wf
  · exact wf

theorem State.storesWf.sidebandWordRead : NextStoresWf (execSidebandWordRead s) := by
  unfold execSidebandWordRead
  split
  · exact wf
  · exact wf.beside

theorem State.storesWf.sbSclStuckTimeout : NextStoresWf (execSbSclStuckTimeout s) := by
  unfold execSbSclStuckTimeout
  split
  · exact wf
  · exact wf.beside

/-! ### A step -/

/-- Whatever the instruction, the step answers with a state whose stores are in canonical form. -/
theorem exec_storesWf (i : Instr) : NextStoresWf (exec i s) :=
  match i with
  | .nop _ => wf.nop
  | .pass _ => wf.pass
  | .stream _ => wf.stream
  | .dma _ => wf.dma
  | .wait _ => wf.wait
  | .signal _ => wf.signal
  | .fence _ => wf.fence
  | .check _ => wf.check
  | .vote _ => wf.vote
  | .rclear _ => wf.rclear
  | .rread _ => wf.rread
  | .rsave _ => wf.rsave
  | .radd _ => wf.radd
  | .rcombine _ => wf.rcombine
  | .resumep _ => wf.resumep
  | .resumes _ => wf.resumes
  | .brflt _ => wf.brflt
  | .jump _ => wf.jump
  | .endrow _ => wf.endrow
  | .endplan _ => wf.endplan
  | .mark _ => wf.mark
  | .passEntry _ => wf.passEntry
  | .groupCommit _ => wf.groupCommit
  | .tileWriteoutDone _ _ => wf.tileWriteoutDone
  | .tileReductionDone _ => wf.tileReductionDone
  | .passStop _ => wf.passStop
  | .operandParityError _ _ => wf.operandParityError
  | .passReentry _ => wf.passReentry
  | .reductionParityError _ => wf.reductionParityError
  | .checkCompare _ => wf.checkCompare
  | .heldAccessRelease _ _ => wf.heldAccessRelease
  | .streamStart _ => wf.streamStart
  | .streamEnd _ => wf.streamEnd
  | .streamStop _ _ => wf.streamStop
  | .drillParityError _ _ => wf.drillParityError
  | .tillingParityError _ => wf.tillingParityError
  | .tillingIntensityStep _ => wf.tillingIntensityStep
  | .combineDelivery _ => wf.combineDelivery
  | .fallbackAllocation => wf.fallbackAllocation
  | .send _ => wf.send
  | .recvadd _ => wf.recvadd
  | .recvset _ => wf.recvset
  | .transferDone _ _ => wf.transferDone
  | .trailingToken _ _ => wf.trailingToken
  | .homeAccess _ _ _ => wf.homeAccess
  | .writeAck _ => wf.writeAck
  | .ringTransfer _ _ _ => wf.ringTransfer
  | .scrubRead _ _ => wf.scrubRead
  | .mr4Read _ _ => wf.mr4Read
  | .packageSensorReading _ _ => wf.packageSensorReading
  | .refreshStepFall _ => wf.refreshStepFall
  | .packageSensorTimeout _ => wf.packageSensorTimeout
  | .layoutInitDone => wf.layoutInitDoneStep
  | .sliceModeChangeDone _ => wf.sliceModeChangeDone
  | .tokenArrival _ => wf.tokenArrival
  | .remoteTokenArrival _ => wf.remoteTokenArrival
  | .announcedWriteAck => wf.announcedWriteAck
  | .syncCycle _ => wf.syncCycle
  | .watchExpiry _ _ => wf.watchExpiry
  | .earlyTokenExpiry _ _ => wf.earlyTokenExpiry
  | .dumpWritten => wf.dumpWritten
  | .enable _ _ _ => wf.enable
  | .portTrainingStateDone _ => wf.portTrainingStateDone
  | .portStateBoundExceeded _ => wf.portStateBoundExceeded
  | .codewordLockLost _ => wf.codewordLockLost
  | .retraining _ => wf.retraining
  | .portDeclaredDown _ => wf.portDeclaredDown
  | .flitSend _ => wf.flitSend
  | .flitReceive _ _ _ _ => wf.flitReceive
  | .replayRequest _ => wf.replayRequest
  | .identityFlit _ => wf.identityFlit
  | .identityAnswerTimeout _ => wf.identityAnswerTimeout
  | .downFlit _ => wf.downFlit
  | .dataWrite _ => wf.dataWrite
  | .token _ => wf.token
  | .collectiveStep _ => wf.collectiveStep
  | .openMsg _ => wf.openMsg
  | .grant _ => wf.grant
  | .ack _ => wf.ack
  | .refuse _ => wf.refuse
  | .ackSend _ _ => wf.ackSend
  | .messageResend _ _ _ => wf.messageResend
  | .openResend _ _ => wf.openResend
  | .rowCompletion => wf.rowCompletion
  | .stepUp => wf.stepUp
  | .advance => wf.advanceStep
  | .haltToken => wf.haltToken
  | .jobAbort => wf.jobAbort
  | .stepTimeout => wf.stepTimeout
  | .sowingSlot _ => wf.sowingSlot
  | .buddyCopy => wf.buddyCopy
  | .buddyCopyHeader => wf.buddyCopyHeader
  | .feedquery => wf.feedquery
  | .feedreply => wf.feedreply
  | .feedCheckTimeout => wf.feedCheckTimeout
  | .returndone => wf.returndone
  | .returnProgress => wf.returnProgress
  | .errorRecord _ => wf.errorRecord
  | .pendingError _ => wf.pendingError
  | .moduleFatal => wf.moduleFatal
  | .flushDone => wf.flushDone
  | .flushPathError => wf.flushPathError
  | .blackBoxEraseStep => wf.blackBoxEraseStep
  | .powerControlPeriod _ => wf.powerControlPeriod
  | .modelDeviationCheck => wf.modelDeviationCheck
  | .frequencyChangeStart _ => wf.frequencyChangeStart
  | .railSlewDone _ => wf.railSlewDone
  | .stripRestart _ => wf.stripRestart
  | .supplyDroop _ _ => wf.supplyDroop
  | .coreRailLow _ => wf.coreRailLow
  | .thermalTrip _ _ => wf.thermalTrip
  | .envelopeReading _ => wf.envelopeReading
  | .envelopeInvalidTimeout => wf.envelopeInvalidTimeout
  | .feedIdChange _ => wf.feedIdChange
  | .pwrFailN _ => wf.pwrFailN
  | .supplyFailureThreshold => wf.supplyFailureThreshold
  | .holdUpEnd => wf.holdUpEnd
  | .supplyRise => wf.supplyRise
  | .perstBoth => wf.perstBoth
  | .perstOne _ _ => wf.perstOne
  | .moduleReset => wf.moduleResetStep
  | .startupStepDone => wf.startupStepDone
  | .startupStepOverrun => wf.startupStepOverrun
  | .halfArbitration _ => wf.halfArbitration
  | .thermTripRelease => wf.thermTripRelease
  | .watchdogExpiry _ => wf.watchdogExpiry
  | .leadChange => wf.leadChange
  | .flashOperationDone _ => wf.flashOperationDone
  | .registerWrite _ _ _ _ => wf.registerWrite
  | .stopreqHar _ _ => wf.stopreqHar
  | .stopreqDrl _ _ => wf.stopreqDrl
  | .stop _ _ => wf.stop
  | .step _ _ => wf.step
  | .run _ _ => wf.run
  | .plotStopComplete _ => wf.plotStopComplete
  | .start _ => wf.start
  | .abort _ => wf.abort
  | .harFbresWrite _ _ => wf.harFbresWrite
  | .apply _ _ => wf.apply
  | .bstSlicemodeWrite _ _ _ => wf.bstSlicemodeWrite
  | .qread _ _ _ => wf.qread
  | .qpush _ _ _ => wf.qpush
  | .qpop _ _ _ => wf.qpop
  | .qclear _ _ _ => wf.qclear
  | .qrelease _ _ _ => wf.qrelease
  | .req _ => wf.req
  | .rearm _ => wf.rearm
  | .kufNodeWrite _ _ => wf.kufNodeWrite
  | .restore _ _ => wf.restore
  | .haltnow _ => wf.haltnow
  | .resume _ => wf.resume
  | .haltat _ => wf.haltat
  | .haltnext _ => wf.haltnext
  | .go _ _ => wf.go
  | .set _ => wf.set
  | .return_ _ _ _ => wf.return_
  | .flush _ => wf.flush
  | .clearhist _ => wf.clearhist
  | .bberase _ => wf.bberase
  | .evrQcfgWrite _ _ _ => wf.evrQcfgWrite
  | .flashImageProgram _ => wf.flashImageProgram
  | .calibrationWrite _ => wf.calibrationWrite
  | .calibrationRead _ => wf.calibrationRead
  | .sbdRecovGo _ _ => wf.sbdRecovGo
  | .reset _ => wf.reset
  | .tokenWrite _ _ _ _ => wf.tokenWrite
  | .bar2Read _ _ _ => wf.bar2Read
  | .bar2Write _ _ _ => wf.bar2Write
  | .memErrlogRead _ _ => wf.memErrlogRead
  | .pciBar2errRead _ _ => wf.pciBar2errRead
  | .msixMessage _ _ => wf.msixMessage
  | .cntctlClear _ _ => wf.cntctlClear
  | .fire _ _ => wf.fire
  | .arm _ _ _ => wf.arm
  | .reg _ _ _ _ _ => wf.reg
  | .wdraw _ _ _ => wf.wdraw
  | .dbgPsdataRead _ _ => wf.dbgPsdataRead
  | .dbgPsdataWrite _ _ _ => wf.dbgPsdataWrite
  | .getHealth _ _ => wf.getHealth
  | .readBb _ _ _ => wf.readBb
  | .resetModule _ _ => wf.resetModule
  | .fuseKey _ _ _ _ => wf.fuseKey
  | .disableKey _ _ _ => wf.disableKey
  | .setEndpointId _ _ _ => wf.setEndpointId
  | .getEndpointId _ => wf.getEndpointId
  | .getEndpointUuid _ => wf.getEndpointUuid
  | .getMctpVersionSupport _ _ => wf.getMctpVersionSupport
  | .getMessageTypeSupport _ => wf.getMessageTypeSupport
  | .getVendorMessageSupport _ _ => wf.getVendorMessageSupport
  | .unsupportedRequest _ _ _ => wf.unsupportedRequest
  | .getVersion _ => wf.getVersion
  | .getCapabilities _ _ => wf.getCapabilities
  | .negotiateAlgorithms _ _ => wf.negotiateAlgorithms
  | .getDigests _ => wf.getDigests
  | .getCertificate _ _ _ _ => wf.getCertificate
  | .challenge _ _ _ _ => wf.challenge
  | .getMeasurements _ _ _ _ _ => wf.getMeasurements
  | .setdasa _ => wf.setdasa
  | .sidebandPointerWrite _ => wf.sidebandPointerWrite
  | .sidebandWordRead => wf.sidebandWordRead
  | .sbSclStuckTimeout => wf.sbSclStuckTimeout
  | .registerRead _ _ _ => wf.registerRead
  | .configurationRequest _ _ => wf.configurationRequest
  | .linkUp _ _ _ _ => wf.linkUp
  | .surpriseLinkDown _ => wf.surpriseLinkDown

theorem step_storesWf : NextStoresWf (step s) := by
  unfold step
  split
  · exact wf
  · exact exec_storesWf wf.beside _

end

end Sys2Proof.Machine

namespace Sys2Proof.PlansAndPlots

open Sys2Proof.Machine Sys2Proof.Claim

/-- Settles O59: the canonical form is the model's own invariant on its stores, which every instruction keeps. -/
theorem everyStepKeepsStoresCanonical : Obligations.EveryStepKeepsStoresCanonical := by
  intro s canonical
  have kept : NextStoresWf (step s) := step_storesWf ((canonical_iff_storesWf s).1 canonical)
  obtain ⟨t, stepped, wf⟩ := kept.exists_next
  exact ⟨t, stepped, (canonical_iff_storesWf t).2 wf⟩

end Sys2Proof.PlansAndPlots
end

section
/-! Ring links and packages: how often a link has failed in a row, the refresh step of a package, the reports that both make, and
the statement about them (R187, R200, R201). -/

namespace Sys2Proof.Machine

open Sys2Proof.Claim

/-! ### Reports to one half (R360) -/

/-- A half registers the reports of a list, in their order. -/
def State.raiseAll (s : State) (h : Half) (l : List ErrRep) : State :=
  s.modHalf h fun r => { r with registered := r.registered ++ l }

theorem State.raiseAll_nil (s : State) (h : Half) : s.raiseAll h [] = s := by
  cases h <;> simp [State.raiseAll, State.modHalf]

theorem State.raiseAll_reports {s u : State} (same : u.evr = s.evr) (h : Half) (l : List ErrRep) :
    Reports s (u.raiseAll h l) h l := by
  refine ⟨?_, fun g ne => ?_⟩
  · rw [State.raiseAll, State.modHalf_half, State.half_of_evr same]
  · rw [State.raiseAll, State.modHalf_half_ne _ _ _ _ ne.symm, State.half_of_evr same]

/-- Reports to a half reach the recorder alone. -/
theorem State.raiseAll_eq (s : State) (h : Half) (l : List ErrRep) :
    s.raiseAll h l = { s with evr := (s.raiseAll h l).evr } := by
  cases h <;> rfl

/-! ### RING_TRANSFER (R187) -/

/-- The count of failures in a row of ring link and direction `j` stands at `n`. -/
def State.withRingFails (s : State) (j : Fin 16) (n : Nat) : State :=
  { s with mem := { s.mem with ringFails := s.mem.ringFails.mapIdx fun i x => if i = j.val then n else x } }

theorem State.withRingFails_get (s : State) (j i : Fin 16) (n : Nat) :
    (s.withRingFails j n).mem.ringFails.get i = if i = j then n else s.mem.ringFails.get i := by
  simp [State.withRingFails, Vector.get_eq_getElem, Fin.ext_iff]

/-- The failures in a row once a transfer has passed its CRC or failed it (R187). -/
def State.ringFailsAfter (s : State) (j : Fin 16) (ok : Bool) : Nat := if ok then 0 else s.mem.ringFails.get j + 1

/-- The fifteenth failure in a row is the one that follows fourteen (R187). -/
theorem State.ringFailsAfter_fifteen (s : State) (j : Fin 16) (ok : Bool) :
    s.ringFailsAfter j ok = 15 ↔ ok = false ∧ s.mem.ringFails.get j = 14 := by
  cases ok <;> simp [State.ringFailsAfter]

theorem execRingTransfer_counts {s : State} (awake : s.evr.fallow = false) {link : Fin 8} {up : Bool} (ok : Bool) {j : Fin 16}
    (index : j.val = 2 * link.val + b2n up) : execRingTransfer link up ok s =
      .next ((s.withRingFails j (s.ringFailsAfter j ok)).raiseAll (halfOfDie link)
        (if ok = false ∧ s.mem.ringFails.get j = 14 then [s.mkErr 0x0306 .moduleFatal srcRing link.val [b2n up]] else [])) := by
  have count : (if ok then 0 else s.mem.ringFails.toList.getD j.val 0 + 1) = s.ringFailsAfter j ok := by
    simp [State.ringFailsAfter, Vector.get_eq_getElem]
  simp only [execRingTransfer, ← index, count, awake, Bool.not_false, Bool.and_true, decide_eq_true_eq,
    State.ringFailsAfter_fifteen]
  split
  · rfl
  · rw [State.raiseAll_nil]; rfl

/-! ### Packages (R200, R201) -/

/-- The refresh step after a reading: it rises at once and does not fall (R200). -/
theorem refreshStep_rises (x : BitVec 2) (t : Int) : (if x.toNat < (refreshStep t).toNat then refreshStep t else x).toNat =
    max x.toNat (if t < 850 then 0 else if t ≤ 950 then 1 else 2) := by
  have step : (refreshStep t).toNat = if t < 850 then 0 else if t ≤ 950 then 1 else 2 := by
    unfold refreshStep
    split
    · rfl
    split <;> rfl
  rw [apply_ite BitVec.toNat, ← step]
  split <;> omega

/-- What a package's temperature in 0.1 C reports: 110 C is module-fatal and 105 C a notice (R201). -/
def State.readingReports (s : State) (k : PkgIx) (t : Int) : List ErrRep :=
  if 1100 ≤ t then [s.mkErr 0x0305 .moduleFatal srcMemory k.val [(t % 2 ^ 16).toNat]]
  else if 1050 ≤ t then [s.mkErr 0x0304 .notice srcMemory k.val [(t % 2 ^ 16).toNat]] else []

/-- A package with a valid reading (R200). -/
def Package.withReading (p : Package) (t : Int) : Package :=
  { p with reading := some t, invalid := false, step := if p.step.toNat < (refreshStep t).toNat then refreshStep t else p.step }

theorem execPackageSensorReading_reads {s : State} (awake : s.evr.fallow = false) (k : PkgIx) (v : Int) :
    execPackageSensorReading k v s =
      .next ((s.modPkg k fun p => p.withReading (v + s.sbd.calib.poff.get k)).raiseAll (halfOfDie (dieOfPkg k))
        (s.readingReports k (v + s.sbd.calib.poff.get k))) := by
  simp only [execPackageSensorReading, awake, Bool.false_eq_true, if_false, State.readingReports]
  split
  · rfl
  split
  · rfl
  · rw [State.raiseAll_nil]; rfl

theorem execRefreshStepFall_falls {s : State} {k : PkgIx} {t : Int} (reading : (s.pkg k).reading = some t)
    (valid : (s.pkg k).invalid = false) (cool : ((s.pkg k).step = 2 ∧ t ≤ 920) ∨ ((s.pkg k).step = 1 ∧ t ≤ 820)) :
    execRefreshStepFall k s = .next (s.modPkg k fun p => { p with step := p.step - 1 }) := by
  have falls : (!(s.pkg k).invalid &&
      ((s.pkg k).step = 2 && decide (t ≤ 920) || (s.pkg k).step = 1 && decide (t ≤ 820))) = true := by
    simpa [valid] using cool
  simp only [execRefreshStepFall, reading, falls, if_true]

theorem execPackageSensorTimeout_rises {s : State} (awake : s.evr.fallow = false) (k : PkgIx) :
    execPackageSensorTimeout k s =
      .next ((s.modPkg k fun p => { p with invalid := true, step := 2 }).raiseAll (halfOfDie (dieOfPkg k))
        [s.mkErr 0x0304 .notice srcMemory k.val []]) := by
  simp only [execPackageSensorTimeout, awake, Bool.false_eq_true, if_false]
  rfl

/-- A change of one package with reports to a half: the package, the reports, the other packages, and all the rest (R200, R201). -/
theorem State.modPkg_raiseAll (s : State) (k : PkgIx) (f : Package → Package) (h : Half) (l : List ErrRep) :
    let t := (s.modPkg k f).raiseAll h l
    t.pkg k = f (s.pkg k) ∧ Reports s t h l ∧ (∀ i, i ≠ k → t.pkg i = s.pkg i) ∧
      { t with mem := { t.mem with pkgs := s.mem.pkgs }, evr := s.evr } = s := by
  have pkg : ∀ i, ((s.modPkg k f).raiseAll h l).pkg i = (s.modPkg k f).pkg i := fun i => State.modHalf_pkg ..
  refine ⟨?_, State.raiseAll_reports rfl h l, fun i ne => ?_, ?_⟩
  · rw [pkg, State.modPkg_pkg]
  · rw [pkg, State.modPkg_pkg_ne _ _ _ _ ne.symm]
  · rw [State.raiseAll_eq]
    rfl

end Sys2Proof.Machine

namespace Sys2Proof.MemorySystem

open Sys2Proof.Machine Sys2Proof.Claim

/-- Settles O37: each event changes one count or one package and registers its reports with one half. -/
theorem ringAndPackageEventsAreFollowed : Obligations.RingAndPackageEventsAreFollowed := by
  refine fun s awake => ⟨fun link up ok j index => ?ring, fun k => ⟨fun demand => ?mr4, ?reading, ?fall, ?timeout⟩⟩
  case ring =>
    refine ⟨_, execRingTransfer_counts awake ok index, fun i => ?_, State.raiseAll_reports rfl _ _, ?_⟩
    · rw [State.raiseAll_eq]
      exact s.withRingFails_get j i _
    · rw [State.raiseAll_eq]
      rfl
  case mr4 =>
    exact ⟨_, rfl, s.modPkg_pkg k _, fun i ne => s.modPkg_pkg_ne k i _ ne.symm, rfl⟩
  case reading =>
    rintro v T rfl
    obtain ⟨pkg, reports, others, rest⟩ := s.modPkg_raiseAll k (fun p => p.withReading (v + s.sbd.calib.poff.get k))
      (halfOfDie (dieOfPkg k)) (s.readingReports k (v + s.sbd.calib.poff.get k))
    exact ⟨_, execPackageSensorReading_reads awake k v, by rw [pkg]; rfl, by rw [pkg]; rfl, by rw [pkg]; rfl,
      by rw [pkg]; exact refreshStep_rises .., reports, others, rest⟩
  case fall =>
    exact fun T reading valid cool => ⟨_, execRefreshStepFall_falls reading valid cool, s.modPkg_pkg k _,
      fun i ne => s.modPkg_pkg_ne k i _ ne.symm, rfl⟩
  case timeout =>
    obtain ⟨pkg, reports, others, rest⟩ := s.modPkg_raiseAll k (fun p => { p with invalid := true, step := 2 })
      (halfOfDie (dieOfPkg k)) [s.mkErr 0x0304 .notice srcMemory k.val []]
    exact ⟨_, execPackageSensorTimeout_rises awake k, pkg, reports, others, rest⟩

end Sys2Proof.MemorySystem
end

section
/-! The scrubber's reads, and the ends of an initialisation of DRAM and of a change of a die's slice modes, with the statement
about them (R197-R199, R203, R205, R207). -/

namespace Sys2Proof.Machine

open Sys2Proof.Claim

/-! ### A touch of the memory-side cache (R198) -/

theorem State.modDie_self (s : State) (d : DieIx) : s.modDie d (fun x => x) = s := by
  cases s; simp [State.modDie, State.die, Vector.get_eq_getElem]

/-- The cache of a base die holds these lines. -/
def State.withCache (s : State) (d : DieIx) (l : List CacheLine) : State := s.modDie d fun x => { x with cache := l }

theorem State.withCache_self (s : State) (d : DieIx) : s.withCache d (s.die d).cache = s := by
  refine Eq.trans ?_ (s.modDie_self d)
  simp only [State.withCache, State.modDie]

/-- The scrubber's touch changes the lines of its home's cache and nothing else where no stored block holds an error. -/
theorem State.cacheTouch_scrubber (s : State) (a : Nat) (write : Bool) (sound : s.mem.bad = []) :
    ∃ l, s.cacheTouch .scrubber a write = s.withCache (s.homeOf a) l := by
  have stays : ∃ l, s = s.withCache (s.homeOf a) l := ⟨_, (s.withCache_self _).symm⟩
  simp only [State.cacheTouch, State.writeBack_clean s _ _ sound]
  split
  · exact stays
  split
  · exact stays
  split
  case h_1 hit => exact ⟨_, rfl⟩
  case h_2 miss =>
    split
    case h_2 unmapped => exact stays
    split
    · split
      · exact ⟨_, rfl⟩
      split
      · exact ⟨_, rfl⟩
      split
      · exact ⟨_, rfl⟩
      · exact stays
    · exact stays

/-! ### SCRUB_READ (R203, R205, R207) -/

/-- What the scrubber reads is a block of a guarded region. -/
theorem State.scrubs_guarded {s : State} {a : Nat} (scrubs : s.scrubs a = true) :
    sliceOf a = none ∧ ∃ r, s.mem.inForce.regionAt s.sbd.order a = some r ∧ r.guarded = true := by
  simp only [State.scrubs, Bool.and_eq_true, Option.isNone_iff_eq_none] at scrubs
  obtain ⟨⟨-, dram⟩, guarded⟩ := scrubs
  refine ⟨dram, ?_⟩
  simp only [State.isGuarded, dram] at guarded
  split at guarded
  · rename_i r region
    exact ⟨r, region, (Bool.and_eq_true_iff.1 guarded).1⟩
  · cases guarded

/-- A read of a whole DRAM block touches that block alone. -/
theorem blocksOf_dram {a : Nat} (dram : sliceOf a = none) (whole : blockOf a = a) : blocksOf a 64 = [a] := by
  have size : blockSize a = 64 := by simp [blockSize, dram]
  simp only [blockOf, size] at whole
  have one : (a + 64 - 1) / 64 - a / 64 + 1 = 1 := by omega
  simp only [blocksOf, size, one]
  simpa using whole

theorem State.inject_eq {s : State} {a n : Nat} (whole : blockOf a = a) (sound : s.mem.bad = []) (some_wrong : n ≠ 0) :
    s.inject a n = { s with mem := { s.mem with bad := [(a, n)] } } := by
  simp [State.inject, whole, some_wrong, sound, badOf, badSet]

/-- The wrong bytes of a block are found and corrected where there are up to three (R193). -/
theorem State.checkBlock_inject {s : State} {a n : Nat} (scrubs : s.scrubs a = true) (whole : blockOf a = a)
    (sound : s.mem.bad = []) (uncached : s.isCached a = false) (few : n ≤ 3) (some_wrong : n ≠ 0) :
    (s.inject a n).checkBlock a = (.corrected, s.inject a n) := by
  obtain ⟨dram, r, region, guarded⟩ := State.scrubs_guarded scrubs
  rw [State.inject_eq whole sound some_wrong]
  have uncached' : State.isCached { s with mem := { s.mem with bad := [(a, n)] } } a = false := uncached
  simp [State.checkBlock, badOf, some_wrong, dram, uncached', region, guarded, few]

/-- The notice of a corrected block that the scrubber has read (R203, R366). -/
def State.scrubNotice (s : State) (a : Nat) : ErrRep :=
  s.mkErr 0x0301 .notice srcMemory (a % 2 ^ 48 + s.channelField a * 2 ^ 48) [4]

/-- A block that the scrubber corrects is counted and reported, and no stored error stays (R203). -/
def State.scrubCorrects (s : State) (a : Nat) : State :=
  ((s.modDie (s.homeOf a) fun x => { x with cecnt := satAdd x.cecnt 1 }).raise (halfOfDie (s.homeOf a)) (s.scrubNotice a)).rowAdd
    4 (b2n (decide (4 ≤ (s.homeOf a).val))) 1

theorem State.memCorrected_inject {s : State} {a n : Nat} (whole : blockOf a = a) (sound : s.mem.bad = []) (some_wrong : n ≠ 0) :
    (s.inject a n).memCorrected .scrubber a = s.scrubCorrects a := by
  have none_left : badSet [(a, n)] a 0 = s.mem.bad := by simp [badSet, sound]
  rw [State.inject_eq whole sound some_wrong]
  simp only [State.memCorrected, State.modDie, none_left]
  rfl

/-- The state in which the scrubber's read of a block leaves it: as it was, or corrected. -/
def State.scrubbed (s : State) (a n : Nat) : State := if n = 0 then s else s.scrubCorrects a

theorem State.scrubbed_rest (s : State) (a n : Nat) :
    { s.scrubbed a n with mem := { (s.scrubbed a n).mem with dies := s.mem.dies }, evr := s.evr } = s := by
  unfold State.scrubbed
  split
  · rfl
  · unfold State.scrubCorrects
    cases halfOfDie (s.homeOf a) <;> rfl

theorem State.scrubbed_die (s : State) (a n : Nat) : (s.scrubbed a n).die (s.homeOf a) =
    { s.die (s.homeOf a) with
      cecnt := if n = 0 then (s.die (s.homeOf a)).cecnt else satAdd (s.die (s.homeOf a)).cecnt 1 } := by
  unfold State.scrubbed
  split
  · rfl
  · exact (State.raise_die ..).trans (State.modDie_die ..)

theorem State.scrubbed_registered (s : State) (a n : Nat) : ((s.scrubbed a n).half (halfOfDie (s.homeOf a))).registered =
    (s.half (halfOfDie (s.homeOf a))).registered ++ if n = 0 then [] else [s.scrubNotice a] := by
  unfold State.scrubbed
  split
  · exact (List.append_nil _).symm
  · unfold State.scrubCorrects
    cases halfOfDie (s.homeOf a) <;> rfl

theorem execScrubRead_scrubs {s : State} {a n : Nat} (scrubs : s.scrubs a = true) (whole : blockOf a = a)
    (sound : s.mem.bad = []) (uncached : s.isCached a = false) (few : n ≤ 3) :
    execScrubRead a n s = .next (((s.scrubbed a n).cacheTouch .scrubber a false).modDie (s.homeOf a) fun x =>
      { x with scrubq := w32 (localOf a / 256) }) := by
  have checks : (s.inject a n).checkBlocks .scrubber (blocksOf a 64) = (none, [], s.scrubbed a n) := by
    rw [blocksOf_dram (State.scrubs_guarded scrubs).1 whole]
    by_cases clean : n = 0
    · subst clean
      exact State.checkBlocks_clean s _ _ sound
    · simp only [State.checkBlocks, State.checkBlock_inject scrubs whole sound uncached few clean,
        State.memCorrected_inject whole sound clean, State.scrubbed, if_neg clean]
  simp [execScrubRead, scrubs, whole, State.homeRead, State.homeReadTo, checks]

/-! ### Ranges of a sparse store that are cleared -/

/-- A byte of a store from which the entries of some addresses have been taken. -/
theorem cellGet_filter (d : Byte) (m : List Host.Cell) (keep : Nat → Bool) (b : Nat) :
    cellGet d (m.filter fun x => keep x.1) b = if keep b then cellGet d m b else d := by
  induction m with
  | nil => simp [cellGet]
  | cons x r ih =>
    obtain ⟨a, v⟩ := x
    rw [List.filter_cons]
    by_cases e : a = b
    · subst e
      by_cases kept : keep a <;> simp [kept, cellGet, ih]
    · by_cases kept : keep a <;> simp [kept, cellGet, ih, e]

theorem cellGet_clearCells (m : List Host.Cell) (lo hi b : Nat) :
    cellGet 0 (clearCells m lo hi) b = if lo ≤ b ∧ b < hi then 0 else cellGet 0 m b := by
  refine (cellGet_filter 0 m (fun a => decide (a < lo) || decide (hi ≤ a)) b).trans ?_
  by_cases inside : lo ≤ b ∧ b < hi
  · rw [if_pos inside, if_neg (by simpa using inside)]
  · rw [if_neg inside, if_pos (by simp; omega)]

/-! ### Host ports without held requests (R414) -/

theorem State.drain_of_idle {s : State} (idleA : s.pciA.stalled = []) (idleB : s.pciB.stalled = []) : s.drain = s := by
  simp [State.drain, State.drainPort, idleA, idleB]

/-! ### LAYOUT_INIT_DONE (R197) -/

/-- DRAM holds zeros with valid codes, and the layout's change is done. -/
def State.initialised (s : State) : State :=
  { s with mem := { s.mem with layState := 0, layReason := 0, cells := clearCells s.mem.cells 0 0x020000000000,
                               bad := s.mem.bad.filter fun x => decide (0x020000000000 ≤ x.1) } }

theorem execLayoutInitDone_initialises {s : State} (idleA : s.pciA.stalled = []) (idleB : s.pciB.stalled = [])
    (runs : s.mem.layState = 1) (started : s.job.state ≠ .checking) : execLayoutInitDone s = .next s.initialised := by
  have done : s.layoutInitDone = s.initialised := by simp [State.layoutInitDone, runs, started, State.initialised]
  rw [execLayoutInitDone, done, State.drain_of_idle (s := s.initialised) idleA idleB]

/-! ### SLICE_MODE_CHANGE_DONE (R199) -/

theorem sliceOf_eq_some {k : Nat} (inWindow : k < 96) (b : Nat) : sliceOf b = some k ↔
    0x020000000000 + k * 0x02000000 ≤ b ∧ b < 0x020000000000 + k * 0x02000000 + 0x02000000 := by
  unfold sliceOf
  split
  · rw [Option.some_inj]; omega
  · simp only [reduceCtorEq, false_iff]; omega

/-- The bytes of some slices are cleared, and no other part of the state is. -/
structure SlicesCleared (s t : State) (cleared : Nat → Prop) : Prop where
  zeros : ∀ b k, sliceOf b = some k → cleared k → cellGet 0 t.mem.cells b = 0
  others : ∀ b, (∀ k, cleared k → sliceOf b ≠ some k) → cellGet 0 t.mem.cells b = cellGet 0 s.mem.cells b
  sound : s.mem.bad = [] → t.mem.bad = []
  rest : { t with mem := { t.mem with cells := s.mem.cells, bad := s.mem.bad } } = s

theorem State.clearSlice_cells (s : State) {k : Nat} (inWindow : k < 96) (b : Nat) :
    cellGet 0 (s.clearSlice k).mem.cells b = if sliceOf b = some k then 0 else cellGet 0 s.mem.cells b := by
  simp only [sliceOf_eq_some inWindow]
  exact cellGet_clearCells ..

/-- Slices of one die, cleared one after another. -/
theorem State.forEach_clearSlice (s : State) (d : DieIx) (js : List Nat) (small : ∀ j ∈ js, j < 12) :
    SlicesCleared s (s.forEach js fun s j => s.clearSlice (12 * d.val + j)) fun k => ∃ j ∈ js, k = 12 * d.val + j := by
  induction js generalizing s with
  | nil => exact ⟨fun _ _ _ ⟨_, mem, _⟩ => absurd mem List.not_mem_nil, fun _ _ => rfl, fun sound => sound, rfl⟩
  | cons j js ih =>
    have cells := s.clearSlice_cells (k := 12 * d.val + j) (by have := small j List.mem_cons_self; omega)
    have later := ih (s.clearSlice (12 * d.val + j)) fun i mem => small i (List.mem_cons_of_mem _ mem)
    refine ⟨?_, fun b outside => ?_, fun sound => ?_, ?_⟩
    · rintro b k slice ⟨i, mem, rfl⟩
      by_cases again : i ∈ js
      · exact later.zeros b _ slice ⟨i, again, rfl⟩
      · obtain rfl : i = j := (List.mem_cons.1 mem).resolve_right again
        refine (later.others b fun k ⟨e, memE, eq⟩ same => ?_).trans ((cells b).trans (if_pos slice))
        have : e = i := by rw [slice, Option.some_inj] at same; omega
        exact again (this ▸ memE)
    · refine (later.others b fun k ⟨i, mem, eq⟩ => outside k ⟨i, List.mem_cons_of_mem _ mem, eq⟩).trans ?_
      exact (cells b).trans (if_neg (outside _ ⟨j, List.mem_cons_self, rfl⟩))
    · exact later.sound (by simp [State.clearSlice, sound])
    · exact congrArg (fun t : State => { t with mem := { t.mem with cells := s.mem.cells, bad := s.mem.bad } }) later.rest

theorem mem_changedSlices {old new : BitVec 12} {j : Nat} :
    j ∈ changedSlices old new ↔ j < 12 ∧ old.getLsbD j ≠ new.getLsbD j := by
  simp [changedSlices]

/-- The slices of a die whose modes change are cleared (R199). -/
def State.clearChanged (s : State) (d : DieIx) (m : BitVec 12) : State :=
  s.forEach (changedSlices (s.die d).slicemode m) fun s j => s.clearSlice (12 * d.val + j)

theorem State.clearChanged_cleared (s : State) (d : DieIx) (m : BitVec 12) :
    SlicesCleared s (s.clearChanged d m) fun k => ∃ j ∈ changedSlices (s.die d).slicemode m, k = 12 * d.val + j :=
  s.forEach_clearSlice d _ fun _ mem => (mem_changedSlices.1 mem).1

/-- Where no stored block holds an error, the change of a die's slice modes clears the slices, sets the modes and may turn the die's
trace unit off (R199, R436). -/
theorem execSliceModeChangeDone_changes {s : State} {d : DieIx} {m : BitVec 12} (idleA : s.pciA.stalled = [])
    (idleB : s.pciB.stalled = []) (changing : (s.die d).slicenext = some m) (sound : s.mem.bad = []) :
    ∃ f, execSliceModeChangeDone d s =
      .next (((s.clearChanged d m).modDie d fun x => { x with slicemode := m, slicenext := none, cache := [] }).modTrace d f) := by
  have lines : s.forEach (s.die d).cache (fun s c => s.writeBack .scrubber c) = s :=
    List.foldlRecOn (motive := fun t => t = s) _ _ rfl fun t eq c _ => eq ▸ t.writeBack_clean _ c (eq ▸ sound)
  have rest := (s.clearChanged_cleared d m).rest
  have idle : ∀ f g, (((s.clearChanged d m).modDie d f).modTrace d g).drain = ((s.clearChanged d m).modDie d f).modTrace d g :=
    fun f g => State.drain_of_idle ((congrArg (fun t : State => t.pciA.stalled) rest).trans idleA)
      ((congrArg (fun t : State => t.pciB.stalled) rest).trans idleB)
  simp only [execSliceModeChangeDone, State.sliceModeDone, changing, lines]
  exact ⟨_, congrArg Host.Outcome.next (idle _ _)⟩

end Sys2Proof.Machine

namespace Sys2Proof.MemorySystem

open Sys2Proof.Machine Sys2Proof.Claim

/-- Settles O38: the scrubber's read leaves a corrected block without errors and touches one cache, an initialisation clears DRAM,
and a mode change clears the slices whose mode it changes. -/
theorem scrubAndInitialisationKeepOtherBytes : Obligations.ScrubAndInitialisationKeepOtherBytes := by
  refine fun s => ⟨fun a n scrubs whole sound uncached few => ?scrub, fun idleA idleB => ⟨fun runs started => ?layout,
    fun d m changing sound => ?slices⟩⟩
  case scrub =>
    have rest := s.scrubbed_rest a n
    have home : (s.scrubbed a n).homeOf a = s.homeOf a := (congrArg (fun t : State => t.homeOf a) rest :)
    have bad : (s.scrubbed a n).mem.bad = [] := (congrArg (fun t : State => t.mem.bad) rest :).trans sound
    obtain ⟨l, touched⟩ := (s.scrubbed a n).cacheTouch_scrubber a false bad
    have read := execScrubRead_scrubs scrubs whole sound uncached few
    rw [touched, home] at read
    refine ⟨_, read, (congrArg (fun t : State => t.mem.cells) rest :), bad, (congrArg State.plots rest :), ?_, ?_, ?_,
      (congrArg State.sync rest :), (congrArg State.kuf rest :), (congrArg State.job rest :)⟩
    · rw [State.modDie_die]
    · rw [State.modDie_die, State.withCache, State.modDie_die, State.scrubbed_die]
    · rw [State.modDie_half, State.withCache, State.modDie_half, State.scrubbed_registered]
      rfl
  case layout =>
    refine ⟨_, execLayoutInitDone_initialises idleA idleB runs started, rfl, rfl, fun b => ?_, fun x => ?_, rfl⟩
    · exact (cellGet_clearCells ..).trans (if_congr (by simp) rfl rfl)
    · simp [State.initialised]
  case slices =>
    obtain ⟨f, done⟩ := execSliceModeChangeDone_changes idleA idleB changing sound
    have c := s.clearChanged_cleared d m
    have die : ∀ e, (s.clearChanged d m).die e = s.die e := fun e => (congrArg (fun t : State => t.die e) c.rest :)
    refine ⟨_, done, ?_, fun e ne => ?_, fun b j slice small differs => ?_, fun b outside => ?_, c.sound sound, fun e ne => ?_,
      (congrArg State.plots c.rest :), (congrArg State.sync c.rest :), (congrArg State.kuf c.rest :),
      (congrArg State.evr c.rest :)⟩
    · rw [State.modTrace_die, State.modDie_die, die]
    · rw [State.modTrace_die, State.modDie_die_ne _ _ _ _ ne.symm, die]
    · exact c.zeros b _ slice ⟨j, mem_changedSlices.2 ⟨small, differs⟩, rfl⟩
    · refine c.others b ?_
      rintro k ⟨j, mem, rfl⟩
      obtain ⟨small, differs⟩ := mem_changedSlices.1 mem
      exact outside j small differs
    · rw [State.modTrace_trace_ne _ _ _ _ ne.symm, State.modDie_trace]
      exact (congrArg (fun t : State => t.trace e) c.rest :)

end Sys2Proof.MemorySystem
end

section
/-! Tokens on their way to their sync units: what an arrival and a tallied write leave alone, how a token meets its inbound entry,
and the statement about them (R211, R221-R223). -/

namespace Sys2Proof.Machine

open Sys2Proof.Claim

/-! ### What the work of one sync unit leaves alone -/

/-- Of the sync units only die d's differs, and no plot, no link and no part of the job does. -/
structure SyncOnly (s t : State) (d : DieIx) : Prop where
  units : OnlyUnit s t d
  plots : t.plots = s.plots
  job : t.job = s.job
  kuf : t.kuf = s.kuf

theorem SyncOnly.trans {s t u : State} {d : DieIx} (h : SyncOnly s t d) (g : SyncOnly t u d) : SyncOnly s u d :=
  ⟨fun e ne => (g.units e ne).trans (h.units e ne), g.plots.trans h.plots, g.job.trans h.job, g.kuf.trans h.kuf⟩

theorem State.modUnit_syncOnly (s : State) (d : DieIx) (f : SyncDie → SyncDie) : SyncOnly s (s.modUnit d f) d :=
  ⟨fun e ne => s.modUnit_unit_ne d e f ne.symm, rfl, rfl, rfl⟩

theorem State.countFree_syncOnly (s : State) (d : DieIx) (c : Nat) : SyncOnly s { s with freeCtr := c } d :=
  ⟨fun _ _ => rfl, rfl, rfl, rfl⟩

theorem State.raise_syncOnly (s : State) (d : DieIx) (h : Half) (e : ErrRep) : SyncOnly s (s.raise h e) d :=
  ⟨fun _ _ => State.raise_unit .., State.raise_plots .., State.raise_job .., State.raise_kuf ..⟩

@[simp] theorem State.traceDie_unit (s : State) (d : DieIx) (kind : BitVec 5) (d0 d1 : Nat) (e : DieIx) :
    (s.traceDie d kind d0 d1).unit e = s.unit e :=
  congrArg (fun c => c.2.1.get e) (s.traceDie_core d kind d0 d1)

theorem State.traceDie_syncOnly (s : State) (d e : DieIx) (kind : BitVec 5) (d0 d1 : Nat) :
    SyncOnly s (s.traceDie e kind d0 d1) d := by
  obtain ⟨-, -, -, job, -, -, kuf, -⟩ := (State.core_eq _ _).1 (s.traceDie_core e kind d0 d1)
  exact ⟨fun _ _ => s.traceDie_unit .., s.traceDie_plots .., job, kuf⟩

/-- An error of a sync unit is its one report where the recorder was as in `s` before. -/
theorem State.syncErr_reports {s u : State} (evr : u.evr = s.evr) (row : u.job.row = s.job.row) (d : DieIx) (code : BitVec 16)
    (sev : Severity) (lo hi : Nat) (det : List Nat) : Reports s (u.syncErr d code sev lo hi det) (halfOfDie d)
      [s.mkErr code sev srcSync (lo + hi * 2 ^ 32) det] := by
  have report : s.mkErr code sev srcSync (lo + hi * 2 ^ 32) det = u.mkErr code sev srcSync (lo + hi * 2 ^ 32) det := by
    rw [State.mkErr, State.mkErr, row]
  rw [report]
  exact State.raiseAll_reports evr (halfOfDie d) [_]

/-! ### TOKEN_ARRIVAL (R211) -/

/-- The state without the i-th token of those on their way. -/
def State.tokenTaken (s : State) (i : Nat) : State := { s with kuf := { s.kuf with transit := s.kuf.transit.eraseIdx i } }

theorem execTokenArrival_takes {s : State} {i : Nat} {x : TokenRec} (runs : s.smod.writing = false)
    (sent : s.kuf.transit[i]? = some x) (first : firstOfSource s i x) : execTokenArrival i s =
      .next (if x.ok then (s.tokenTaken i).modUnit (dieOfQueue x.queue) fun u => { u with inbox := u.inbox ++ [x] }
        else (s.tokenTaken i).syncErr (dieOfQueue x.queue) 0x0401 .jobFatal x.queue.toNat 0 [x.srcWord, x.tseq.toNat]) := by
  have none_before : ((s.kuf.transit.take i).any fun y =>
      y.kind = x.kind && y.src = x.src && dieOfQueue y.queue = dieOfQueue x.queue) = false :=
    List.any_eq_false.2 fun y mem => by simpa [and_assoc] using first y mem
  simp only [execTokenArrival, sent, none_before, runs, Bool.or_self, Bool.false_eq_true, if_false]
  split <;> rfl

/-! ### A token that its inbound entry accepts (R222, R224) -/

section
variable {s : State} {d : DieIx} {x : TokenRec}

theorem State.acceptRemote_syncOnly (s : State) (d : DieIx) (x : TokenRec) : SyncOnly s (s.acceptRemote d x) d := by
  unfold State.acceptRemote
  dsimp only
  split
  case h_1 entry =>
    split
    · exact s.raise_syncOnly ..
    split
    · exact s.modUnit_syncOnly ..
    · exact (s.modUnit_syncOnly ..).trans (State.traceDie_syncOnly ..)
  case h_2 absent =>
    split
    · exact s.modUnit_syncOnly ..
    split
    · exact s.raise_syncOnly ..
    · exact ((s.countFree_syncOnly ..).trans (State.modUnit_syncOnly ..)).trans (State.traceDie_syncOnly ..)

/-- A token that announces no bytes enters the inbox where no tally entry stands. -/
theorem State.acceptRemote_unannounced (bytes : x.bytes = 0) (empty : (s.unit d).tally = []) :
    (s.acceptRemote d x).unit d = { s.unit d with inbox := (s.unit d).inbox ++ [x] } := by
  simp [State.acceptRemote, SyncDie.heldBefore, bytes, empty]

variable {y : Tally} (one : (s.unit d).tally = [y]) (key : y.is x.src x.channel x.tseq = true)
include one key

/-- A token whose bytes have been tallied enters the inbox, and its tally entry is free. -/
theorem State.acceptRemote_tallied (early : y.tok = none) (all : y.tally = x.bytes.toNat) :
    (s.acceptRemote d x).unit d = { s.unit d with inbox := (s.unit d).inbox ++ [x], tally := [] } := by
  simp [State.acceptRemote, SyncDie.heldBefore, one, key, early, all]

/-- A token that misses announced bytes is held in its tally entry. -/
theorem State.acceptRemote_held (missing : y.tally < x.bytes.toNat) :
    (s.acceptRemote d x).unit d = { s.unit d with tally := [{ y with tok := some x, age := 0 }] } := by
  simp [State.acceptRemote, one, key, missing.ne, missing.not_gt]

end

/-! ### A remote token meets its inbound entry (R223) -/

/-- Changes the inbound entry in a slot. -/
def State.modInbound (s : State) (d : DieIx) (slot : Nat) (f : Inbound → Inbound) : State :=
  s.modUnit d fun u => { u with inbound := u.inbound.map fun y => if y.slot = slot then f y else y }

section
variable {s : State} {d : DieIx} {x : TokenRec} {e : Inbound}
  (found : (s.unit d).inbound.find? (fun e => e.node = x.src && e.channel = x.channel) = some e)
include found

theorem State.remoteToken_next (next : x.tseq = e.next) : s.remoteToken d x =
    (s.modInbound d e.slot fun y => { y with next := y.next + 1 }).acceptRemote d x := by
  simp [State.remoteToken, State.inboundEntry, found, next, State.modInbound]

theorem State.remoteToken_ahead (far : 0 < (x.tseq - e.next).toNat) (ahead : (x.tseq - e.next).toNat < 32768) :
    s.remoteToken d x =
      s.syncErr d 0x0401 .jobFatal (objDie d.val) (keyWord x.src x.channel) [e.next.toNat, x.tseq.toNat] := by
  simp only [State.remoteToken, State.inboundEntry, found]
  rw [if_neg far.ne', if_pos ahead]

theorem State.remoteToken_duplicate (before : 32768 ≤ (x.tseq - e.next).toNat) : s.remoteToken d x =
    ((s.modInbound d e.slot fun y => { y with dups := satAdd y.dups 1 }).modUnit d fun u =>
      { u with dupcnt := satAdd u.dupcnt 1 }).syncErr d 0x0402 .notice (objDie d.val) (keyWord x.src x.channel)
        [e.next.toNat, x.tseq.toNat] := by
  simp only [State.remoteToken, State.inboundEntry, found]
  rw [if_neg (by omega), if_neg (by omega)]
  rfl

theorem State.remoteToken_syncOnly : SyncOnly s (s.remoteToken d x) d := by
  by_cases next : x.tseq = e.next
  · rw [State.remoteToken_next found next]
    exact (s.modUnit_syncOnly ..).trans (State.acceptRemote_syncOnly ..)
  have far : (x.tseq - e.next).toNat ≠ 0 := fun zero =>
    next (BitVec.sub_eq_iff_eq_add.1 (BitVec.eq_of_toNat_eq zero) |>.trans (BitVec.zero_add _))
  by_cases ahead : (x.tseq - e.next).toNat < 32768
  · rw [State.remoteToken_ahead found (Nat.pos_of_ne_zero far) ahead]
    exact s.raise_syncOnly ..
  · rw [State.remoteToken_duplicate found (not_lt.1 ahead)]
    exact ((s.modUnit_syncOnly ..).trans (State.modUnit_syncOnly ..)).trans (State.raise_syncOnly ..)

end

/-- The state without the i-th remote token of those on their way, whose message counts as applied (R247). -/
def State.remoteTaken (s : State) (i : Nat) (mseq : BitVec 24) (x : TokenRec) : State :=
  { s with kuf := { s.kuf with remote := s.kuf.remote.eraseIdx i } }.rxApplied x.src x.channel mseq

theorem execRemoteTokenArrival_takes {s : State} {i : Nat} {mseq : BitVec 24} {x : TokenRec} (runs : s.smod.writing = false)
    (sent : s.kuf.remote[i]? = some (mseq, x)) (first : firstOfChannel s i x) (sound : x.ok = true) :
    execRemoteTokenArrival i s = .next ((s.remoteTaken i mseq x).remoteToken (dieOfQueue x.queue) x) := by
  have none_before : ((s.kuf.remote.take i).any fun y =>
      y.2.src = x.src && y.2.channel = x.channel && dieOfQueue y.2.queue = dieOfQueue x.queue) = false :=
    List.any_eq_false.2 fun y mem => by simpa [and_assoc] using first y mem
  simp only [execRemoteTokenArrival, sent, none_before, runs, sound, Bool.or_self, Bool.false_eq_true, if_false, if_true]
  rfl

/-! ### ANNOUNCED_WRITE_ACK (R222) -/

/-- Where there are slots and none is in use, a free one is found. -/
theorem freeSlot_of_unused {n : Nat} (slots : 0 < n) (c : Nat) : ∃ i, i < n ∧ freeSlot [] n c = some i := by
  have index : Config.freeNat c % n < n := Nat.mod_lt _ slots
  exact ⟨_, index, by simp [freeSlot, slots.ne', index]⟩

/-- The unit of die d has reported an error, or it alone has changed, beside the count of free values. -/
def ReportsOrChanges (s t : State) (d : DieIx) : Prop :=
  (∃ e, t = s.raise (halfOfDie d) e) ∨ ∃ c f, t = { s with freeCtr := c }.modUnit d f

theorem State.tallyAdd_cases (s : State) (a : TallyAdd) : ReportsOrChanges s (s.tallyAdd a) a.die := by
  unfold State.tallyAdd
  dsimp only
  split
  case h_1 entry =>
    exact iteInduction (motive := fun t => ReportsOrChanges s t a.die) (fun _ => .inl ⟨_, rfl⟩)
      fun _ => .inr ⟨s.freeCtr, _, rfl⟩
  case h_2 absent =>
    refine iteInduction (motive := fun t => ReportsOrChanges s t a.die) (fun _ => .inl ⟨_, rfl⟩) fun _ => ?_
    split
    · exact .inl ⟨_, rfl⟩
    · exact .inr ⟨_, _, rfl⟩

theorem State.tallyAdd_syncOnly (s : State) (a : TallyAdd) : SyncOnly s (s.tallyAdd a) a.die := by
  obtain ⟨e, report⟩ | ⟨c, f, change⟩ := s.tallyAdd_cases a
  · rw [report]
    exact s.raise_syncOnly ..
  · rw [change]
    exact (s.countFree_syncOnly a.die c).trans (State.modUnit_syncOnly ..)

theorem State.tallyAdd_mem (s : State) (a : TallyAdd) : (s.tallyAdd a).mem = s.mem := by
  obtain ⟨e, report⟩ | ⟨c, f, change⟩ := s.tallyAdd_cases a
  · rw [report, State.raise_mem]
  · rw [change, State.modUnit_mem]

/-- The bytes join the tally of their key while its token has not come. -/
theorem State.tallyAdd_joins {s : State} {a : TallyAdd} {y : Tally} (one : (s.unit a.die).tally = [y])
    (key : y.is a.node a.channel a.tseq = true) (early : y.tok = none) : s.tallyAdd a =
      s.modUnit a.die fun u => { u with tally := [{ y with tally := y.tally + a.bytes }] } := by
  simp [State.tallyAdd, one, key, early, State.modUnit]

/-- The first bytes of a key of which no token has come begin a tally in a free slot. -/
theorem State.tallyAdd_begins {s : State} {a : TallyAdd} (empty : (s.unit a.die).tally = [])
    (unmet : ∀ e ∈ (s.unit a.die).inbound, ¬(e.node = a.node ∧ e.channel = a.channel)) : ∃ n, n < 1024 ∧ s.tallyAdd a =
      { s with freeCtr := s.freeCtr + 1 }.modUnit a.die fun u => { u with tally :=
        [{ slot := n, node := a.node, channel := a.channel, tseq := a.tseq, tally := a.bytes, tok := none, age := 0 }] } := by
  obtain ⟨n, small, free⟩ := freeSlot_of_unused (n := 1024) (by decide) s.freeCtr
  have no_entry : (s.unit a.die).inbound.find? (fun e => e.node = a.node && e.channel = a.channel) = none :=
    List.find?_eq_none.2 fun e mem => by simpa using unmet e mem
  have unit : State.unit { s with freeCtr := s.freeCtr + 1 } a.die = s.unit a.die := rfl
  exact ⟨n, small, by simp [State.tallyAdd, empty, no_entry, free, State.modUnit, unit]⟩

/-- The state without the oldest of the writes to tally, of which `r` stay. -/
def State.addTaken (s : State) (r : List TallyAdd) : State := { s with kuf := { s.kuf with adds := r } }

theorem execAnnouncedWriteAck_tallies {s : State} {a : TallyAdd} {r : List TallyAdd} (runs : s.smod.writing = false)
    (adds : s.kuf.adds = a :: r) : execAnnouncedWriteAck s = .next ((s.addTaken r).tallyAdd a) := by
  simp [execAnnouncedWriteAck, adds, runs, State.addTaken]

end Sys2Proof.Machine

namespace Sys2Proof.TokenQueues

open Sys2Proof.Machine Sys2Proof.Claim

/-- Settles O39: an arrival takes the token from its way, and the unit of its queue, its inbound entry or the tally says where it
goes. -/
theorem tokensReachTheirSyncUnit : Obligations.TokensReachTheirSyncUnit := by
  refine fun s runs => ⟨fun i x sent first => ?arrival, fun i n x e sent first sound found _ => ?remote, fun a r adds => ?write⟩
  case arrival =>
    refine ⟨_, execTokenArrival_takes runs sent first, ?_, fun ok => ?_, fun broken => ?_⟩
    · split
      · rfl
      · exact State.raise_kuf ..
    · rw [if_pos ok]
      exact ⟨State.modUnit_unit .., ((s.tokenTaken i).modUnit_syncOnly ..).units, rfl⟩
    · rw [if_neg (by simp [broken])]
      exact ⟨State.syncErr_reports (u := s.tokenTaken i) rfl rfl ..,
        congrArg (fun t : State => { t with kuf := s.kuf }) (State.raise_elsewhere (s.tokenTaken i) _ _)⟩
  case remote =>
    have found' : ((s.remoteTaken i n x).unit (dieOfQueue x.queue)).inbound.find?
        (fun e => e.node = x.src && e.channel = x.channel) = some e := found
    have only := State.remoteToken_syncOnly found'
    refine ⟨_, execRemoteTokenArrival_takes runs sent first sound, (congrArg Kuf.remote only.kuf :), only.units, only.plots,
      only.job, (congrArg Kuf.ports only.kuf :), fun next v expected => ?_, fun ⟨far, ahead⟩ => ?_, fun before => ?_⟩
    · rw [State.remoteToken_next found' next]
      have unit : ((s.remoteTaken i n x).modInbound (dieOfQueue x.queue) e.slot fun y => { y with next := y.next + 1 }).unit
          (dieOfQueue x.queue) = v := (State.modUnit_unit ..).trans expected.symm
      rw [← unit]
      exact ⟨State.acceptRemote_unannounced, fun y one key early =>
        ⟨State.acceptRemote_tallied one key early, State.acceptRemote_held one key⟩⟩
    · rw [State.remoteToken_ahead found' far ahead]
      exact ⟨State.raise_sync .., State.syncErr_reports (u := s.remoteTaken i n x) rfl rfl ..⟩
    · rw [State.remoteToken_duplicate found' before]
      refine ⟨?_, ?_, State.syncErr_reports rfl rfl ..⟩
      · rw [State.syncErr, State.raise_unit, State.modUnit_unit, State.modInbound, State.modUnit_unit]
        rfl
      · rw [State.syncErr, State.raise_unit, State.modUnit_unit, State.modInbound, State.modUnit_unit]
        rfl
  case write =>
    have only := (s.addTaken r).tallyAdd_syncOnly a
    refine ⟨_, execAnnouncedWriteAck_tallies runs adds, only.kuf, only.units, only.plots, State.tallyAdd_mem .., only.job,
      fun y one key early => ?_, fun empty unmet => ?_⟩
    · rw [State.tallyAdd_joins (s := s.addTaken r) one key early]
      exact ⟨State.modUnit_unit .., rfl⟩
    · obtain ⟨n, small, begun⟩ := State.tallyAdd_begins (s := s.addTaken r) empty unmet
      rw [begun]
      exact ⟨n, small, State.modUnit_unit .., rfl⟩

end Sys2Proof.TokenQueues
end

section
/-! The sync cycle: time passes on the units, a token enters its queue, and a watch whose queue has filled is released; and the
statement about it (R208, R213, R216, R217, R225, R228, R235). -/

namespace Sys2Proof.Machine

open Sys2Proof.Claim

/-! ### Changes of sync units, one after another -/

theorem State.modUnit_self {s : State} {d : DieIx} {f : SyncDie → SyncDie} (same : f (s.unit d) = s.unit d) : s.modUnit d f = s := by
  have sync : s.sync.set d.val (s.unit d) = s.sync := by simp [State.unit, Vector.get_eq_getElem]
  rw [State.modUnit, same, sync]

theorem State.modUnit_modUnit (s : State) (d : DieIx) (f g : SyncDie → SyncDie) :
    (s.modUnit d f).modUnit d g = s.modUnit d fun u => g (f u) := by
  rw [State.modUnit, State.modUnit_unit]
  simp only [State.modUnit, Vector.set_set]

theorem State.forEach_modUnit_unit (s : State) {l : List DieIx} (distinct : l.Nodup) (f : SyncDie → SyncDie) (e : DieIx) :
    (s.forEach l fun s d => s.modUnit d f).unit e = if e ∈ l then f (s.unit e) else s.unit e := by
  induction l generalizing s with
  | nil => rfl
  | cons d l ih =>
    obtain ⟨new, distinct⟩ := List.nodup_cons.1 distinct
    refine (ih (s.modUnit d f) distinct).trans ?_
    by_cases here : d = e
    · subst here
      simp [new]
    · simp [s.modUnit_unit_ne d e f here, Ne.symm here]

/-- A change that depends on the state by what no change of a unit touches is the same at each unit. -/
theorem State.forEach_modUnit_stable (s : State) (l : List DieIx) {f : State → SyncDie → SyncDie}
    (stable : ∀ t d g, f (t.modUnit d g) = f t) :
    (s.forEach l fun t d => t.modUnit d (f t)) = s.forEach l fun t d => t.modUnit d (f s) := by
  induction l generalizing s with
  | nil => rfl
  | cons d l ih => exact (ih (s.modUnit d (f s))).trans (by rw [stable]; rfl)

/-- The same change of every unit. -/
theorem State.forEach_modUnit (s : State) {f : State → SyncDie → SyncDie} (stable : ∀ t d g, f (t.modUnit d g) = f t) :
    (s.forEach allDies fun t d => t.modUnit d (f t)) = { s with sync := s.sync.map (f s) } := by
  have rest := State.forEach_keeps (fun t : State => { t with sync := s.sync }) s allDies (fun t d => t.modUnit d (f s))
    fun _ _ => rfl
  have units : (s.forEach allDies fun t d => t.modUnit d (f s)).sync = s.sync.map (f s) := Vector.ext fun i small => by
    have unit := s.forEach_modUnit_unit (List.nodup_finRange 8) (f s) ⟨i, small⟩
    rw [if_pos (List.mem_finRange _)] at unit
    simpa [State.unit, Vector.get_eq_getElem, allDies] using unit
  rw [s.forEach_modUnit_stable allDies stable, ← units]
  exact congrArg (fun t : State => { t with sync := (s.forEach allDies fun t d => t.modUnit d (f s)).sync }) rest

/-- Where no item of a list changes the state, the list does not. -/
theorem State.forEach_idle {α : Type} {s : State} {l : List α} {f : State → α → State} (idle : ∀ a ∈ l, f s a = s) :
    s.forEach l f = s :=
  List.foldlRecOn (motive := fun t => t = s) l f rfl fun _ eq a mem => eq ▸ idle a mem

/-- A step that each item of a list but one leaves undone, before that one's and after it. -/
theorem State.forEach_one {α : Type} {s : State} {l : List α} {f : State → α → State} {a : α} (mem : a ∈ l) (distinct : l.Nodup)
    (before : ∀ b, b ≠ a → f s b = s) (after : ∀ b, b ≠ a → f (f s a) b = f s a) : s.forEach l f = f s a := by
  obtain ⟨front, back, rfl⟩ := List.append_of_mem mem
  obtain ⟨-, ⟨notBack, -⟩, apart⟩ := by simpa only [List.nodup_append, List.nodup_cons] using distinct
  have notFront : ∀ b ∈ front, b ≠ a := fun b h => apart b h a List.mem_cons_self
  have reached : front.foldl f s = s := State.forEach_idle fun b h => before b (notFront b h)
  rw [State.forEach, List.foldl_append, reached]
  exact State.forEach_idle fun b h => after b fun eq => notBack (eq ▸ h)

/-! ### Trace units that are off (R434) -/

/-- No trace unit is enabled. -/
def State.untraced (s : State) : Prop := ∀ d, (s.trace d).en = false

theorem State.traceOn_untraced {s : State} (off : s.untraced) (d : DieIx) (r : TraceRec) (trig : Bool) :
    s.traceOn d r trig = s := by
  simp [State.traceOn, off d]

theorem State.finish_untraced {s : State} (off : s.untraced) (p : PlotIx) :
    ∃ q : Seq, q.busy = .ready ∧ s.finish p = s.modSeq p fun _ => q := by
  simp only [State.finish, State.finishAt, State.seqAt, State.tracePlot, s.traceOn_untraced off, State.modSeq_eq,
    State.modPlot_modPlot]
  exact ⟨_, rfl, rfl⟩

/-- A sample reaches the recorder alone. -/
theorem State.sample_eq (s : State) (h : Half) (q : Fin 8) (layer oper : Id16) (row : Row) (v : Nat) :
    ∃ r, s.sample h q layer oper row v = { s with evr := r } := by
  unfold State.sample
  split
  · exact ⟨s.evr, rfl⟩
  dsimp only
  split <;> cases h <;> exact ⟨_, rfl⟩

/-! ### A token enters its queue (R213) -/

/-- A queue with room takes the payload; beside it only the engines' lists of tokens may change. -/
theorem State.enterQueue_room {s : State} {d : DieIx} {x : TokenRec} (off : s.untraced)
    (room : (s.queue d (inDie x.queue)).length < 64) : ∃ j r, s.enterQueue d x =
      { s.setQueue d (inDie x.queue) (s.queue d (inDie x.queue) ++ [x.payload]) with job := j, rcv := r } := by
  have off' : (s.setQueue d (inDie x.queue) (s.queue d (inDie x.queue) ++ [x.payload])).untraced := off
  simp only [State.enterQueue, if_neg (not_le.2 room), State.traceDie, State.traceOn_untraced off', State.engineAdd]
  split
  · exact ⟨_, _, rfl⟩
  split <;> exact ⟨_, _, rfl⟩

/-- A full queue discards the token, which SYN_OVFLOG and a job-fatal error show. -/
theorem State.enterQueue_full {s : State} {d : DieIx} {x : TokenRec} (full : 64 ≤ (s.queue d (inDie x.queue)).length) :
    s.enterQueue d x = (s.modUnit d fun u => { u with ovfKind := x.kind, ovfQueue := BitVec.ofNat 12 (inDie x.queue).val }).syncErr
      d 0x0401 .jobFatal (queueNumber d (inDie x.queue).val) 0 [x.srcWord, x.tseq.toNat] := by
  simp only [State.enterQueue, if_pos full]
  rfl

/-! ### Watches (R216, R218, R235) -/

theorem watchedQueue {w : Watch} {k : Fin 4096} (object : w.object.toNat = k.val) : Fin.ofNat 4096 w.object.toNat = k :=
  Fin.ext (by simp [object])

/-- The state in which a watch on queue k has taken its tokens and its slot is free. -/
def State.consumed (s : State) (d : DieIx) (k : Fin 4096) (w : Watch) : State :=
  s.modUnit d fun u =>
    { u with queues := u.queues.set k.val ((s.queue d k).drop w.consume)
             watches := u.watches.filter fun y => y.slot ≠ w.slot }

theorem State.consumed_unit (s : State) (d : DieIx) (k : Fin 4096) (w : Watch) : (s.consumed d k w).unit d =
    { s.unit d with queues := (s.unit d).queues.set k.val ((s.queue d k).drop w.consume)
                    watches := (s.unit d).watches.filter fun y => y.slot ≠ w.slot } :=
  vector_get_set_self ..

theorem State.consumed_only (s : State) (d : DieIx) (k : Fin 4096) (w : Watch) : OnlyUnit s (s.consumed d k w) d :=
  fun _ ne => vector_get_set_ne _ _ _ _ ne.symm

theorem State.consumed_queue (s : State) (d : DieIx) (k : Fin 4096) (w : Watch) :
    (s.consumed d k w).queue d k = (s.queue d k).drop w.consume := by
  rw [State.queue, State.consumed_unit]
  exact vector_get_set_self ..

theorem State.consumed_queue_ne (s : State) (d : DieIx) {j k : Fin 4096} (w : Watch) (ne : j ≠ k) :
    (s.consumed d k w).queue d j = s.queue d j := by
  rw [State.queue, State.consumed_unit]
  exact vector_get_set_ne _ _ _ _ ne.symm

/-- What a plot's registers show of the release of its watch on queue k (R235). -/
def State.shown (s : State) (d : DieIx) (k : Fin 4096) (x : Plot) : Plot :=
  { x with waitpay := (s.queue d k).headD 0, waitinfo := waitInfo 1 (s.queue d k).length (queueNumber d k.val) }

/-- The release of a plot's WAIT takes the tokens, shows the outcome at the plot and moves a sequencer on that waits there. -/
theorem State.release_eq {s : State} {d : DieIx} {k : Fin 4096} {w : Watch} (off : s.untraced) (wait : w.kind = .wait)
    (object : w.object.toNat = k.val) : ∃ r q,
    s.release d w = { s.consumed d k w with evr := r }.modPlot w.plot (fun x => { s.shown d k x with seq := q }) ∧
      ((s.plot w.plot).seq.busy = .watching → q.busy = .ready) := by
  have taken : ((s.setQueue d k ((s.queue d k).drop w.consume)).modUnit d
      fun u => { u with watches := u.watches.filter fun y => y.slot ≠ w.slot }) = s.consumed d k w := State.modUnit_modUnit ..
  have off' : (s.consumed d k w).untraced := off
  obtain ⟨r, sampled⟩ := State.sample_eq ((s.consumed d k w).modPlot w.plot (s.shown d k)) (halfOfDie d) 1 w.pos.layer w.pos.oper
    w.pos.row (w.elapsed / 100)
  have sampled : _ = { s.consumed d k w with evr := r }.modPlot w.plot (s.shown d k) := sampled
  have released : s.release d w =
      if (({ s.consumed d k w with evr := r }.modPlot w.plot (s.shown d k)).plot w.plot).seq.busy = .watching
      then ({ s.consumed d k w with evr := r }.modPlot w.plot (s.shown d k)).finish w.plot
      else { s.consumed d k w with evr := r }.modPlot w.plot (s.shown d k) := by
    rw [← sampled]
    simp only [State.release, wait, watchedQueue object, taken, State.traceDie, State.traceOn_untraced off']
    rfl
  rw [released, State.modPlot_plot]
  split
  case isTrue waits =>
    obtain ⟨q, ready, done⟩ := State.finish_untraced (s := { s.consumed d k w with evr := r }.modPlot w.plot (s.shown d k)) off w.plot
    exact ⟨r, q, done.trans (State.modPlot_modPlot ..), fun _ => ready⟩
  case isFalse idle => exact ⟨r, (s.plot w.plot).seq, rfl, fun waits => absurd waits idle⟩

/-- What the release of a plot's WAIT on queue k does: CONSUME tokens leave the queue, the slot is free, the plot shows the oldest
payload and the outcome, and its sequencer goes on. -/
structure Released (s t : State) (d : DieIx) (k : Fin 4096) (w : Watch) : Prop where
  queue : t.queue d k = (s.queue d k).drop w.consume
  queues : ∀ j, j ≠ k → t.queue d j = s.queue d j
  watches : (t.unit d).watches = (s.unit d).watches.filter fun y => y.slot ≠ w.slot
  inbox : (t.unit d).inbox = (s.unit d).inbox
  tally : (t.unit d).tally = (s.unit d).tally
  units : OnlyUnit s t d
  smod : t.smod = s.smod
  kuf : t.kuf = s.kuf
  mem : t.mem = s.mem
  waitpay : (t.plot w.plot).waitpay = (s.queue d k).headD 0
  waitinfo : (t.plot w.plot).waitinfo = waitInfo 1 (s.queue d k).length (queueNumber d k.val)
  resumes : (s.plot w.plot).seq.busy = .watching → (t.plot w.plot).seq.busy = .ready
  others : ∀ p, p ≠ w.plot → t.plot p = s.plot p

theorem State.release_released {s : State} {d : DieIx} {k : Fin 4096} {w : Watch} (off : s.untraced) (wait : w.kind = .wait)
    (object : w.object.toNat = k.val) : Released s (s.release d w) d k w := by
  obtain ⟨r, q, released, resumes⟩ := State.release_eq (d := d) off wait object
  have unit := s.consumed_unit d k w
  have plot := State.modPlot_plot { s.consumed d k w with evr := r } w.plot fun x => { s.shown d k x with seq := q }
  rw [released]
  exact {
    queue := s.consumed_queue d k w
    queues := fun j ne => s.consumed_queue_ne d w ne
    watches := (congrArg SyncDie.watches unit :)
    inbox := (congrArg SyncDie.inbox unit :)
    tally := (congrArg SyncDie.tally unit :)
    units := s.consumed_only d k w
    smod := rfl
    kuf := rfl
    mem := rfl
    waitpay := congrArg Plot.waitpay plot
    waitinfo := congrArg Plot.waitinfo plot
    resumes := fun waits => (congrArg (fun x => x.seq.busy) plot).trans (resumes waits)
    others := fun p ne => State.modPlot_plot_ne _ _ _ _ ne.symm }

/-- Watches of plots' WAITs whose queues hold too few tokens stay (R218). -/
theorem State.evaluate_unmet {s : State} {d : DieIx} (unmet : ∀ w ∈ (s.unit d).watches,
    w.kind = .wait ∧ (s.queue d (Fin.ofNat 4096 w.object.toNat)).length < w.n) : s.evaluate d = s :=
  State.forEach_idle fun w mem => by
    obtain ⟨wait, few⟩ := unmet w mem
    simp only [wait, if_neg (not_le.2 few)]

theorem State.evaluate_met {s : State} {d : DieIx} {w : Watch} (one : (s.unit d).watches = [w]) (wait : w.kind = .wait)
    {k : Fin 4096} (object : w.object.toNat = k.val) (met : w.n ≤ (s.queue d k).length) : s.evaluate d = s.release d w := by
  simp only [State.evaluate, State.forEach, one, List.foldl_cons, List.foldl_nil, wait, watchedQueue object]
  exact if_pos met

/-! ### Steps 1 to 5 on one die (R217) -/

/-- The unit of die d has taken its inbox. -/
def State.inboxTaken (s : State) (d : DieIx) : State := s.modUnit d fun u => { u with inbox := [] }

theorem State.inboxTaken_queue (s : State) (d : DieIx) (q : Fin 4096) : (s.inboxTaken d).queue d q = s.queue d q := by
  simp only [State.queue, State.inboxTaken, State.modUnit_unit]

/-- Of a unit that has nothing to do but take its inbox, a cycle enters those tokens and evaluates the watches. -/
theorem State.syncDie_enters {s t : State} {d : DieIx} (still : Still { s.unit d with inbox := [] })
    (entered : ((s.inboxTaken d).forEach (sortKey (entryKey (s.unit d)) (s.unit d).inbox)
      fun s x => s.enterQueue d x) = t) (after : Still (t.unit d)) : s.syncDie d = t.evaluate d := by
  obtain ⟨hand, -, tally, -, -, -⟩ := still
  obtain ⟨-, -, -, regs, withdraws, dbg⟩ := after
  have leaving : (s.unit d).leaving = [] := by
    simp only [show (s.unit d).tally = [] from tally, SyncDie.leaving]
    rfl
  have taken : (s.modUnit d fun u => { u with inbox := [], tally := u.tally.filter fun e => e.slot ∉ ([] : List Nat) }) =
      s.inboxTaken d := by
    simp [State.inboxTaken, State.modUnit]
  have settled : (t.modUnit d fun u => { u with withdraws := [], regs := [], dbgWithdraws := [] }) = t :=
    State.modUnit_self (by rw [← regs, ← withdraws, ← dbg])
  have noTask : s.handOp d = s := by simp [State.handOp, show (s.unit d).qbusy = false from hand]
  simp only [State.syncDie, noTask, leaving, List.map_nil, List.filterMap_nil, List.append_nil, taken, entered, settled, regs,
    withdraws, dbg]
  rfl

/-- A unit with nothing to do and no watch stays as it is. -/
theorem State.syncDie_still {s : State} {d : DieIx} (still : Still (s.unit d)) (none : (s.unit d).watches = []) :
    s.syncDie d = s := by
  have empty : s.inboxTaken d = s := State.modUnit_self (by rw [← still.inbox])
  obtain ⟨hand, inbox, tally, regs, withdraws, dbg⟩ := still
  rw [State.syncDie_enters (t := s) ⟨hand, rfl, tally, regs, withdraws, dbg⟩ (by rw [inbox]; exact empty)
    ⟨hand, inbox, tally, regs, withdraws, dbg⟩, State.evaluate_unmet (by simp [none])]

/-- No timer of a unit has come to the end of its choice (R225). -/
theorem State.syncExpire_young {s : State} {d : DieIx} (tally : (s.unit d).tally = [])
    (young : ∀ w ∈ (s.unit d).watches, w.elapsed < (w.timeout + 2) * 1000) : s.syncExpire d = s := by
  have watches : (s.forEach (s.unit d).watches fun t w =>
      if t.smod.writing then t
      else if w.elapsed ≥ (w.timeout + 2) * 1000 && (t.unit d).watches.any (fun x => x.slot = w.slot) then t.expire d w else t) = s :=
    State.forEach_idle fun w mem => by
      have early := young w mem
      split
      · rfl
      · exact if_neg fun h => by simp only [Bool.and_eq_true, decide_eq_true_eq] at h; omega
  simp only [State.syncExpire, watches, tally]
  rfl

/-! ### Time passes (R225, R432) -/

theorem SyncDie.tick_still {u : SyncDie} (still : Still u) (none : u.watches = []) (n : Nat) (halted : Bool) :
    u.tick n halted = u := by
  have watches : (if halted then u.watches else u.watches.map fun w => { w with elapsed := w.elapsed + n }) = u.watches := by
    simp [none]
  have tally : (u.tally.map fun e => if e.tok.isSome then { e with age := e.age + n } else e) = u.tally := by
    simp [still.tally]
  rw [SyncDie.tick, watches, tally]

/-- The state after `n` sync cycles' time, before the units' work. -/
def State.ticked (s : State) (n : Nat) : State :=
  { s.tickModule n with sync := s.sync.map fun u => u.tick n false }

theorem State.forEach_tick {s : State} (going : s.job.halt = .none) (n : Nat) :
    ((s.tickModule n).forEach allDies fun t d => t.modUnit d fun u => u.tick n (t.job.halt = .boundary)) = s.ticked n := by
  have halted : decide ((s.tickModule n).job.halt = .boundary) = false := decide_eq_false fun now => nomatch going.symm.trans now
  refine (State.forEach_modUnit _ (f := fun t u => u.tick n (t.job.halt = .boundary)) fun _ _ _ => rfl).trans ?_
  rw [halted]
  rfl

theorem State.ticked_unit (s : State) (n : Nat) (d : DieIx) : (s.ticked n).unit d = (s.unit d).tick n false := by
  simp [State.unit, State.ticked, Vector.get_eq_getElem]

theorem State.ticked_untraced {s : State} (off : s.untraced) (n : Nat) : (s.ticked n).untraced := by
  intro d
  have := off d
  simp only [State.trace, State.ticked, State.tickModule]
  split <;> simpa [State.trace, Vector.get_eq_getElem] using this

theorem State.ticked_watches (s : State) (n : Nat) (d : DieIx) : ((s.ticked n).unit d).watches =
    (s.unit d).watches.map fun w => { w with elapsed := w.elapsed + n } := by
  rw [State.ticked_unit]
  rfl

theorem State.ticked_queues (s : State) (n : Nat) (d : DieIx) : ((s.ticked n).unit d).queues = (s.unit d).queues := by
  rw [State.ticked_unit]
  rfl

theorem State.ticked_queue (s : State) (n : Nat) (d : DieIx) (q : Fin 4096) : (s.ticked n).queue d q = s.queue d q :=
  congrArg (fun v => v.get q) (s.ticked_queues n d)

/-! ### A token that enters in a cycle -/

/-- The unit of die d has taken token x from its inbox into its queue, and the engines that read queues stand at `j` and `r`. -/
def State.tokenEntered (s : State) (d : DieIx) (x : TokenRec) (j : Job) (r : Recovery) : State :=
  { s.modUnit d fun u => { u with
      inbox := [], queues := u.queues.set (inDie x.queue).val (s.queue d (inDie x.queue) ++ [x.payload]) } with job := j, rcv := r }

theorem State.tokenEntered_unit (s : State) (d : DieIx) (x : TokenRec) (j : Job) (r : Recovery) :
    (s.tokenEntered d x j r).unit d = { s.unit d with
      inbox := [], queues := (s.unit d).queues.set (inDie x.queue).val (s.queue d (inDie x.queue) ++ [x.payload]) } :=
  vector_get_set_self ..

theorem State.tokenEntered_only (s : State) (d : DieIx) (x : TokenRec) (j : Job) (r : Recovery) :
    OnlyUnit s (s.tokenEntered d x j r) d :=
  fun _ ne => vector_get_set_ne _ _ _ _ ne.symm

theorem State.tokenEntered_queue (s : State) (d : DieIx) (x : TokenRec) (j : Job) (r : Recovery) :
    (s.tokenEntered d x j r).queue d (inDie x.queue) = s.queue d (inDie x.queue) ++ [x.payload] := by
  rw [State.queue, State.tokenEntered_unit]
  exact vector_get_set_self ..

theorem State.tokenEntered_queue_ne (s : State) (d : DieIx) (x : TokenRec) (j : Job) (r : Recovery) {k : Fin 4096}
    (ne : k ≠ inDie x.queue) : (s.tokenEntered d x j r).queue d k = s.queue d k := by
  rw [State.queue, State.tokenEntered_unit]
  exact vector_get_set_ne _ _ _ _ ne.symm

/-- The unit of die d has taken token x from its inbox and discarded it, which SYN_OVFLOG and a job-fatal error show. -/
def State.tokenDiscarded (s : State) (d : DieIx) (x : TokenRec) : State :=
  (s.modUnit d fun u => { u with inbox := [], ovfKind := x.kind, ovfQueue := BitVec.ofNat 12 (inDie x.queue).val }).syncErr
    d 0x0401 .jobFatal (queueNumber d (inDie x.queue).val) 0 [x.srcWord, x.tseq.toNat]

theorem State.tokenDiscarded_unit (s : State) (d : DieIx) (x : TokenRec) : (s.tokenDiscarded d x).unit d =
    { s.unit d with inbox := [], ovfKind := x.kind, ovfQueue := BitVec.ofNat 12 (inDie x.queue).val } :=
  (State.raise_unit ..).trans (State.modUnit_unit ..)

theorem State.tokenDiscarded_syncOnly (s : State) (d : DieIx) (x : TokenRec) : SyncOnly s (s.tokenDiscarded d x) d :=
  (s.modUnit_syncOnly ..).trans (State.raise_syncOnly ..)

theorem State.tokenDiscarded_reports {s u : State} (evr : u.evr = s.evr) (row : u.job.row = s.job.row) (d : DieIx) (x : TokenRec) :
    Reports s (u.tokenDiscarded d x) (halfOfDie d)
      [s.mkErr 0x0401 .jobFatal srcSync (queueNumber d (inDie x.queue).val) [x.srcWord, x.tseq.toNat]] := by
  have report := State.syncErr_reports (s := s)
    (u := u.modUnit d fun u => { u with inbox := [], ovfKind := x.kind, ovfQueue := BitVec.ofNat 12 (inDie x.queue).val }) evr row
    d 0x0401 .jobFatal (queueNumber d (inDie x.queue).val) 0 [x.srcWord, x.tseq.toNat]
  rwa [Nat.zero_mul, Nat.add_zero] at report

section
variable {s : State} {d : DieIx} {x : TokenRec} (still : Still { s.unit d with inbox := [] }) (inbox : (s.unit d).inbox = [x])
include still inbox

theorem State.syncDie_room (off : s.untraced) (room : (s.queue d (inDie x.queue)).length < 64) :
    ∃ j r, s.syncDie d = (s.tokenEntered d x j r).evaluate d := by
  have queue := s.inboxTaken_queue d (inDie x.queue)
  obtain ⟨j, r, enters⟩ := State.enterQueue_room (s := s.inboxTaken d) (d := d) (x := x) off (queue ▸ room)
  rw [queue, State.setQueue, State.inboxTaken, State.modUnit_modUnit] at enters
  refine ⟨j, r, State.syncDie_enters still (by rw [inbox]; exact enters) ?_⟩
  exact s.tokenEntered_unit d x j r ▸ ⟨still.hand, rfl, still.tally, still.regs, still.withdraws, still.dbg⟩

theorem State.syncDie_full (full : 64 ≤ (s.queue d (inDie x.queue)).length) :
    s.syncDie d = (s.tokenDiscarded d x).evaluate d := by
  have queue := s.inboxTaken_queue d (inDie x.queue)
  have enters := State.enterQueue_full (s := s.inboxTaken d) (d := d) (x := x) (queue ▸ full)
  rw [State.inboxTaken, State.modUnit_modUnit] at enters
  refine State.syncDie_enters still (by rw [inbox]; exact enters) ?_
  rw [s.tokenDiscarded_unit]
  exact ⟨still.hand, rfl, still.tally, still.regs, still.withdraws, still.dbg⟩

end

/-! ### The outcomes of a cycle -/

theorem execSyncCycle_frozen {s : State} (writing : s.smod.writing = true) (n : Nat) :
    execSyncCycle n s = .next (s.tickModule n) :=
  if_pos writing

/-- Die d's unit has one token to enter and no other work, no other unit has any, no trace unit is on, and time goes on. -/
structure TokenAlone (s : State) (d : DieIx) (x : TokenRec) : Prop where
  runs : s.smod.writing = false
  going : s.job.halt = .none
  off : s.untraced
  still : Still { s.unit d with inbox := [] }
  inbox : (s.unit d).inbox = [x]
  others : ∀ e, e ≠ d → Still (s.unit e) ∧ (s.unit e).watches = []

namespace TokenAlone

variable {s : State} {d : DieIx} {x : TokenRec} (h : TokenAlone s d x) (n : Nat)
include h

theorem ticked_only : OnlyUnit s (s.ticked n) d :=
  fun e ne => (s.ticked_unit n e).trans (SyncDie.tick_still (h.others e ne).1 (h.others e ne).2 n false)

/-- Time leaves the die's work as it is. -/
theorem ticked_still : Still { (s.ticked n).unit d with inbox := [] } := by
  obtain ⟨hand, -, tally, regs, withdraws, dbg⟩ := h.still
  rw [State.ticked_unit]
  exact ⟨hand, rfl, congrArg (List.map _) tally, regs, withdraws, dbg⟩

theorem ticked_inbox : ((s.ticked n).unit d).inbox = [x] := by
  rw [State.ticked_unit]
  exact h.inbox

/-- Where one die alone has work, a cycle does that work and no more, if no timer ends. -/
theorem execSyncCycle_eq {t : State} (cycle : (s.ticked n).syncDie d = t) (only : OnlyUnit s t d) (tally : (t.unit d).tally = [])
    (young : ∀ w ∈ (t.unit d).watches, w.elapsed < (w.timeout + 2) * 1000) : execSyncCycle n s = .next t := by
  have before : ∀ e, e ≠ d → (s.ticked n).syncDie e = s.ticked n := fun e ne => by
    have unit := h.ticked_only n e ne
    exact State.syncDie_still (unit ▸ (h.others e ne).1) (unit ▸ (h.others e ne).2)
  have after : ∀ e, e ≠ d → t.syncDie e = t := fun e ne =>
    State.syncDie_still (only e ne ▸ (h.others e ne).1) (only e ne ▸ (h.others e ne).2)
  have units : ((s.ticked n).forEach allDies fun u e => u.syncDie e) = t := by
    subst cycle
    exact State.forEach_one (List.mem_finRange d) (List.nodup_finRange 8) before after
  have expire : ∀ e, t.syncExpire e = t := fun e => by
    by_cases here : e = d
    · exact here ▸ State.syncExpire_young tally young
    · obtain ⟨still, none⟩ := h.others e here
      rw [← only e here] at still none
      exact State.syncExpire_young still.tally (by simp [none])
  have expired : (t.forEach allDies fun u e => if u.smod.writing then u else u.syncExpire e) = t :=
    State.forEach_idle fun e _ => by simp [expire]
  have awake : (s.tickModule n).smod.writing = false := h.runs
  simp only [execSyncCycle, awake, Bool.false_eq_true, if_false, State.forEach_tick h.going, units, expired]

end TokenAlone

/-- What a cycle in which one token enters die d's queue k does whatever becomes of the token: time goes on, and no other unit, no
other queue, no link and no byte of memory changes. -/
structure Cycled (s t : State) (n : Nat) (d : DieIx) (k : Fin 4096) : Prop where
  cycles : t.smod.cycles = s.smod.cycles + n
  units : OnlyUnit s t d
  kuf : t.kuf = s.kuf
  mem : t.mem = s.mem
  inbox : (t.unit d).inbox = []
  queues : ∀ j, j ≠ k → (t.unit d).queues.get j = (s.unit d).queues.get j

namespace TokenAlone

variable {s : State} {d : DieIx} {x : TokenRec} (h : TokenAlone s d x) (n : Nat)
include h

/-- A full queue discards the token (R213). -/
theorem discards (full : 64 ≤ (s.queue d (inDie x.queue)).length) (unwatched : (s.unit d).watches = []) :
    ∃ t, execSyncCycle n s = .next t ∧ Cycled s t n d (inDie x.queue) ∧ t.plots = s.plots ∧
      t.queue d (inDie x.queue) = s.queue d (inDie x.queue) ∧ Reports s t (halfOfDie d)
        [s.mkErr 0x0401 .jobFatal srcSync (queueNumber d (inDie x.queue).val) [x.srcWord, x.tseq.toNat]] := by
  have here := (s.ticked n).tokenDiscarded_unit d x
  have only := (s.ticked n).tokenDiscarded_syncOnly d x
  have watches : (((s.ticked n).tokenDiscarded d x).unit d).watches = [] := by
    rw [here, s.ticked_watches, unwatched]
    rfl
  have queues : (((s.ticked n).tokenDiscarded d x).unit d).queues = (s.unit d).queues := by
    rw [here, s.ticked_queues]
  have cycle := State.syncDie_full (h.ticked_still n) (h.ticked_inbox n) (by rwa [s.ticked_queue])
  rw [State.evaluate_unmet (by simp [watches])] at cycle
  have units : OnlyUnit s ((s.ticked n).tokenDiscarded d x) d := fun e ne => (only.units e ne).trans (h.ticked_only n e ne)
  refine ⟨_, h.execSyncCycle_eq n cycle units (here ▸ (h.ticked_still n).tally) (by simp [watches]), ⟨?_, units, only.kuf,
    State.raise_mem .., congrArg SyncDie.inbox here, fun j _ => by rw [queues]⟩, only.plots, by rw [State.queue, queues]; rfl,
    State.tokenDiscarded_reports rfl rfl d x⟩
  rw [State.tokenDiscarded, State.syncErr, State.raise_smod]
  rfl

/-! A queue with room: the state `(s.ticked n).tokenEntered d x j r` before the watches are evaluated. -/

theorem syncDie_room (room : (s.queue d (inDie x.queue)).length < 64) :
    ∃ j r, (s.ticked n).syncDie d = ((s.ticked n).tokenEntered d x j r).evaluate d :=
  State.syncDie_room (h.ticked_still n) (h.ticked_inbox n) (State.ticked_untraced h.off n) (by rwa [s.ticked_queue])

theorem entered_only (j : Job) (r : Recovery) : OnlyUnit s ((s.ticked n).tokenEntered d x j r) d :=
  fun e ne => ((s.ticked n).tokenEntered_only d x j r e ne).trans (h.ticked_only n e ne)

theorem entered_tally (j : Job) (r : Recovery) : (((s.ticked n).tokenEntered d x j r).unit d).tally = [] := by
  rw [State.tokenEntered_unit]
  exact (h.ticked_still n).tally

omit h

theorem entered_queue (j : Job) (r : Recovery) : ((s.ticked n).tokenEntered d x j r).queue d (inDie x.queue) =
    s.queue d (inDie x.queue) ++ [x.payload] := by
  rw [State.tokenEntered_queue, s.ticked_queue]

theorem entered_queue_ne (j : Job) (r : Recovery) {k : Fin 4096} (ne : k ≠ inDie x.queue) :
    ((s.ticked n).tokenEntered d x j r).queue d k = s.queue d k := by
  rw [State.tokenEntered_queue_ne _ _ _ _ _ ne, s.ticked_queue]

theorem entered_watches (j : Job) (r : Recovery) : (((s.ticked n).tokenEntered d x j r).unit d).watches =
    (s.unit d).watches.map fun w => { w with elapsed := w.elapsed + n } := by
  rw [State.tokenEntered_unit, s.ticked_watches]

/-- A queue with room takes the token, and watches that it does not satisfy stay (R213, R218). -/
theorem enters (h : TokenAlone s d x) (room : (s.queue d (inDie x.queue)).length < 64) (unmet : ∀ w ∈ (s.unit d).watches,
      w.kind = .wait ∧ w.object.toNat = (inDie x.queue).val ∧ (s.queue d (inDie x.queue)).length + 1 < w.n ∧
      w.elapsed + n < (w.timeout + 2) * 1000) :
    ∃ t, execSyncCycle n s = .next t ∧ Cycled s t n d (inDie x.queue) ∧ t.plots = s.plots ∧ t.evr = s.evr ∧
      t.queue d (inDie x.queue) = s.queue d (inDie x.queue) ++ [x.payload] ∧
      (t.unit d).watches = (s.unit d).watches.map fun w => { w with elapsed := w.elapsed + n } := by
  obtain ⟨j, r, cycle⟩ := h.syncDie_room n room
  have stays : ((s.ticked n).tokenEntered d x j r).evaluate d = (s.ticked n).tokenEntered d x j r := by
    refine State.evaluate_unmet fun w mem => ?_
    rw [entered_watches] at mem
    obtain ⟨w, inside, rfl⟩ := List.mem_map.1 mem
    obtain ⟨wait, object, few, -⟩ := unmet w inside
    refine ⟨wait, ?_⟩
    rw [watchedQueue object, entered_queue, List.length_append]
    exact few
  have young : ∀ w ∈ (((s.ticked n).tokenEntered d x j r).unit d).watches, w.elapsed < (w.timeout + 2) * 1000 := by
    intro w mem
    rw [entered_watches] at mem
    obtain ⟨w, inside, rfl⟩ := List.mem_map.1 mem
    obtain ⟨-, -, -, early⟩ := unmet w inside
    exact early
  have only := h.entered_only n j r
  refine ⟨_, h.execSyncCycle_eq n (cycle.trans stays) only (h.entered_tally n j r) young,
    ⟨rfl, only, rfl, rfl, ?_, fun k ne => entered_queue_ne n j r ne⟩, rfl, rfl, entered_queue n j r, entered_watches n j r⟩
  rw [State.tokenEntered_unit]

/-- A watch of a plot's WAIT that the token satisfies is released (R216, R235). -/
theorem releases (h : TokenAlone s d x) {w : Watch} (room : (s.queue d (inDie x.queue)).length < 64)
    (one : (s.unit d).watches = [w]) (wait : w.kind = .wait) (object : w.object.toNat = (inDie x.queue).val)
    (met : w.n ≤ (s.queue d (inDie x.queue)).length + 1) :
    ∃ t, execSyncCycle n s = .next t ∧ Cycled s t n d (inDie x.queue) ∧
      t.queue d (inDie x.queue) = (s.queue d (inDie x.queue) ++ [x.payload]).drop w.consume ∧ (t.unit d).watches = [] ∧
      (t.plot w.plot).waitpay = (s.queue d (inDie x.queue) ++ [x.payload]).headD 0 ∧
      (t.plot w.plot).waitinfo = waitInfo 1 ((s.queue d (inDie x.queue)).length + 1) (queueNumber d (inDie x.queue).val) ∧
      ((s.plot w.plot).seq.busy = .watching → (t.plot w.plot).seq.busy = .ready) ∧ ∀ p, p ≠ w.plot → t.plot p = s.plot p := by
  obtain ⟨j, r, cycle⟩ := h.syncDie_room n room
  have off : ((s.ticked n).tokenEntered d x j r).untraced := State.ticked_untraced h.off n
  have watches := entered_watches (s := s) (d := d) (x := x) n j r
  rw [one] at watches
  have queue := entered_queue (s := s) (d := d) (x := x) n j r
  rw [State.evaluate_met watches wait object (by rw [queue, List.length_append]; exact met)] at cycle
  have done := State.release_released (d := d) (w := { w with elapsed := w.elapsed + n }) off wait object
  have free : ((((s.ticked n).tokenEntered d x j r).release d { w with elapsed := w.elapsed + n }).unit d).watches = [] := by
    rw [done.watches, watches]
    simp
  have only : OnlyUnit s _ d := fun e ne => (done.units e ne).trans (h.entered_only n j r e ne)
  refine ⟨_, h.execSyncCycle_eq n cycle only (done.tally.trans (h.entered_tally n j r)) (by simp [free]),
    ⟨congrArg SyncMod.cycles done.smod, only, done.kuf, done.mem, ?inbox,
      fun k ne => (done.queues k ne).trans (entered_queue_ne n j r ne)⟩,
    done.queue.trans (by rw [queue]), free, done.waitpay.trans (by rw [queue]), done.waitinfo.trans (by rw [queue]; simp), done.resumes,
    done.others⟩
  rw [done.inbox, State.tokenEntered_unit]

end TokenAlone

end Sys2Proof.Machine

namespace Sys2Proof.TokenQueues

open Sys2Proof.Machine Sys2Proof.Claim

/-- Settles O40: time passes, the token enters its queue or is discarded, and a watch whose queue holds N tokens is released. -/
theorem syncCycleEntersTokensAndReleasesWatches : Obligations.SyncCycleEntersTokensAndReleasesWatches := by
  refine fun s n => ⟨fun writing => ⟨_, execSyncCycle_frozen writing n, rfl, rfl, rfl, rfl, rfl, rfl⟩,
    fun d x l runs going off still inbox watches others q k hk hq fits => ?_⟩
  subst hk hq
  have h : TokenAlone s d x := ⟨runs, going, fun e => (off e).1, still, inbox, others⟩
  by_cases room : (s.queue d (inDie x.queue)).length < 64
  case neg =>
    obtain rfl : l = [] := fits.resolve_right fun ⟨_, _, _, _, fit, _⟩ => room fit
    obtain ⟨t, step, c, plots, queue, reports⟩ := h.discards n (not_lt.1 room) watches
    exact ⟨t, step, c.cycles, c.units, c.kuf, c.mem, c.inbox, c.queues,
      fun _ => ⟨plots, fun fit => absurd fit room, fun _ => ⟨queue, reports⟩⟩, nofun⟩
  case pos =>
    by_cases met : ∃ w ∈ l, w.n ≤ (s.queue d (inDie x.queue)).length + 1
    case pos =>
      obtain ⟨w, mem, met⟩ := met
      obtain rfl | ⟨w, rfl, wait, object, -, -⟩ := fits
      · cases mem
      obtain rfl := List.mem_singleton.1 mem
      obtain ⟨t, step, c, queue, free, pay, info, resumes, plots⟩ := h.releases n room watches wait object met
      refine ⟨t, step, c.cycles, c.units, c.kuf, c.mem, c.inbox, c.queues, nofun, fun v one => ?_⟩
      obtain rfl := List.singleton_inj.1 one
      exact ⟨fun _ => ⟨queue, free, pay, info, resumes, plots⟩, fun few => absurd few (not_lt.2 met)⟩
    case neg =>
      have unmet : ∀ w ∈ (s.unit d).watches, w.kind = .wait ∧ w.object.toNat = (inDie x.queue).val ∧
          (s.queue d (inDie x.queue)).length + 1 < w.n ∧ w.elapsed + n < (w.timeout + 2) * 1000 := by
        rw [watches]
        intro w mem
        obtain rfl | ⟨v, rfl, wait, object, -, early⟩ := fits
        · cases mem
        obtain rfl := List.mem_singleton.1 mem
        exact ⟨wait, object, not_le.1 fun few => met ⟨w, mem, few⟩, early⟩
      obtain ⟨t, step, c, plots, evr, queue, stays⟩ := h.enters n room unmet
      rw [watches] at stays
      refine ⟨t, step, c.cycles, c.units, c.kuf, c.mem, c.inbox, c.queues,
        fun _ => ⟨plots, fun _ => ⟨queue, evr⟩, fun full => absurd room (not_lt.2 full)⟩, fun w one => ?_⟩
      subst one
      exact ⟨fun few => absurd ⟨w, List.mem_singleton_self w, few⟩ met, fun _ => ⟨queue, stays, plots⟩⟩

end Sys2Proof.TokenQueues
end

section
/-! Kufort ports: changes of one port, training, retraining and declarations of ports as down, and the statements about them (R238,
R240, R243, R244, R249, R260). -/

namespace Sys2Proof.Machine

open Sys2Proof.Claim

/-! ### Changes of one port -/

theorem State.modKport_modKport (s : State) (k : KPort) (f g : KufPort → KufPort) :
    (s.modKport k f).modKport k g = s.modKport k fun x => g (f x) := by
  rw [State.modKport, State.modKport_kport]
  simp only [State.modKport, Vector.set_set]

theorem State.modKport_onlyPort (s : State) (k : KPort) (f : KufPort → KufPort) : OnlyPort s (s.modKport k f) k s.kuf.route :=
  ⟨rfl, fun j ne => s.modKport_kport_ne k j f ne.symm⟩

theorem State.onlyPort_refl (s : State) (k : KPort) : OnlyPort s s k s.kuf.route := ⟨rfl, fun _ _ => rfl⟩

/-- An answer that changes port `k` and nothing else. -/
theorem answer_changes_port {o : Host.Outcome State Fault Refusal} {s : State} {k : KPort} {f : KufPort → KufPort}
    (run : o = .next (s.modKport k f)) :
    ∃ t, o = .next t ∧ t.kport k = f (s.kport k) ∧ OnlyPort s t k s.kuf.route :=
  ⟨_, run, s.modKport_kport k f, s.modKport_onlyPort k f⟩

theorem onlyPort_trans {s t u : State} {k : KPort} {r q : Option RouteTable} (first : OnlyPort s t k r) (second : OnlyPort t u k q) :
    OnlyPort s u k q := by
  refine ⟨?_, fun j ne => (second.ports j ne).trans (first.ports j ne)⟩
  rw [second.rest, first.rest]

/-! ### Training (R238) -/

section Training

variable {s : State} {k : KPort}

theorem execPortTrainingStateDone_signal (live : s.evr.fallow = false) (state : (s.kport k).state = .signal) :
    execPortTrainingStateDone k s = .next (s.modKport k fun x => { x with state := .equalise }) := by
  simp [execPortTrainingStateDone, live, state]

theorem execPortTrainingStateDone_equalise (live : s.evr.fallow = false) (state : (s.kport k).state = .equalise) :
    execPortTrainingStateDone k s = .next (s.modKport k fun x => { x with state := .align }) := by
  simp [execPortTrainingStateDone, live, state]

theorem execPortTrainingStateDone_align (live : s.evr.fallow = false) (state : (s.kport k).state = .align) :
    execPortTrainingStateDone k s = .next (s.modKport k fun x => { x with state := .ident, identOk := false }) := by
  simp [execPortTrainingStateDone, live, state]

theorem execPortTrainingStateDone_ident (live : s.evr.fallow = false) (state : (s.kport k).state = .ident)
    (passed : (s.kport k).identOk = true) : execPortTrainingStateDone k s = .next (s.modKport k fun x =>
      { x with state := .active, first := false, fails := 0, resend := x.replay, lastReq := none }) := by
  simp [execPortTrainingStateDone, live, state, passed]

theorem training_of_inTraining {x : KufPort} (training : inTraining x) :
    (decide (x.state = .signal) || decide (x.state = .equalise) || decide (x.state = .align) || decide (x.state = .ident)) = true := by
  simpa [inTraining, or_assoc] using training

theorem execPortStateBoundExceeded_again (live : s.evr.fallow = false) (training : inTraining (s.kport k))
    (few : (s.kport k).first = true ∨ (s.kport k).fails < 2) :
    execPortStateBoundExceeded k s =
      .next (s.modKport k fun x => { x with state := .signal, fails := if x.first then 0 else x.fails + 1 }) := by
  have spared : (!(s.kport k).first && decide ((s.kport k).fails ≥ 2)) = false := by
    rcases few with first | few
    · simp [first]
    · simp [few]
  simp only [execPortStateBoundExceeded, training_of_inTraining training, live, spared, Bool.not_true, Bool.or_self,
    Bool.false_eq_true, if_false]

theorem execPortStateBoundExceeded_down (live : s.evr.fallow = false) (training : inTraining (s.kport k))
    (retraining : (s.kport k).first = false) (many : 2 ≤ (s.kport k).fails) :
    execPortStateBoundExceeded k s = .next (s.declareDown k) := by
  simp only [execPortStateBoundExceeded, training_of_inTraining training, live, retraining, many, Bool.not_true, Bool.or_self,
    Bool.false_eq_true, if_false, decide_true, Bool.not_false, Bool.and_self, if_true]

theorem execPortDeclaredDown_down (live : s.evr.fallow = false) (training : inTraining (s.kport k))
    (retraining : (s.kport k).first = false) : execPortDeclaredDown k s = .next (s.declareDown k) := by
  simp only [execPortDeclaredDown, training_of_inTraining training, live, retraining, Bool.not_false, Bool.and_self, if_true]

theorem execDownFlit_down {b : List Byte} (live : s.evr.fallow = false) (head : (s.kport k).ctrlHead 4 = some b) :
    execDownFlit k s = .next ((s.dropCtrl k).declareDown k) := by
  simp [execDownFlit, head, live]

theorem execCodewordLockLost_active (live : s.evr.fallow = false) (active : (s.kport k).state = .active) :
    execCodewordLockLost k s = .next (s.modKport k fun x => { x with retrainDue := true }) := by
  simp [execCodewordLockLost, live, active]

theorem execRetraining_active (live : s.evr.fallow = false) (active : (s.kport k).state = .active)
    (due : (s.kport k).retrainDue = true) : execRetraining k s = .next (s.retrain k) := by
  simp [execRetraining, live, active, due]

theorem execIdentityAnswerTimeout_active (live : s.evr.fallow = false) (active : (s.kport k).state = .active)
    (waits : (s.kport k).identWait = true) : execIdentityAnswerTimeout k s = .next (s.retrain k) := by
  simp [execIdentityAnswerTimeout, live, active, waits]

end Training

/-! ### Routes that follow a port (R260) -/

theorem State.switchRoutes_kport (s : State) (k : KPort) :
    (s.switchRoutes k).kport k = { s.kport k with altuse := true } :=
  s.modKport_kport k fun x => { x with altuse := true }

theorem State.switchRoutes_onlyPort (s : State) (k : KPort) : OnlyPort s (s.switchRoutes k) k (offPort s k) :=
  ⟨rfl, (s.modKport_onlyPort k fun x => { x with altuse := true }).ports⟩

/-- A port changes, and its destinations use their alternates. -/
theorem State.modKport_switchRoutes_onlyPort (s : State) (k : KPort) (f : KufPort → KufPort) :
    OnlyPort s ((s.modKport k f).switchRoutes k) k (offPort s k) :=
  onlyPort_trans (s.modKport_onlyPort k f) ((s.modKport k f).switchRoutes_onlyPort k)

theorem State.modKport_switchRoutes_kport (s : State) (k : KPort) (f : KufPort → KufPort) :
    ((s.modKport k f).switchRoutes k).kport k = { f (s.kport k) with altuse := true } := by
  rw [State.switchRoutes_kport, State.modKport_kport]

/-- An answer that retrains port `k` (R244, R260). -/
theorem answer_retrains {o : Host.Outcome State Fault Refusal} {s : State} {k : KPort} (run : o = .next (s.retrain k)) :
    ∃ t, o = .next t ∧ OnlyPort s t k (offPort s k) ∧ t.kport k = { s.kport k with
      state := .equalise, retrainDue := false, first := false, retrains := satAdd (s.kport k).retrains 1, identOk := false
      identWait := false, altuse := true } :=
  ⟨_, run, s.modKport_switchRoutes_onlyPort k _, s.modKport_switchRoutes_kport k _⟩

/-! ### A port that is down (R244, R249, R258) -/

/-- What messages into the links leave alone while port `k` is down. -/
def State.besideDown (s : State) (k : KPort) := (s.plots, s.mem, s.sync, s.job, s.kuf.route, s.kport k)

theorem State.raise_besideDown (s : State) (h : Half) (e : ErrRep) (k : KPort) : (s.raise h e).besideDown k = s.besideDown k := by
  cases h <;> rfl

/-- No route leads over a port that is declared down. -/
theorem State.routeOf_ne_failed {s : State} {node : BitVec 12} {j k : KPort} (route : s.routeOf node = some j)
    (down : (s.kport k).state = .failed) : j ≠ k := by
  rintro rfl
  simp only [State.routeOf] at route
  split at route
  · cases route
  · split at route
    · simpa [down] using List.find?_some route
    · cases route

theorem State.sendOn_besideDown {s : State} {k : KPort} (down : (s.kport k).state = .failed) (m : List Byte) :
    (s.sendOn m).2.besideDown k = s.besideDown k := by
  simp only [State.sendOn]
  split
  next j route => simp only [State.besideDown, State.txPush_ne s m j k (State.routeOf_ne_failed route down)]; rfl
  next => exact s.raise_besideDown _ _ k

theorem State.resendMsg_besideDown {s : State} {k : KPort} (down : (s.kport k).state = .failed) (node : BitVec 12)
    (ch : BitVec 8) (m : SentMsg) : (s.resendMsg node ch m).besideDown k = s.besideDown k := by
  simp only [State.resendMsg]
  split
  · rfl
  · split
    · exact State.raise_besideDown _ _ _ k
    · exact State.sendOn_besideDown down m.bytes

/-- Steps that leave alone what they may not touch while port `k` is down, one for each item of a list. -/
theorem State.forEach_besideDown {α : Type} {s : State} {k : KPort} (down : (s.kport k).state = .failed) (l : List α)
    {f : State → α → State} (keeps : ∀ t a, (t.kport k).state = .failed → (f t a).besideDown k = t.besideDown k) :
    (s.forEach l f).besideDown k = s.besideDown k := by
  refine List.foldlRecOn (motive := fun t => t.besideDown k = s.besideDown k) l f rfl fun t kept a _ => ?_
  have same : t.kport k = s.kport k := congrArg (fun p => p.2.2.2.2.2) kept
  exact (keeps t a (same ▸ down)).trans kept

/-! ### A port is declared down (R244, R249, R260) -/

/-- A port that is declared down. -/
def KufPort.down (x : KufPort) : KufPort :=
  { x with state := .failed, sendDown := true, replay := [], resend := [], retrainDue := false, identWait := false
           altuse := true, txq := Vector.replicate 3 [], txrest := Vector.replicate 3 [] }

/-- Port `k` is down and reported; messages that left by it have not been sent again. -/
def State.portDown (s : State) (k : KPort) : State :=
  ((s.modKport k fun x =>
    { x with state := .failed, sendDown := true, replay := [], resend := [], retrainDue := false, identWait := false,
             txq := Vector.replicate 3 [], txrest := Vector.replicate 3 [] }).switchRoutes k).portErr k []

theorem State.portDown_besideDown (s : State) (k : KPort) :
    (s.portDown k).besideDown k = (s.plots, s.mem, s.sync, s.job, offPort s k, (s.kport k).down) := by
  rw [State.portDown, State.portErr, State.raise_besideDown, State.besideDown, State.modKport_switchRoutes_kport]
  rfl

theorem State.portDown_kport_ne (s : State) {j k : KPort} (ne : j ≠ k) : (s.portDown k).kport j = s.kport j := by
  rw [State.portDown, State.portErr, State.raise_kport]
  exact (s.modKport_switchRoutes_onlyPort k _).ports j ne

theorem State.portDown_registered (s : State) (k : KPort) :
    ((s.portDown k).half (halfOfDie (dieOfPort k))).registered = (s.half (halfOfDie (dieOfPort k))).registered ++
      [s.mkErr 0x0501 .recoverable srcKufort k.val []] := by
  rw [State.portDown, State.portErr, State.raise_half]
  exact congrArg (fun r : RecHalf => r.registered ++ _) (State.half_of_evr rfl _)

theorem State.portDown_tx (s : State) (k : KPort) : (s.portDown k).kuf.tx = s.kuf.tx := by
  rw [State.portDown, State.portErr, State.raise_kuf]
  rfl

theorem State.declareDown_eq (s : State) (k : KPort) : s.declareDown k = (s.portDown k).forEach (s.portDown k).kuf.tx fun s x =>
    s.forEach (x.buffer.filter fun m => m.port = some k) fun s m => s.resendMsg x.node x.channel m := rfl

/-- The messages that left by the port go out again, and none of them by it. -/
theorem State.declareDown_besideDown (s : State) (k : KPort) :
    (s.declareDown k).besideDown k = (s.plots, s.mem, s.sync, s.job, offPort s k, (s.kport k).down) := by
  have parts := s.portDown_besideDown k
  have down : ((s.portDown k).kport k).state = .failed := congrArg (fun p => p.2.2.2.2.2.state) parts
  rw [State.declareDown_eq, ← parts]
  exact State.forEach_besideDown down _ fun t x down => State.forEach_besideDown down _ fun t m down =>
    State.resendMsg_besideDown down x.node x.channel m

/-- Where no message that awaits its acknowledgement left by the port, none is sent again. -/
theorem State.declareDown_alone {s : State} {k : KPort} (alone : ∀ y ∈ s.kuf.tx, ∀ m ∈ y.buffer, m.port ≠ some k) :
    s.declareDown k = s.portDown k := by
  rw [State.declareDown_eq, s.portDown_tx]
  refine State.forEach_idle fun y mem => ?_
  have none : (y.buffer.filter fun m => m.port = some k) = [] := by simpa using alone y mem
  rw [none]
  rfl

end Sys2Proof.Machine

namespace Sys2Proof.KufortLinks

open Sys2Proof.Machine Sys2Proof.Claim

/-- Settles O28: each step of a port's training changes that port alone, and a retraining also turns its destinations to their
alternates. -/
theorem portsTrainAndRetrain : Obligations.PortsTrainAndRetrain := by
  rintro s k x live rfl
  exact ⟨fun state => answer_changes_port (execPortTrainingStateDone_signal live state),
    fun state => answer_changes_port (execPortTrainingStateDone_equalise live state),
    fun state => answer_changes_port (execPortTrainingStateDone_align live state),
    fun state passed => answer_changes_port (execPortTrainingStateDone_ident live state passed),
    fun training few => answer_changes_port (execPortStateBoundExceeded_again live training few),
    fun active => answer_changes_port (execCodewordLockLost_active live active),
    fun active due => answer_retrains (execRetraining_active live active due),
    fun active waits => answer_retrains (execIdentityAnswerTimeout_active live active waits)⟩

/-- Settles O29: whichever way a port is declared down, the messages that go out again leave it and its table of routes alone, since no
route leads over a port that is down. -/
theorem portsAreDeclaredDown : Obligations.PortsAreDeclaredDown := by
  rintro s k x i live rfl ways
  obtain ⟨u, run, only, port⟩ : ∃ u, exec i s = .next (u.declareDown k) ∧ OnlyPort s u k s.kuf.route ∧
      u.kport k = { s.kport k with ctrl := if i = .downFlit k then (s.kport k).ctrl.tail else (s.kport k).ctrl } := by
    obtain ⟨rfl, training, retraining, many⟩ | ⟨rfl, training, retraining⟩ | ⟨rfl, b, head⟩ := ways
    · exact ⟨s, execPortStateBoundExceeded_down live training retraining many, s.onlyPort_refl k, rfl⟩
    · exact ⟨s, execPortDeclaredDown_down live training retraining, s.onlyPort_refl k, rfl⟩
    · exact ⟨s.dropCtrl k, execDownFlit_down live head, s.modKport_onlyPort k _, by rw [if_pos rfl]; exact s.modKport_kport k _⟩
  have same : (u.plots, u.mem, u.sync, u.job, offPort u k) = (s.plots, s.mem, s.sync, s.job, offPort s k) := by
    rw [only.rest]
    rfl
  have tx : u.kuf.tx = s.kuf.tx := by rw [only.rest]
  have parts := u.declareDown_besideDown k
  simp only [State.besideDown, Prod.mk.injEq] at parts same
  obtain ⟨plots, mem, sync, job, route, down⟩ := parts
  obtain ⟨plots', mem', sync', job', route'⟩ := same
  refine ⟨_, run, by rw [down, port]; rfl, route.trans route', plots.trans plots', mem.trans mem', sync.trans sync', job.trans job',
    fun alone => ?_⟩
  rw [State.declareDown_alone (tx ▸ alone)]
  refine ⟨fun j ne => (u.portDown_kport_ne ne).trans (only.ports j ne), ?_, ?_⟩
  · rw [u.portDown_tx, tx]
  · rw [u.portDown_registered, State.half_of_evr (congrArg State.evr only.rest), State.mkErr, job']
    rfl

end Sys2Proof.KufortLinks
end

section
/-! What a Kufort port does with a flit that arrives, with a replay request and with the identity of its neighbour, and the statements
about them (R237, R239, R240, R241, R242, R243, R244). -/

namespace Sys2Proof.Machine

open Sys2Proof.Claim

/-- A field of as many bits as its type has. -/
theorem ofNat_bits (w : W32) {n hi lo : Nat} (width : hi + 1 - lo = n) :
    BitVec.ofNat n (bits w hi lo) = BitVec.ofNat n (w.toNat / 2 ^ lo) := by
  subst width
  apply BitVec.eq_of_toNat_eq
  rw [bits_eq_div_mod, BitVec.toNat_ofNat, BitVec.toNat_ofNat, Nat.mod_mod]

/-- The four highest bits of a word. -/
theorem bits_type (w : W32) : bits w 31 28 = w.toNat / 2 ^ 28 := by
  have := w.isLt
  rw [bits_eq_div_mod]
  omega

/-- The twelve lowest bits of a word. -/
theorem ofNat_bits_twelve (w : W32) : BitVec.ofNat 12 (bits w 11 0) = BitVec.ofNat 12 w.toNat := by
  rw [ofNat_bits w (show 11 + 1 - 0 = 12 from rfl), Nat.pow_zero, Nat.div_one]

/-! ### FLIT_RECEIVE (R237, R241, R242, R243) -/

/-- What a sound flit leaves at port `x`, whose counts, acknowledgements and credits, `y`, have been taken: a control flit waits, a
message flit with the FSEQ expected is taken, and one from behind a gap has a replay asked for. -/
def KufPort.takeFlit (x y : KufPort) (b : List Byte) : KufPort :=
  let w := (wordAt b 0).toNat
  let fseq : BitVec 12 := BitVec.ofNat 12 (w / 2 ^ 12)
  if 2 ≤ w / 2 ^ 28 then { y with ctrl := y.ctrl ++ [b] }
  else if w / 2 ^ 28 = 1 ∧ fseq = x.expect ∧ w / 2 ^ 26 % 4 < 3 then
    y.accept (Fin.ofNat 3 (w / 2 ^ 26 % 4)) ((b.drop 8).take 112)
  else if flitsBehind x fseq < 2048 then y
  else { y with sendReq := true }

section TakeFlit

variable {x y : KufPort} {b : List Byte}

/-- A message flit of a class with the FSEQ that the port expects. -/
def KufPort.expects (x : KufPort) (b : List Byte) : Prop :=
  (wordAt b 0).toNat / 2 ^ 28 = 1 ∧ BitVec.ofNat 12 ((wordAt b 0).toNat / 2 ^ 12) = x.expect ∧ (wordAt b 0).toNat / 2 ^ 26 % 4 < 3

theorem KufPort.takeFlit_control (control : 2 ≤ (wordAt b 0).toNat / 2 ^ 28) :
    x.takeFlit y b = { y with ctrl := y.ctrl ++ [b] } := if_pos control

theorem KufPort.takeFlit_message (next : x.expects b) {c : Fin 3} (cls : (wordAt b 0).toNat / 2 ^ 26 % 4 = c.val) :
    x.takeFlit y b = y.accept c ((b.drop 8).take 112) := by
  have message : ¬2 ≤ (wordAt b 0).toNat / 2 ^ 28 := by have := next.1; omega
  have same : Fin.ofNat 3 c.val = c := Fin.ofNat_val_eq_self c
  rw [KufPort.takeFlit, if_neg message]
  exact (if_pos next).trans (by rw [cls, same])

theorem KufPort.takeFlit_late (passes : (wordAt b 0).toNat / 2 ^ 28 < 2) (other : ¬x.expects b)
    (late : flitsBehind x (BitVec.ofNat 12 ((wordAt b 0).toNat / 2 ^ 12)) < 2048) : x.takeFlit y b = y := by
  rw [KufPort.takeFlit, if_neg (not_le.2 passes)]
  exact (if_neg other).trans (if_pos late)

theorem KufPort.takeFlit_ahead (passes : (wordAt b 0).toNat / 2 ^ 28 < 2) (other : ¬x.expects b)
    (ahead : ¬flitsBehind x (BitVec.ofNat 12 ((wordAt b 0).toNat / 2 ^ 12)) < 2048) :
    x.takeFlit y b = { y with sendReq := true } := by
  rw [KufPort.takeFlit, if_neg (not_le.2 passes)]
  exact (if_neg other).trans (if_neg ahead)

end TakeFlit

/-- What a flit leaves at a port that has failed to read it. -/
def KufPort.refuseFlit (x : KufPort) (corr unc : Bool) : KufPort :=
  { counted x corr unc with crcfail := satAdd x.crcfail 1, sendReq := decide (x.state = .active) }

theorem State.modKport_at (s : State) (k : KPort) (f : KufPort → KufPort) : s.modKport k f = s.modKport k fun _ => f (s.kport k) :=
  rfl

theorem answer_port_congr {s : State} {k : KPort} {x y : KufPort} (same : x = y) :
    (.next (s.modKport k fun _ => x) : Host.Outcome State Fault Refusal) = .next (s.modKport k fun _ => y) := by
  rw [same]

section Receive

variable {s : State} {k : KPort} {b : List Byte} {corr unc : Bool}

/-- A port in ALIGN, IDENT or ACTIVE receives flits (R241). -/
theorem listens_awake (live : s.evr.fallow = false)
    (listens : (s.kport k).state = .align ∨ (s.kport k).state = .ident ∨ (s.kport k).state = .active) :
    ¬(!((s.kport k).state = .align || (s.kport k).state = .ident || (s.kport k).state = .active) || s.evr.fallow) = true := by
  rcases listens with state | state | state <;> simp [live, state]

theorem execFlitReceive_refuses (live : s.evr.fallow = false)
    (listens : (s.kport k).state = .align ∨ (s.kport k).state = .ident ∨ (s.kport k).state = .active)
    (bad : unc = true ∨ wordAt b 124 ≠ crc32 (b.take 124)) :
    execFlitReceive k b corr unc s = .next (s.modKport k fun x => x.refuseFlit corr unc) := by
  unfold execFlitReceive
  dsimp only
  rw [if_neg (listens_awake live listens), if_pos (by simpa using bad)]
  rfl

theorem execFlitReceive_takes (live : s.evr.fallow = false)
    (listens : (s.kport k).state = .align ∨ (s.kport k).state = .ident ∨ (s.kport k).state = .active)
    (sound : wordAt b 124 = crc32 (b.take 124)) :
    execFlitReceive k b corr false s = .next (s.modKport k fun x => x.takeFlit ((counted x corr false).linkWords b) b) := by
  have fseq := ofNat_bits (wordAt b 0) (show 23 + 1 - 12 = 12 from rfl)
  have cls := bits_eq_div_mod (wordAt b 0) 27 26
  rw [State.modKport_at]
  unfold execFlitReceive
  dsimp only [counted]
  rw [if_neg (listens_awake live listens), if_neg (by simp [sound]), bits_type, fseq, cls]
  generalize KufPort.linkWords _ b = y
  split
  next type =>
    by_cases next : (s.kport k).expects b
    · obtain ⟨-, order, small⟩ := id next
      rw [KufPort.takeFlit_message next (c := Fin.ofNat 3 ((wordAt b 0).toNat / 2 ^ 26 % 4)) (Nat.mod_eq_of_lt small).symm]
      exact if_pos (by simpa using And.intro order small)
    · rw [if_neg fun taken => next ⟨type, by simpa using taken⟩]
      by_cases late : flitsBehind (s.kport k) (BitVec.ofNat 12 ((wordAt b 0).toNat / 2 ^ 12)) < 2048
      · rw [KufPort.takeFlit_late (by omega) next late]
        exact if_pos (decide_eq_true late)
      · rw [KufPort.takeFlit_ahead (by omega) next late]
        exact if_neg fun before => late (of_decide_eq_true before)
  next type =>
    have other : ¬(s.kport k).expects b := fun next => absurd next.1 (by omega)
    by_cases late : flitsBehind (s.kport k) (BitVec.ofNat 12 ((wordAt b 0).toNat / 2 ^ 12)) < 2048
    · rw [KufPort.takeFlit_late (by omega) other late]
      exact answer_port_congr (if_pos (decide_eq_true late))
    · rw [KufPort.takeFlit_ahead (by omega) other late]
      exact answer_port_congr (if_neg fun before => late (of_decide_eq_true before))
  next message idle =>
    have control : 2 ≤ (wordAt b 0).toNat / 2 ^ 28 := (Nat.two_le_iff _).2 ⟨idle, message⟩
    rw [KufPort.takeFlit_control control]

end Receive

/-- The flits that a flit acknowledges are no longer kept for replay (R243). -/
theorem KufPort.linkWords_replay (x : KufPort) (b : List Byte) : (x.linkWords b).replay =
    x.replay.filter fun e => decide (2048 ≤ (BitVec.ofNat 12 (wordAt b 0).toNat - e.1).toNat) := by
  rw [← ofNat_bits_twelve]
  rfl

/-! ### REPLAY_REQUEST (R243, R244) -/

/-- How often in a row the flit `f` has been asked for, with this request. -/
def KufPort.asked (x : KufPort) (f : BitVec 12) : Nat :=
  match x.lastReq with
  | some (g, n) => if g = f then n + 1 else 1
  | none => 1

/-- Port `x` when the control flit at its head asks for flit `f`, for the `n`-th time in a row. -/
def KufPort.replayFrom (x : KufPort) (f : BitVec 12) (n : Nat) : KufPort :=
  { x with ctrl := x.ctrl.tail, lastReq := some (f, n), resend := x.replay.filter fun e => decide ((e.1 - f).toNat < 2048)
           retrainDue := x.retrainDue || (decide (8 ≤ n) && decide (x.state = .active)) }

theorem execReplayRequest_asked {s : State} {k : KPort} {b : List Byte} (head : (s.kport k).ctrlHead 2 = some b) {f : BitVec 12}
    (flit : f = BitVec.ofNat 12 (wordAt b 8).toNat) :
    execReplayRequest k s = .next ((s.modKport k fun x => x.replayFrom f ((s.kport k).asked f)).rowAdd 5
      (b2n (decide (4 ≤ (dieOfPort k).val))) 1) := by
  have named := ofNat_bits_twelve (wordAt b 8)
  rw [← flit] at named
  simp only [execReplayRequest, head, State.dropCtrl, State.modKport_modKport, named]
  rfl

/-! ### IDENTITY_FLIT (R239, R240) -/

/-- The neighbour that an identity flit names is shown at port `x`, and a request is answered. -/
def KufPort.identified (x : KufPort) (b : List Byte) : KufPort :=
  { x with ctrl := x.ctrl.tail, nbrPort := BitVec.ofNat 3 ((wordAt b 8).toNat / 2 ^ 24 % 8)
           nbrNode := BitVec.ofNat 12 (wordAt b 8).toNat
           sendIdent := if bit (wordAt b 8) 31 then x.sendIdent ++ [false] else x.sendIdent
           identWait := if bit (wordAt b 8) 31 then x.identWait else false }

/-- The field of an identity flit that names the neighbour's port (R240). -/
theorem bits_port (w : W32) : bits w 26 24 = w.toNat / 2 ^ 24 % 8 := bits_eq_div_mod w 26 24

section Identity

variable {s : State} {k : KPort} {b : List Byte}

theorem execIdentityFlit_passes (head : (s.kport k).ctrlHead 3 = some b)
    (passes : s.identityOk k ((wordAt b 8).toNat / 2 ^ 24 % 8) (BitVec.ofNat 12 (wordAt b 8).toNat) (wordAt b 12) = true) :
    execIdentityFlit k s = .next (s.modKport k fun x => { x.identified b with identOk := true }) := by
  simp only [execIdentityFlit, head, ofNat_bits_twelve, bits_port, passes, if_true, State.dropCtrl, State.modKport_modKport]
  rfl

/-- Port `k`, which `f` has changed, is reported with the details `det`, and its destinations use their alternates. -/
def State.parted (s : State) (k : KPort) (f : KufPort → KufPort) (det : List Nat) : State :=
  ((s.modKport k f).portErr k det).switchRoutes k

theorem State.parted_onlyPort (s : State) (k : KPort) (f : KufPort → KufPort) (det : List Nat) :
    OnlyPort s { s.parted k f det with evr := s.evr } k (offPort s k) := by
  have reported : (s.modKport k f).portErr k det = { s.modKport k f with evr := ((s.modKport k f).portErr k det).evr } :=
    (s.modKport k f).raiseAll_eq _ _
  rw [State.parted, reported]
  exact s.modKport_switchRoutes_onlyPort k f

theorem State.parted_kport (s : State) (k : KPort) (f : KufPort → KufPort) (det : List Nat) :
    (s.parted k f det).kport k = { f (s.kport k) with altuse := true } := by
  rw [State.parted, State.switchRoutes_kport, State.portErr, State.raise_kport, State.modKport_kport]

theorem State.parted_registered (s : State) (k : KPort) (f : KufPort → KufPort) (det : List Nat) :
    ((s.parted k f det).half (halfOfDie (dieOfPort k))).registered = (s.half (halfOfDie (dieOfPort k))).registered ++
      [s.mkErr 0x0501 .recoverable srcKufort k.val det] := by
  have same : (s.parted k f det).half (halfOfDie (dieOfPort k)) = ((s.modKport k f).portErr k det).half (halfOfDie (dieOfPort k)) :=
    State.half_of_evr rfl _
  rw [same, State.portErr, State.raise_half]
  rfl

theorem execIdentityFlit_refuses (head : (s.kport k).ctrlHead 3 = some b)
    (refused : s.identityOk k ((wordAt b 8).toNat / 2 ^ 24 % 8) (BitVec.ofNat 12 (wordAt b 8).toNat) (wordAt b 12) = false) :
    ∃ e own, execIdentityFlit k s = .next (s.parted k (fun x =>
      { x.identified b with state := .mismatch, identOk := false, retrainDue := false })
        [e, own, (wordAt b 8).toNat / 2 ^ 24 % 8 * 2 ^ 24 + (BitVec.ofNat 12 (wordAt b 8).toNat).toNat,
          (wordAt b 12).toNat]) := by
  simp only [execIdentityFlit, head, ofNat_bits_twelve, bits_port, refused, Bool.false_eq_true, if_false, State.dropCtrl,
    State.modKport_modKport]
  exact ⟨_, _, rfl⟩

end Identity

end Sys2Proof.Machine

namespace Sys2Proof.KufortLinks

open Sys2Proof.Machine Sys2Proof.Claim

/-- Settles O31: the one port that a flit reaches changes as the flit's soundness, its type and its FSEQ say. -/
theorem flitsArriveInOrder : Obligations.FlitsArriveInOrder := by
  rintro s k x b corr unc w live rfl listens rfl
  by_cases bad : unc = true ∨ wordAt b 124 ≠ crc32 (b.take 124)
  case pos =>
    exact ⟨_, execFlitReceive_refuses live listens bad, s.modKport_onlyPort k _, fun _ => s.modKport_kport k _,
      fun trusted sound => absurd bad (by simp [trusted, sound])⟩
  case neg =>
    obtain ⟨trusted, sound⟩ := not_or.1 bad
    obtain rfl := Bool.eq_false_of_not_eq_true trusted
    refine ⟨_, execFlitReceive_takes live listens (not_not.1 sound), s.modKport_onlyPort k _, fun bad' => absurd bad' bad, ?_⟩
    rintro - - fseq y rfl rfl
    rw [State.modKport_kport]
    refine ⟨KufPort.linkWords_replay _ b, fun type c cls next => ?_, fun type gap late => ?_, fun type gap ahead => ?_,
      fun type => ?_, KufPort.takeFlit_control⟩
    · exact KufPort.takeFlit_message ⟨type, next, cls ▸ c.isLt⟩ cls
    · exact KufPort.takeFlit_late (by omega) (fun next => gap next.2.1) late
    · exact KufPort.takeFlit_ahead (by omega) (fun next => gap next.2.1) (not_lt.2 ahead)
    · have other : ¬(s.kport k).expects b := fun next => absurd next.1 (by omega)
      split
      next late => exact KufPort.takeFlit_late (by omega) other late
      next ahead => exact KufPort.takeFlit_ahead (by omega) other ahead

/-- Settles O32: a replay request sends the flits kept again, and an identity that is refused parts the port from its
destinations. -/
theorem replayAndIdentityAreHandled : Obligations.ReplayAndIdentityAreHandled := by
  rintro s k x b rfl
  refine ⟨fun head f n flit count => ?replay, fun head w port node y hw hp hn hy => ?identity⟩
  case replay =>
    obtain rfl : n = (s.kport k).asked f := count
    exact ⟨_, execReplayRequest_asked head flit, s.modKport_onlyPort k fun x => x.replayFrom f ((s.kport k).asked f),
      s.modKport_kport k fun x => x.replayFrom f ((s.kport k).asked f)⟩
  case identity =>
    subst hw hp hn hy
    refine ⟨fun passes => ⟨_, execIdentityFlit_passes head passes, s.modKport_onlyPort k _, s.modKport_kport k _⟩,
      fun refused => ?_⟩
    obtain ⟨e, own, run⟩ := execIdentityFlit_refuses head refused
    exact ⟨_, own, e, run, s.parted_onlyPort k _ _, s.parted_kport k _ _, s.parted_registered k _ _⟩

end Sys2Proof.KufortLinks
end

section
/-! Data writes and tokens that arrive: what their pair has not received is applied and noted, a duplicate is counted, and the statement
about them (R247, R248, R252, R253). -/

namespace Sys2Proof.Machine

open Sys2Proof.Claim

/-! ### New messages and duplicates (R248) -/

section Classed

variable {s : State} {h : MsgHdr} {apply : State → State}

/-- A message that its pair takes as new is applied. -/
theorem State.classed_new (new : takesNew s h) : s.classed h apply = apply s := by
  obtain ⟨x, pair, near, fresh⟩ := new
  have unseen : (x.got.any fun g => decide (g.mseq = h.mseq)) = false := by simpa using fresh
  simp only [State.classed, pair, near, unseen, decide_true, Bool.not_false, Bool.and_self, if_true]

/-- A message received before, or one below ACKED, is only counted. -/
theorem State.classed_duplicate {x : RxPair} (pair : s.rxPair h = some x)
    (seen : ((h.mseq - x.acked).toNat < 256 ∧ ∃ g ∈ x.got, g.mseq = h.mseq) ∨ 2 ^ 23 ≤ (h.mseq - x.acked).toNat) :
    s.classed h apply = { s with kuf := { s.kuf with dupmsg := satAdd s.kuf.dupmsg 1 } } := by
  simp only [State.classed, pair]
  generalize (h.mseq - x.acked).toNat = d at seen
  rcases seen with ⟨near, known⟩ | below
  · have again : (x.got.any fun g => decide (g.mseq = h.mseq)) = true := by simpa using known
    simp only [near, again, decide_true, Bool.not_true, Bool.and_false, Bool.false_eq_true, if_false, Bool.true_or, if_true]
  · have far : ¬d < 256 := by omega
    simp only [far, below, decide_false, decide_true, Bool.false_and, Bool.false_eq_true, if_false, Bool.or_true, if_true]

end Classed

/-! ### DATA_WRITE (R252) -/

/-- The data of a data write and its padding, which the message carries between its body's first words and its MCRC. -/
def padded (m : List Byte) : List Byte := (m.take (m.length - 4)).drop 0x20

/-- How many zero bytes end a list. -/
def endZeros (d : List Byte) : Nat := (d.reverse.takeWhile fun b => b = 0).length

theorem getD_endZeros {d : List Byte} {i : Nat} (late : d.length - endZeros d ≤ i) (inside : i < d.length) : d.getD i 0 = 0 := by
  have place : d.length - 1 - i < (d.reverse.takeWhile fun b => decide (b = 0)).length := by
    unfold endZeros at late
    omega
  have zero := List.mem_takeWhile_imp (List.getElem_mem place)
  rw [(List.takeWhile_prefix _).getElem place, List.getElem_reverse, decide_eq_true_eq] at zero
  rw [List.getD_eq_getElem _ _ inside, ← zero]
  congr 1
  omega

/-- Free values have been used up to the `n`-th (log entry 1). -/
def State.withFree (s : State) (n : Nat) : State := { s with freeCtr := n }

/-- The most bytes of padding that a data write can end with. -/
def mostPadding (m : List Byte) : Nat := min (min (endZeros (padded m)) 3) ((padded m).length - 1)

theorem State.dataOf_eq (s : State) (m : List Byte) : s.dataOf m =
    if mostPadding m = 0 then (padded m, s)
    else ((padded m).take ((padded m).length - s.free.1 % (mostPadding m + 1)), s.free.2) := rfl

/-- The padding that a data write is freed of: up to three zero bytes at the end of its body. -/
theorem State.dataOf_padding (s : State) {m : List Byte} (data : 0 < (padded m).length) :
    ∃ z n, s.dataOf m = ((padded m).take ((padded m).length - z), s.withFree n) ∧ z ≤ 3 ∧ z < (padded m).length ∧
      ∀ i, (padded m).length - z ≤ i → i < (padded m).length → (padded m).getD i 0 = 0 := by
  obtain ⟨z, n, eq, most⟩ : ∃ z n, s.dataOf m = ((padded m).take ((padded m).length - z), s.withFree n) ∧
      z ≤ mostPadding m := by
    rw [State.dataOf_eq]
    split
    · exact ⟨0, s.freeCtr, by rw [Nat.sub_zero, List.take_length]; rfl, Nat.zero_le _⟩
    · exact ⟨_, _, rfl, Nat.le_of_lt_succ (Nat.mod_lt _ (Nat.succ_pos _))⟩
  obtain ⟨zero, few, short⟩ : z ≤ endZeros (padded m) ∧ z ≤ 3 ∧ z ≤ (padded m).length - 1 := by
    simpa [mostPadding, and_assoc] using most
  exact ⟨z, n, eq, few, by omega, fun i late inside => getD_endZeros (by omega) inside⟩

theorem State.isDevice_of {s t : State} (mem : t.mem = s.mem) (sbd : t.sbd = s.sbd) (a : Nat) : t.isDevice a = s.isDevice a := by
  simp only [State.isDevice, State.sliceCached, State.die, mem, sbd]

/-- Which ranges are device memory depends on memory and the order code alone (R193). -/
theorem State.rangeDevice_of {s t : State} (mem : t.mem = s.mem) (sbd : t.sbd = s.sbd) (a n : Nat) :
    t.rangeDevice a n = s.rangeDevice a n := by
  simp only [State.rangeDevice, State.isDevice_of mem sbd]

/-- A message at the head of a class has its header, its body and its MCRC (R251). -/
theorem KufPort.msgHead_length {x : KufPort} {c : Fin 3} {m : List Byte} (head : x.msgHead c = some m) :
    m.length = 20 + (MsgHdr.ofBytes m).len := by
  simp only [KufPort.msgHead] at head
  split at head
  next whole =>
    obtain rfl := Option.some.inj head
    rw [header_take _ _ (by simp only [MsgHdr.size]; omega), List.length_take, Nat.min_eq_left whole.2]
    rfl
  next => cases head

/-- The address that a data write names (R252). -/
def dataAddr (m : List Byte) : Nat := (wordAt m 0x10).toNat + (wordAt m 0x14).toNat % 2 ^ 16 * 2 ^ 32

theorem dataAddr_eq (m : List Byte) : (wordAt m 0x10).toNat + bits (wordAt m 0x14) 15 0 * 2 ^ 32 = dataAddr m := by
  rw [bits_eq_div_mod, Nat.pow_zero, Nat.div_one]
  rfl

/-- The bytes that a data write announces (R222). -/
def announced (h : MsgHdr) (m : List Byte) (n : Nat) : Option TallyAdd :=
  if bit (wordAt m 0x14) 31 then
    some { die := dieIx (bits (wordAt m 0x14) 30 28), node := h.src, channel := h.channel
           tseq := BitVec.ofNat 16 (bits (wordAt m 0x18) 31 16), bytes := n }
  else none

section DataWrite

variable {s : State} {k : KPort} {m : List Byte} {h : MsgHdr}

/-- The body of a data write goes beyond its address and its notes (R252). -/
theorem padded_pos (a : Arrived s k 0 m h) (len : 20 ≤ h.len) : 0 < (padded m).length := by
  have size := KufPort.msgHead_length a.head
  rw [← a.header] at size
  simp only [padded, List.length_drop, List.length_take]
  omega

/-- A new data write whose bytes are device memory without stored errors. -/
theorem execDataWrite_applies (a : Arrived s k 0 m h) (mtype : h.mtype = 1) (len : 20 ≤ h.len) (new : takesNew s h)
    (clean : s.mem.bad = []) (form : Memory.wf s.mem.cells = true)
    (device : ∀ z ≤ 3, s.rangeDevice (dataAddr m) ((padded m).length - z) = true) :
    ∃ z n u, z ≤ 3 ∧ z < (padded m).length ∧
      (∀ i, (padded m).length - z ≤ i → i < (padded m).length → (padded m).getD i 0 = 0) ∧
      execDataWrite k s = .next (u.noteReceived h { mseq := h.mseq, applied := false, wrote := some (dataAddr m)
                                                    ann := announced h m ((padded m).length - z) }) ∧
      CleanAccess ((s.dropMsg k 0 m.length).withFree n) u ∧ u.plots = s.plots ∧
      Holds s u (dataAddr m) ((padded m).length - z) fun i => (padded m).getD i 0 := by
  obtain ⟨z, n, padding, few, short, zeros⟩ := (s.dropMsg k 0 m.length).dataOf_padding (padded_pos a len)
  have size : ((padded m).take ((padded m).length - z)).length = (padded m).length - z := by simp
  obtain ⟨u, write, access, wrote⟩ := State.writeRange_clean ((s.dropMsg k 0 m.length).withFree n) .kufort (dataAddr m)
    ((padded m).take ((padded m).length - z)) clean form
  have plots := State.writeRange_unit ((s.dropMsg k 0 m.length).withFree n) .kufort (dataAddr m)
    ((padded m).take ((padded m).length - z)) trivial
  rw [write] at plots
  rw [size] at wrote
  have same : ((s.dropMsg k 0 m.length).withFree n).rangeDevice (dataAddr m) ((padded m).length - z) =
      s.rangeDevice (dataAddr m) ((padded m).length - z) :=
    State.rangeDevice_of (s := s) (t := (s.dropMsg k 0 m.length).withFree n) rfl rfl _ _
  have home := same.trans (device z few)
  refine ⟨z, n, u, few, short, zeros, ?run, access, plots, fun b above below => ?inside, wrote.outside⟩
  case run =>
    rw [execDataWrite, receive_of_arrived a (by simp [mtype])]
    have sound : (decide (h.mtype ≠ 1) || decide (h.len < 20)) = false := by simp [mtype, len]
    simp only [sound, Bool.false_eq_true, if_false]
    rw [State.classed_new (s := s.dropMsg k 0 m.length) new]
    simp only [dataAddr_eq, padding, size, home, write, Bool.not_true, Bool.false_eq_true, if_false]
    rfl
  case inside =>
    rw [wrote.inside b above below]
    simp only [List.getD_eq_getElem?_getD]
    rw [List.getElem?_take_of_lt (by omega)]

end DataWrite

/-! ### TOKEN (R253) -/

/-- The token that a token message carries. -/
def carriedToken (h : MsgHdr) (m : List Byte) : TokenRec :=
  { payload := wordAt m 0x10, payloadC := wordAt m 0x14
    bytes := BitVec.ofNat 40 ((wordAt m 0x18).toNat + bits (wordAt m 0x1C) 31 24 * 2 ^ 32)
    tseq := BitVec.ofNat 16 (bits (wordAt m 0x1C) 23 8), kind := BitVec.ofNat 3 (bits (wordAt m 0x1C) 2 0), src := h.src
    channel := h.channel, queue := BitVec.ofNat 15 (wordAt m 0x20).toNat, queueC := wordAt m 0x24 }

/-- A received message is noted, and the token that it carries waits for its sync unit. -/
def State.tokenNoted (s : State) (h : MsgHdr) (t : TokenRec) : State :=
  let s1 := s.noteReceived h { mseq := h.mseq, applied := false, ann := none, wrote := none }
  { s1 with kuf := { s1.kuf with remote := s1.kuf.remote ++ [(h.mseq, t)] } }

theorem execToken_applies {s : State} {k : KPort} {m : List Byte} {h : MsgHdr} (a : Arrived s k 0 m h) (mtype : h.mtype = 2)
    (len : h.len = 24) (new : takesNew s h) :
    execToken k s = .next ((s.dropMsg k 0 m.length).tokenNoted h (carriedToken h m)) := by
  rw [execToken, receive_of_arrived a (by simp [mtype])]
  simp only [len, ne_eq, not_true, if_false]
  rw [State.classed_new (s := s.dropMsg k 0 m.length) new]
  rfl

/-! ### Duplicates (R248) -/

/-- A duplicate, a data write or a token, is taken from its port and counted. -/
theorem exec_counts_duplicate {s : State} {k : KPort} {m : List Byte} {h : MsgHdr} {i : Instr} {x : RxPair} (a : Arrived s k 0 m h)
    (which : (h.mtype = 1 ∧ 20 ≤ h.len ∧ i = .dataWrite k) ∨ (h.mtype = 2 ∧ h.len = 24 ∧ i = .token k))
    (pair : s.rxPair h = some x)
    (seen : ((h.mseq - x.acked).toNat < 256 ∧ ∃ g ∈ x.got, g.mseq = h.mseq) ∨ 2 ^ 23 ≤ (h.mseq - x.acked).toNat) :
    exec i s = .next { s.dropMsg k 0 m.length with
      kuf := { (s.dropMsg k 0 m.length).kuf with dupmsg := satAdd s.kuf.dupmsg 1 } } := by
  obtain ⟨apply, run⟩ : ∃ apply, exec i s = .next ((s.dropMsg k 0 m.length).classed h apply) := by
    obtain ⟨mtype, len, rfl⟩ | ⟨mtype, len, rfl⟩ := which
    · have sound : (decide (h.mtype ≠ 1) || decide (h.len < 20)) = false := by simp [mtype, len]
      exact ⟨_, congrArg _ ((receive_of_arrived a (by simp [mtype]) _).trans (if_neg (Bool.not_eq_true _ ▸ sound)))⟩
    · exact ⟨_, congrArg _ ((receive_of_arrived a (by simp [mtype]) _).trans (if_neg (not_not.2 len)))⟩
  rw [run, State.classed_duplicate (s := s.dropMsg k 0 m.length) pair seen]
  rfl

end Sys2Proof.Machine

namespace Sys2Proof.KufortLinks

open Sys2Proof.Machine Sys2Proof.Claim

/-- Settles O33: a message that its pair takes as new is applied and noted, and a duplicate is only counted. -/
theorem dataWritesAndTokensAreApplied : Obligations.DataWritesAndTokensAreApplied := by
  intro s k m h a
  refine ⟨fun addr d mtype len new clean form ha hd device => ?data, fun mtype len new => ?token,
    fun i x which pair seen => ?duplicate⟩
  case data =>
    obtain rfl : addr = dataAddr m := ha
    obtain rfl : d = padded m := hd
    obtain ⟨z, n, u, few, short, zeros, run, access, plots, holds⟩ := execDataWrite_applies a mtype len new clean form device
    obtain ⟨-, sync, -, job, -, -, kuf, -⟩ := (State.core_eq _ _).1 access.core
    have rx : u.kuf.rx = s.kuf.rx := by rw [kuf]; rfl
    exact ⟨_, z, _, run, few, short, zeros, ⟨holds.inside, holds.outside⟩, congrArg (List.map _) rx, rfl, rfl, rfl,
      fun j ne => (congrArg (fun q : Kuf => q.ports.get j) kuf).trans (s.dropMsg_others 0 m.length ne), plots, sync, job, access.evr⟩
  case token =>
    have tseq : (carriedToken h m).tseq.toNat = (wordAt m 0x1C).toNat / 2 ^ 8 % 2 ^ 16 := by
      rw [carriedToken, ofNat_bits _ (show 23 + 1 - 8 = 16 from rfl), BitVec.toNat_ofNat]
    have kind : (carriedToken h m).kind.toNat = (wordAt m 0x1C).toNat % 2 ^ 3 := by
      rw [carriedToken, ofNat_bits _ (show 2 + 1 - 0 = 3 from rfl), BitVec.toNat_ofNat, Nat.pow_zero, Nat.div_one]
    exact ⟨_, carriedToken h m, execToken_applies a mtype len new, rfl, rfl, rfl, BitVec.toNat_ofNat .., rfl, rfl, rfl, tseq, kind, rfl,
      fun j ne => s.dropMsg_others 0 m.length ne, rfl, rfl, rfl, rfl, rfl⟩
  case duplicate =>
    exact ⟨_, exec_counts_duplicate a which pair seen, rfl, rfl, rfl, rfl, rfl, rfl, rfl⟩

end Sys2Proof.KufortLinks
end

section
/-! Messages for other nodes, which go on by their routes, and the statement about them (R258, R259). -/

namespace Sys2Proof.Machine

open Sys2Proof.Claim

/-! ### Messages for other nodes (R258, R259) -/

theorem wordAt_drop (b : List Byte) (n o : Nat) : wordAt (b.drop n) o = wordAt b (n + o) := by
  rw [wordAt, wordAt, List.drop_drop]

/-- A message with other HOPS keeps the rest of its header. -/
theorem header_setHops (m : List Byte) {n : Nat} (small : n < 64) :
    MsgHdr.ofBytes (setHops m n) = { MsgHdr.ofBytes m with hops := n } := by
  obtain ⟨w, word⟩ : ∃ w : W32, w = w32 ((wordAt m 0).toNat - bits (wordAt m 0) 19 14 * 2 ^ 14 + n * 2 ^ 14) := ⟨_, rfl⟩
  have split : setHops m n = bytesOfWord w ++ m.drop 4 := by
    rw [word, setHops, patch, bytesOfWord_length]
    rfl
  have second : wordAt (setHops m n) 4 = wordAt m 4 := by rw [split, wordAt_skip w _ 0, wordAt_drop]
  have third : wordAt (setHops m n) 8 = wordAt m 8 := by rw [split, wordAt_skip w _ 4, wordAt_drop]
  have first : wordAt (setHops m n) 0 = w := by rw [split, wordAt_bytesOfWord]
  have limit := (wordAt m 0).isLt
  have value : w.toNat = (wordAt m 0).toNat - (wordAt m 0).toNat / 2 ^ 14 % 64 * 2 ^ 14 + n * 2 ^ 14 := by
    rw [word, w32, BitVec.toNat_ofNat, bits_eq_div_mod, Nat.mod_eq_of_lt]
    · rfl
    · omega
  simp only [MsgHdr.ofBytes, first, second, third, bits_eq_div_mod]
  generalize (wordAt m 0).toNat = v at limit value
  simp only [MsgHdr.mk.injEq, and_true]
  refine ⟨by omega, ?_, by omega, by omega⟩
  congr 1
  omega

/-- The route of a node depends on the table of routes and the states of the ports (R258, R260). -/
theorem State.routeOf_of {s t : State} (node : t.kuf.node = s.kuf.node) (route : t.kuf.route = s.kuf.route)
    (ports : ∀ k, (t.kport k).state = (s.kport k).state) (d : BitVec 12) : t.routeOf d = s.routeOf d := by
  simp only [State.routeOf, State.destOf, node, route, ports]

theorem State.dropMsg_state (s : State) (k : KPort) (c : Fin 3) (n : Nat) (j : KPort) :
    ((s.dropMsg k c n).kport j).state = (s.kport j).state := by
  by_cases same : j = k
  · subst same
    rw [State.dropMsg, State.modKport_kport]
  · rw [s.dropMsg_others c n same]

theorem State.dropMsg_routeOf (s : State) (k : KPort) (c : Fin 3) (n : Nat) (d : BitVec 12) :
    (s.dropMsg k c n).routeOf d = s.routeOf d :=
  State.routeOf_of (s := s) (t := s.dropMsg k c n) rfl rfl (s.dropMsg_state k c n) d

theorem State.dropMsg_txq (s : State) (k : KPort) (c : Fin 3) (n : Nat) (j : KPort) :
    ((s.dropMsg k c n).kport j).txq = (s.kport j).txq := by
  by_cases same : j = k
  · subst same
    rw [State.dropMsg, State.modKport_kport]
  · rw [s.dropMsg_others c n same]

theorem State.txPush_rx (s : State) (j : KPort) (m : List Byte) (k : KPort) : ((s.txPush j m).kport k).rx = (s.kport k).rx := by
  by_cases same : j = k
  · subst same
    rw [State.txPush_txq s m j _ rfl]
  · rw [State.txPush_ne s m j k same]

/-- The queue of a port ends with a message of its class that is put there behind a message taken from port `k`. -/
theorem State.dropMsg_txPush_txq (s : State) (k j : KPort) (c : Fin 3) (n : Nat) {e : Fin 3} {m : List Byte}
    (cls : classOfType (MsgHdr.ofBytes m).mtype = e) :
    (((s.dropMsg k c n).txPush j m).kport j).txq.get e = (s.kport j).txq.get e ++ [m] := by
  rw [State.txPush_txq _ m j e cls, s.dropMsg_txq k c n j]
  exact vector_get_set_self ..

/-- A message for another node leaves its port and goes on by its route, in its class and with one hop less. -/
theorem State.receive_passesOn {s : State} {k j : KPort} {c : Fin 3} {m : List Byte} {n : Nat} {mine : Nat → Bool}
    (live : s.evr.fallow = false) (head : (s.kport k).msgHead c = some m) (own : mine (MsgHdr.ofBytes m).mtype = true)
    (away : (MsgHdr.ofBytes m).dst ≠ s.kuf.node) (hops : (MsgHdr.ofBytes m).hops = n + 1)
    (route : s.routeOf (MsgHdr.ofBytes m).dst = some j) (f : MsgHdr → List Byte → State → State) :
    s.receive k c mine f = (s.dropMsg k c m.length).txPush j (setHops m n) ∧
      (MsgHdr.ofBytes (setHops m n)).mtype = (MsgHdr.ofBytes m).mtype := by
  have few : (MsgHdr.ofBytes m).hops < 64 := Nat.mod_lt _ (by decide)
  have header := header_setHops m (show n < 64 by omega)
  have leaves := State.sendOn_route (s.dropMsg k c m.length) (setHops m n) j _ (by rw [header])
    ((s.dropMsg_routeOf ..).trans route)
  refine ⟨?_, by rw [header]⟩
  simp only [State.receive, live, head, own, away, State.forward, hops, leaves, Bool.false_eq_true, Bool.not_true, if_false,
    ne_eq, not_false_eq_true, if_true, Nat.add_sub_cancel, Nat.add_eq_zero_iff, one_ne_zero, and_false]

end Sys2Proof.Machine

namespace Sys2Proof.KufortLinks

open Sys2Proof.Machine Sys2Proof.Claim

/-- Settles O34: each row that takes a message off its port sends one for another node on by that node's route. -/
theorem messagesForOthersAreForwarded : Obligations.MessagesForOthersAreForwarded := by
  rintro s k j c m h n i live head rfl away hops route which
  obtain ⟨mine, f, run, own, cls⟩ : ∃ mine f, exec i s = .next (s.receive k c mine f) ∧
      mine (MsgHdr.ofBytes m).mtype = true ∧ classOfType (MsgHdr.ofBytes m).mtype = c := by
    obtain ⟨rfl, rfl, mtype⟩ | ⟨rfl, rfl, mtype⟩ | ⟨rfl, rfl, mtype⟩ | ⟨rfl, rfl, mtype⟩ | ⟨rfl, rfl, mtype⟩ |
      ⟨rfl, rfl, mtype⟩ | ⟨rfl, rfl, mtype⟩ := which <;> exact ⟨_, _, rfl, by simp [mtype], by rw [mtype]; rfl⟩
  obtain ⟨passes, keeps⟩ := State.receive_passesOn live head own away hops route f
  refine ⟨_, run.trans (congrArg _ passes), ?_, ?_, fun l notJ notK => ?_, rfl, rfl, rfl, rfl, rfl, rfl, rfl, rfl, rfl⟩
  · exact s.dropMsg_txPush_txq k j c m.length (keeps ▸ cls)
  · rw [State.txPush_rx]
    exact s.dropMsg_rx k c m.length
  · rw [State.txPush_ne _ _ j l notJ.symm, s.dropMsg_others c m.length notK]

end Sys2Proof.KufortLinks
end

section
/-! The control messages of the transport, its acknowledgements and what it sends again, and the statement about them (R246, R247, R249,
R255). -/

namespace Sys2Proof.Machine

open Sys2Proof.Claim

/-! ### Control messages (R251, R255) -/

section Control

variable {s : State} {j : KPort} {mtype : Nat} {node : BitVec 12} {ch : BitVec 8} {body : List Byte}

/-- A control message leaves by the route of its node. -/
theorem State.sendOn_control (type : mtype < 16) (short : body.length < 512) (route : s.routeOf node = some j) :
    s.sendOn (s.control mtype node ch body) = (some j, s.txPush j (controlMessage s mtype node ch body)) :=
  State.sendOn_route s _ j node (mkMessage_dst _ _ type s.maxHops_lt short) route

theorem controlMessage_class (type : mtype < 16) (short : body.length < 512) :
    classOfType (MsgHdr.ofBytes (controlMessage s mtype node ch body)).mtype = classOfType mtype := by
  rw [controlMessage, mkMessage_mtype _ _ type s.maxHops_lt short]

end Control

/-- What stands in the ports' queues, the ports alone say. -/
theorem queued_of_ports {s t u : State} {k j : KPort} {c : Fin 3} {m : List Byte} (queued : Queued s u k j c m)
    (same : t.kuf.ports = u.kuf.ports) : Queued s t k j c m :=
  ⟨(congrArg (fun v : Vector KufPort 8 => (v.get j).txq.get c) same).trans queued.queue,
    fun l notJ notK => (congrArg (fun v : Vector KufPort 8 => v.get l) same).trans (queued.others l notJ notK)⟩

/-- A message of class `c` that is put on port `j`, while no other port changes. -/
theorem queued_of_txPush {s t : State} {j : KPort} {c : Fin 3} {m : List Byte} (cls : classOfType (MsgHdr.ofBytes m).mtype = c)
    (same : t.kuf.ports = (s.txPush j m).kuf.ports) : Queued s t j j c m := by
  refine queued_of_ports ⟨?_, fun l ne _ => s.txPush_ne m j l ne.symm⟩ same
  rw [State.txPush_txq s m j c cls]
  exact vector_get_set_self ..

/-- A message of class `c` that answers one taken from port `k`. -/
theorem queued_of_dropMsg_txPush {s t : State} {k j : KPort} {e c : Fin 3} {n : Nat} {m : List Byte}
    (cls : classOfType (MsgHdr.ofBytes m).mtype = c) (same : t.kuf.ports = ((s.dropMsg k e n).txPush j m).kuf.ports) :
    Queued s t k j c m := by
  refine queued_of_ports ⟨s.dropMsg_txPush_txq k j e n cls, fun l notJ notK => ?_⟩ same
  rw [State.txPush_ne _ _ j l notJ.symm, s.dropMsg_others e n notK]

/-- The receive table is `l`. -/
def State.withRx (s : State) (l : List RxPair) : State := { s with kuf := { s.kuf with rx := l } }

/-- A control message of a module whose receive table has changed. -/
theorem State.sendOn_control_withRx {s : State} {j : KPort} {mtype : Nat} {node : BitVec 12} {ch : BitVec 8} {body : List Byte}
    {l : List RxPair} (type : mtype < 16) (short : body.length < 512) (route : s.routeOf node = some j) :
    (s.withRx l).sendOn ((s.withRx l).control mtype node ch body) =
      (some j, (s.txPush j (controlMessage s mtype node ch body)).withRx l) :=
  State.sendOn_control (s := s.withRx l) type short
    ((State.routeOf_of (s := s) (t := s.withRx l) rfl rfl (fun _ => rfl) node).trans route)

/-! ### OPEN (R246) -/

section Open

variable {s : State} {k j : KPort} {m : List Byte} {h : MsgHdr}

/-- The receive pairs whose channels have the home of a channel (R246). -/
def State.homeRx (s : State) (ch : BitVec 8) : List RxPair := s.kuf.rx.filter fun x => channelHome x.channel = channelHome ch

/-- The state in which an OPEN has been answered with a message of a type. -/
def State.answered (s : State) (k j : KPort) (m : List Byte) (mtype : Nat) (h : MsgHdr) : State :=
  (s.dropMsg k 2 m.length).txPush j (controlMessage s mtype h.src h.channel [])

variable (a : Arrived s k 2 m h) (mtype : h.mtype = 4) (started : s.job.state ≠ .idle) (route : s.routeOf h.src = some j)

include a mtype started route

theorem execOpenMsg_known (known : (s.rxPair h).isSome = true) : execOpenMsg k s = .next (s.answered k j m 5 h) := by
  have leaves := State.sendOn_control (s := s.dropMsg k 2 m.length) (mtype := 5) (ch := h.channel) (body := []) (by decide)
    (by decide) ((s.dropMsg_routeOf ..).trans route)
  have started : (s.dropMsg k 2 m.length).job.state ≠ .idle := started
  have known : ((s.dropMsg k 2 m.length).rxPair h).isSome = true := known
  rw [execOpenMsg, receive_of_arrived a (by simp [mtype])]
  simp only [mtype, ne_eq, not_true, if_false, started, known, if_true, leaves]
  rfl

theorem execOpenMsg_full (unknown : s.rxPair h = none) (full : 1024 ≤ (s.homeRx h.channel).length) :
    execOpenMsg k s = .next (s.answered k j m 7 h) := by
  have leaves := State.sendOn_control (s := s.dropMsg k 2 m.length) (mtype := 7) (ch := h.channel) (body := []) (by decide)
    (by decide) ((s.dropMsg_routeOf ..).trans route)
  have started : (s.dropMsg k 2 m.length).job.state ≠ .idle := started
  have unknown : (s.dropMsg k 2 m.length).rxPair h = none := unknown
  have full : 1024 ≤ ((s.dropMsg k 2 m.length).homeRx h.channel).length := full
  simp only [State.homeRx] at full
  rw [execOpenMsg, receive_of_arrived a (by simp [mtype])]
  simp only [mtype, ne_eq, not_true, if_false, started, unknown, Option.isSome_none, Bool.false_eq_true, full, if_true, leaves]
  rfl

theorem execOpenMsg_room (unknown : s.rxPair h = none) (room : (s.homeRx h.channel).length < 1024) :
    execOpenMsg k s = .next ((s.answered k j m 5 h).withRx
      (s.kuf.rx ++ [{ node := h.src, channel := h.channel, acked := 0, got := [], since := 0 }])) := by
  have leaves := State.sendOn_control_withRx (s := s.dropMsg k 2 m.length) (mtype := 5) (ch := h.channel) (body := [])
    (l := s.kuf.rx ++ [{ node := h.src, channel := h.channel, acked := 0, got := [], since := 0 }]) (by decide) (by decide)
    ((s.dropMsg_routeOf ..).trans route)
  have started : (s.dropMsg k 2 m.length).job.state ≠ .idle := started
  have unknown : (s.dropMsg k 2 m.length).rxPair h = none := unknown
  have room : ¬1024 ≤ ((s.dropMsg k 2 m.length).homeRx h.channel).length := not_le.2 room
  simp only [State.homeRx] at room
  rw [execOpenMsg, receive_of_arrived a (by simp [mtype])]
  simp only [mtype, ne_eq, not_true, if_false, started, unknown, Option.isSome_none, Bool.false_eq_true, room]
  exact congrArg (fun x : Option KPort × State => Host.Outcome.next x.2) leaves

end Open

/-! ### Sending what a pair lets go (R246, R247) -/

/-- Every message of the pairs of a node and a channel has been sent. -/
def State.allSent (s : State) (node : BitVec 12) (ch : BitVec 8) : Prop :=
  ∀ x ∈ s.kuf.tx, x.node = node → x.channel = ch → ∀ y ∈ x.buffer, y.sends ≠ 0

theorem State.txPair_mem {s : State} {node : BitVec 12} {ch : BitVec 8} {x : TxPair} (pair : s.txPair node ch = some x) :
    x ∈ s.kuf.tx ∧ x.node = node ∧ x.channel = ch :=
  ⟨List.mem_of_find?_eq_some pair, by simpa using List.find?_some pair⟩

/-- Where every message has been sent, the window lets no further one go. -/
theorem State.pump_of_allSent {s : State} {node : BitVec 12} {ch : BitVec 8} (sent : s.allSent node ch) : s.pump node ch = s := by
  unfold State.pump
  split
  · rfl
  next x pair =>
    obtain ⟨mem, atNode, onChannel⟩ := State.txPair_mem pair
    have none : (x.buffer.filter fun m => decide (m.sends = 0) && x.inWindow m) = [] := by
      simpa using fun y inside new => absurd new (sent x mem atNode onChannel y inside)
    rw [none]
    split <;> rfl

/-- A change of a pair that keeps no message but its own. -/
theorem State.modTx_allSent {s : State} {node : BitVec 12} {ch : BitVec 8} {f : TxPair → TxPair} (sent : s.allSent node ch)
    (keeps : ∀ x, ∀ y ∈ (f x).buffer, y ∈ x.buffer) : (s.modTx node ch f).allSent node ch := by
  intro x mem atNode onChannel y inside
  obtain ⟨x, origin, rfl⟩ := List.mem_map.1 mem
  split at inside
  next hit =>
    obtain ⟨atNode, onChannel⟩ := by simpa using hit
    exact sent x origin atNode onChannel y (keeps x y inside)
  next miss =>
    rw [if_neg miss] at atNode onChannel
    exact sent x origin atNode onChannel y inside

/-! ### GRANT, ACK and REFUSE (R246, R247) -/

/-- The acknowledgement `n` of a pair has been taken (R247). -/
def State.acknowledged (s : State) (node : BitVec 12) (ch : BitVec 8) (n : BitVec 24) : State :=
  { s.modTx node ch fun x => { x with acked := n, buffer := x.buffer.filter fun y => decide ((y.mseq - n).toNat < 2 ^ 23) } with
    plots := s.plots.map fun q => q.dropAcked node ch n }

theorem State.acknowledged_plot (t : State) (node : BitVec 12) (ch : BitVec 8) (n : BitVec 24) (p : PlotIx) :
    (t.acknowledged node ch n).plot p = (t.plot p).dropAcked node ch n := by
  simp [State.acknowledged, State.plot, Vector.get_eq_getElem]

section Answers

variable {s : State} {k : KPort} {m : List Byte} {h : MsgHdr} (a : Arrived s k 2 m h)

include a

theorem execGrant_opens (mtype : h.mtype = 5) (sent : s.allSent h.src h.channel) :
    execGrant k s = .next ((s.dropMsg k 2 m.length).modTx h.src h.channel fun x => { x with granted := true }) := by
  rw [execGrant, receive_of_arrived a (by simp [mtype])]
  exact congrArg _ (State.pump_of_allSent (State.modTx_allSent (s := s.dropMsg k 2 m.length) sent fun _ _ inside => inside))

theorem execAck_takes (mtype : h.mtype = 6) {x : TxPair} {n : BitVec 24} (pair : s.txPair h.src h.channel = some x)
    (number : n = BitVec.ofNat 24 ((wordAt m 0x10).toNat / 2 ^ 8)) (inside : (n - x.acked).toNat ≤ (x.mseq - x.acked).toNat)
    (sent : s.allSent h.src h.channel) :
    execAck k s = .next ((s.dropMsg k 2 m.length).acknowledged h.src h.channel n) := by
  have pair : (s.dropMsg k 2 m.length).txPair h.src h.channel = some x := pair
  have kept := State.modTx_allSent (s := s.dropMsg k 2 m.length) sent
    (f := fun x => { x with acked := n, buffer := x.buffer.filter fun y => decide ((y.mseq - n).toNat < 2 ^ 23) })
    fun _ _ inside => List.mem_of_mem_filter inside
  rw [execAck, receive_of_arrived a (by simp [mtype])]
  simp only [pair, ofNat_bits _ (show 31 + 1 - 8 = 24 from rfl), ← number, not_lt.2 inside, if_false]
  exact congrArg _ (State.pump_of_allSent (s := (s.dropMsg k 2 m.length).acknowledged h.src h.channel n) kept)

theorem execRefuse_fatal (mtype : h.mtype = 7) (known : (s.txPair h.src h.channel).isSome = true) :
    execRefuse k s = .next (((s.dropMsg k 2 m.length).modTx h.src h.channel fun x => { x with refused := true }).raiseLead
      (s.mkErr 0x0502 .jobFatal srcKufort (keyWord h.src h.channel) [])) := by
  obtain ⟨x, pair⟩ := Option.isSome_iff_exists.1 known
  have pair : (s.dropMsg k 2 m.length).txPair h.src h.channel = some x := pair
  rw [execRefuse, receive_of_arrived a (by simp [mtype])]
  simp only [pair]
  rfl

end Answers

/-! ### What is acknowledged and sent again (R247, R249, R255) -/

section Again

variable {s : State} {j : KPort} {node : BitVec 12} {ch : BitVec 8} (live : s.evr.fallow = false) (route : s.routeOf node = some j)

include live route

theorem execAckSend_acknowledges {x : RxPair} (pair : s.kuf.rx.find? (fun x => x.node = node && x.channel = ch) = some x)
    (applied : x.since ≠ 0) : execAckSend node ch s =
      .next ((s.txPush j (controlMessage s 6 node ch (bytesOfWord (w32 (x.acked.toNat * 2 ^ 8))))).withRx
        (s.kuf.rx.map fun y => if y.node = node && y.channel = ch then { y with since := 0 } else y)) := by
  have leaves := State.sendOn_control_withRx (mtype := 6) (ch := ch) (body := bytesOfWord (w32 (x.acked.toNat * 2 ^ 8)))
    (l := s.kuf.rx.map fun y => if y.node = node && y.channel = ch then { y with since := 0 } else y) (by decide)
    (by rw [bytesOfWord_length]; decide) route
  simp only [execAckSend, pair, applied, live, decide_false, Bool.or_self, Bool.false_eq_true, if_false]
  exact congrArg (fun x : Option KPort × State => Host.Outcome.next x.2) leaves

theorem execOpenResend_repeats {x : TxPair} (pair : s.txPair node ch = some x) (waits : x.granted = false)
    (standing : x.refused = false) : execOpenResend node ch s =
      .next ((s.txPush j (controlMessage s 4 node ch [])).modTx node ch fun x => { x with opens := x.opens + 1 }) := by
  have leaves := State.sendOn_control (mtype := 4) (ch := ch) (body := []) (by decide) (by decide) route
  simp only [execOpenResend, pair, waits, standing, live, Bool.or_self, Bool.false_eq_true, if_false, State.sendOpen, leaves]

/-- Message `y` of a pair has left on port `j` again. -/
def State.sentAgain (s : State) (node : BitVec 12) (ch : BitVec 8) (y : SentMsg) (j : KPort) : State :=
  let t := (s.txPush j y.bytes).modTx node ch fun x => { x with
    buffer := x.buffer.map fun z => if z.mseq = y.mseq then { z with sends := y.sends + 1, port := some j } else z }
  ({ t with kuf := { t.kuf with resent := satAdd t.kuf.resent 1 } }).rowAdd 5 (b2n (decide (4 ≤ (dieOfPort j).val))) 1

/-- A message that has been sent up to four times without an acknowledgement leaves by its node's route again. -/
theorem execMessageResend_repeats {x : TxPair} {y : SentMsg} (pair : s.txPair node ch = some x)
    (kept : x.buffer.find? (fun z => z.mseq = y.mseq) = some y) (sent : 1 ≤ y.sends) (few : y.sends < 5)
    (dst : (MsgHdr.ofBytes y.bytes).dst = node) :
    execMessageResend node ch y.mseq s = .next (s.sentAgain node ch y j) := by
  have leaves := State.sendOn_route s y.bytes j node dst route
  have again : (decide (y.sends = 0) || decide (y.sends > 5)) = false := by
    simp only [Bool.or_eq_false_iff, decide_eq_false_iff_not]
    omega
  have spared : ¬y.sends = 5 := by omega
  simp only [execMessageResend, pair, kept, live, Bool.false_eq_true, if_false, State.resendMsg, again, spared, leaves]
  rfl

end Again

end Sys2Proof.Machine

namespace Sys2Proof.KufortLinks

open Sys2Proof.Machine Sys2Proof.Claim

/-- Settles O35: each control message is answered or changes its pair, and what is sent again leaves by the pair's route. -/
theorem channelsOpenAndAcknowledge : Obligations.ChannelsOpenAndAcknowledge := by
  intro s k j m h
  refine ⟨fun a mtype started route => ?opens, fun a mtype sent => ?grants, fun a mtype x n pair number inside sent => ?acknowledges,
    fun a mtype known => ?refuses, fun node ch live route => ⟨fun x pair applied => ?acks,
      fun x y pair kept once few dst type => ?resends, fun x pair waits standing => ?repeats⟩⟩
  case opens =>
    have granted := controlMessage_class (s := s) (mtype := 5) (node := h.src) (ch := h.channel) (body := []) (by decide) (by decide)
    have refused := controlMessage_class (s := s) (mtype := 7) (node := h.src) (ch := h.channel) (body := []) (by decide) (by decide)
    by_cases known : (s.rxPair h).isSome = true
    case pos =>
      have known' : s.rxPair h ≠ none := Option.isSome_iff_ne_none.1 known
      exact ⟨_, execOpenMsg_known a mtype started route known, ⟨rfl, rfl, rfl, rfl⟩, rfl, rfl,
        fun _ => ⟨rfl, queued_of_dropMsg_txPush granted rfl⟩, fun unknown => absurd unknown known',
        fun unknown => absurd unknown known'⟩
    case neg =>
      have unknown : s.rxPair h = none := by simpa using known
      by_cases room : (s.homeRx h.channel).length < 1024
      case pos =>
        exact ⟨_, execOpenMsg_room a mtype started route unknown room, ⟨rfl, rfl, rfl, rfl⟩, rfl, rfl,
          fun known' => absurd known' known, fun _ _ => ⟨rfl, queued_of_dropMsg_txPush granted rfl⟩,
          fun _ full => absurd room (not_lt.2 full)⟩
      case neg =>
        exact ⟨_, execOpenMsg_full a mtype started route unknown (not_lt.1 room), ⟨rfl, rfl, rfl, rfl⟩, rfl, rfl,
          fun known' => absurd known' known, fun _ room' => absurd room' room,
          fun _ _ => ⟨rfl, queued_of_dropMsg_txPush refused rfl⟩⟩
  case grants =>
    exact ⟨_, execGrant_opens a mtype sent, rfl, fun l ne => s.dropMsg_others 2 m.length ne, rfl, ⟨rfl, rfl, rfl, rfl⟩, rfl⟩
  case acknowledges =>
    exact ⟨_, execAck_takes a mtype pair number inside sent, rfl, fun l ne => s.dropMsg_others 2 m.length ne,
      fun p => s.acknowledged_plot .., rfl, rfl, rfl, rfl⟩
  case refuses =>
    exact ⟨_, execRefuse_fatal a mtype known, congrArg Kuf.tx (State.raiseLead_kuf ..),
      fun l ne => (State.raise_kport ..).trans (s.dropMsg_others 2 m.length ne),
      ⟨State.raiseLead_plots .., State.raiseLead_mem .., State.raiseLead_sync .., State.raiseLead_job ..⟩,
      congrArg RecHalf.registered (State.raise_half ..)⟩
  case acks =>
    exact ⟨_, execAckSend_acknowledges live route pair applied, ⟨rfl, rfl, rfl, rfl⟩, rfl, rfl,
      queued_of_txPush (controlMessage_class (by decide) (by rw [bytesOfWord_length]; decide)) rfl, rfl⟩
  case resends =>
    exact ⟨_, execMessageResend_repeats live route pair kept once few dst, ⟨rfl, rfl, rfl, rfl⟩, rfl,
      queued_of_txPush (by rw [type]; rfl) rfl, rfl⟩
  case repeats =>
    exact ⟨_, execOpenResend_repeats live route pair waits standing, ⟨rfl, rfl, rfl, rfl⟩, rfl,
      queued_of_txPush (controlMessage_class (by decide) (by decide)) rfl, rfl⟩

end Sys2Proof.KufortLinks
end

section
/-! The step round: completion of a row, the up token, and the end of the round by a halt at the boundary or by the advance to
the next part of the plots (R271-R274, R278, R280). -/

namespace Sys2Proof.Machine

open Sys2Proof.Claim

/-! ### The tokens of a round (R272, R274) -/

/-- What the end of the round reads, and the plots and memory: step tokens that are taken or sent leave it alone. -/
def State.roundView (s : State) :=
  (s.plots, s.mem, s.job.state, s.job.hdr, s.job.active, s.job.row, s.job.complete, s.job.haltat, s.job.haltrow)

theorem State.roundView_eq {s u : State} (e : u.roundView = s.roundView) :
    u.plots = s.plots ∧ u.mem = s.mem ∧ u.job.state = s.job.state ∧ u.job.hdr = s.job.hdr ∧ u.job.active = s.job.active ∧
      u.job.row = s.job.row ∧ u.job.complete = s.job.complete ∧ u.job.haltat = s.job.haltat ∧
      u.job.haltrow = s.job.haltrow := by
  simpa only [State.roundView, Prod.mk.injEq] using e

/-- A step token changes nothing of the job but the counts of token sequences. -/
theorem State.sendStep_job (s : State) (node : BitVec 12) (q : Nat) (flag : Bool) :
    ∃ l, (s.sendStep node q flag).job = { s.job with tseqs := l } := by
  obtain ⟨-, -, -, -, -, -, -, -, job⟩ := State.besideLinks_eq (s.sendToken_besideLinks node 255
    (BitVec.ofNat 15 (s.stepQueue q)) (w32 (b2n flag * 2 ^ 31 + s.rowLow)))
  exact ⟨_, congrArg (fun j : Job => { j with tseqs := (s.sendStep node q flag).job.tseqs }) job⟩

theorem State.sendStep_roundView (s : State) (node : BitVec 12) (q : Nat) (flag : Bool) :
    (s.sendStep node q flag).roundView = s.roundView := by
  obtain ⟨plots, -, mem, -⟩ := State.besideLinks_eq (s.sendToken_besideLinks node 255
    (BitVec.ofNat 15 (s.stepQueue q)) (w32 (b2n flag * 2 ^ 31 + s.rowLow)))
  obtain ⟨l, job⟩ := s.sendStep_job node q flag
  rw [State.roundView, job, State.sendStep, plots, mem]
  rfl

theorem State.takeUps_roundView (s : State) : s.takeUps.roundView = s.roundView :=
  State.forEach_keeps State.roundView s _ (fun u x => u.engineTake x) fun _ _ => rfl

theorem State.takeUps_links (s : State) : s.takeUps.kuf = s.kuf ∧ s.takeUps.evr = s.evr :=
  ⟨State.forEach_keeps State.kuf s _ (fun u x => u.engineTake x) fun _ _ => rfl,
    State.forEach_keeps State.evr s _ (fun u x => u.engineTake x) fun _ _ => rfl⟩

/-- The module or one of its children asks for a halt at the boundary (R280). -/
def State.haltAsked (s : State) : Prop :=
  s.requested = true ∨ ∃ c ∈ s.children, ∃ x, (s.stepTokens 0).find? (fun t => t.src = c) = some x ∧ bit x.payload 31 = true

theorem State.takeUps_haltreq (s : State) : s.takeUps.job.haltreq = true ↔ s.haltAsked := by
  simp only [State.takeUps, State.haltAsked, Bool.or_eq_true, List.any_eq_true, List.mem_filterMap]
  exact or_congr_right ⟨fun ⟨x, ⟨c, mem, first⟩, asks⟩ => ⟨c, mem, x, first, asks⟩,
    fun ⟨c, mem, x, first, asks⟩ => ⟨x, ⟨c, mem, first⟩, asks⟩⟩

theorem State.allUps_iff (s : State) : s.allUps = true ↔ ∀ c ∈ s.children, s.hasUp c = true := by
  simp [State.allUps]

theorem State.presentUps_mem (s : State) (c : BitVec 12) : c ∈ s.presentUps ↔ c ∈ s.children ∧ s.hasUp c = true := by
  simp [State.presentUps]

/-! ### ROW_COMPLETION and STEP_UP (R271, R272, R278) -/

theorem execRowCompletion_completes {s : State} (runs : s.stepRuns = true) (uncompleted : s.job.complete = false)
    (plots : s.plotsDone = true) (allocated : s.allocated = true) (copied : s.copyDone = true)
    (more : s.job.active ≠ s.job.ended) :
    execRowCompletion s = .next ({ s with job := { s.job with complete := true, waitAge := 0 } }.beginRound) := by
  simp [execRowCompletion, runs, uncompleted, plots, allocated, copied, more]

/-- The state in which the up tokens of the children have been taken and the module's own is about to go. -/
def State.upGoes (s : State) : State := { s.takeUps with job := { s.takeUps.job with upSent := true } }

theorem execStepUp_sends {s : State} {par : BitVec 12} (runs : s.stepRuns = true) (parent : treeParent s.kuf.node = some par)
    (complete : s.job.complete = true) (unsent : s.job.upSent = false) (sound : s.badUp = none) (ups : s.allUps = true) :
    execStepUp s = .next (s.upGoes.sendStep par 0 s.upGoes.job.haltreq) := by
  simp only [execStepUp, runs, unsent, sound, parent, complete, ups]
  rfl

/-! ### The end of the round (R272, R273, R280) -/

/-- A round that can end does so from the state in which its tokens have been taken and sent. -/
theorem execAdvance_ends {s : State} {halt : Bool} (runs : s.stepRuns = true) (ends : roundEnds s halt) :
    ∃ u : State, u.roundView = s.roundView ∧ execAdvance s = .next (if halt then u.haltAtBoundary else u.advance) := by
  have sent : ∀ u : State, (u.forEach u.children fun v c => v.sendStep c 1 halt).roundView = u.roundView :=
    fun u => State.forEach_keeps State.roundView u _ _ fun v c => v.sendStep_roundView c 1 halt
  obtain ⟨noHalt, ⟨root, complete, sound, ups, asked⟩ | ⟨par, x, r, parent, down, row, upSent, rfl⟩⟩ := ends
  case inl =>
    have ups := s.allUps_iff.2 ups
    have halts : s.takeUps.job.haltreq = halt := Bool.eq_iff_iff.2 (s.takeUps_haltreq.trans asked.symm)
    refine ⟨_, (sent s.takeUps).trans s.takeUps_roundView, ?_⟩
    simp only [execAdvance, runs, noHalt, root, complete, sound, ups, halts]
    rfl
  case inr =>
    refine ⟨_, (sent (s.engineTake x)).trans rfl, ?_⟩
    simp only [execAdvance, runs, noHalt, parent, down, row, upSent]
    rfl

/-! ### The halt at the boundary (R280) -/

theorem State.haltAtBoundary_job (s : State) : s.haltAtBoundary.job =
    { s.job with haltnext := false, haltat := s.job.haltat && !(s.job.haltat && decide (s.job.haltrow.toNat ≤ s.job.row.toNat)),
                 upSent := false, ups := [], state := .halted, halt := .boundary } := by
  simp [State.haltAtBoundary]

theorem State.haltAtBoundary_haltat (s : State) :
    s.haltAtBoundary.job.haltat = true ↔ s.job.haltat = true ∧ s.job.row.toNat < s.job.haltrow.toNat := by
  rw [State.haltAtBoundary_job]
  cases s.job.haltat <;> simp

theorem State.haltAtBoundary_rcv (s : State) : s.haltAtBoundary.rcv = { s.rcv with checkpoint := false } := by
  simp [State.haltAtBoundary]

theorem State.haltAtBoundary_keeps (s : State) : s.haltAtBoundary.plots = s.plots ∧ s.haltAtBoundary.mem = s.mem := by
  simp [State.haltAtBoundary]

/-! ### What the recorder takes at the advance (R278, R369) -/

/-- What no sample changes. -/
def State.coreAndPlots (s : State) := (s.core, s.plots)

theorem State.coreAndPlots_eq {s u : State} (e : u.coreAndPlots = s.coreAndPlots) :
    u.job = s.job ∧ u.fb = s.fb ∧ u.rcv = s.rcv ∧ u.plots = s.plots := by
  obtain ⟨core, plots⟩ := Prod.mk.inj e
  obtain ⟨-, -, -, job, fb, rcv, -⟩ := (State.core_eq ..).1 core
  exact ⟨job, fb, rcv, plots⟩

theorem State.sample_coreAndPlots (s : State) (h : Half) (q : Fin 8) (layer oper : Id16) (row : Row) (v : Nat) :
    (s.sample h q layer oper row v).coreAndPlots = s.coreAndPlots := by
  obtain ⟨r, e⟩ := s.sample_eq h q layer oper row v
  rw [e]
  rfl

theorem State.waitSample_coreAndPlots (s : State) : s.waitSample.coreAndPlots = s.coreAndPlots := by
  unfold State.waitSample
  split
  · rfl
  · exact s.sample_coreAndPlots ..

theorem State.rowSamples_coreAndPlots (s : State) : s.rowSamples.coreAndPlots = s.coreAndPlots := by
  unfold State.rowSamples
  extract_lets row got s1 s2 s3 s4
  have strips : s1.coreAndPlots = s.coreAndPlots :=
    State.forEach_keeps State.coreAndPlots _ _ _ fun u _ => (State.sample_coreAndPlots ..).trans (u.sample_coreAndPlots ..)
  have halves : s2.coreAndPlots = s1.coreAndPlots :=
    State.forEach_keeps State.coreAndPlots _ _ _ fun u _ => (State.sample_coreAndPlots ..).trans (u.sample_coreAndPlots ..)
  have energies : s3.coreAndPlots = s2.coreAndPlots :=
    State.forEach_keeps State.coreAndPlots _ _ _ fun u _ => u.sample_coreAndPlots ..
  have flags : s4.coreAndPlots = s3.coreAndPlots := by
    unfold s4
    split
    · exact State.forEach_keeps State.coreAndPlots _ _ _ fun u _ => u.free.2.sample_coreAndPlots ..
    · rfl
  exact flags.trans (energies.trans (halves.trans strips))

theorem State.traceDie_coreAndPlots (s : State) (d : DieIx) (kind : BitVec 5) (d0 d1 : Nat) :
    (s.traceDie d kind d0 d1).coreAndPlots = s.coreAndPlots :=
  Prod.ext (s.traceDie_core ..) (s.traceDie_plots ..)

/-! ### The advance (R273) -/

/-- The row count after the advance (R273). -/
def State.rowAfter (s : State) (last : Bool) : Row := if last then s.job.row else s.job.row + 1

/-- The state with the row count after the advance and no part of the next round done. -/
def State.rowCounted (s : State) (last : Bool) : State :=
  let s1 := s.waitSample.rowSamples
  { s1 with
    job := { s1.job with row := s.rowAfter last, complete := false, upSent := false, haltreq := false, ups := [] }
    fb := { s1.fb with allocDone := false }
    rcv := { s1.rcv with copied := false } }

/-- The state after the advance's trace records, before the plots begin their parts. -/
def State.rowMoved (s : State) (last : Bool) : State :=
  if last then s.rowCounted last
  else (s.rowCounted last).forEach allDies fun u d => u.traceDie d 0x0A ((s.rowAfter last).toNat % 2 ^ 32) 0

/-- The part that the plots begin at an advance (R273). -/
def partAfter (last : Bool) : SeqState := if last then .epilogue else .body

theorem State.advance_eq {s : State} {h : PlanHdr} {last : Bool} (hdr : s.job.hdr = some h)
    (atLast : last = decide (s.job.row = h.rowlast)) :
    s.advance = ((s.rowMoved last).forEach (s.rowMoved last).job.active fun u p => u.beginPart p (partAfter last)).sowBarrier := by
  subst atLast
  simp only [State.advance, hdr, State.rowMoved, State.rowCounted, State.rowAfter, partAfter, decide_eq_true_eq]

theorem State.rowMoved_traced (s : State) (last : Bool) : (s.rowMoved last).coreAndPlots = (s.rowCounted last).coreAndPlots := by
  unfold State.rowMoved
  split
  · rfl
  · exact State.forEach_keeps State.coreAndPlots _ _ _ fun u d => u.traceDie_coreAndPlots ..

theorem State.rowMoved_eq (s : State) (last : Bool) :
    (s.rowMoved last).job =
        { s.job with row := s.rowAfter last, complete := false, upSent := false, haltreq := false, ups := [] } ∧
      (s.rowMoved last).fb = { s.fb with allocDone := false } ∧ (s.rowMoved last).rcv = { s.rcv with copied := false } ∧
      (s.rowMoved last).plots = s.plots := by
  obtain ⟨job, fb, rcv, plots⟩ :=
    State.coreAndPlots_eq (s.waitSample.rowSamples_coreAndPlots.trans s.waitSample_coreAndPlots)
  obtain ⟨job', fb', rcv', plots'⟩ := State.coreAndPlots_eq (s.rowMoved_traced last)
  rw [job', fb', rcv', plots', State.rowCounted, job, fb, rcv, plots]
  exact ⟨rfl, rfl, rfl, rfl⟩

/-- A plot that stood as `a` has begun a part at a row and stands as `b`; a stopped one begins it when it resumes. -/
structure PartBegun (part : SeqState) (row : Row) (a b : Plot) : Prop where
  rest : b.store = a.store ∧ b.movers = a.movers
  state : b.seq.state = if a.seq.state = .stopped then .stopped else part
  atPart : b.seq.part = part
  row : b.seq.row = row
  rowDone : b.seq.rowDone = false
  busy : b.seq.busy = .ready
  pc : b.seq.pc = w32 (a.seq.start part)
  start : b.seq.start part = a.seq.start part

/-- To begin a part again at the same row changes nothing of this. -/
theorem PartBegun.trans {part : SeqState} {row : Row} {a b c : Plot} (h : PartBegun part row a b) (g : PartBegun part row b c) :
    PartBegun part row a c where
  rest := ⟨g.rest.1.trans h.rest.1, g.rest.2.trans h.rest.2⟩
  state := by
    rw [g.state, h.state]
    by_cases stopped : a.seq.state = .stopped
    case pos => simp [stopped]
    case neg => simp [stopped, eq_comm]
  atPart := g.atPart
  row := g.row
  rowDone := g.rowDone
  busy := g.busy
  pc := by rw [g.pc, h.start]
  start := g.start.trans h.start

theorem State.beginPart_begins (s : State) (p : PlotIx) (part : SeqState) :
    PartBegun part s.job.row (s.plot p) ((s.beginPart p part).plot p) := by
  constructor
  case start => cases part <;> simp [State.beginPart, State.seqAt, Seq.start]
  all_goals simp [State.beginPart, State.seqAt]

theorem State.beginPart_others (s : State) {p q : PlotIx} (part : SeqState) (ne : q ≠ p) :
    (s.beginPart p part).plot q = s.plot q := by
  unfold State.beginPart State.seqAt
  dsimp only
  rw [State.modSeq_plot_ne _ _ _ _ ne.symm, State.modSeq_plot_ne _ _ _ _ ne.symm]

theorem State.forEach_beginPart (s : State) (l : List PlotIx) (part : SeqState) :
    (∀ p ∈ l, PartBegun part s.job.row (s.plot p) ((s.forEach l fun u p => u.beginPart p part).plot p)) ∧
      ∀ p, p ∉ l → (s.forEach l fun u p => u.beginPart p part).plot p = s.plot p := by
  obtain ⟨inside, outside, -⟩ := State.forEach_plots_of (f := fun u p => u.beginPart p part)
    (R := fun _ => PartBegun part s.job.row) (I := fun u => u.job = s.job) (fun _ _ same => same) (fun h g => h.trans g)
    (fun u p same => same ▸ u.beginPart_begins p part) (fun u _ _ => u.beginPart_others part) l rfl
  exact ⟨inside, outside⟩

/-- A barrier holds the next command of a plot and nothing of the part that it has begun. -/
theorem PartBegun.sown {part : SeqState} {row : Row} {a : Plot} {s : State} {p : PlotIx} (h : PartBegun part row a (s.plot p)) :
    PartBegun part row a (s.sowBarrier.plot p) := by
  obtain ⟨rest, state, atPart, row', rowDone, busy, pc, start⟩ := h
  rw [s.sowBarrier_plot]
  exact ⟨rest, state, atPart, row', rowDone, busy, pc, by rw [← start]; cases part <;> rfl⟩

/-- What an advance leaves: the row and the round of the job, and the plots in their next part. -/
structure RowAdvanced (s t : State) (last : Bool) : Prop where
  job : t.job = { s.job with row := s.rowAfter last, complete := false, upSent := false, haltreq := false, ups := [] }
  fb : t.fb = { s.fb with allocDone := false }
  rcv : t.rcv = { s.rcv with copied := false }
  begun : ∀ p ∈ s.job.active, PartBegun (partAfter last) t.job.row (s.plot p) (t.plot p)
  others : ∀ p, p ∉ s.job.active → t.plot p = { s.plot p with seq := { (s.plot p).seq with sowing := (t.plot p).seq.sowing } }

theorem State.advance_advances {s : State} {h : PlanHdr} {last : Bool} (hdr : s.job.hdr = some h)
    (atLast : last = decide (s.job.row = h.rowlast)) : RowAdvanced s s.advance last := by
  obtain ⟨job, fb, rcv, plots⟩ := s.rowMoved_eq last
  have plot : ∀ p, (s.rowMoved last).plot p = s.plot p := State.plot_of_plots plots
  have active : (s.rowMoved last).job.active = s.job.active := by rw [job]
  have core := State.forEach_core (s.rowMoved last) s.job.active (fun u p => u.beginPart p (partAfter last)) fun u p => by
    rw [State.beginPart, State.seqAt_core, State.modSeq_core]
  obtain ⟨inside, outside⟩ := (s.rowMoved last).forEach_beginPart s.job.active (partAfter last)
  rw [State.advance_eq hdr atLast, active]
  obtain ⟨-, -, -, job', fb', rcv', -⟩ := (State.core_eq ..).1 ((State.sowBarrier_core _).trans core)
  refine ⟨job'.trans job, fb'.trans fb, rcv'.trans rcv, fun p mem => ?_, fun p out => ?_⟩
  · rw [job', ← plot p]
    exact (inside p mem).sown
  · rw [State.sowBarrier_plot, outside p out, plot]

end Sys2Proof.Machine

namespace Sys2Proof.StepRound

open Sys2Proof.Machine Sys2Proof.Claim

/-- Settles O42: the round takes and sends its tokens, and its end is the halt at the boundary or the advance. -/
theorem theStepRoundAdvancesOrHalts : Obligations.TheStepRoundAdvancesOrHalts := by
  intro s runs
  refine ⟨fun uncomplete plots allocated copied more => ?completes,
    fun par parent complete unsent sound ups => ?sends, fun ends => ?halts, fun h last part ends hdr atLast part_eq => ?advances⟩
  case completes =>
    exact ⟨_, execRowCompletion_completes runs uncomplete plots allocated copied more, rfl, rfl, rfl, rfl, rfl,
      s.presentUps_mem, rfl, rfl, rfl⟩
  case sends =>
    have run := execStepUp_sends runs parent complete unsent sound (s.allUps_iff.2 ups)
    obtain ⟨l, job⟩ := s.upGoes.sendStep_job par 0 s.upGoes.job.haltreq
    obtain ⟨plots, mem, -⟩ := State.roundView_eq (s.upGoes.sendStep_roundView par 0 s.upGoes.job.haltreq)
    obtain ⟨plots', mem', -, -, -, row', complete', -⟩ := State.roundView_eq s.takeUps_roundView
    refine ⟨_, s.upGoes, run, by rw [job], s.takeUps_links.1, s.takeUps_links.2, plots.trans plots', mem.trans mem', ?_⟩
    rw [job]
    exact ⟨rfl, complete'.trans complete, row', s.takeUps_haltreq⟩
  case halts =>
    obtain ⟨u, same, run⟩ := execAdvance_ends runs ends
    obtain ⟨plots, mem, -, -, -, row, -, haltat, haltrow⟩ := State.roundView_eq same
    obtain ⟨plots', mem'⟩ := u.haltAtBoundary_keeps
    have served := u.haltAtBoundary_haltat
    rw [row, haltat, haltrow] at served
    refine ⟨_, run, ?_, ?_, ?_, ?_, ?_, plots'.trans plots, mem'.trans mem, served⟩
    all_goals simp [State.haltAtBoundary_job, State.haltAtBoundary_rcv, row]
  case advances =>
    subst part_eq
    obtain ⟨u, same, run⟩ := execAdvance_ends runs ends
    obtain ⟨plots, -, state, hdr', active, row, -⟩ := State.roundView_eq same
    have plot : ∀ p, u.plot p = s.plot p := State.plot_of_plots plots
    obtain ⟨job, fb, rcv, begun, others⟩ := u.advance_advances (hdr'.trans hdr) (row ▸ atLast)
    have running : s.job.state = .running := by
      simp only [State.stepRuns, Bool.and_eq_true, decide_eq_true_eq] at runs
      exact runs.1.1
    simp only [active, plot] at begun others
    refine ⟨_, run, ?_, ?_, ?_, ?_, ?_, ?_, fun p => ?_, fun p mem => ?_, fun p out => ?_⟩
    · exact (congrArg Job.state job).trans (state.trans running)
    · exact (congrArg Job.row job).trans (by rw [State.rowAfter, row])
    · exact congrArg Job.complete job
    · exact congrArg Job.upSent job
    · exact congrArg FourBit.allocDone fb
    · exact congrArg Recovery.copied rcv
    · by_cases mem : p ∈ s.job.active
      · exact (begun p mem).rest
      · exact ⟨(congrArg Plot.store (others p mem) :), (congrArg Plot.movers (others p mem) :)⟩
    · have begun := begun p mem
      exact ⟨begun.state, begun.atPart, begun.row, begun.rowDone, begun.busy, begun.pc⟩
    · exact ⟨(congrArg (fun q : Plot => q.seq.state) (others p out) :), (congrArg (fun q : Plot => q.seq.row) (others p out) :)⟩

end Sys2Proof.StepRound
end

section
/-! Errors in the recorder: the record of an error, what handling it does, the pending list, and the fallow state of a
module-fatal error; and the statement about them (R307, R358, R360, R361, R363, R367, R371). -/

namespace Sys2Proof.Machine

open Sys2Proof.Claim

/-! ### The recorder outside flushes and erases (R361, R371) -/

/-- A change of a half's buffer leaves the module's flushes, erases and pending fallow entry as they are. -/
theorem State.modHalf_evr (s : State) (h : Half) (f : RecHalf → RecHalf) :
    { (s.modHalf h f).evr with halfA := s.evr.halfA, halfB := s.evr.halfB } = s.evr := by
  cases h <;> rfl

theorem recording_of_evr {s t : State} (rec : Recording s)
    (evr : { t.evr with halfA := s.evr.halfA, halfB := s.evr.halfB } = s.evr) : Recording t where
  flush := (congrArg Evr.flushing evr).trans rec.flush
  staged := (congrArg Evr.staged evr).trans rec.staged
  erase := (congrArg Evr.erase evr).trans rec.erase
  live := (congrArg Evr.fallow evr).trans rec.live

theorem recording_modHalf {s : State} (rec : Recording s) (h : Half) (f : RecHalf → RecHalf) : Recording (s.modHalf h f) :=
  recording_of_evr rec (s.modHalf_evr h f)

/-- Without staged changes a buffer stands as it will. -/
theorem State.ahead_unstaged {s : State} (staged : s.evr.staged = []) (h : Half) : s.ahead h = s.half h := by
  rw [State.ahead, staged]
  rfl

/-- Outside a flush a change is applied at once. -/
theorem State.change_recording {s : State} (rec : Recording s) (c : Staged) : s.change c = s.applyChange c := by
  rw [State.change, rec.flush]
  rfl

theorem State.change_mark {s : State} (rec : Recording s) (h : Half) (n : W32) :
    s.change (.mark h n) = s.modHalf h fun r => r.modRec n fun x => { x with preempted := true } := by
  rw [State.change_recording rec]
  cases h <;> rfl

theorem State.change_again {s : State} (rec : Recording s) (h : Half) (n : W32) (row : Row) :
    s.change (.again h n row) = s.modHalf h fun r => r.modRec n (EvRec.again row) := by
  rw [State.change_recording rec]
  cases h <;> rfl

theorem State.triggerFlush_recording {s : State} (rec : Recording s) (g : FlushTrigger) (sev : Severity) (code : BitVec 16) :
    s.triggerFlush g sev code = s.startFlush g sev code := by
  simp [State.triggerFlush, rec.live, rec.flush, rec.erase]

/-! ### A new record (R366-R368) -/

/-- The parts of the module that records leave alone: trace units, the memory that they spill into and interrupts are not among
them. -/
def State.besideRecorder (s : State) := (s.plots, s.sync, s.job, s.fb, s.rcv, s.kuf, s.pwr)

theorem State.besideRecorder_eq {s t : State} (e : t.besideRecorder = s.besideRecorder) :
    t.plots = s.plots ∧ t.sync = s.sync ∧ t.job = s.job ∧ t.fb = s.fb ∧ t.rcv = s.rcv ∧ t.kuf = s.kuf ∧ t.pwr = s.pwr := by
  simpa only [State.besideRecorder, Prod.mk.injEq] using e

theorem State.modHalf_besideRecorder (s : State) (h : Half) (f : RecHalf → RecHalf) :
    (s.modHalf h f).besideRecorder = s.besideRecorder := by
  cases h <;> rfl

/-- The buffer of half `h` has become `r`, and nothing else of the recorder has changed. -/
structure BufferIs (s t : State) (h : Half) (r : RecHalf) : Prop where
  half : t.half h = r
  other : ∀ g, g ≠ h → t.half g = s.half g
  evr : { t.evr with halfA := s.evr.halfA, halfB := s.evr.halfB } = s.evr
  beside : t.besideRecorder = s.besideRecorder

theorem State.bufferIs_modHalf (s : State) (h : Half) (f : RecHalf → RecHalf) : BufferIs s (s.modHalf h f) h (f (s.half h)) :=
  ⟨s.modHalf_half h _, fun _ ne => s.modHalf_half_ne _ _ _ ne.symm, s.modHalf_evr h _, s.modHalf_besideRecorder h _⟩

theorem BufferIs.trans {s t u : State} {h : Half} {q r : RecHalf} (b : BufferIs s t h q) (c : BufferIs t u h r) :
    BufferIs s u h r where
  half := c.half
  other := fun g ne => (c.other g ne).trans (b.other g ne)
  evr := (congrArg (fun e : Evr => { e with halfA := s.evr.halfA, halfB := s.evr.halfB }) c.evr).trans b.evr
  beside := c.beside.trans b.beside

theorem BufferIs.congr {s t u : State} {h : Half} {r : RecHalf} (b : BufferIs s t h r) (evr : u.evr = t.evr)
    (beside : u.besideRecorder = t.besideRecorder) : BufferIs s u h r :=
  ⟨(State.half_of_evr evr h).trans b.half, fun g ne => (State.half_of_evr evr g).trans (b.other g ne), by rw [evr, b.evr],
    beside.trans b.beside⟩

theorem BufferIs.recording {s t : State} {h : Half} {r : RecHalf} (b : BufferIs s t h r) (rec : Recording s) : Recording t :=
  recording_of_evr rec b.evr

theorem BufferIs.fatalDue {s t : State} {h : Half} {r : RecHalf} (b : BufferIs s t h r) :
    t.evr.fatalDue = s.evr.fatalDue :=
  (congrArg Evr.fatalDue b.evr :)

theorem State.traceOn_besideRecorder (s : State) (d : DieIx) (r : TraceRec) (trig : Bool) :
    (s.traceOn d r trig).besideRecorder = s.besideRecorder := by
  obtain ⟨-, sync, -, job, fb, rcv, kuf, pwr, -⟩ := (State.core_eq _ _).1 (s.traceOn_core d r trig)
  simp only [State.besideRecorder, State.traceOn_plots, sync, job, fb, rcv, kuf, pwr]

theorem State.irqEvent_keeps (s : State) (v : Fin 4) :
    (s.irqEvent v).evr = s.evr ∧ (s.irqEvent v).besideRecorder = s.besideRecorder :=
  ⟨rfl, rfl⟩

/-- A record with a place reaches its buffer; the traces and interrupts that come with it do not touch the recorder. -/
theorem State.applyChange_record {s : State} {h : Half} {e : EvRec} {r : RecHalf} (place : (s.half h).place e = some r) :
    BufferIs s (s.applyChange (.record h e)) h r := by
  have traced (u : State) (x : TraceRec) (trig : State → DieIx → Bool) :
      (u.forEach allDies fun u d => u.traceOn d x (trig u d)).evr = u.evr ∧
        (u.forEach allDies fun u d => u.traceOn d x (trig u d)).besideRecorder = u.besideRecorder :=
    ⟨State.forEach_keeps State.evr u _ _ fun u d => u.traceOn_evr ..,
      State.forEach_keeps State.besideRecorder u _ _ fun u d => u.traceOn_besideRecorder ..⟩
  simp only [State.applyChange, Staged.half, RecHalf.change, place]
  split
  · exact (s.bufferIs_modHalf h fun _ => r).congr (traced ..).1 (traced ..).2
  · obtain ⟨evr, beside⟩ := State.irqEvent_keeps (State.forEach _ allDies _) 0
    exact (s.bufferIs_modHalf h fun _ => r).congr (evr.trans (traced ..).1) (beside.trans (traced ..).2)

theorem RecHalf.place_room {r : RecHalf} (room : r.ring.length < 1920) (e : EvRec) :
    r.place e = some { r with ring := r.ring ++ [e] } :=
  if_pos room

theorem State.freshRecord_room {s : State} {h : Half} (rec : Recording s) (room : (s.half h).ring.length < 1920) (r : EvRec) :
    ∃ t, s.freshRecord h r = (some r.rseq, t) ∧
      BufferIs s t h { s.half h with ring := (s.half h).ring ++ [r], rseq := (s.half h).rseq + 1 } := by
  have place : ((s.modHalf h fun x => { x with rseq := x.rseq + 1 }).half h).place r =
      some { s.half h with ring := (s.half h).ring ++ [r], rseq := (s.half h).rseq + 1 } := by
    rw [State.modHalf_half]
    exact RecHalf.place_room (r := { s.half h with rseq := (s.half h).rseq + 1 }) room r
  refine ⟨_, ?_, (s.bufferIs_modHalf h _).trans (State.applyChange_record place)⟩
  simp [State.freshRecord, State.ahead_unstaged rec.staged, RecHalf.place_room room, rec.flush,
    State.change_recording (recording_modHalf rec h _)]

/-- An error that does not repeat the newest record makes one of its own (R366, R367). -/
theorem State.record_makes {s : State} {h : Half} {e : ErrRep} (rec : Recording s) (fresh : makesRecord (s.half h) e) :
    ∃ t, s.record h e = (some (s.half h).rseq, t) ∧
      BufferIs s t h { s.half h with ring := (s.half h).ring ++ [recordOf (s.half h) e], rseq := (s.half h).rseq + 1 } := by
  obtain ⟨room, differs⟩ := fresh
  have own : s.record h e = s.freshRecord h (recordOf (s.half h) e) := by
    simp only [State.record, State.ahead_unstaged rec.staged]
    split
    · rename_i n newest
      exact if_neg (by simpa [recordOf] using differs n newest)
    · rfl
  rw [own]
  exact State.freshRecord_room rec room _

/-! ### Handling an error (R307, R358, R360, R371) -/

/-- NEED as an error asks for it: a loss of guarded data without buddy protection is 0x3 (R307, R314). -/
def State.needFor (s : State) (e : ErrRep) : BitVec 4 := if e.need = 2 ∧ s.rcv.mode = 2 then 3 else e.need

/-- The state in which an error has had its effects beside its record: NEED, the abort and the fallow entry that it asks for. -/
def State.affected (s : State) (e : ErrRep) : State :=
  { s with
    rcv := { s.rcv with need := if e.sev = .notice ∨ s.needFor e ≤ s.rcv.need then s.rcv.need else s.needFor e }
    job := { s.job with abortDue := if e.sev = .jobFatal then some (s.job.abortDue.getD
      (if e.code = 0x0504 then BitVec.ofNat 12 e.object.toNat else s.kuf.node)) else s.job.abortDue }
    evr := { s.evr with fatalDue := if e.sev = .moduleFatal then some (s.evr.fatalDue.getD e.code) else s.evr.fatalDue } }

/-- An error that asks for no halt now. -/
theorem State.errorEffect_affects {s : State} {e : ErrRep} (quiet : e.sev = .recoverable → e.need = 0) :
    s.errorEffect e = s.affected e := by
  have higher : (if s.rcv.need < s.needFor e then s.needFor e else s.rcv.need) =
      if s.needFor e ≤ s.rcv.need then s.rcv.need else s.needFor e := by
    simp only [← BitVec.not_lt, ite_not]
  cases sev : e.sev
  case notice => simp [State.errorEffect, State.affected, sev]
  case recoverable => simp [State.errorEffect, State.affected, State.needFor, sev, quiet sev]
  case jobFatal => simpa [State.errorEffect, State.affected, State.needFor, sev] using higher
  case moduleFatal => simpa [State.errorEffect, State.affected, State.needFor, sev] using higher

/-- What half `h` has in handling of an error that its record `n` tells of. -/
def ErrRep.inHand (e : ErrRep) (n : W32) : Handling := { code := e.code, sev := e.sev, rseq := some n, follow := false }

/-- The state in which an error has had its effects and is in handling in half `h` with its record `n`. -/
def State.takenInHand (s : State) (h : Half) (e : ErrRep) (n : W32) : State :=
  (s.affected e).modHalf h fun r => { r with handling := some (e.inHand n) }

/-- An error that is no notice is in handling, and but for a module-fatal one its flush begins. -/
theorem State.handle_alert {s t : State} {h : Half} {e : ErrRep} {n : W32} (rec : Recording t)
    (record : s.record h e = (some n, t)) (quiet : e.sev = .recoverable → e.need = 0) (alert : e.sev ≠ .notice) :
    s.handle h e = if e.sev = .moduleFatal then t.takenInHand h e n
      else (t.takenInHand h e n).startFlush .error e.sev e.code := by
  have rec1 : Recording (t.affected e) := ⟨rec.flush, rec.staged, rec.erase, rec.live⟩
  have live : (t.evr.fallow || decide (e.sev = .notice)) = false := by simp [rec.live, alert]
  simp only [State.handle, record, live, State.errorEffect_affects quiet,
    State.triggerFlush_recording (recording_modHalf rec1 h _), rec1.flush, rec1.erase]
  rfl

theorem State.handle_notice {s t : State} {h : Half} {e : ErrRep} {n : W32} (record : s.record h e = (some n, t))
    (notice : e.sev = .notice) : s.handle h e = t := by
  simp [State.handle, record, notice]

theorem State.takenInHand_evr (s : State) (h : Half) (e : ErrRep) (n : W32) :
    { (s.takenInHand h e n).evr with halfA := s.evr.halfA, halfB := s.evr.halfB } = (s.affected e).evr :=
  (s.affected e).modHalf_evr h _

/-- An error in handling after its record, whatever flush begins with it. -/
theorem State.takenInHand_handled {s t : State} {h : Half} {e : ErrRep} {o : Option Flush}
    (b : BufferIs s t h { s.half h with ring := (s.half h).ring ++ [recordOf (s.half h) e], rseq := (s.half h).rseq + 1 })
    (alert : e.sev ≠ .notice) (flush : (o.map fun f => (f.trigger, f.tsev, f.tcode, f.row)) =
      if e.sev = .recoverable ∨ e.sev = .jobFatal then some (.error, e.sev, e.code, s.job.row) else none) :
    let u := t.takenInHand h e (s.half h).rseq
    Handled s { u with evr := { u.evr with flushing := o } } h (s.half h) e := by
  intro u
  obtain ⟨plots, sync, job, fb, rcv, kuf, pwr⟩ := State.besideRecorder_eq b.beside
  have buffers (g : Half) : State.half { u with evr := { u.evr with flushing := o } } g =
      (t.takenInHand h e (s.half h).rseq).half g := by cases g <;> rfl
  have kept (g : Half) : (t.affected e).half g = t.half g := by cases g <;> rfl
  refine ⟨?half, fun g ne => ?other, ⟨?_, ?_, ?_, ?_, ?_⟩, ?need, ?job, ?fatal, flush⟩
  case half =>
    rw [buffers, State.takenInHand, State.modHalf_half, kept, b.half, if_neg alert]
    rfl
  case other => rw [buffers, State.takenInHand, State.modHalf_half_ne _ _ _ _ ne.symm, kept, b.other g ne]
  case need => simp [u, State.takenInHand, State.affected, State.needFor, rcv]
  case job => simp [u, State.takenInHand, State.affected, job, kuf]
  case fatal => exact (congrArg Evr.fatalDue (t.takenInHand_evr h e _) :).trans (by simp only [State.affected, b.fatalDue])
  all_goals simp [u, State.takenInHand, State.affected, plots, kuf, fb, pwr, sync]

/-- A new error outside flushes and erases is recorded and handled. -/
theorem State.handle_handled {s : State} {h : Half} {e : ErrRep} (rec : Recording s)
    (quiet : e.sev = .recoverable → e.need = 0) (fresh : makesRecord (s.half h) e) : Handled s (s.handle h e) h (s.half h) e := by
  obtain ⟨t, record, b⟩ := State.record_makes rec fresh
  have rec1 : Recording t := b.recording rec
  obtain ⟨plots, sync, job, fb, rcv, kuf, pwr⟩ := State.besideRecorder_eq b.beside
  by_cases notice : e.sev = .notice
  case pos =>
    rw [State.handle_notice record notice]
    exact ⟨by simp [b.half, notice], b.other, ⟨plots, kuf, fb, pwr, sync⟩, by simp [rcv, notice], by simp [job, notice],
      by simp [b.fatalDue, notice], by simp [rec1.flush, notice]⟩
  case neg =>
    rw [State.handle_alert rec1 record quiet notice]
    split
    case isTrue fatal =>
      have unflushed : (t.takenInHand h e (s.half h).rseq).evr.flushing = none :=
        (congrArg Evr.flushing (t.takenInHand_evr h e _) :).trans rec1.flush
      have handled := State.takenInHand_handled (o := none) b notice (by simp [fatal])
      rwa [← unflushed] at handled
    case isFalse mild =>
      have sev : e.sev = .recoverable ∨ e.sev = .jobFatal := by
        cases sev : e.sev <;> simp [sev] at notice mild ⊢
      exact State.takenInHand_handled b notice (by simp [sev, State.takenInHand, State.affected, job])

/-! ### Taking up errors (R360, R361) -/

/-- An error handled behind a change of its half's buffer is handled as from before that change. -/
theorem handled_of_modHalf {s t : State} {h : Half} {f : RecHalf → RecHalf} {r : RecHalf} {e : ErrRep}
    (handled : Handled (s.modHalf h f) t h r e) : Handled s t h r e := by
  obtain ⟨half, other, rest, need, job, fatal, flush⟩ := handled
  have due : (s.modHalf h f).evr.fatalDue = s.evr.fatalDue := (congrArg Evr.fatalDue (s.modHalf_evr h f) :)
  simp only [State.modHalf_plots, State.modHalf_kuf, State.modHalf_fb, State.modHalf_pwr, State.modHalf_sync, State.modHalf_rcv,
    State.modHalf_job, due] at rest need job fatal flush
  exact ⟨half, fun g ne => (other g ne).trans (s.modHalf_half_ne _ _ _ ne.symm), rest, need, job, fatal, flush⟩

/-- An error whose half's buffer has changed before is recorded in the buffer as it then stands. -/
theorem State.handle_modHalf {s : State} {h : Half} {f : RecHalf → RecHalf} {e : ErrRep} (rec : Recording s)
    (quiet : e.sev = .recoverable → e.need = 0) (fresh : makesRecord (f (s.half h)) e) :
    Handled s ((s.modHalf h f).handle h e) h (f (s.half h)) e := by
  have handled := State.handle_handled (s := s.modHalf h f) (h := h) (recording_modHalf rec h f) quiet
    ((s.modHalf_half h f).symm ▸ fresh)
  rw [State.modHalf_half] at handled
  exact handled_of_modHalf handled

theorem State.modHalf_modHalf (s : State) (h : Half) (f g : RecHalf → RecHalf) :
    (s.modHalf h f).modHalf h g = s.modHalf h fun r => g (f r) := by
  cases h <;> rfl

theorem State.modHalf_elsewhere (s : State) (h : Half) (f : RecHalf → RecHalf) : { s.modHalf h f with evr := s.evr } = s := by
  cases h <;> rfl

section
variable {s : State} {h : Half} {e : ErrRep} {r : List ErrRep}

theorem execPendingError_handles (idle : (s.half h).handling = none) (first : (s.half h).pending = e :: r) :
    execPendingError h s = .next ((s.modHalf h fun x => { x with pending := r }).handle h e) := by
  rw [execPendingError, idle, first]

variable (first : (s.half h).registered = e :: r)
include first

theorem execErrorRecord_handles (idle : (s.half h).handling = none) (alone : (s.half h).pending = []) :
    execErrorRecord h s = .next ((s.modHalf h fun x => { x with registered := r }).handle h e) := by
  simp [execErrorRecord, first, State.takeUp, idle, alone]

variable {cur : Handling} (busy : (s.half h).handling = some cur)
include busy

theorem execErrorRecord_repeats {n : W32} (rec : Recording s) (same : cur.code = e.code) (written : cur.rseq = some n) :
    execErrorRecord h s =
      .next (s.modHalf h fun x => { x with registered := r }.modRec n (EvRec.again s.job.row)) := by
  simp [execErrorRecord, first, State.takeUp, busy, same, written, State.change_again (recording_modHalf rec h _),
    State.modHalf_modHalf]

theorem execErrorRecord_preempts {n : W32} (rec : Recording s) (differs : cur.code ≠ e.code)
    (higher : cur.sev.code < e.sev.code) (written : cur.rseq = some n) : execErrorRecord h s =
      .next ((s.modHalf h fun x => { x with registered := r }.modRec n fun y => { y with preempted := true }).handle h e) := by
  simp [execErrorRecord, first, State.takeUp, busy, differs, higher, written, State.change_mark (recording_modHalf rec h _),
    State.modHalf_modHalf]

theorem execErrorRecord_enqueues (differs : cur.code ≠ e.code) (lower : e.sev.code ≤ cur.sev.code) :
    execErrorRecord h s = .next ((s.modHalf h fun x => { x with registered := r }).enqueue h e) := by
  simp [execErrorRecord, first, State.takeUp, busy, differs, not_lt.2 lower]

end

theorem State.enqueue_room {s : State} {h : Half} (e : ErrRep) (room : (s.half h).pending.length < 16) :
    s.enqueue h e = s.modHalf h fun r => { r with pending := r.pending ++ [e] } :=
  if_pos room

theorem State.enqueue_full {s : State} {h : Half} (e : ErrRep) (full : ¬(s.half h).pending.length < 16) :
    s.enqueue h e = { s with evr := { s.evr with nestovf := satAdd s.evr.nestovf 1 } } :=
  if_neg full

/-- An error joins the pending list behind a change of its half's buffer, or is counted. -/
theorem State.enqueue_modHalf (s : State) (h : Half) (f : RecHalf → RecHalf) (e : ErrRep)
    (same : (f (s.half h)).pending = (s.half h).pending) : let t := (s.modHalf h f).enqueue h e
    (t.half h = if (s.half h).pending.length < 16 then { f (s.half h) with pending := (s.half h).pending ++ [e] }
      else f (s.half h)) ∧
      (t.evr.nestovf = if (s.half h).pending.length < 16 then s.evr.nestovf else satAdd s.evr.nestovf 1) ∧
      (∀ g, g ≠ h → t.half g = s.half g) ∧ { t with evr := s.evr } = s := by
  have count : (s.modHalf h f).evr.nestovf = s.evr.nestovf := (congrArg Evr.nestovf (s.modHalf_evr h f) :)
  by_cases room : (s.half h).pending.length < 16
  case pos =>
    rw [State.enqueue_room e (by rwa [State.modHalf_half, same]), State.modHalf_modHalf]
    refine ⟨?_, ?_, fun g ne => s.modHalf_half_ne _ _ _ ne.symm, s.modHalf_elsewhere ..⟩
    · simp [room, same]
    · rw [if_pos room]
      exact (congrArg Evr.nestovf (s.modHalf_evr h _) :)
  case neg =>
    rw [State.enqueue_full e (by rwa [State.modHalf_half, same])]
    have buffers (g : Half) : State.half { s.modHalf h f with
        evr := { (s.modHalf h f).evr with nestovf := satAdd (s.modHalf h f).evr.nestovf 1 } } g = (s.modHalf h f).half g := by
      cases g <;> rfl
    refine ⟨?_, ?_, fun g ne => (buffers g).trans (s.modHalf_half_ne _ _ _ ne.symm), s.modHalf_elsewhere h f⟩
    · rw [buffers, State.modHalf_half, if_neg room]
    · simp only [if_neg room, count]

/-! ### MODULE_FATAL (R362, R363, R371) -/

theorem State.recordPending_none {s : State} {h : Half} (empty : (s.half h).pending = []) : s.recordPending h = s := by
  have same : (s.modHalf h fun r => { r with pending := [] }) = s := by
    cases h <;> simp only [State.half] at empty <;> simp [State.modHalf, ← empty]
  rw [State.recordPending, empty, same]
  rfl

/-- The state of a module whose plots, ports, engines and traces have stopped (R363). -/
def State.stopped (s : State) : State :=
  { s with
    plots := s.plots.map Plot.stopFatal
    kuf := { s.kuf with ports := s.kuf.ports.map fun x => if x.state = .active then { x with sendDown := true }
      else { x with state := if x.state = .failed then .failed else .down } }
    dbg := { s.dbg with traces := s.dbg.traces.map TraceDie.stopCapture }
    job := { s.job with abortDue := none }
    evr := { s.evr with follow := none, fatalDue := none, fallow := true } }

theorem State.stopped_plot (s : State) (p : PlotIx) : s.stopped.plot p = (s.plot p).stopFatal := by
  simp [State.plot, State.stopped, Vector.get_eq_getElem]

theorem Plot.stopFatal_movers (q : Plot) (m : Fin 2) : q.stopFatal.movers.get m = [] := by
  simp [Plot.stopFatal, Vector.get_eq_getElem]

theorem State.enterFallow_recording {s : State} (rec : Recording s) (noneA : s.evr.halfA.pending = [])
    (noneB : s.evr.halfB.pending = []) : s.enterFallow = s.stopped.setSbd .fallow := by
  have unflushed : s.abandonFlush = s := by rw [State.abandonFlush, rec.flush]
  have applied : s.applyStaged = s := by
    have same : { s with evr := { s.evr with staged := [] } } = s := by rw [← rec.staged]
    rw [State.applyStaged, rec.staged, same]
    rfl
  have pendingA : s.stopped.recordPending .a = s.stopped := State.recordPending_none noneA
  have pendingB : s.stopped.recordPending .b = s.stopped := State.recordPending_none noneB
  simp only [State.enterFallow, unflushed, applied]
  exact congrArg (State.setSbd · .fallow) ((congrArg (State.recordPending · .b) pendingA).trans pendingB)

/-- SBD_STATUS.STATE takes a value; else only the ports' interrupts change. -/
theorem State.setSbd_eq (s : State) (st : SbdState) : s.setSbd st =
    { s with sbd := { s.sbd with state := st }, pciA := (s.setSbd st).pciA, pciB := (s.setSbd st).pciB } := by
  unfold State.setSbd
  dsimp only
  split <;> rfl

/-- The fallow flush begins on the stopped module. -/
theorem execModuleFatal_falls {s : State} (rec : Recording s) {code : BitVec 16} (due : s.evr.fatalDue = some code)
    (noneA : s.evr.halfA.pending = []) (noneB : s.evr.halfB.pending = []) :
    execModuleFatal s = .next ((s.stopped.setSbd .fallow).startFlush .fallow .moduleFatal code) := by
  have evr : (s.stopped.setSbd .fallow).evr = s.stopped.evr := by rw [State.setSbd_eq]
  have unerased : (s.stopped.setSbd .fallow).evr.erase = none := by rw [evr]; exact rec.erase
  simp only [execModuleFatal, due, State.enterFallow_recording rec noneA noneB, unerased]
  rw [← unerased]

end Sys2Proof.Machine

namespace Sys2Proof.SurvivingFailure

open Sys2Proof.Machine Sys2Proof.Claim

/-- Settles O46: an error is recorded and handled, repeats, preempts or waits, and a module-fatal one brings the fallow state. -/
theorem errorsAreRecordedAndHandled : Obligations.ErrorsAreRecordedAndHandled := by
  refine fun s rec => ⟨fun h e r first quiet => ⟨fun idle alone fresh => ?recorded, fun cur busy =>
      ⟨fun n same written => ?repeats, fun n differs higher written fresh => ?preempts, fun differs lower => ?waits⟩⟩,
    fun h e r idle first quiet fresh => ?pending, fun code due noneA noneB => ?fatal⟩
  case recorded => exact ⟨_, execErrorRecord_handles first idle alone, State.handle_modHalf rec quiet fresh⟩
  case repeats =>
    exact ⟨_, execErrorRecord_repeats first busy rec same written, s.modHalf_half h _,
      fun _ ne => s.modHalf_half_ne _ _ _ ne.symm, s.modHalf_elsewhere h _⟩
  case preempts =>
    exact ⟨_, execErrorRecord_preempts first busy rec differs higher written, State.handle_modHalf rec quiet fresh⟩
  case waits => exact ⟨_, execErrorRecord_enqueues first busy differs lower, s.enqueue_modHalf h _ e rfl⟩
  case pending => exact ⟨_, execPendingError_handles idle first, State.handle_modHalf rec quiet fresh⟩
  case fatal =>
    refine ⟨_, execModuleFatal_falls rec due noneA noneB, ?_⟩
    rw [State.setSbd_eq]
    refine ⟨rfl, rfl, rfl, rfl, rfl, rfl, rfl, rfl, fun p => ?_⟩
    exact s.stopped_plot p ▸ ⟨rfl, rfl, (s.plot p).stopFatal_movers, rfl, rfl⟩

end Sys2Proof.SurvivingFailure
end

section
/-! The tokens of the buddy queue: the answer to a FEEDQUERY, the end of a feed check, and a return that is refused; and the
statement about them (R310, R312, R314, R315, R319). -/

namespace Sys2Proof.Machine

open Sys2Proof.Claim

/-! ### Taking a token of the buddy queue (R315) -/

theorem State.setQueue_queue (s : State) (d : DieIx) (q : Fin 4096) (l : List W32) : (s.setQueue d q l).queue d q = l := by
  rw [State.queue, State.setQueue, State.modUnit_unit]
  exact vector_get_set_self ..

theorem State.setQueue_queue_ne (s : State) {d e : DieIx} {q k : Fin 4096} (l : List W32) (other : e ≠ d ∨ k ≠ q) :
    (s.setQueue d q l).queue e k = s.queue e k := by
  rw [State.queue, State.setQueue]
  by_cases die : d = e
  · subst die
    rw [State.modUnit_unit]
    exact vector_get_set_ne _ _ _ _ (other.resolve_left fun h => h rfl).symm
  · rw [State.modUnit_unit_ne _ _ _ _ die]
    rfl

theorem consumed_of_sync {s t u : State} {x : EngineTok} (c : Consumed s t x) (sync : u.sync = t.sync) : Consumed s u x := by
  have queue (d : DieIx) (q : Fin 4096) : u.queue d q = t.queue d q := by
    rw [State.queue, State.queue, State.unit, State.unit, sync]
  exact ⟨(queue ..).trans c.head, fun d q ne => (queue d q).trans (c.others d q ne)⟩

theorem State.engineTake_consumed (s : State) (x : EngineTok) : Consumed s (s.engineTake x) x :=
  consumed_of_sync ⟨s.setQueue_queue .., fun _ _ other => s.setQueue_queue_ne _ other⟩ rfl

/-- The report of a module-wide error from a state with the same recorder and the same lead half. -/
theorem State.raiseLead_evr {s u : State} (evr : u.evr = s.evr) (sbd : u.sbd = s.sbd) (e : ErrRep) :
    (u.raiseLead e).evr = (s.raiseLead e).evr := by
  have lead : u.lead = s.lead := by rw [State.lead, sbd, State.lead]
  rw [State.raiseLead, State.raiseLead, lead]
  cases s.lead <;> simp [State.raise, State.modHalf, evr]

/-- A token that is discarded with a notice (R315). -/
theorem State.discarded (s : State) (x : EngineTok) (obj : Nat) : let t := (s.engineTake x).noticeFrom srcEngine 0x0C obj []
    Consumed s t x ∧ t.rcv = { s.rcv with tokens := t.rcv.tokens } ∧ t.plots = s.plots ∧ t.mem = s.mem ∧ t.kuf = s.kuf ∧
      Reports s t s.lead [s.mkErr 0x0901 .notice srcEngine obj [0x0C]] := by
  have recorder := State.raiseLead_evr (s := s) (u := s.engineTake x) rfl rfl (s.mkErr 0x0901 .notice srcEngine obj [0x0C])
  refine ⟨consumed_of_sync (s.engineTake_consumed x) (State.raiseLead_sync ..), ?_, State.raiseLead_plots ..,
    State.raiseLead_mem .., State.raiseLead_kuf .., State.raiseLead_reports recorder⟩
  rw [State.noticeFrom, State.raiseLead_rcv]
  rfl

section
variable {s : State} {x : EngineTok} {r : List EngineTok} (live : s.evr.fallow = false) (first : s.rcv.tokens = x :: r)
include live first

theorem State.takeBuddy_first {mine : Nat → Bool} (type : mine (bits x.payload 31 28) = true) :
    s.takeBuddy mine = some (x, s.engineTake x) := by
  simp [State.takeBuddy, first, type, live]

theorem execFeedquery_discards (unknown : 3 < bits x.payload 31 28 ∨ bits x.payload 31 28 = 0) :
    execFeedquery s = .next ((s.engineTake x).noticeFrom srcEngine 0x0C x.src.toNat []) := by
  have kind : bits x.payload 31 28 ≠ 1 ∧ bits x.payload 31 28 ≠ 2 ∧ bits x.payload 31 28 ≠ 3 := by omega
  simp [execFeedquery, State.takeBuddy_first live first, kind]

theorem execFeedquery_answers (type : bits x.payload 31 28 = 1)
    (route : (s.routeOf (BitVec.ofNat 12 (bits x.payload 11 0))).isSome = true) :
    execFeedquery s = .next ((s.engineTake x).sendBuddy 2 (BitVec.ofNat 12 (bits x.payload 11 0))
      ((s.rcv.feedWait.map (·.pairing) <|> s.rcv.pairing).getD (Pairing.ofBytes s.listBytes))) := by
  have known : ((s.engineTake x).routeOf (BitVec.ofNat 12 (bits x.payload 11 0))).isNone = false := by
    rw [← Option.not_isSome]
    exact congrArg not route
  simp only [execFeedquery, State.takeBuddy_first live first (mine := fun t => t ≠ 2 && t ≠ 3) (by simp [type]), type, known]
  rfl

theorem execFeedreply_settles (type : bits x.payload 31 28 = 2) {f : FeedCheck} (waits : s.rcv.feedWait = some f) :
    execFeedreply s = .next ((s.engineTake x).settleFeed f (some (BitVec.ofNat 4 (bits x.payload 27 24)))) := by
  have waits : (s.engineTake x).rcv.feedWait = some f := waits
  simp only [execFeedreply, State.takeBuddy_first live first (mine := fun t => t = 2) (by simp [type]), waits]

theorem execReturndone_discards (type : bits x.payload 31 28 = 3) (unwaited : s.rcv.waitReturn = none) :
    execReturndone s = .next ((s.engineTake x).noticeFrom srcEngine 0x0C 0 []) := by
  have unwaited : (s.engineTake x).rcv.waitReturn = none := unwaited
  simp only [execReturndone, State.takeBuddy_first live first (mine := fun t => t = 3) (by simp [type]), unwaited]

end

/-! ### The end of a feed check (R310, R314) -/

/-- A feed check is done: the holder's feed where it has replied, and FEED. -/
def Recovery.feedDone (r : Recovery) (reply : Option (BitVec 4)) (feed : BitVec 2) : Recovery :=
  { r with feedWait := none, holdfeed := reply.getD r.holdfeed, feed := feed }

/-- A pairing is in force; the start that asked for it waits for its return. -/
def Recovery.paired (r : Recovery) (f : FeedCheck) (mode : BitVec 2) : Recovery :=
  { r with
    pairing := some f.pairing, mode := mode, slotKey := some (f.pairing.holder, f.pairing.dst)
    slots := if r.slotKey = some (f.pairing.holder, f.pairing.dst) then r.slots else Vector.replicate 2 none
    waitReturn := if f.bySet then r.waitReturn else some f.row
    verify := if f.bySet then r.verify else 3 }

/-- FEED for a reply that does not name a distinct feed, or for none. -/
def undistinct (reply : Option (BitVec 4)) : BitVec 2 := if reply.isSome then 2 else 3

section
variable {s : State} {f : FeedCheck} {reply : Option (BitVec 4)}

theorem State.pairWith_eq (stays : f.bySet = true ∨ f.restore = true) (mode : BitVec 2) :
    s.pairWith f mode = { s with rcv := s.rcv.paired f mode } := by
  cases bySet : f.bySet
  case true => simp [State.pairWith, State.afterFeed, Recovery.paired, bySet]
  case false =>
    have restores : f.restore = true := by simpa [bySet] using stays
    simp [State.pairWith, State.afterFeed, Recovery.paired, bySet, restores]

theorem State.settleFeed_distinct (stays : f.bySet = true ∨ f.restore = true) (distinct : distinctFeed s reply) :
    s.settleFeed f reply = { s with rcv := (s.rcv.feedDone reply 1).paired f 1 } := by
  obtain ⟨v, rfl, other, known, own⟩ := distinct
  have distinct : (decide (v ≠ s.rcv.ownfeed) && decide (v ≠ 0) && decide (s.rcv.ownfeed ≠ 0)) = true := by
    simpa [other] using ⟨known, own⟩
  simp only [State.settleFeed, distinct, if_true]
  exact State.pairWith_eq stays 1

/-- What follows a feed check without distinct feeds, by POLICY (R314). -/
theorem State.settleFeed_shared (shared : ¬distinctFeed s reply) : s.settleFeed f reply =
    let u : State := { s with rcv := s.rcv.feedDone reply (undistinct reply) }
    if s.rcv.policy = 1 then (u.sameFeed f .recoverable).pairWith f 2
    else if s.rcv.policy = 2 then (u.sameFeed f .recoverable).pairWith f 3
    else u.sameFeed f (if f.bySet then .recoverable else .jobFatal) := by
  have policies (p : BitVec 2) (a b c : State) :
      (match p.toNat with | 1 => a | 2 => b | _ => c) = if p = 1 then a else if p = 2 then b else c := by
    obtain ⟨n, small⟩ := p
    interval_cases n <;> rfl
  cases reply with
  | none => exact policies ..
  | some v =>
    have same : (decide (v ≠ s.rcv.ownfeed) && decide (v ≠ 0) && decide (s.rcv.ownfeed ≠ 0)) = false := by
      simpa [distinctFeed] using shared
    simp only [State.settleFeed, same]
    exact policies ..

theorem paired_of_rcv {s t : State} {feed mode : BitVec 2} (rcv : t.rcv = (s.rcv.feedDone reply feed).paired f mode) :
    Paired s t f mode := by
  refine ⟨by rw [rcv]; rfl, by rw [rcv]; rfl, by rw [rcv]; rfl, ?_⟩
  cases bySet : f.bySet <;> simp [rcv, Recovery.paired, Recovery.feedDone, bySet]

/-- The report of feeds that are not distinct (R314, R359). -/
def State.feedReport (s : State) (f : FeedCheck) (reply : Option (BitVec 4)) (sev : Severity) : ErrRep :=
  s.mkErr 0x0601 sev srcEngine (s.kuf.node.toNat + f.pairing.holder.toNat * 2 ^ 32)
    [s.rcv.ownfeed.toNat, (reply.getD s.rcv.holdfeed).toNat]

/-- A feed check without distinct feeds is reported; nothing else changes but the feed check's registers. -/
theorem State.sameFeed_eq (s : State) (f : FeedCheck) (reply : Option (BitVec 4)) (feed : BitVec 2) (sev : Severity) :
    State.sameFeed { s with rcv := s.rcv.feedDone reply feed } f sev =
      { s with rcv := s.rcv.feedDone reply feed, evr := (s.raiseLead (s.feedReport f reply sev)).evr } := by
  have recorder := State.raiseLead_evr (s := s) (u := { s with rcv := s.rcv.feedDone reply feed }) rfl rfl
    (s.feedReport f reply sev)
  rw [← recorder]
  exact congrArg (fun u : State => { u with evr := (State.sameFeed { s with rcv := s.rcv.feedDone reply feed } f sev).evr })
    (State.raiseLead_elsewhere _ _)

/-- A feed check without distinct feeds has settled: its one report, and its registers as POLICY asks (R314). -/
theorem settled_shared (shared : ¬distinctFeed s reply) {r : Recovery} {sev : Severity}
    (severity : (if s.rcv.policy ≠ 1 ∧ s.rcv.policy ≠ 2 ∧ f.bySet = false then .jobFatal else .recoverable) = sev)
    (done : r.feedWait = none ∧ r.holdfeed = reply.getD s.rcv.holdfeed ∧ r.feed = undistinct reply) :
    let t := { s with rcv := r, evr := (s.raiseLead (s.feedReport f reply sev)).evr }
    (s.rcv.policy = 1 → Paired s t f 2) → (s.rcv.policy = 2 → Paired s t f 3) →
      (s.rcv.policy ≠ 1 → s.rcv.policy ≠ 2 → r.pairing = s.rcv.pairing ∧ r.mode = s.rcv.mode) →
      Settled s t f reply := by
  intro t one two other
  obtain ⟨wait, held, feed⟩ := done
  exact ⟨wait, held, ⟨rfl, rfl⟩, ⟨rfl, rfl, rfl, rfl, rfl⟩, fun distinct => absurd distinct shared,
    fun _ => ⟨feed, one, two, other, severity ▸ State.raiseLead_reports rfl⟩⟩

/-- A feed check has settled, without a change of the sync units or the engine's tokens. -/
theorem State.settleFeed_settled (stays : f.bySet = true ∨ f.restore = true) : let t := s.settleFeed f reply
    Settled s t f reply ∧ t.sync = s.sync ∧ t.rcv.tokens = s.rcv.tokens := by
  by_cases distinct : distinctFeed s reply
  case pos =>
    rw [State.settleFeed_distinct stays distinct]
    exact ⟨⟨rfl, rfl, ⟨rfl, rfl⟩, ⟨rfl, rfl, rfl, rfl, rfl⟩, fun _ => ⟨rfl, paired_of_rcv rfl, rfl⟩,
      fun shared => absurd distinct shared⟩, rfl, rfl⟩
  case neg =>
    simp only [State.settleFeed_shared distinct, State.sameFeed_eq, State.pairWith_eq stays]
    split
    case isTrue one =>
      exact ⟨settled_shared distinct (by simp [one]) ⟨rfl, rfl, rfl⟩ (fun _ => paired_of_rcv rfl) (by simp [one])
        (absurd one), rfl, rfl⟩
    case isFalse notOne =>
      split
      case isTrue two =>
        exact ⟨settled_shared distinct (by simp [two]) ⟨rfl, rfl, rfl⟩ (by simp [two]) (fun _ => paired_of_rcv rfl)
          (fun _ => absurd two), rfl, rfl⟩
      case isFalse notTwo =>
        have severity : (if s.rcv.policy ≠ 1 ∧ s.rcv.policy ≠ 2 ∧ f.bySet = false then Severity.jobFatal
            else .recoverable) = if f.bySet then .recoverable else .jobFatal := by
          cases f.bySet
          · exact if_pos ⟨notOne, notTwo, rfl⟩
          · simp
        exact ⟨settled_shared distinct severity ⟨rfl, rfl, rfl⟩ (absurd · notOne) (absurd · notTwo)
          fun _ _ => ⟨rfl, rfl⟩, rfl, rfl⟩

end

/-- What settles after a token has been taken settles as from before it. -/
theorem settled_of_taken {s t : State} {x : EngineTok} {f : FeedCheck} {reply : Option (BitVec 4)}
    (settled : Settled (s.engineTake x) t f reply) : Settled s t f reply :=
  ⟨settled.wait, settled.held, settled.job, settled.rest, settled.distinct, settled.shared⟩

theorem execFeedCheckTimeout_settles {s : State} {f : FeedCheck} (live : s.evr.fallow = false) (waits : s.rcv.feedWait = some f)
    (age : s.smod.defaultus.toNat * 1000 ≤ s.rcv.feedAge) : execFeedCheckTimeout s = .next (s.settleFeed f none) := by
  simp [execFeedCheckTimeout, waits, live, not_lt.2 age]

/-! ### The answer to a FEEDQUERY (R315) -/

/-- A token to another node, sent after the buddy engine has taken one. -/
theorem State.engineTake_sendToken (s : State) (x : EngineTok) (node : BitVec 12) (ch : BitVec 8) (queue : BitVec 15)
    (payload : W32) : let t := (s.engineTake x).sendToken node ch queue payload
    t.plots = s.plots ∧ t.mem = s.mem ∧ t.rcv = { s.rcv with tokens := t.rcv.tokens } ∧ t.job.row = s.job.row := by
  obtain ⟨plots, -, mem, -, rcv, -, -, -, job⟩ :=
    State.besideLinks_eq ((s.engineTake x).sendToken_besideLinks node ch queue payload)
  exact ⟨plots, mem, by rw [rcv]; rfl, (congrArg Job.row job :)⟩

/-! ### The state of the module, read and verified (R312, R319) -/

/-- A read by an engine that met no stored error: only caches have changed. -/
structure CleanRead (s t : State) : Prop where
  access : CleanAccess s t
  cells : t.mem.cells = s.mem.cells
  plots : t.plots = s.plots

theorem CleanRead.trans {s t u : State} (h : CleanRead s t) (g : CleanRead t u) : CleanRead s u :=
  ⟨cleanAccess_trans h.access g.access, g.cells.trans h.cells, g.plots.trans h.plots⟩

theorem State.readRange_kufort (s : State) (a n : Nat) (clean : s.mem.bad = []) :
    ∃ t, s.readRange .kufort a n = (.ok (cellsGet 0 s.mem.cells a n), t) ∧ CleanRead s t := by
  obtain ⟨t, read, access, cells⟩ := s.readRange_clean .kufort a n clean
  exact ⟨t, read, access, cells, (congrArg (fun x => x.2.plots) read).symm.trans (s.readRange_unit .kufort a n trivial)⟩

/-- One range of the state read behind those before it, as `State.readState` does. -/
def readPart (acc : Option (List Byte) × State) (x : Nat × Nat × Nat) : Option (List Byte) × State :=
  match acc.1 with
  | none => acc
  | some l =>
    match acc.2.readRange .kufort x.1 x.2.1 with
    | (.ok b, s1) => (some (l ++ b ++ zeros x.2.2), s1)
    | (.error _, s1) => (none, s1)

theorem State.readState_eq (s : State) (ext : List (Nat × Nat)) :
    s.readState ext = (s.stateRanges ext).foldl readPart (some [], s) := rfl

theorem readParts_clean (l : List (Nat × Nat × Nat)) (b : List Byte) (s : State) (clean : s.mem.bad = []) :
    ∃ t, l.foldl readPart (some b, s) =
      (some (b ++ l.flatMap fun x => cellsGet 0 s.mem.cells x.1 x.2.1 ++ zeros x.2.2), t) ∧ CleanRead s t := by
  induction l generalizing b s with
  | nil => exact ⟨s, by simp, cleanAccess_refl s clean, rfl, rfl⟩
  | cons x l ih =>
    obtain ⟨u, read, here⟩ := s.readRange_kufort x.1 x.2.1 clean
    obtain ⟨t, rest, there⟩ := ih (b ++ cellsGet 0 s.mem.cells x.1 x.2.1 ++ zeros x.2.2) u here.access.bad
    refine ⟨t, ?_, here.trans there⟩
    rw [List.foldl_cons, readPart, read]
    simpa [here.cells] using rest

/-- Without stored errors the state is read as it stands (R312). -/
theorem State.readState_clean (s : State) (ext : List (Nat × Nat)) (clean : s.mem.bad = []) :
    ∃ t, s.readState ext = (some (stateBytes s ext), t) ∧ CleanRead s t :=
  readParts_clean (s.stateRanges ext) [] s clean

/-- The checks of a return depend on the pairing, the node and the plan. -/
theorem State.returnBad_core {s t : State} (core : t.core = s.core) (head : List Byte) (row : Row) (d : Option (BitVec 384)) :
    t.returnBad head row d = s.returnBad head row d := by
  obtain ⟨-, -, -, job, -, rcv, kuf, -⟩ := (State.core_eq _ _).1 core
  have planid : t.planid = s.planid := by rw [State.planid, job, State.planid]
  rw [State.returnBad, State.returnBad, rcv, kuf, planid]

/-- The state in which a restart has ended on a return that fails its verification. -/
def State.returnRefused (s : State) : State := { s with rcv := { s.rcv with verify := 2, waitReturn := none } }

theorem execReturndone_refuses {s : State} {x : EngineTok} {r : List EngineTok} {row : Row} {p : Pairing} {k : Nat}
    (live : s.evr.fallow = false) (first : s.rcv.tokens = x :: r) (type : bits x.payload 31 28 = 3)
    (waits : s.rcv.waitReturn = some row) (pairing : s.rcv.pairing = some p) (clean : s.mem.bad = [])
    (bad : s.returnBad (s.memBytes (s.rcv.buddylist.toNat + 0x80) 128) row (some (digest384 (stateBytes s p.extents))) = some k) :
    ∃ u, CleanRead (s.engineTake x) u ∧ execReturndone s =
      .next (u.returnRefused.startFatal 0x0602 (s.kuf.node.toNat + bits x.payload 11 0 * 2 ^ 32) [k]) := by
  obtain ⟨u, read, same⟩ := (s.engineTake x).readState_clean p.extents clean
  have waits : (s.engineTake x).rcv.waitReturn = some row := waits
  have pairing : (s.engineTake x).rcv.pairing = some p := pairing
  have bad : u.returnBad ((s.engineTake x).memBytes ((s.engineTake x).rcv.buddylist.toNat + 0x80) 128) row
      (some (digest384 (stateBytes (s.engineTake x) p.extents))) = some k :=
    (State.returnBad_core same.access.core ..).trans bad
  obtain ⟨-, -, -, -, -, -, kuf, -⟩ := (State.core_eq _ _).1 same.access.core
  have node : s.kuf.node = u.kuf.node := (congrArg Kuf.node kuf :).symm
  refine ⟨u, same, ?_⟩
  rw [node]
  simp only [execReturndone, State.takeBuddy_first live first (mine := fun t => t = 3) (by simp [type]), waits, pairing, read,
    Option.map_some, bad]
  rfl

/-- A restart that ends after its return has been read: the report, and beside it the token and the restart's wait alone. -/
theorem CleanRead.refused {s u : State} {x : EngineTok} (read : CleanRead (s.engineTake x) u) (obj : Nat) (det : List Nat) :
    let t := u.returnRefused.startFatal 0x0602 obj det
    Consumed s t x ∧ t.rcv = { s.rcv with tokens := t.rcv.tokens, verify := 2, waitReturn := none } ∧
      t.mem.cells = s.mem.cells ∧ t.kuf = s.kuf ∧ t.job.state = s.job.state ∧ OnlyCounted s t ∧
      Reports s t s.lead [s.mkErr 0x0602 .jobFatal srcService obj det] := by
  intro t
  obtain ⟨-, sync, -, job, -, rcv, kuf, -, sbd, -⟩ := (State.core_eq _ _).1 read.access.core
  have row : u.job.row = s.job.row := (congrArg Job.row job :)
  have recorder := State.raiseLead_evr (s := s) (u := u.returnRefused) read.access.evr sbd
    (s.mkErr 0x0602 .jobFatal srcService obj det)
  have reported : t = u.returnRefused.raiseLead (s.mkErr 0x0602 .jobFatal srcService obj det) := by
    rw [State.mkErr, ← row]
    rfl
  have refused : t.rcv = { u.rcv with verify := 2, waitReturn := none } := State.raiseLead_rcv ..
  have plots : t.plots = s.plots := (State.raiseLead_plots ..).trans read.plots
  refine ⟨consumed_of_sync (s.engineTake_consumed x) ((State.raiseLead_sync ..).trans sync), ?_,
    (congrArg Mem.cells (State.raiseLead_mem ..)).trans read.cells, (State.raiseLead_kuf ..).trans kuf,
    (congrArg Job.state (State.raiseLead_job ..)).trans (congrArg Job.state job :), fun p => ?_,
    State.raiseLead_reports (reported ▸ recorder)⟩
  · rw [refused, rcv]
    rfl
  · rw [State.plot_of_plots plots]

end Sys2Proof.Machine

namespace Sys2Proof.SurvivingFailure

open Sys2Proof.Machine Sys2Proof.Claim

/-- Settles O44: the buddy engine answers or discards its oldest token, settles the feed check or refuses the return. -/
theorem feedChecksAndReturnsSettle : Obligations.FeedChecksAndReturnsSettle := by
  refine fun s live => ⟨fun x r first => ⟨fun type node named route => ?answers, fun unknown => ?unknown,
      fun type f waits stays => ?settles, fun type unwaited => ?unwaited,
      fun type row p k waits pairing clean bad => ?refuses⟩,
    fun f waits stays age => ?expires⟩
  case answers =>
    subst named
    obtain ⟨plots, mem, rcv, row⟩ := s.engineTake_sendToken x _ _ _ _
    exact ⟨_, s.engineTake x, execFeedquery_answers live first type route, s.engineTake_consumed x, rfl, rfl, rfl,
      plots, mem, rcv, row⟩
  case unknown => exact ⟨_, execFeedquery_discards live first unknown, s.discarded x x.src.toNat⟩
  case settles =>
    obtain ⟨settled, sync, -⟩ := (s.engineTake x).settleFeed_settled stays
    exact ⟨_, execFeedreply_settles live first type waits, consumed_of_sync (s.engineTake_consumed x) sync,
      settled_of_taken settled⟩
  case unwaited => exact ⟨_, execReturndone_discards live first type unwaited, s.discarded x 0⟩
  case refuses =>
    obtain ⟨u, read, run⟩ := execReturndone_refuses live first type waits pairing clean bad
    exact ⟨_, run, read.refused _ _⟩
  case expires =>
    obtain ⟨settled, sync, tokens⟩ := s.settleFeed_settled stays
    exact ⟨_, execFeedCheckTimeout_settles live waits age, sync, tokens, settled⟩

end Sys2Proof.SurvivingFailure
end

section
/-! What is fused, and the commands that wait, through a change of the state (R385, R403, R422), and what an answer of the model that
holds a state keeps of them. -/

namespace Sys2Proof.Machine

open Sys2Proof.Claim

/-- The order code, the serial number and the key slots (R380, R385, R403). -/
def Sbd.fuses (x : Sbd) : OrderCode × BitVec 64 × Vector KeySlot 4 := (x.order, x.serial, x.keys)

/-- What is fused stays fused as state `o` had it, and the commands that wait are those of `o`. -/
structure State.KeptFrom (s o : State) : Prop where
  pending : s.pending = o.pending
  fuses : FusesKept o s

theorem fusesKept_of_fuses {s t : State} (same : t.sbd.fuses = s.sbd.fuses) : FusesKept s t := by
  have order : t.sbd.order = s.sbd.order := congrArg (·.1) same
  have serial : t.sbd.serial = s.sbd.serial := congrArg (·.2.1) same
  have keys : t.sbd.keys = s.sbd.keys := congrArg (·.2.2) same
  exact ⟨order, serial, fun k fused => by rw [keys]; exact ⟨fused, rfl, id⟩, fun on => keys ▸ on⟩

theorem fusesKept_trans {s t u : State} (first : FusesKept s t) (second : FusesKept t u) : FusesKept s u where
  order := second.order.trans first.order
  serial := second.serial.trans first.serial
  keys k fused := by
    obtain ⟨fusedT, digestT, offT⟩ := first.keys k fused
    obtain ⟨fusedU, digestU, offU⟩ := second.keys k fusedT
    exact ⟨fusedU, digestU.trans digestT, fun off => offU (offT off)⟩
  enabled on := second.enabled (first.enabled on)

theorem State.KeptFrom.refl (s : State) : s.KeptFrom s := ⟨rfl, fusesKept_of_fuses rfl⟩

/-! ### The boot controller's fuses under changes of its other parts (R388, R389) -/

theorem Sbd.setCopy_fuses (x : Sbd) (h : Half) (c : Option (W32 × BitVec 384)) : (x.setCopy h c).fuses = x.fuses := by
  cases h <;> rfl

theorem Sbd.setClaim_fuses (x : Sbd) (h : Half) (seq : W32) : (x.setClaim h seq).fuses = x.fuses := by
  cases h <;> rfl

theorem Sbd.readImage_fuses (x : Sbd) (h : Half) : (x.readImage h).fuses = x.fuses := by
  unfold Sbd.readImage
  extract_lets c
  clear_value c
  split
  · rw [Sbd.setClaim_fuses, Sbd.setCopy_fuses]
  · exact Sbd.setCopy_fuses ..

theorem Sbd.latch_fuses (x : Sbd) (h : Half) : (x.latch h).fuses = x.fuses := by
  unfold Sbd.latch
  extract_lets c y
  show y.fuses = x.fuses
  unfold y
  split
  · exact Sbd.setCopy_fuses ..
  · rfl

/-! ### The key slots (R422) -/

theorem Sbd.key_eq_get (x : Sbd) (k : Fin 4) : x.key k.val = x.keys.get k := by
  simp [Sbd.key, Vector.get]

theorem State.setKey_get (s : State) (i j : Fin 4) (k : KeySlot) :
    (s.setKey i.val k).sbd.keys.get j = if j = i then k else s.sbd.keys.get j := by
  simp only [State.setKey, Vector.get_eq_getElem, Vector.getElem_setIfInBounds, Fin.ext_iff, eq_comm]

/-- Of four switches of which one is on, no more than one is on exactly if every other one is off. -/
theorem onSwitches_le_one_iff : ∀ (on : Fin 4 → Bool) (k : Fin 4), on k = true →
    (((List.ofFn on).filter id).length ≤ 1 ↔ ∀ j, j ≠ k → on j = false) := by
  decide

theorem enabledSlots_le_one_iff (keys : Vector KeySlot 4) (k : Fin 4) (on : (keys.get k).enabled = true) :
    (keys.toList.filter fun y => y.enabled).length ≤ 1 ↔ ∀ j, j ≠ k → (keys.get j).enabled = false := by
  have switches : List.ofFn (fun j => (keys.get j).enabled) = keys.toList.map KeySlot.enabled := by
    refine List.ext_getElem (by simp) fun i _ _ => ?_
    simp only [List.getElem_ofFn, List.getElem_map, Vector.getElem_toList, Vector.get_eq_getElem]
  rw [← onSwitches_le_one_iff (fun j => (keys.get j).enabled) k on, switches, List.filter_map, List.length_map]
  rfl

/-! ### Answers that hold a state -/

/-- The outcome is a next state that keeps what is fused in `o`. -/
def NextKept (o : State) : Host.Outcome State Fault Refusal → Prop
  | .next t => t.KeptFrom o
  | _ => False

theorem NextKept.exists_next {o : State} {r : Host.Outcome State Fault Refusal} (kept : NextKept o r) :
    ∃ t, r = .next t ∧ t.KeptFrom o := by
  cases r with
  | next t => exact ⟨t, rfl, kept⟩
  | _ => exact kept.elim

/-- A register that takes a write keeps what is fused in `o`. -/
def SomeKept (o : State) : Option State → Prop
  | some t => t.KeptFrom o
  | none => True

def Fetch.KeptFrom (o : State) : Fetch → Prop
  | .off => True
  | .stopped t => t.KeptFrom o
  | .cmd _ t => t.KeptFrom o

def FltRead.KeptFrom (o : State) : FltRead → Prop
  | .failed t => t.KeptFrom o
  | .entry _ _ t => t.KeptFrom o

def Accepted.KeptFrom (o : State) : Accepted → Prop
  | .wait => True
  | .refused t => t.KeptFrom o
  | .ok _ t => t.KeptFrom o

section
variable {o t : State}

theorem State.KeptFrom.of_snd {α : Type} {x : α × State} {a : α} (kept : x.2.KeptFrom o) (e : x = (a, t)) : t.KeptFrom o := by
  subst e
  exact kept

theorem State.KeptFrom.of_fst {α : Type} {x : State × α} {a : α} (kept : x.1.KeptFrom o) (e : x = (t, a)) : t.KeptFrom o := by
  subst e
  exact kept

theorem State.KeptFrom.of_snd_snd {α β : Type} {x : α × β × State} {a : α} {b : β} (kept : x.2.2.KeptFrom o)
    (e : x = (a, b, t)) : t.KeptFrom o := by
  subst e
  exact kept

theorem SomeKept.getD {x : Option State} (kept : SomeKept o x) (other : t.KeptFrom o) : (x.getD t).KeptFrom o := by
  cases x with
  | none => exact other
  | some u => exact kept

theorem Fetch.KeptFrom.of_stopped {x : Fetch} (kept : x.KeptFrom o) (e : x = .stopped t) : t.KeptFrom o := by
  subst e
  exact kept

theorem Fetch.KeptFrom.of_cmd {x : Fetch} {c : Cmd} (kept : x.KeptFrom o) (e : x = .cmd c t) : t.KeptFrom o := by
  subst e
  exact kept

theorem FltRead.KeptFrom.of_failed {x : FltRead} (kept : x.KeptFrom o) (e : x = .failed t) : t.KeptFrom o := by
  subst e
  exact kept

theorem FltRead.KeptFrom.of_entry {x : FltRead} {y : FltEntry} {n : Nat} (kept : x.KeptFrom o) (e : x = .entry y n t) :
    t.KeptFrom o := by
  subst e
  exact kept

theorem Accepted.KeptFrom.of_refused {x : Accepted} (kept : x.KeptFrom o) (e : x = .refused t) : t.KeptFrom o := by
  subst e
  exact kept

theorem Accepted.KeptFrom.of_ok {x : Accepted} {y : Transfer} (kept : x.KeptFrom o) (e : x = .ok y t) : t.KeptFrom o := by
  subst e
  exact kept

end

/-! ### Changes of the state -/

section
variable {o s : State} (kept : s.KeptFrom o)
include kept

/-- A change of the module beside its fuses and the commands that wait. -/
theorem State.KeptFrom.beside {t : State} (fuses : t.sbd.fuses = s.sbd.fuses := by rfl)
    (pending : t.pending = s.pending := by rfl) : t.KeptFrom o :=
  ⟨pending.trans kept.pending, fusesKept_trans kept.fuses (fusesKept_of_fuses fuses)⟩

/-- A change of the boot controller beside its fuses. -/
theorem State.KeptFrom.sbd {b : Sbd} (fuses : b.fuses = s.sbd.fuses) : { s with sbd := b }.KeptFrom o := kept.beside fuses

theorem State.KeptFrom.ite {t : State} {c : Prop} {_ : Decidable c} (g : t.KeptFrom o) :
    (if c then s else t).KeptFrom o := by
  split
  · exact kept
  · exact g

theorem State.KeptFrom.modPlot {p f} : (s.modPlot p f).KeptFrom o := kept.beside

theorem State.KeptFrom.mapPlots {f : Plot → Plot} : { s with plots := s.plots.map f }.KeptFrom o := kept.beside

theorem State.KeptFrom.modSeq {p f} : (s.modSeq p f).KeptFrom o := kept.modPlot

theorem State.KeptFrom.modHalf {h f} : (s.modHalf h f).KeptFrom o := by cases h <;> exact kept.beside

theorem State.KeptFrom.modPci {h f} : (s.modPci h f).KeptFrom o := by cases h <;> exact kept.beside

omit kept in
theorem State.KeptFrom.foldl {α : Type} {l : List α} {f : State → α → State} {s : State} (kept : s.KeptFrom o)
    (step : ∀ s a, s.KeptFrom o → (f s a).KeptFrom o) : (l.foldl f s).KeptFrom o :=
  List.foldlRecOn (motive := fun s => s.KeptFrom o) l f kept fun s kept a _ => step s a kept

theorem State.KeptFrom.forEach {α : Type} {l : List α} {f : State → α → State}
    (step : ∀ s a, s.KeptFrom o → (f s a).KeptFrom o) : (s.forEach l f).KeptFrom o := kept.foldl step

/-- A fold that carries a value beside the state. -/
theorem State.KeptFrom.foldl_snd {α β : Type} {l : List α} {f : β × State → α → β × State} {b : β}
    (step : ∀ x a, x.2.KeptFrom o → (f x a).2.KeptFrom o) : (l.foldl f (b, s)).2.KeptFrom o :=
  List.foldlRecOn (motive := fun x : β × State => x.2.KeptFrom o) l f kept fun x kept a _ => step x a kept

theorem State.KeptFrom.foldl_fst {α β : Type} {l : List α} {f : State × β → α → State × β} {b : β}
    (step : ∀ x a, x.1.KeptFrom o → (f x a).1.KeptFrom o) : (l.foldl f (s, b)).1.KeptFrom o :=
  List.foldlRecOn (motive := fun x : State × β => x.1.KeptFrom o) l f kept fun x kept a _ => step x a kept

/-- A key slot takes new contents that keep what was fused in it, while one slot stays enabled. -/
theorem State.KeptFrom.setKey {i : Fin 4} {k : KeySlot} (slot : (s.sbd.keys.get i).fused = true →
      k.fused = true ∧ k.digest = (s.sbd.keys.get i).digest ∧ ((s.sbd.keys.get i).enabled = false → k.enabled = false))
    (on : k.enabled = true ∨ ∃ j, j ≠ i ∧ (s.sbd.keys.get j).enabled = true) : (s.setKey i.val k).KeptFrom o := by
  refine ⟨kept.pending, fusesKept_trans kept.fuses ⟨rfl, rfl, fun j fused => ?_, fun _ => ?_⟩⟩
  · rw [State.setKey_get]
    split
    · subst j
      exact slot fused
    · exact ⟨fused, rfl, id⟩
  · obtain on | ⟨j, other, on⟩ := on
    · exact ⟨i, by rwa [State.setKey_get, if_pos rfl]⟩
    · exact ⟨j, by rwa [State.setKey_get, if_neg other]⟩

end

end Sys2Proof.Machine
end

section
/-! Every step keeps what is fused (R385, R403, R422). The fuses are written by FUSE_KEY and DISABLE_KEY alone; a reset and the seedbed's
changes of the boot controller leave them, and no instruction adds a command to the queue. Each of the model's functions of the state is
composed of such changes and has one lemma here; a lemma about a function cites those of the functions that it calls. The lemmas are
checked one after another: together they take more threads than a run allows. -/

set_option Elab.async false

namespace Sys2Proof.Machine

open Sys2Proof.Claim

section
variable {o s : State} (kept : s.KeptFrom o)
include kept

/-! ### The module's parts, counters, reports, commands and the fetch of a command -/

theorem State.KeptFrom.modUnit {d f} : (s.modUnit d f).KeptFrom o := kept.beside

theorem State.KeptFrom.modDie {d f} : (s.modDie d f).KeptFrom o := kept.beside

theorem State.KeptFrom.modKport {k f} : (s.modKport k f).KeptFrom o := kept.beside

theorem State.KeptFrom.modStrip {i f} : (s.modStrip i f).KeptFrom o := kept.beside

theorem State.KeptFrom.modTrace {d f} : (s.modTrace d f).KeptFrom o := kept.beside

theorem State.KeptFrom.psWrite {p a v} : (s.psWrite p a v).KeptFrom o := kept.modPlot

theorem State.KeptFrom.free : s.free.2.KeptFrom o := kept.beside

theorem State.KeptFrom.raise {h e} : (s.raise h e).KeptFrom o := kept.modHalf

theorem State.KeptFrom.raiseLead {e} : (s.raiseLead e).KeptFrom o := kept.raise

theorem State.KeptFrom.notice {ev obj det} : (s.notice ev obj det).KeptFrom o := kept.raiseLead

theorem State.KeptFrom.noticeFrom {src ev obj det} : (s.noticeFrom src ev obj det).KeptFrom o := kept.raiseLead

theorem State.KeptFrom.stopEvent {p reason} : (s.stopEvent p reason).KeptFrom o := kept.modSeq

theorem State.KeptFrom.plotFatal {p pos code obj det} : (s.plotFatal p pos code obj det).KeptFrom o := kept.raise.stopEvent

theorem State.KeptFrom.plotRecoverable {p pos code obj det need} :
    (s.plotRecoverable p pos code obj det need).KeptFrom o :=
  kept.raise

theorem State.KeptFrom.irqEvent {v} : (s.irqEvent v).KeptFrom o := kept.beside

theorem State.KeptFrom.setPlan {st h} : (s.setPlan st h).KeptFrom o := kept.beside.ite kept.beside.irqEvent

theorem State.KeptFrom.setSbd {st} : (s.setSbd st).KeptFrom o := kept.beside.ite kept.beside.irqEvent

theorem State.KeptFrom.setFlags {p f} : (s.setFlags p f).KeptFrom o := kept.modPlot

theorem State.KeptFrom.countCh {p pos chan ev n} : (s.countCh p pos chan ev n).KeptFrom o := kept.modPlot.ite kept

theorem State.KeptFrom.count {p pos ev n} : (s.count p pos ev n).KeptFrom o := kept.countCh

theorem State.KeptFrom.settle {p} : (s.settle p).KeptFrom o := by
  unfold State.settle
  split
  · exact kept.foldl fun _ _ kept => kept.beside.modPlot.ite kept
  · exact kept

theorem State.KeptFrom.energy {p pos kind n} : (s.energy p pos kind n).KeptFrom o := kept.beside

theorem State.KeptFrom.traceStore {d slot r} : (s.traceStore d slot r).KeptFrom o := kept.beside.ite kept.modTrace

theorem State.KeptFrom.tracePlace {d r} : (s.tracePlace d r).KeptFrom o := kept.traceStore.beside

theorem State.KeptFrom.traceWrite {d r} : (s.traceWrite d r).KeptFrom o := by
  dsimp only [State.traceWrite]
  split
  · exact kept.modTrace
  split
  · exact kept
  split
  · exact kept.modTrace
  split
  · exact kept.tracePlace
  split
  · exact kept.tracePlace.modTrace.modTrace
  · exact kept.tracePlace.modTrace.tracePlace

theorem State.KeptFrom.traceTrigger {d r} : (s.traceTrigger d r).KeptFrom o := by
  unfold State.traceTrigger
  extract_lets t rt _ s1 s2 s3
  split
  · exact kept
  have kept1 : s1.KeptFrom o := kept.beside.ite kept.modTrace
  have kept3 : s3.KeptFrom o := kept1.modTrace.traceWrite.ite kept1.modTrace
  exact kept3.modTrace

theorem State.KeptFrom.traceSpread {d} : (s.traceSpread d).KeptFrom o := by
  unfold State.traceSpread
  split
  · exact kept.forEach fun _ _ kept => kept.ite kept.traceTrigger
  · exact kept

theorem State.KeptFrom.traceOn {d r trig} : (s.traceOn d r trig).KeptFrom o := by
  dsimp only [State.traceOn]
  split
  · exact kept
  split
  · exact kept.traceTrigger.traceSpread
  · exact kept.traceWrite.ite kept

theorem State.KeptFrom.tracePlot {p kind pos d0 d1} : (s.tracePlot p kind pos d0 d1).KeptFrom o := kept.traceOn

theorem State.KeptFrom.traceDie {d kind d0 d1} : (s.traceDie d kind d0 d1).KeptFrom o := kept.traceOn

theorem State.KeptFrom.sample {h q layer oper row v} : (s.sample h q layer oper row v).KeptFrom o := by
  unfold State.sample
  split
  · exact kept
  · exact kept.modHalf.beside.ite kept.modHalf

theorem State.KeptFrom.rowAdd {q key n} : (s.rowAdd q key n).KeptFrom o := kept.beside

/-! ### Device memory (chapter 6) -/

theorem State.KeptFrom.memReport {src a code sev need} : (s.memReport src a code sev need).KeptFrom o := kept.raise

theorem State.KeptFrom.checkBlock {b} : (s.checkBlock b).2.KeptFrom o := by
  unfold State.checkBlock
  extract_lets n beyond
  have drawn : beyond.2.KeptFrom o := kept.free
  clear_value beyond
  split
  · exact kept
  split
  · split
    · exact kept
    split
    · exact kept
    · exact drawn
  split
  · split
    · split
      · exact kept
      split
      · exact kept
      · exact drawn
    split
    · exact kept
    · exact drawn
  · exact kept

theorem State.KeptFrom.memCorrected {src b} : (s.memCorrected src b).KeptFrom o := by
  unfold State.memCorrected
  exact (kept.modDie (d := s.homeOf b) (f := fun x => { x with cecnt := satAdd x.cecnt 1 })).beside.memReport.rowAdd

theorem State.KeptFrom.memUncorrectable {src b} : (s.memUncorrectable src b).KeptFrom o := kept.modDie.memReport

theorem State.KeptFrom.writeBack {src c} : (s.writeBack src c).KeptFrom o := by
  unfold State.writeBack
  split
  · exact kept
  · exact kept.forEach fun _ _ kept => kept.memUncorrectable.beside.ite (kept.memCorrected.ite kept)

theorem State.KeptFrom.cacheTouch {src a write} : (s.cacheTouch src a write).KeptFrom o := by
  unfold State.cacheTouch
  split
  · exact kept
  extract_lets d n g tally s1 c old sets same
  have tallied (ev : Nat) : (tally s ev).KeptFrom o := by
    unfold tally
    split
    · exact kept.count
    · exact kept
  split
  · exact kept
  split
  · exact (tallied _).modDie
  have kept1 : s1.KeptFrom o := tallied _
  clear_value s1
  split
  · refine State.KeptFrom.ite ?_ kept1
    refine kept1.modDie.ite (kept1.modDie.ite ?_)
    split
    · exact kept1.writeBack.modDie
    · exact kept1
  · exact kept1

omit kept in
theorem State.KeptFrom.checkBlocks {o s : State} (kept : s.KeptFrom o) {src l} : (s.checkBlocks src l).2.2.KeptFrom o := by
  induction l generalizing s with
  | nil => exact kept
  | cons b r ih =>
    unfold State.checkBlocks
    split
    rename_i s1 e
    have kept1 : s1.KeptFrom o := kept.checkBlock.of_snd e
    split
    · exact kept1.memUncorrectable
    · exact ih kept1.memCorrected
    · exact ih kept1
    · exact ih kept1

theorem State.KeptFrom.homeReadTo {src a n} : (s.homeReadTo src a n).2.2.KeptFrom o := by
  dsimp only [State.homeReadTo]
  split
  · exact kept.checkBlocks.ite kept.checkBlocks.cacheTouch
  · exact (kept.checkBlocks.ite kept.checkBlocks.cacheTouch).free

theorem State.KeptFrom.homeRead {src a n} : (s.homeRead src a n).2.KeptFrom o := by
  unfold State.homeRead
  split
  rename_i s1 e1
  have kept1 : s1.KeptFrom o := kept.homeReadTo.of_snd_snd e1
  split
  · exact kept1
  · exact kept1

omit kept in
theorem State.KeptFrom.putBlock {src a v b} {acc : Bool × State} (kept : acc.2.KeptFrom o) :
    (putBlock src a v acc b).2.KeptFrom o := by
  unfold Machine.putBlock
  dsimp only
  split
  · exact kept.cacheTouch.beside
  · split
    · exact kept.checkBlocks
    · exact kept.checkBlocks.cacheTouch.beside

theorem State.KeptFrom.homeWrite {src a v} : (s.homeWrite src a v).2.KeptFrom o := kept.foldl_snd fun _ _ kept => kept.putBlock

theorem State.KeptFrom.inject {a wrong} : (s.inject a wrong).KeptFrom o := kept.ite kept.beside

theorem State.KeptFrom.noteGuarded {a} : (s.noteGuarded a).KeptFrom o := kept.beside.ite kept

theorem State.KeptFrom.readRange {src a n} : (s.readRange src a n).2.KeptFrom o := by
  unfold State.readRange
  refine kept.foldl_snd fun acc x kept => ?_
  split
  · exact kept
  split
  rename_i s1 e1
  have kept1 : s1.KeptFrom o := kept.homeRead.of_snd e1
  split
  · exact kept1
  · exact kept1

theorem State.KeptFrom.writeRange {src a v} : (s.writeRange src a v).2.KeptFrom o := by
  unfold State.writeRange
  refine kept.foldl_snd fun acc x kept => ?_
  split
  rename_i s1 e1
  exact kept.homeWrite.of_snd e1

theorem State.KeptFrom.engineWrite {a v} : (s.engineWrite a v).KeptFrom o := kept.beside

/-! ### Commands of the sequencer -/

theorem State.KeptFrom.seqAt {p pc} : (s.seqAt p pc).KeptFrom o := kept.beside

theorem State.KeptFrom.finishAt {p pc} : (s.finishAt p pc).KeptFrom o := kept.tracePlot.modSeq.seqAt

theorem State.KeptFrom.finish {p} : (s.finish p).KeptFrom o := kept.finishAt

theorem State.KeptFrom.refuseCmd {p pos} : (s.refuseCmd p pos).KeptFrom o := kept.plotFatal

theorem State.KeptFrom.fetch {p opc} : (s.fetch p opc).KeptFrom o := by
  dsimp only [State.fetch]
  split
  · exact trivial
  split
  · exact kept.refuseCmd
  split
  · exact kept.refuseCmd
  split
  · exact kept.homeRead
  split
  · exact kept.homeRead.refuseCmd
  split
  · exact trivial
  · exact kept.homeRead

theorem State.KeptFrom.command {p opc ok} {f : Cmd → Pos → State → State}
    (effect : ∀ c pos t, t.KeptFrom o → (f c pos t).KeptFrom o) : (s.command p opc ok f).KeptFrom o := by
  unfold State.command
  split
  · exact kept
  · rename_i s1 e
    exact kept.fetch.of_stopped e
  · rename_i s1 e
    have kept1 : s1.KeptFrom o := kept.fetch.of_cmd e
    dsimp only
    split
    · exact effect _ _ _ (kept1.ite kept1.tracePlot)
    · exact kept1.refuseCmd

theorem State.KeptFrom.showNumctl {p} : (s.showNumctl p).KeptFrom o := kept.modPlot

theorem State.KeptFrom.beginWait {p} : (s.beginWait p).KeptFrom o := kept.beside

theorem State.KeptFrom.sowBarrier : s.sowBarrier.KeptFrom o := kept.mapPlots.ite kept

theorem State.KeptFrom.leaveCollective {p id} : (s.leaveCollective p id).KeptFrom o := kept.beside

theorem State.KeptFrom.settleStop {p} : (s.settleStop p).KeptFrom o := by
  unfold State.settleStop
  split
  · exact kept.modUnit
  · exact kept.ite kept.leaveCollective.modUnit.modSeq
  · exact kept.modSeq
  · exact kept.modSeq
  · exact kept.modSeq
  · exact kept.ite kept.modSeq
  · exact kept
  · exact kept

theorem State.KeptFrom.requestStop {p reason} : (s.requestStop p reason).KeptFrom o := kept.ite kept.stopEvent.settleStop

theorem State.KeptFrom.fatal {p pos code obj det} : (s.fatal p pos code obj det).KeptFrom o := kept.plotFatal.settleStop

/-! ### Operands of the Harrow -/

theorem State.KeptFrom.setHeld {p u h} : (s.setHeld p u h).KeptFrom o := kept.modPlot

theorem State.KeptFrom.holdCommand {p} : (s.holdCommand p).KeptFrom o := kept.setHeld.modSeq

theorem State.KeptFrom.unholdCommand {p} : (s.unholdCommand p).KeptFrom o := kept.setHeld.modSeq

/-! ### Passes -/

theorem State.KeptFrom.initPass {p a c} : (s.initPass p a c).KeptFrom o :=
  kept.ite (kept.forEach fun _ _ kept => kept.modPlot.setFlags)

theorem State.KeptFrom.diagStep {p d c m k a} : (s.diagStep p d c m k a).KeptFrom o := kept.psWrite.setFlags

theorem State.KeptFrom.diagOrder {d} : (s.diagOrder d).2.KeptFrom o := by
  unfold State.diagOrder
  split
  · split
    rename_i s1 e1
    exact kept.free.of_snd e1
  · exact kept

theorem State.KeptFrom.runGroup {p d c g} : (s.runGroup p d c g).KeptFrom o := by
  unfold State.runGroup
  split
  · refine kept.forEach fun s x kept => ?_
    split
    rename_i s1 e1
    have kept1 : s1.KeptFrom o := kept.diagOrder.of_snd e1
    exact kept1.forEach fun _ _ kept => kept.diagStep
  · exact kept.forEach fun _ _ kept => kept.modPlot.setFlags

theorem State.KeptFrom.countSteps {p a strict} : (s.countSteps p a strict).KeptFrom o :=
  kept.count.energy.energy.energy.ite kept.count.energy.energy

theorem State.KeptFrom.setHeadPass {p a} : (s.setHeadPass p a).KeptFrom o := kept.modPlot

theorem State.KeptFrom.dropHeadPass {p} : (s.dropHeadPass p).KeptFrom o := kept.modPlot.showNumctl

theorem State.KeptFrom.endPass {p a} : (s.endPass p a).KeptFrom o := kept.dropHeadPass.ite kept.dropHeadPass.modPlot

theorem State.KeptFrom.groupCommit {p} : NextKept o (execGroupCommit p s) := by
  unfold execGroupCommit
  split
  · exact kept
  split
  · exact kept
  split
  · exact kept
  · exact kept.initPass.runGroup.countSteps.setHeadPass.ite kept.initPass.runGroup.countSteps.endPass

theorem State.KeptFrom.tileWriteoutDone {p bank} : NextKept o (execTileWriteoutDone p bank s) := by
  unfold execTileWriteoutDone
  extract_lets q
  split
  · exact kept
  split
  · exact kept
  extract_lets arrays s1 s2 drop s3
  have kept1 : s1.KeptFrom o := kept.forEach fun _ _ kept => kept.psWrite
  have kept3 : s3.KeptFrom o := kept1.energy.modPlot
  exact kept3.modSeq.ite kept3

theorem State.KeptFrom.tileReductionDone {p} : NextKept o (execTileReductionDone p s) := by
  unfold execTileReductionDone
  split
  · exact kept
  split
  · exact kept
  split
  · exact kept
  · exact (kept.forEach fun _ _ kept => kept.psWrite.setFlags).dropHeadPass

theorem State.KeptFrom.pass {p} : NextKept o (execPass p s) := by
  dsimp only [execPass]
  refine kept.command fun c pos s kept => ?_
  split
  · exact kept.holdCommand
  split
  · exact kept.unholdCommand.fatal
  · exact kept.unholdCommand.modSeq

theorem State.KeptFrom.enterPass {p a} : (s.enterPass p a).KeptFrom o := by
  dsimp only [State.enterPass]
  split
  · exact (kept.setHeld.modPlot.showNumctl.ite kept.setHeld.modPlot.showNumctl.count).modSeq
  · exact (kept.setHeld.modPlot.showNumctl.ite kept.setHeld.modPlot.showNumctl.count).finish

theorem State.KeptFrom.tryEnter {p} : (s.tryEnter p).KeptFrom o := by
  dsimp only [State.tryEnter]
  split
  · exact kept
  split
  · exact kept
  · exact kept.setHeld.modSeq.ite kept.enterPass

theorem State.KeptFrom.passEntry {p} : NextKept o (execPassEntry p s) := kept.tryEnter

theorem State.KeptFrom.spill {p a kpos reason} : (s.spill p a kpos reason).KeptFrom o :=
  kept.psWrite.modPlot.showNumctl.count.tracePlot

theorem State.KeptFrom.passStop {p} : NextKept o (execPassStop p s) := by
  unfold execPassStop
  split
  · split
    · exact kept
    split
    · exact kept
    split
    · split
      · exact kept.spill
      · exact kept
    split
    · exact kept.initPass.spill
    · exact kept
  · exact kept

theorem State.KeptFrom.parityStop {p pos} : (s.parityStop p pos).KeptFrom o := kept.plotRecoverable.stopEvent.settleStop

theorem State.KeptFrom.countRetry {p} : (s.countRetry p).KeptFrom o := kept.modPlot

theorem State.KeptFrom.groupParity {p a g} : (s.groupParity p a g).2.KeptFrom o := by
  unfold State.groupParity
  split
  · exact kept
  split
  · exact kept.parityStop
  · exact kept.countRetry

theorem State.KeptFrom.operandParityError {p g} : NextKept o (execOperandParityError p g s) := by
  dsimp only [execOperandParityError]
  split
  · exact kept
  split
  · exact kept
  · exact kept.groupParity.modPlot

theorem State.KeptFrom.passReentry {p} : NextKept o (execPassReentry p s) := by
  unfold execPassReentry
  split
  · exact kept
  split
  · exact kept.setHeadPass
  · exact kept

theorem State.KeptFrom.reductionParityError {p} : NextKept o (execReductionParityError p s) := by
  unfold execReductionParityError
  split
  · exact kept
  split
  · exact kept
  split
  · exact kept.parityStop.setHeadPass
  · exact kept.countRetry.setHeadPass

theorem State.KeptFrom.reloadTiles {p rec a mask} : (s.reloadTiles p rec a mask).KeptFrom o :=
  (kept.forEach fun _ _ kept => kept.modPlot).beside

theorem State.KeptFrom.resumep {p} : NextKept o (execResumep p s) := by
  dsimp only [execResumep]
  refine kept.command fun c pos s kept => ?_
  split
  · exact kept.holdCommand
  split
  · exact kept.unholdCommand.fatal
  · exact kept.unholdCommand.reloadTiles.modSeq

theorem State.KeptFrom.resumePass {p} : (s.resumePass p).KeptFrom o := by
  dsimp only [State.resumePass]
  split
  · exact kept
  split
  · exact kept.fatal
  · exact kept.reloadTiles.modPlot.showNumctl

/-! ### Streams -/

theorem State.KeptFrom.runStream {p a c hi} : (s.runStream p a c hi).2.KeptFrom o := by
  unfold State.runStream
  exact kept.modPlot.count.count.energy.energy.energy.energy

theorem State.KeptFrom.stream {p} : NextKept o (execStream p s) := by
  dsimp only [execStream]
  refine kept.command fun c pos s kept => ?_
  split
  · exact kept.holdCommand
  split
  · exact kept.unholdCommand.fatal
  · exact kept.unholdCommand.modSeq

theorem State.KeptFrom.tryStart {p} : (s.tryStart p).KeptFrom o := by
  dsimp only [State.tryStart]
  split
  · split
    · exact kept
    split
    · exact kept.setHeld.modSeq
    · exact kept.fatal.ite kept.setHeld.modPlot.showNumctl.finish
  · exact kept

theorem State.KeptFrom.streamStart {p} : NextKept o (execStreamStart p s) := kept.tryStart

theorem State.KeptFrom.streamEnd {p} : NextKept o (execStreamEnd p s) := by
  unfold execStreamEnd
  split
  · exact kept
  split
  · exact kept
  split
  · exact kept
  split
  rename_i s1 e1
  have kept1 : s1.KeptFrom o := kept.runStream.of_snd e1
  exact (kept1.setFlags.modPlot.psWrite.ite kept1.setFlags.modPlot).showNumctl

theorem State.KeptFrom.imageValue {r} : (s.imageValue r).2.KeptFrom o := by
  unfold State.imageValue
  split
  · exact kept.free
  · exact kept

theorem State.KeptFrom.stopStream {p a reason} : (s.stopStream p a reason).KeptFrom o := by
  unfold State.stopStream
  split
  rename_i s1 e1
  have kept1 : s1.KeptFrom o := kept.imageValue.of_snd e1
  exact kept1.psWrite.modPlot.showNumctl.count.tracePlot

theorem State.KeptFrom.streamStop {p epos} : NextKept o (execStreamStop p epos s) := by
  unfold execStreamStop
  split
  · split
    · exact kept
    split
    · split
      rename_i s1 e1
      have kept1 : s1.KeptFrom o := kept.runStream.of_snd e1
      exact kept1.stopStream
    · exact kept
  · exact kept

theorem State.KeptFrom.drillParityError {p epos} : NextKept o (execDrillParityError p epos s) := by
  unfold execDrillParityError
  split
  · exact kept
  split
  · exact kept
  split
  · split
    rename_i s1 e1
    have kept1 : s1.KeptFrom o := kept.runStream.of_snd e1
    split
    · exact kept1.stopStream.parityStop
    · exact kept1.modPlot
  · exact kept

theorem State.KeptFrom.tillingParityError {p} : NextKept o (execTillingParityError p s) := by
  dsimp only [execTillingParityError]
  split
  · exact kept.modPlot.raise
  · exact kept

theorem State.KeptFrom.continueStream {p a r} : (s.continueStream p a r).KeptFrom o := kept.modPlot.showNumctl

theorem State.KeptFrom.resumes {p} : NextKept o (execResumes p s) := by
  dsimp only [execResumes]
  refine kept.command fun c pos s kept => ?_
  split
  · exact kept.holdCommand
  split
  · exact kept.unholdCommand.fatal
  · exact kept.unholdCommand.continueStream.finish

theorem State.KeptFrom.resumeStream {p} : (s.resumeStream p).KeptFrom o := by
  dsimp only [State.resumeStream]
  split
  · exact kept
  split
  · exact kept.fatal
  · exact kept.continueStream

/-! ### Sync units -/

theorem State.KeptFrom.syncErr {d code sev objLo objHi det} : (s.syncErr d code sev objLo objHi det).KeptFrom o :=
  kept.raise

theorem State.KeptFrom.setQueue {d q l} : (s.setQueue d q l).KeptFrom o := kept.modUnit

theorem State.KeptFrom.engineAdd {queue payload src} : (s.engineAdd queue payload src).KeptFrom o := by
  unfold State.engineAdd
  split
  · exact kept.beside
  · exact kept.beside.ite kept

theorem State.KeptFrom.engineDrop {queue all} : (s.engineDrop queue all).KeptFrom o := kept.beside

theorem State.KeptFrom.engineTake {t} : (s.engineTake t).KeptFrom o := kept.setQueue.engineDrop

theorem State.KeptFrom.enterQueue {d t} : (s.enterQueue d t).KeptFrom o :=
  kept.modUnit.syncErr.ite kept.setQueue.traceDie.engineAdd

theorem State.KeptFrom.tokenArrival {i} : NextKept o (execTokenArrival i s) := by
  dsimp only [execTokenArrival]
  split
  · exact kept
  split
  · exact kept
  split
  · exact kept.beside.modUnit
  · exact kept.beside.syncErr

theorem State.KeptFrom.acceptRemote {d t} : (s.acceptRemote d t).KeptFrom o := by
  unfold State.acceptRemote
  extract_lets u
  split
  · split
    · exact kept.syncErr
    split
    · exact kept.modUnit
    · exact kept.modUnit.traceDie
  · split
    · exact kept.modUnit
    dsimp only
    split
    · exact kept.syncErr
    · exact kept.beside.modUnit.traceDie

theorem State.KeptFrom.inboundEntry {d node ch} : (s.inboundEntry d node ch).2.KeptFrom o := by
  dsimp only [State.inboundEntry]
  split
  · exact kept
  split
  · exact kept
  · exact kept.beside

theorem State.KeptFrom.remoteToken {d t} : (s.remoteToken d t).KeptFrom o := by
  dsimp only [State.remoteToken]
  split
  · rename_i s1 e1
    have kept1 : s1.KeptFrom o := kept.inboundEntry.of_snd e1
    exact kept1.syncErr
  rename_i s2 e2
  have kept2 : s2.KeptFrom o := kept.inboundEntry.of_snd e2
  split
  · exact kept2.modUnit.acceptRemote
  · exact kept2.syncErr.ite kept2.modUnit.modUnit.syncErr

theorem State.KeptFrom.rxApplied {node ch mseq} : (s.rxApplied node ch mseq).KeptFrom o := kept.beside

theorem State.KeptFrom.remoteTokenArrival {i} : NextKept o (execRemoteTokenArrival i s) := by
  dsimp only [execRemoteTokenArrival]
  split
  · exact kept
  split
  · exact kept
  split
  · exact kept.beside.rxApplied.remoteToken
  · exact kept.beside.syncErr

theorem State.KeptFrom.tallyAdd {a} : (s.tallyAdd a).KeptFrom o := by
  unfold State.tallyAdd
  extract_lets d u entered
  split
  · exact kept.syncErr.ite kept.modUnit
  · refine kept.syncErr.ite ?_
    split
    · exact kept.syncErr
    · exact kept.beside.modUnit

theorem State.KeptFrom.announcedWriteAck : NextKept o (execAnnouncedWriteAck s) := by
  unfold execAnnouncedWriteAck
  split
  · exact kept
  split
  · exact kept
  · exact kept.beside.tallyAdd

theorem State.KeptFrom.handDone {d result} : (s.handDone d result).KeptFrom o := kept.beside

theorem State.KeptFrom.handNotice {d payload} : (s.handNotice d payload).KeptFrom o := kept.syncErr

theorem State.KeptFrom.handOp {d} : (s.handOp d).KeptFrom o := by
  dsimp only [State.handOp]
  split
  · exact kept
  split
  · split
    · exact kept.modUnit.handDone
    · exact kept.handDone
  · split
    · exact kept.handDone.handNotice
    · exact kept.setQueue.traceDie.engineAdd.handDone.handNotice
  · split
    · exact kept.handDone.handNotice
    · exact kept.setQueue.engineDrop.handDone.handNotice
  · split
    · exact kept.handDone.handNotice
    · exact kept.setQueue.engineDrop.handDone.handNotice
  · split
    · exact kept.handDone.handNotice
    split
    · exact kept.handDone.handNotice.ite kept.modUnit.enterQueue.handDone.handNotice
    · exact kept.handDone
  · exact kept.handDone

theorem State.KeptFrom.withdraw {d p} : (s.withdraw d p).KeptFrom o := by
  unfold State.withdraw
  split
  · exact kept
  · exact kept.modUnit.modPlot

theorem State.KeptFrom.modDbgWatch {d n f} : (s.modDbgWatch d n f).KeptFrom o := kept.beside

theorem State.KeptFrom.register {d w} : (s.register d w).KeptFrom o := by
  dsimp only [State.register]
  split
  · exact kept.beside.modUnit
  split
  · exact kept.modDbgWatch
  · exact kept

theorem State.KeptFrom.release {d w} : (s.release d w).KeptFrom o := by
  dsimp only [State.release]
  split
  · split
    · exact kept.setQueue.modUnit.traceDie.modDbgWatch.traceOn
    · exact kept.setQueue.modUnit.traceDie.modDbgWatch
  split
  · exact kept.setQueue.modUnit.traceDie.modPlot.sample.finish
  · exact kept.setQueue.modUnit.traceDie.modPlot.sample

theorem State.KeptFrom.evaluate {d} : (s.evaluate d).KeptFrom o := by
  unfold State.evaluate
  refine kept.forEach fun s x kept => ?_
  split
  · exact kept
  · exact kept
  · exact kept.release.ite kept

theorem State.KeptFrom.dump {trigger object waiter} : (s.dump trigger object waiter).2.KeptFrom o := by
  unfold State.dump
  split
  · exact kept.beside
  split
  · exact kept.notice
  · exact kept.beside

theorem State.KeptFrom.expireError {d w} : (s.expireError d w).KeptFrom o := by
  unfold State.expireError
  split
  · exact kept.raise.modUnit.modDbgWatch
  refine State.KeptFrom.stopEvent ?_
  refine State.KeptFrom.modPlot ?_
  split
  · exact kept.raise.modUnit
  · exact kept.raise.modUnit.leaveCollective

theorem State.KeptFrom.restartWatch {d slot} : (s.restartWatch d slot).KeptFrom o := kept.modUnit

theorem State.KeptFrom.expire {d w} : (s.expire d w).KeptFrom o := by
  dsimp only [State.expire]
  split
  · exact kept.expireError
  · exact kept.dump.raise.restartWatch
  · exact kept.dump.beside.ite kept.dump.expireError
  · exact kept

theorem State.KeptFrom.expireEarly {d e t} : (s.expireEarly d e t).KeptFrom o := by
  unfold State.expireEarly
  extract_lets again
  have agains {t : State} (kept : t.KeptFrom o) : (again t).KeptFrom o := kept.modUnit
  split
  · exact kept.modUnit.raise
  · exact kept.dump.modUnit.raise
  · split
    rename_i taken s1 dumped
    have kept1 : s1.KeptFrom o := kept.dump.of_snd dumped
    split
    · exact (agains kept1).beside
    · exact kept1.modUnit.raise
  · exact kept

theorem State.KeptFrom.watchExpiry {d slot} : NextKept o (execWatchExpiry d slot s) := by
  unfold execWatchExpiry
  split
  · exact kept
  split
  · split
    · exact kept.expire
    · exact kept
  · exact kept

theorem State.KeptFrom.earlyTokenExpiry {d slot} : NextKept o (execEarlyTokenExpiry d slot s) := by
  unfold execEarlyTokenExpiry
  split
  · exact kept
  split
  · split
    · split
      · exact kept.expireEarly
      · exact kept
    · exact kept
  · exact kept

theorem State.KeptFrom.syncDie {d} : (s.syncDie d).KeptFrom o := by
  unfold State.syncDie
  extract_lets s1 u out outSlots toks s2 s3 u3 s4 s5 s6 regs lost s7 s8
  have kept3 : s3.KeptFrom o := kept.handOp.modUnit.forEach fun _ _ kept => kept.enterQueue
  have kept5 : s5.KeptFrom o := kept3.modUnit.forEach fun _ _ kept => kept.withdraw
  have kept6 : s6.KeptFrom o := kept5.forEach fun _ _ kept => kept.modUnit.modDbgWatch
  have kept7 : s7.KeptFrom o := kept6.forEach fun _ _ kept => kept.modPlot
  have kept8 : s8.KeptFrom o := kept7.forEach fun _ _ kept => kept.register
  exact kept8.evaluate

theorem State.KeptFrom.syncExpire {d} : (s.syncExpire d).KeptFrom o := by
  unfold State.syncExpire
  refine (kept.forEach fun _ _ kept => (kept.ite (kept.expire.ite kept))).forEach fun s x kept => ?_
  split
  · exact kept.expireEarly.ite kept
  · exact kept

theorem State.KeptFrom.tickModule {n} : (s.tickModule n).KeptFrom o := kept.beside

theorem State.KeptFrom.syncCycle {elapsed} : NextKept o (execSyncCycle elapsed s) := by
  unfold execSyncCycle
  extract_lets s1 s2 s3
  have kept1 : s1.KeptFrom o := kept.tickModule
  split
  · exact kept1
  have kept2 : s2.KeptFrom o := kept1.forEach fun _ _ kept => kept.modUnit
  have kept3 : s3.KeptFrom o := kept2.forEach fun _ _ kept => kept.syncDie
  exact kept3.forEach fun _ _ kept => kept.ite kept.syncExpire

theorem State.KeptFrom.dumpWritten : NextKept o (execDumpWritten s) := by
  unfold execDumpWritten
  split
  · exact kept
  rename_i f _
  extract_lets _ _ s1 s2
  have kept1 : s1.KeptFrom o := kept.beside
  have kept2 : s2.KeptFrom o := kept1.notice
  split
  · exact kept2
  · exact kept2.raiseLead
  · split
    · split
      · exact kept2.raise
      · exact kept2
    · exact kept2
  · split
    · exact kept2.expireError
    · exact kept2

/-! ### Rake registers and combinations -/

theorem State.KeptFrom.rclear {p} : NextKept o (execRclear p s) :=
  kept.command fun _ _ _ kept => kept.holdCommand.ite kept.unholdCommand.modPlot.finish

theorem State.KeptFrom.rread {p} : NextKept o (execRread p s) := by
  dsimp only [execRread]
  refine kept.command fun c pos s kept => ?_
  split
  · split
    · exact kept.holdCommand
    split
    · exact kept.unholdCommand.fatal
    · exact kept.unholdCommand.fatal.ite kept.unholdCommand.psWrite.setFlags.finish
  split
  · exact kept.holdCommand
  split
  · exact kept.unholdCommand.fatal
  · exact kept.unholdCommand.fatal.ite kept.unholdCommand.psWrite.setFlags.finish

theorem State.KeptFrom.rsave {p} : NextKept o (execRsave p s) := by
  dsimp only [execRsave]
  exact kept.command fun _ _ _ kept => kept.holdCommand.ite kept.unholdCommand.imageValue.psWrite.finish

theorem State.KeptFrom.radd {p} : NextKept o (execRadd p s) := by
  dsimp only [execRadd]
  refine kept.command fun c pos s kept => ?_
  split
  · exact kept.holdCommand
  split
  · exact kept.unholdCommand.fatal
  · exact kept.unholdCommand.modPlot.finish.ite kept.unholdCommand.fatal

theorem State.KeptFrom.collMismatch {id members} : (s.collMismatch id members).KeptFrom o :=
  kept.beside.forEach fun _ _ kept => kept.modUnit.modSeq.fatal

theorem State.KeptFrom.joinColl {p pos id count r kind} : (s.joinColl p pos id count r kind).KeptFrom o :=
  kept.collMismatch.ite kept.beside.modUnit.beginWait.modSeq

theorem State.KeptFrom.rcombine {p} : NextKept o (execRcombine p s) :=
  kept.command fun _ _ _ kept => kept.holdCommand.ite kept.unholdCommand.joinColl

theorem State.KeptFrom.endCollWatch {p id} : (s.endCollWatch p id).KeptFrom o := kept.modUnit.traceDie

theorem State.KeptFrom.deliver {p id r} : (s.deliver p id r).KeptFrom o := by
  unfold State.deliver
  split
  · exact kept.endCollWatch.modPlot.finish.ite kept.endCollWatch.modPlot
  · exact kept.endCollWatch.modPlot.finish.ite kept.endCollWatch.modPlot

theorem State.KeptFrom.combineDelivery {id} : NextKept o (execCombineDelivery id s) := by
  unfold execCombineDelivery
  split
  · exact kept
  split
  · exact kept
  split
  · exact kept
  · exact ((kept.beside.beside.ite kept.beside).forEach fun _ _ kept => kept.deliver).sowBarrier

/-! ### Four-bit checks and the allocator -/

theorem State.KeptFrom.fltRead {p pos idx} : (s.fltRead p pos idx).KeptFrom o := by
  dsimp only [State.fltRead]
  split
  · exact kept.fatal
  split
  · exact kept.homeRead
  split
  · exact kept.homeRead
  split
  · exact kept.homeRead.fatal
  · exact kept.homeRead.modSeq

theorem State.KeptFrom.brflt {p} : NextKept o (execBrflt p s) := by
  unfold execBrflt
  refine kept.command fun c pos s kept => ?_
  split
  · rename_i s1 e1
    exact kept.fltRead.of_failed e1
  rename_i s2 e2
  have kept2 : s2.KeptFrom o := kept.fltRead.of_entry e2
  exact kept2.finishAt.ite kept2.finish

theorem State.KeptFrom.check {p} : NextKept o (execCheck p s) := by
  refine kept.command fun c pos s kept => ?_
  split
  · exact kept.finish
  split
  · exact kept.holdCommand
  extract_lets s0 k
  have kept0 : s0.KeptFrom o := kept.unholdCommand
  split
  · exact kept0.fatal
  split
  · rename_i s1 failed
    exact kept0.fltRead.of_failed failed
  rename_i s1 entry
  have kept1 : s1.KeptFrom o := kept0.fltRead.of_entry entry
  split
  · exact kept1.finish
  split
  · exact kept1.holdCommand
  extract_lets d
  split
  · exact kept1.fatal
  split
  · exact kept1.fatal
  split
  · exact kept1.fatal
  · exact kept1.modSeq

theorem State.KeptFrom.checkCompare {p} : NextKept o (execCheckCompare p s) := by
  dsimp only [execCheckCompare]
  split
  · split
    · split
      · exact kept
      · exact (kept.modPlot.raise.ite kept.modPlot).finish
    split
    · exact kept
    · exact (kept.modPlot.raise.ite kept.modPlot).finish
  · exact kept

theorem State.KeptFrom.vote {p} : NextKept o (execVote p s) := by
  unfold execVote
  refine kept.command fun c pos s kept => ?_
  split
  · exact kept
  · exact kept.fatal.ite kept.joinColl

theorem State.KeptFrom.writeChange {flt row x} : (s.writeChange flt row x).KeptFrom o :=
  (kept.engineWrite.engineWrite.engineWrite.engineWrite.engineWrite.ite kept.engineWrite.engineWrite).noteGuarded.notice

theorem State.KeptFrom.fallbackAllocation : NextKept o (execFallbackAllocation s) := by
  unfold execFallbackAllocation
  split
  · extract_lets _ _ _ _ s0 _ _ _ _ s1
    have kept0 : s0.KeptFrom o := kept.beside
    split
    · exact kept0.raiseLead
    · have kept1 : s1.KeptFrom o := kept0.forEach fun _ _ kept => kept.writeChange
      clear_value s1
      exact kept1.beside
  · exact kept

/-! ### Kufort messages -/

theorem State.KeptFrom.transportErr {d lo hi det} : (s.transportErr d lo hi det).KeptFrom o := kept.raise

theorem State.KeptFrom.txPush {k m} : (s.txPush k m).KeptFrom o := kept.beside

theorem State.KeptFrom.sendOn {m} : (s.sendOn m).2.KeptFrom o := by
  dsimp only [State.sendOn]
  split
  · exact kept.txPush
  · exact kept.raiseLead

theorem State.KeptFrom.modTx {node ch f} : (s.modTx node ch f).KeptFrom o := kept.beside

theorem State.KeptFrom.pump {node ch} : (s.pump node ch).KeptFrom o := by
  unfold State.pump
  split
  · exact kept
  split
  · exact kept
  refine kept.forEach fun s x kept => ?_
  split
  rename_i s1 e1
  have kept1 : s1.KeptFrom o := kept.sendOn.of_snd e1
  exact kept1.modTx

theorem State.KeptFrom.sendOpen {node ch} : (s.sendOpen node ch).KeptFrom o := kept.sendOn.modTx

theorem State.KeptFrom.pairSend {node ch mtype body} : (s.pairSend node ch mtype body).2.KeptFrom o :=
  (kept.ite kept.beside.sendOpen).modTx.pump

theorem State.KeptFrom.sendData {node ch addr ann data} : (s.sendData node ch addr ann data).2.KeptFrom o := kept.pairSend

theorem State.KeptFrom.takeTseq {node ch d} : (s.takeTseq node ch d).2.KeptFrom o := kept.beside

theorem State.KeptFrom.sendTokenSeq {node ch queue payload bytes tseq} :
    (s.sendTokenSeq node ch queue payload bytes tseq).2.KeptFrom o :=
  kept.pairSend

theorem State.KeptFrom.sendToken {node ch queue payload} : (s.sendToken node ch queue payload).KeptFrom o :=
  kept.beside.sendTokenSeq

theorem State.KeptFrom.localToken {kind src queue payload} : (s.localToken kind src queue payload).KeptFrom o := kept.beside

theorem State.KeptFrom.resendMsg {node ch m} : (s.resendMsg node ch m).KeptFrom o := by
  unfold State.resendMsg
  extract_lets set
  split
  · exact kept
  split
  · exact kept.modTx.raiseLead
  split
  rename_i k s1 sent
  have kept1 : s1.KeptFrom o := kept.sendOn.of_snd sent
  exact State.KeptFrom.rowAdd (State.KeptFrom.beside (s := set s1 (m.sends + 1) k) kept1.modTx)

/-! ### Transfers -/

theorem State.KeptFrom.setMover {p m l} : (s.setMover p m l).KeptFrom o := kept.modPlot

theorem State.KeptFrom.modHead {p m f} : (s.modHead p m f).KeptFrom o := by
  unfold State.modHead
  split
  · exact kept
  · exact kept.setMover

theorem State.KeptFrom.looseNibble {e m} : (s.looseNibble e m).2.KeptFrom o := by
  unfold State.looseNibble
  split
  · split
    rename_i s1 e1
    exact kept.free.of_snd e1
  · exact kept

theorem State.KeptFrom.sendTransfer {p t img} : (s.sendTransfer p t img).2.KeptFrom o := by
  unfold State.sendTransfer
  extract_lets d die ps
  have sequence : (if d.token then s.takeTseq d.node d.channel die else (0, s)).2.KeptFrom o := by
    split
    · exact kept.takeTseq
    · exact kept
  split
  rename_i ts s1 taken
  have kept1 : s1.KeptFrom o := sequence.of_snd taken
  split
  rename_i ids s2 sent
  have kept2 : s2.KeptFrom o := by
    refine State.KeptFrom.of_snd (kept1.foldl_snd fun _ _ kept => ?_) sent
    exact kept.sendData
  exact kept2.countCh.countCh.energy

theorem State.KeptFrom.beginTransfer {p m t} : (s.beginTransfer p m t).KeptFrom o := by
  dsimp only [State.beginTransfer]
  split
  · exact kept.setHeld.count.modHead
  split
  · split
    · exact kept.setHeld.count.setFlags.looseNibble.modHead
    · exact kept.setHeld.count.setFlags.looseNibble.sendTransfer.modHead
  · exact kept.setHeld.count.modHead

omit kept in
theorem State.KeptFrom.activate {n p m} {s : State} (kept : s.KeptFrom o) : (State.activate n s p m).KeptFrom o := by
  induction n generalizing s with
  | zero => exact kept
  | succ n ih =>
    unfold State.activate
    split
    · exact kept.setHeld
    split
    · exact kept
    split
    · exact ih kept.setMover
    split
    · exact kept.setHeld
    · exact kept.beginTransfer

theorem State.KeptFrom.acceptDma {p pos addr} : (s.acceptDma p pos addr).KeptFrom o := by
  unfold State.acceptDma
  extract_lets bad d needs here go
  split
  · exact kept.fatal
  split
  · exact trivial
  split
  · exact kept.fatal
  split
  · exact kept.fatal
  split
  · exact kept.fatal
  split
  · exact kept.fatal
  have goes : ∀ (t : State) e, t.KeptFrom o → (go t e).KeptFrom o := by
    intro t e kept
    unfold go
    refine iteInduction (fun _ => kept.fatal) fun _ => ?_
    refine iteInduction (fun _ => trivial) fun _ => ?_
    exact iteInduction (fun _ => kept.fatal) fun _ => kept
  split
  · split
    · rename_i s1 failed
      exact kept.fltRead.of_failed failed
    · rename_i e st s1 entry
      exact goes _ (some (e, st)) (kept.fltRead.of_entry entry)
  · exact goes _ none kept

omit kept in
theorem State.KeptFrom.handOver {n p} {s : State} (kept : s.KeptFrom o) : (State.handOver n s p).KeptFrom o := by
  induction n generalizing s with
  | zero => exact kept
  | succ n ih =>
    unfold State.handOver
    split
    · split
      · exact kept.unholdCommand.finish
      split
      · exact kept
      split
      · exact kept.holdCommand
      · rename_i s1 refused
        exact (kept.acceptDma.of_refused refused).unholdCommand.modSeq
      · rename_i t s1 accepted
        exact ih (kept.acceptDma.of_ok accepted).setMover.modPlot.unholdCommand.activate
    · exact kept

theorem State.KeptFrom.dma {p} : NextKept o (execDma p s) := by
  unfold execDma
  split
  · exact kept.handOver.ite kept
  · exact kept.command fun _ _ _ kept => kept.modSeq.handOver

theorem State.KeptFrom.endTransfer {p m} : (s.endTransfer p m).KeptFrom o := kept.setMover.activate.handOver

theorem State.KeptFrom.countAccess {p pos a n write} : (s.countAccess p pos a n write).KeptFrom o :=
  kept.count.count.energy.ite kept.count.count.energy.energy

theorem State.KeptFrom.landBelow {p t missing} : (s.landBelow p t missing).KeptFrom o := by
  unfold State.landBelow
  split
  · exact kept
  split
  exact State.KeptFrom.setFlags kept.modPlot

theorem State.KeptFrom.homeAccess {p m wrongBytes} : NextKept o (execHomeAccess p m wrongBytes s) := by
  dsimp only [execHomeAccess]
  split
  · exact kept
  split
  · exact kept
  split
  · exact kept
  split
  · split
    · exact kept.inject.countAccess.homeReadTo.landBelow.endTransfer
    · exact kept.inject.countAccess.homeReadTo.modHead
  split
  · exact kept.inject.countAccess.homeWrite.modHead
  · exact kept.inject.countAccess.homeWrite.endTransfer

theorem State.KeptFrom.ackPair {node ch} : (s.ackPair node ch).KeptFrom o := by
  unfold State.ackPair
  split
  · exact kept
  split
  · exact kept
  rename_i g _
  extract_lets s1 s2
  have kept2 : s2.KeptFrom o := by
    unfold s2
    split
    · exact kept.rxApplied.noteGuarded
    · exact kept.rxApplied
  split
  · exact kept2.beside
  · exact kept2

theorem State.KeptFrom.ackHost {h} : (s.ackHost h).KeptFrom o := by
  unfold State.ackHost
  extract_lets n _ s1 left out s2
  split
  · exact kept
  have kept1 : s1.KeptFrom o := by
    unfold s1
    split
    · exact kept.beside
    · exact kept.beside
  have kept2 : s2.KeptFrom o := kept1.modPci
  exact kept2.beside

theorem State.KeptFrom.writeAck {src} : NextKept o (execWriteAck src s) := by
  unfold execWriteAck
  split
  · split
    · split
      · exact kept.modHead.noteGuarded
      · exact kept
    · exact kept
  · exact kept.ackHost
  · exact kept.ackPair

theorem State.KeptFrom.landTransfer {p t} : (s.landTransfer p t).KeptFrom o := by
  unfold State.landTransfer
  extract_lets land _ cross
  have lands : ∀ x, (land x).KeptFrom o := by
    intro x
    unfold land
    exact State.KeptFrom.setFlags kept.modPlot
  have crosses : ∀ t : State, t.KeptFrom o → (cross t).KeptFrom o := by
    intro t kept
    unfold cross
    split
    · exact kept.count.energy
    · exact kept
  split
  · exact crosses _ (lands _)
  · exact crosses _ (lands _)
  · exact kept

theorem State.KeptFrom.transferDone {p m} : NextKept o (execTransferDone p m s) := by
  unfold execTransferDone
  split
  · exact kept
  split
  · exact kept
  split
  · exact kept.landTransfer.modHead
  · exact kept.landTransfer.endTransfer

theorem State.KeptFrom.trailingToken {p m} : NextKept o (execTrailingToken p m s) := by
  dsimp only [execTrailingToken]
  split
  · exact kept
  split
  · exact kept
  split
  · exact kept.sendTokenSeq.countCh.energy.modHead
  · exact kept.localToken.endTransfer

/-! ### The course of a plan -/

theorem State.KeptFrom.nop {p} : NextKept o (execNop p s) := kept.command fun _ _ _ kept => kept.finish

theorem State.KeptFrom.jump {p} : NextKept o (execJump p s) := kept.command fun _ _ _ kept => kept.finishAt

theorem State.KeptFrom.mark {p} : NextKept o (execMark p s) := kept.command fun _ _ _ kept => kept.traceOn.finish

theorem State.KeptFrom.wait {p} : NextKept o (execWait p s) := kept.command fun _ _ _ kept => kept.modUnit.beginWait.modSeq

theorem State.KeptFrom.signal {p} : NextKept o (execSignal p s) := by
  refine kept.command fun c pos s kept => ?_
  extract_lets queue node ch s1
  refine State.KeptFrom.ite ?_ kept.localToken.finish
  exact kept.unholdCommand.fatal.ite (kept.holdCommand.ite kept.unholdCommand.sendToken.countCh.energy.finish)

theorem State.KeptFrom.fence {p} : NextKept o (execFence p s) := by
  unfold execFence
  split
  · split
    · exact kept.finish
    · exact kept
  · exact kept.command fun _ _ _ kept => kept.finish.ite kept.beginWait.modSeq

theorem State.KeptFrom.snapshot {p} : (s.snapshot p).KeptFrom o := by
  dsimp only [State.snapshot]
  split
  · split
    · exact kept
    · exact kept.notice.ite kept.settle.engineWrite
  split
  · exact kept
  · exact kept.notice.ite kept.settle.engineWrite

theorem State.KeptFrom.reportRow {p} : (s.reportRow p).KeptFrom o := kept.snapshot.modSeq.ite kept

theorem State.KeptFrom.endrow {p} : NextKept o (execEndrow p s) := by
  unfold execEndrow
  split
  · exact kept.reportRow
  · exact kept.command fun _ _ _ kept => kept.beginWait.modSeq.reportRow

theorem State.KeptFrom.identityRequests : s.identityRequests.KeptFrom o := kept.forEach fun _ _ kept => kept.modKport

theorem State.KeptFrom.clearRequests : s.clearRequests.KeptFrom o := kept.beside.noticeFrom.ite kept

theorem State.KeptFrom.endPlan {st h} : (s.endPlan st h).KeptFrom o := kept.setPlan.clearRequests.identityRequests

theorem State.KeptFrom.plotEnded {p} : (s.plotEnded p).KeptFrom o :=
  kept.modSeq.tracePlot.beside.endPlan.ite kept.modSeq.tracePlot.beside

theorem State.KeptFrom.endplan {p} : NextKept o (execEndplan p s) := by
  unfold execEndplan
  split
  · split
    · exact kept.plotEnded
    · exact kept
  · exact kept.command fun _ _ _ kept => kept.plotEnded.ite kept.modSeq

theorem State.KeptFrom.retryCommand {p} : NextKept o (s.retryCommand p) := by
  unfold State.retryCommand
  split
  · exact kept.dma
  split
  · exact kept.pass
  · exact kept.stream
  · exact kept.signal
  · exact kept.check
  · exact kept.rclear
  · exact kept.rread
  · exact kept.rsave
  · exact kept.radd
  · exact kept.rcombine
  · exact kept.resumep
  · exact kept.resumes
  · exact kept

theorem State.KeptFrom.heldAccessRelease {p u} : NextKept o (execHeldAccessRelease p u s) := by
  unfold execHeldAccessRelease
  split
  · exact kept
  split
  · exact kept.retryCommand
  · exact kept.passEntry
  · exact kept.streamStart
  · exact kept.activate
  · exact kept.activate

theorem State.KeptFrom.haltComplete : s.haltComplete.KeptFrom o := by
  unfold State.haltComplete
  extract_lets _ _ s1 _ _ s2
  split
  · exact kept
  have kept1 : s1.KeptFrom o := by
    unfold s1
    split
    · exact kept.beside.noticeFrom
    · exact kept
  split
  · exact kept1
  have kept2 : s2.KeptFrom o := kept1.beside
  extract_lets bytes
  split
  · exact kept2.engineWrite
  · exact kept2.notice

theorem State.KeptFrom.resumePlot {p stepping} : (s.resumePlot p stepping).KeptFrom o :=
  kept.modPlot.resumePass.resumeStream

theorem State.KeptFrom.plotStopComplete {p} : NextKept o (execPlotStopComplete p s) := by
  dsimp only [execPlotStopComplete]
  split
  · exact kept
  split
  · exact kept
  · exact kept.modPlot.haltComplete.resumePlot.ite kept.modPlot.haltComplete

/-! ### Kufort ports and their messages -/

theorem State.KeptFrom.switchRoutes {k} : (s.switchRoutes k).KeptFrom o := kept.beside

theorem State.KeptFrom.portErr {k det} : (s.portErr k det).KeptFrom o := kept.raise

theorem State.KeptFrom.retrain {k} : (s.retrain k).KeptFrom o := kept.modKport.switchRoutes

theorem State.KeptFrom.declareDown {k} : (s.declareDown k).KeptFrom o :=
  kept.modKport.switchRoutes.portErr.forEach fun _ _ kept => kept.forEach fun _ _ kept => kept.resendMsg

theorem State.KeptFrom.portTrainingStateDone {k} : NextKept o (execPortTrainingStateDone k s) := by
  dsimp only [execPortTrainingStateDone]
  split
  · exact kept
  split
  · exact kept.modKport
  · exact kept.modKport
  · exact kept.modKport
  · split
    · exact kept.modKport
    · exact kept
  · exact kept

theorem State.KeptFrom.portStateBoundExceeded {k} : NextKept o (execPortStateBoundExceeded k s) := by
  dsimp only [execPortStateBoundExceeded]
  split
  · exact kept
  split
  · exact kept.declareDown
  · exact kept.modKport

theorem State.KeptFrom.codewordLockLost {k} : NextKept o (execCodewordLockLost k s) := by
  unfold execCodewordLockLost
  split
  · exact kept.modKport
  · exact kept

theorem State.KeptFrom.retraining {k} : NextKept o (execRetraining k s) := by
  dsimp only [execRetraining]
  split
  · exact kept.retrain
  · exact kept

theorem State.KeptFrom.portDeclaredDown {k} : NextKept o (execPortDeclaredDown k s) := by
  dsimp only [execPortDeclaredDown]
  split
  · exact kept.declareDown
  · exact kept

theorem State.KeptFrom.sendCtrl {k ftype payload f} : (s.sendCtrl k ftype payload f).KeptFrom o := kept.modKport

theorem State.KeptFrom.sendMessageFlit {k c f} : (s.sendMessageFlit k c f).KeptFrom o := kept.modKport

theorem State.KeptFrom.flitSend {k} : NextKept o (execFlitSend k s) := by
  dsimp only [execFlitSend]
  split
  · split
    · exact kept
    · exact kept.sendCtrl
  · split
    · exact kept
    · exact kept.sendCtrl
  · split
    · exact kept.sendCtrl
    · exact kept
  · split
    · exact kept.sendCtrl
    split
    · exact kept
    split
    · exact kept.sendCtrl
    split
    · exact kept.sendCtrl
    split
    · exact kept.modKport
    split
    · exact kept.sendMessageFlit
    · exact kept.sendCtrl
  · split
    · split
      · exact kept
      · exact kept.sendCtrl
    · exact kept
  · exact kept

theorem State.KeptFrom.flitReceive {k bytes corrected uncorrectable} :
    NextKept o (execFlitReceive k bytes corrected uncorrectable s) := by
  dsimp only [execFlitReceive]
  split
  · exact kept
  split
  · exact kept.modKport
  split
  · split
    · exact kept.modKport
    split
    · exact kept.modKport
    · exact kept.modKport
  · exact kept.modKport
  · exact kept.modKport

theorem State.KeptFrom.dropCtrl {k} : (s.dropCtrl k).KeptFrom o := kept.modKport

theorem State.KeptFrom.replayRequest {k} : NextKept o (execReplayRequest k s) := by
  unfold execReplayRequest
  split
  · exact kept
  · exact kept.dropCtrl.modKport.rowAdd

theorem State.KeptFrom.identityFlit {k} : NextKept o (execIdentityFlit k s) := by
  dsimp only [execIdentityFlit]
  split
  · exact kept
  split
  · exact kept.dropCtrl.modKport.modKport
  · exact kept.dropCtrl.modKport.modKport.portErr.switchRoutes

theorem State.KeptFrom.identityAnswerTimeout {k} : NextKept o (execIdentityAnswerTimeout k s) := by
  dsimp only [execIdentityAnswerTimeout]
  split
  · exact kept.retrain
  · exact kept

theorem State.KeptFrom.downFlit {k} : NextKept o (execDownFlit k s) := by
  unfold execDownFlit
  split
  · exact kept
  split
  · exact kept
  · exact kept.dropCtrl.declareDown

theorem State.KeptFrom.dropMsg {k c n} : (s.dropMsg k c n).KeptFrom o := kept.modKport

theorem State.KeptFrom.forward {m} : (s.forward m).KeptFrom o := kept.transportErr.ite kept.sendOn

theorem State.KeptFrom.badMessage {h} : (s.badMessage h).KeptFrom o := kept.transportErr

theorem State.KeptFrom.receive {k c mine f} (read : ∀ h m t, t.KeptFrom o → (f h m t).KeptFrom o) :
    (s.receive k c mine f).KeptFrom o := by
  unfold State.receive
  split
  · exact kept
  split
  · exact kept
  extract_lets h s1
  split
  · exact kept
  have kept1 : s1.KeptFrom o := kept.dropMsg
  split
  · exact kept1.forward
  split
  · exact kept1.badMessage
  · exact read _ _ _ kept1

theorem State.KeptFrom.noteReceived {h g} : (s.noteReceived h g).KeptFrom o := kept.beside

theorem State.KeptFrom.classed {h} {apply : State → State} (applies : ∀ t, t.KeptFrom o → (apply t).KeptFrom o) :
    (s.classed h apply).KeptFrom o := by
  unfold State.classed
  split
  · exact kept.badMessage
  extract_lets d
  split
  · exact applies _ kept
  split
  · exact kept.beside
  · exact kept.transportErr

theorem State.KeptFrom.dataOf {m} : (s.dataOf m).2.KeptFrom o := by
  dsimp only [State.dataOf]
  split
  · exact kept
  · exact kept.free

theorem State.KeptFrom.dataWrite {k} : NextKept o (execDataWrite k s) := by
  dsimp only [execDataWrite]
  refine kept.receive fun h m s kept => ?_
  split
  · exact kept.badMessage
  refine kept.classed fun s kept => ?_
  split
  · exact kept.dataOf.transportErr
  · exact kept.dataOf.writeRange.ite kept.dataOf.writeRange.noteReceived

theorem State.KeptFrom.token {k} : NextKept o (execToken k s) := by
  unfold execToken
  refine kept.receive fun h m s kept => ?_
  split
  · exact kept.badMessage
  refine kept.classed fun s kept => ?_
  extract_lets w t s1
  have kept1 : s1.KeptFrom o := kept.noteReceived
  exact kept1.beside

theorem State.KeptFrom.collectiveStep {k} : NextKept o (execCollectiveStep k s) := by
  unfold execCollectiveStep
  refine kept.receive fun h m s kept => ?_
  split
  · exact kept.badMessage
  · exact kept.raiseLead.ite kept.beside

theorem State.KeptFrom.openMsg {k} : NextKept o (execOpenMsg k s) := by
  unfold execOpenMsg
  refine kept.receive fun h m s kept => ?_
  split
  · exact kept.badMessage
  split
  · exact kept
  split
  · exact kept.sendOn
  · exact kept.sendOn.ite kept.beside.sendOn

theorem State.KeptFrom.grant {k} : NextKept o (execGrant k s) := by
  unfold execGrant
  refine kept.receive fun h m s kept => ?_
  exact kept.modTx.pump

theorem State.KeptFrom.refuse {k} : NextKept o (execRefuse k s) := by
  unfold execRefuse
  refine kept.receive fun h m s kept => ?_
  split
  · exact kept
  · exact kept.modTx.raiseLead

theorem State.KeptFrom.ack {k} : NextKept o (execAck k s) := by
  unfold execAck
  refine kept.receive fun h m s kept => ?_
  split
  · exact kept
  · exact kept.ite kept.modTx.mapPlots.pump

theorem State.KeptFrom.ackSend {node ch} : NextKept o (execAckSend node ch s) := by
  unfold execAckSend
  split
  · exact kept
  split
  · exact kept
  · exact kept.beside.sendOn

theorem State.KeptFrom.messageResend {node ch mseq} : NextKept o (execMessageResend node ch mseq s) := by
  unfold execMessageResend
  split
  · exact kept
  split
  · exact kept
  split
  · exact kept
  · exact kept.resendMsg

theorem State.KeptFrom.openResend {node ch} : NextKept o (execOpenResend node ch s) := by
  unfold execOpenResend
  split
  · exact kept
  split
  · exact kept
  · exact kept.sendOpen

theorem State.KeptFrom.stepColl {c r} : (s.stepColl c r).KeptFrom o := kept.beside

theorem State.KeptFrom.send {id} : NextKept o (execSend id s) := by
  unfold execSend
  split
  · split
    · exact kept
    split
    rename_i s1 e1
    have kept1 : s1.KeptFrom o := kept.imageValue.of_snd e1
    exact kept1.sendOn.stepColl
  · exact kept

theorem State.KeptFrom.recvStep {id op f} : (s.recvStep id op f).KeptFrom o := by
  unfold State.recvStep
  split
  · exact kept
  split
  · exact kept
  split
  · exact kept
  split
  · exact kept.beside.stepColl
  · exact kept.beside.raiseLead

theorem State.KeptFrom.recvadd {id} : NextKept o (execRecvadd id s) := kept.recvStep

theorem State.KeptFrom.recvset {id} : NextKept o (execRecvset id s) := kept.recvStep

/-! ### Rows, halts and step time -/

theorem State.KeptFrom.sendStep {node q flag} : (s.sendStep node q flag).KeptFrom o := kept.sendToken

theorem State.KeptFrom.rowMismatch {t} : (s.rowMismatch t).KeptFrom o := kept.engineTake.raiseLead

theorem State.KeptFrom.beginRound : s.beginRound.KeptFrom o := kept.beside

theorem State.KeptFrom.rowCompletion : NextKept o (execRowCompletion s) := by
  unfold execRowCompletion
  split
  · exact kept.beside.beginRound
  · exact kept

theorem State.KeptFrom.takeUps : s.takeUps.KeptFrom o := (kept.forEach fun _ _ kept => kept.engineTake).beside

theorem State.KeptFrom.stepUp : NextKept o (execStepUp s) := by
  unfold execStepUp
  split
  · exact kept
  split
  · exact kept.rowMismatch
  · exact kept
  split
  · exact kept
  · exact kept.takeUps.beside.sendStep

theorem State.KeptFrom.beginPart {p part} : (s.beginPart p part).KeptFrom o := kept.modSeq.seqAt

theorem State.KeptFrom.rowSamples : s.rowSamples.KeptFrom o := by
  unfold State.rowSamples
  extract_lets row got s1 s2 s3 s4
  have kept1 : s1.KeptFrom o := kept.forEach fun _ _ kept => kept.sample.sample
  have kept2 : s2.KeptFrom o := kept1.forEach fun _ _ kept => kept.sample.sample
  have kept3 : s3.KeptFrom o := kept2.forEach fun _ _ kept => kept.sample
  have kept4 : s4.KeptFrom o := by
    unfold s4
    split
    · exact kept3.forEach fun _ _ kept => kept.free.sample
    · exact kept3
  exact kept4.beside

theorem State.KeptFrom.waitSample : s.waitSample.KeptFrom o := by
  unfold State.waitSample
  split
  · exact kept
  · exact kept.sample

theorem State.KeptFrom.advance : s.advance.KeptFrom o := by
  unfold State.advance
  extract_lets s1 last atEnd row _ _ _ s2 s3
  have kept2 : s2.KeptFrom o := kept.waitSample.rowSamples.beside
  have kept3 : s3.KeptFrom o := kept2.ite (kept2.forEach fun _ _ kept => kept.traceDie)
  exact (kept3.forEach fun _ _ kept => kept.beginPart).sowBarrier

theorem State.KeptFrom.haltAtBoundary : s.haltAtBoundary.KeptFrom o := kept.beside.setPlan.noticeFrom

theorem State.KeptFrom.endRound {halt} : (s.endRound halt).KeptFrom o := by
  unfold State.endRound
  split
  · exact (kept.forEach fun _ _ kept => kept.sendStep).haltAtBoundary
  · exact (kept.forEach fun _ _ kept => kept.sendStep).advance

theorem State.KeptFrom.advanceStep : NextKept o (execAdvance s) := by
  unfold execAdvance
  split
  · exact kept
  split
  · split
    · exact kept.rowMismatch
    split
    · exact kept
    · exact kept.takeUps.endRound
  split
  · exact kept
  split
  · exact kept.rowMismatch
  split
  · exact kept
  · exact kept.engineTake.endRound

theorem State.KeptFrom.sendHalts {sender abort} : (s.sendHalts sender abort).KeptFrom o :=
  kept.ite (kept.forEach fun _ _ kept => kept.sendStep)

theorem State.KeptFrom.haltNow {sender} : (s.haltNow sender).KeptFrom o := by
  unfold State.haltNow
  split
  · exact (kept.setPlan.beside.forEach fun _ _ kept => kept.requestStop).sendHalts.haltComplete
  · exact kept.noticeFrom.ite kept
  · exact kept

theorem State.KeptFrom.haltToken : NextKept o (execHaltToken s) := by
  unfold execHaltToken
  split
  · exact kept
  split
  · exact kept
  split
  · exact kept.engineTake
  split
  · exact kept.engineTake.raiseLead
  · exact kept.engineTake.haltNow

theorem State.KeptFrom.jobAbort : NextKept o (execJobAbort s) := by
  unfold execJobAbort
  split
  · exact kept
  extract_lets _ s1 s2 _ _ _ s3
  have kept1 : s1.KeptFrom o := kept.beside
  split
  · exact kept
  split
  · exact kept1
  have kept2 : s2.KeptFrom o := kept1.forEach fun _ _ kept => kept.requestStop
  have kept3 : s3.KeptFrom o := kept2.beside
  exact kept3.sendHalts.endPlan.haltComplete

theorem State.KeptFrom.resumeJob : s.resumeJob.KeptFrom o := by
  unfold State.resumeJob
  split
  · exact kept.noticeFrom.setPlan.beginRound.sowBarrier
  · exact (kept.noticeFrom.setPlan.beside.forEach fun _ _ kept => kept.resumePlot).sowBarrier
  · exact kept

theorem State.KeptFrom.stepTimeout : NextKept o (execStepTimeout s) := by
  unfold execStepTimeout
  split
  · exact kept
  extract_lets q _ again
  have kept1 : again.KeptFrom o := kept.beside
  split
  · exact kept1.raiseLead
  · exact kept1.raiseLead.dump
  · split
    rename_i taken s1 dumped
    have kept2 : s1.KeptFrom o := kept1.dump.of_snd dumped
    split
    · exact kept2.beside
    · exact kept2.raiseLead
  · exact kept

/-! ### The event recorder and the black box -/

theorem State.KeptFrom.applyChange {c} : (s.applyChange c).KeptFrom o := by
  unfold State.applyChange
  split
  · exact kept.beside
  split
  · split
    · exact kept.modHalf.forEach fun _ _ kept => kept.traceOn
    · exact (kept.modHalf.forEach fun _ _ kept => kept.traceOn).irqEvent
  · exact kept.modHalf

theorem State.KeptFrom.change {c} : (s.change c).KeptFrom o := by
  unfold State.change
  split
  · exact kept.applyChange
  · exact kept.beside.ite kept.beside

theorem State.KeptFrom.applyStaged : s.applyStaged.KeptFrom o := kept.beside.forEach fun _ _ kept => kept.applyChange

theorem State.KeptFrom.freshRecord {h r} : (s.freshRecord h r).2.KeptFrom o := (kept.modHalf.ite kept).change

theorem State.KeptFrom.record {h e} : (s.record h e).2.KeptFrom o := by
  dsimp only [State.record]
  split
  · split
    · exact kept.change
    · exact kept.freshRecord
  · exact kept.freshRecord

theorem State.KeptFrom.bbWrite {off b} : (s.bbWrite off b).KeptFrom o := kept.beside

theorem State.KeptFrom.startFlush {t sev code} : (s.startFlush t sev code).KeptFrom o := kept.beside

theorem State.KeptFrom.triggerFlush {t sev code} : (s.triggerFlush t sev code).KeptFrom o := by
  unfold State.triggerFlush
  split
  · exact kept
  · exact kept.beside.ite kept.startFlush

theorem State.KeptFrom.setFlushing {f} : { s with evr := { s.evr with flushing := f } }.KeptFrom o := kept.beside

theorem State.KeptFrom.abandonFlush : s.abandonFlush.KeptFrom o := by
  unfold State.abandonFlush
  split
  · exact kept
  split
  rename_i v s1 drawn
  have kept1 : s1.KeptFrom o := kept.free.of_snd drawn
  extract_lets slot image s2
  have kept2 : s2.KeptFrom o := kept1.bbWrite.bbWrite
  exact kept2.setFlushing

theorem State.KeptFrom.recordPending {h} : (s.recordPending h).KeptFrom o := kept.modHalf.forEach fun _ _ kept => kept.record

theorem State.KeptFrom.enterFallow : s.enterFallow.KeptFrom o := by
  unfold State.enterFallow
  extract_lets s1 _ _ _ _ _ s2
  have kept1 : s1.KeptFrom o := kept.abandonFlush.applyStaged
  have kept2 : s2.KeptFrom o := kept1.beside
  exact kept2.recordPending.recordPending.setSbd

theorem State.KeptFrom.moduleFatal : NextKept o (execModuleFatal s) := by
  dsimp only [execModuleFatal]
  split
  · exact kept
  split
  · exact kept.enterFallow.beside
  · exact kept.enterFallow.beside
  · exact kept.enterFallow.beside.startFlush

theorem State.KeptFrom.flushPathError : NextKept o (execFlushPathError s) := by
  unfold execFlushPathError
  extract_lets was
  split
  · exact kept
  split
  rename_i v s1 drawn
  have kept1 : s1.KeptFrom o := kept.free.of_snd drawn
  extract_lets s2 _ e
  have kept2 : s2.KeptFrom o := kept1.abandonFlush.applyStaged.ite kept1.enterFallow
  split
  rename_i n s3 recorded
  have kept3 : s3.KeptFrom o := kept2.record.of_snd recorded
  extract_lets s4 _ s5 code
  have kept5 : s5.KeptFrom o := State.KeptFrom.beside (s := s4) kept3.modHalf
  exact kept5.bbWrite.ite kept5

theorem State.KeptFrom.errorEffect {e} : (s.errorEffect e).KeptFrom o := by
  unfold State.errorEffect
  split
  · split
    · exact kept
    · exact kept.beside.ite kept.beside.haltNow
    · exact kept.beside.beside
    · exact kept.beside.beside
  split
  · exact kept
  · exact kept.beside.ite kept.beside.haltNow
  · exact kept.beside.beside
  · exact kept.beside.beside

theorem State.KeptFrom.handle {h e} : (s.handle h e).KeptFrom o := by
  unfold State.handle
  split
  rename_i s1 e1
  have kept1 : s1.KeptFrom o := kept.record.of_snd e1
  split
  · exact kept1
  · exact kept1.errorEffect.modHalf.ite kept1.errorEffect.modHalf.triggerFlush

theorem State.KeptFrom.enqueue {h e} : (s.enqueue h e).KeptFrom o := kept.modHalf.ite kept.beside

theorem State.KeptFrom.takeUp {h e} : (s.takeUp h e).KeptFrom o := by
  unfold State.takeUp
  split
  · exact kept.handle.ite kept.enqueue
  split
  · split
    · exact kept.change
    · exact kept
  split
  · refine State.KeptFrom.handle ?_
    split
    · exact kept.change
    · exact kept
  · exact kept.enqueue

theorem State.KeptFrom.errorRecord {h} : NextKept o (execErrorRecord h s) := by
  unfold execErrorRecord
  split
  · exact kept
  · exact kept.modHalf.takeUp

theorem State.KeptFrom.pendingError {h} : NextKept o (execPendingError h s) := by
  unfold execPendingError
  split
  · exact kept.modHalf.handle
  · exact kept

theorem State.KeptFrom.startFollow : s.startFollow.KeptFrom o := by
  unfold State.startFollow
  split
  · exact kept
  · exact kept.beside.modHalf.modHalf.startFlush

theorem State.KeptFrom.flushEnds {n} :
    ({ s with evr := { s.evr with flushing := none, nextseq := n } }.irqEvent 1).KeptFrom o :=
  State.KeptFrom.irqEvent kept.beside

theorem State.KeptFrom.flushDone : NextKept o (execFlushDone s) := by
  unfold execFlushDone
  split
  · exact kept
  extract_lets _ _ _ s1 _ s2 s3
  have kept1 : s1.KeptFrom o := kept.bbWrite.bbWrite.bbWrite
  have kept2 : s2.KeptFrom o := kept1.flushEnds
  have kept3 : s3.KeptFrom o := kept2.applyStaged.modHalf.modHalf
  clear_value s3
  split
  · exact kept3.beside
  · exact kept3.startFollow

theorem State.KeptFrom.setErase {e} : { s with evr := { s.evr with erase := e } }.KeptFrom o := kept.beside

theorem State.KeptFrom.blackBoxEraseStep : NextKept o (execBlackBoxEraseStep s) := by
  unfold execBlackBoxEraseStep
  split
  · exact kept
  · exact kept
  · extract_lets s1 s2
    have kept1 : s1.KeptFrom o := kept.bbWrite.bbWrite
    have kept2 : s2.KeptFrom o := kept1.forEach fun _ _ kept => kept.bbWrite
    exact kept2.setErase
  · extract_lets s1
    have kept1 : s1.KeptFrom o := kept.bbWrite
    clear_value s1
    split
    · exact State.KeptFrom.startFollow kept1.beside
    · exact kept1.beside
  · extract_lets s1
    have kept1 : s1.KeptFrom o := kept.forEach fun _ _ kept => kept.bbWrite
    exact kept1.setErase.startFollow

/-! ### The start of a plan -/

theorem State.KeptFrom.emptySync : s.emptySync.KeptFrom o := kept.beside

theorem State.KeptFrom.clearPlan : s.clearPlan.KeptFrom o := by
  unfold State.clearPlan
  exact State.KeptFrom.setPlan kept.emptySync.beside

theorem State.KeptFrom.loadFail {n obj} : (s.loadFail n obj).KeptFrom o := kept.beside.setPlan.raiseLead

theorem State.KeptFrom.startFatal {code obj det} : (s.startFatal code obj det).KeptFrom o := kept.raiseLead

theorem State.KeptFrom.countReserve : s.countReserve.KeptFrom o := kept.beside

theorem State.KeptFrom.beginPlot {p row} : (s.beginPlot p row).KeptFrom o := kept.modSeq.seqAt

theorem State.KeptFrom.beginRows {row restart} : (s.beginRows row restart).KeptFrom o := by
  unfold State.beginRows
  split
  · exact (kept.countReserve.beside.setPlan.forEach fun _ _ kept => kept.beginPlot).sowBarrier
  · exact kept.countReserve.beside.setPlan.forEach fun _ _ kept => kept.beginPlot

/-! ### Rows of memory and its packages -/

theorem State.KeptFrom.ringTransfer {link ascending crcOk} :
    NextKept o (execRingTransfer link ascending crcOk s) := by
  dsimp only [execRingTransfer]
  split
  · split
    · exact kept.beside.raise
    · exact kept.beside
  split
  · exact kept.beside.raise
  · exact kept.beside

theorem State.KeptFrom.scrubRead {addr wrongBytes} : NextKept o (execScrubRead addr wrongBytes s) := by
  dsimp only [execScrubRead]
  split
  · exact kept
  · exact kept.inject.homeRead.modDie

theorem State.KeptFrom.modPkg {p f} : (s.modPkg p f).KeptFrom o := kept.beside

theorem State.KeptFrom.mr4Read {pkg demand} : NextKept o (execMr4Read pkg demand s) := kept.modPkg

theorem State.KeptFrom.pkgErr {pkg code sev t} : (s.pkgErr pkg code sev t).KeptFrom o := kept.raise

theorem State.KeptFrom.packageSensorReading {pkg tenths} : NextKept o (execPackageSensorReading pkg tenths s) := by
  dsimp only [execPackageSensorReading]
  split
  · exact kept.modPkg
  split
  · exact kept.modPkg.pkgErr
  split
  · exact kept.modPkg.pkgErr
  · exact kept.modPkg

theorem State.KeptFrom.refreshStepFall {pkg} : NextKept o (execRefreshStepFall pkg s) := by
  dsimp only [execRefreshStepFall]
  split
  · exact kept
  split
  · exact kept.modPkg
  · exact kept

theorem State.KeptFrom.packageSensorTimeout {pkg} : NextKept o (execPackageSensorTimeout pkg s) := by
  unfold execPackageSensorTimeout
  split
  · exact kept.modPkg
  · exact kept.modPkg.raise

theorem State.KeptFrom.clearSlice {k} : (s.clearSlice k).KeptFrom o := kept.beside

theorem State.KeptFrom.sliceModeDone {d} : (s.sliceModeDone d).KeptFrom o := by
  unfold State.sliceModeDone
  split
  · exact kept
  · exact ((kept.forEach fun _ _ kept => kept.writeBack).forEach fun _ _ kept => kept.clearSlice).modDie.modTrace

/-! ### Feeds, copies and restarts -/

theorem State.KeptFrom.sendBuddy {type node p} : (s.sendBuddy type node p).KeptFrom o := kept.sendToken

theorem State.KeptFrom.beginPairing {f} : (s.beginPairing f).KeptFrom o := kept.beside.sendBuddy

theorem State.KeptFrom.afterFeed {f} : (s.afterFeed f).KeptFrom o := by
  unfold State.afterFeed
  split
  · exact kept
  · exact kept.beside.ite kept.beginRows

theorem State.KeptFrom.pairWith {f mode} : (s.pairWith f mode).KeptFrom o := kept.beside.afterFeed

theorem State.KeptFrom.sameFeed {f sev} : (s.sameFeed f sev).KeptFrom o := kept.raiseLead

theorem State.KeptFrom.settleFeed {f reply} : (s.settleFeed f reply).KeptFrom o := by
  dsimp only [State.settleFeed]
  split
  · split
    · exact kept.beside.pairWith
    split
    · exact kept.beside.sameFeed.pairWith
    · exact kept.beside.sameFeed.pairWith
    · exact kept.beside.sameFeed
  split
  · exact kept.beside.pairWith
  split
  · exact kept.beside.sameFeed.pairWith
  · exact kept.beside.sameFeed.pairWith
  · exact kept.beside.sameFeed

/-- What a queue of the engine gives up is a token. -/
theorem State.KeptFrom.takeBuddy {mine t s1} (taken : s.takeBuddy mine = some (t, s1)) : s1.KeptFrom o := by
  unfold State.takeBuddy at taken
  split at taken
  · split at taken
    · cases taken
      exact kept.engineTake
    · cases taken
  · cases taken

theorem State.KeptFrom.feedquery : NextKept o (execFeedquery s) := by
  unfold execFeedquery
  split
  · exact kept
  rename_i t s1 taken
  have kept1 : s1.KeptFrom o := kept.takeBuddy taken
  split
  · exact kept1.noticeFrom
  extract_lets
  split
  · exact kept1
  · exact kept1.sendBuddy

theorem State.KeptFrom.feedreply : NextKept o (execFeedreply s) := by
  unfold execFeedreply
  split
  · exact kept
  rename_i t s1 taken
  have kept1 : s1.KeptFrom o := kept.takeBuddy taken
  split
  · exact kept1
  · exact kept1.settleFeed

theorem State.KeptFrom.feedCheckTimeout : NextKept o (execFeedCheckTimeout s) := by
  unfold execFeedCheckTimeout
  split
  · exact kept
  split
  · exact kept
  · exact kept.settleFeed

theorem State.KeptFrom.readState {ext} : (s.readState ext).2.KeptFrom o := by
  refine kept.foldl_snd fun acc x kept => ?_
  split
  · exact kept
  split
  · rename_i s1 read
    exact kept.readRange.of_snd read
  · rename_i s1 read
    exact kept.readRange.of_snd read

theorem State.KeptFrom.sendBlock {node ch ann a b} : (s.sendBlock node ch ann a b).KeptFrom o :=
  kept.foldl fun _ _ kept => kept.sendData

theorem State.KeptFrom.buddyCopy : NextKept o (execBuddyCopy s) := by
  unfold execBuddyCopy
  split
  · split
    · exact kept
    split
    rename_i s1 e1
    have kept1 : s1.KeptFrom o := kept.readState.of_snd e1
    split
    · exact kept1
    split
    · exact kept1.beside
    · exact kept1.beside.sendBlock.sendBlock
    · exact kept
  · exact kept

theorem State.KeptFrom.buddyCopyHeader : NextKept o (execBuddyCopyHeader s) := by
  unfold execBuddyCopyHeader
  split
  · split
    · exact kept
    split
    · exact kept.beside
    · exact kept.beside.sendBlock
  · exact kept

theorem State.KeptFrom.beginReturn {owner target} : (s.beginReturn owner target).KeptFrom o := by
  dsimp only [State.beginReturn]
  split
  · exact kept.beside
  · exact kept.beside

theorem State.KeptFrom.endReturn {r} : (s.endReturn r).KeptFrom o := kept.beside

theorem State.KeptFrom.returnProgress : NextKept o (execReturnProgress s) := by
  unfold execReturnProgress
  split
  · exact kept
  split
  · exact kept
  split
  · exact kept.endReturn
  split
  · split
    · exact kept.endReturn
    · exact kept
  extract_lets p die head bytes ext flt parts
  split
  rename_i t s1 taken
  have kept1 : s1.KeptFrom o := kept.takeTseq.of_snd taken
  extract_lets ann s2
  have kept2 : s2.KeptFrom o := kept1.sendBlock
  split
  rename_i s3 _ sent
  have kept3 : s3.KeptFrom o := by
    refine State.KeptFrom.of_fst (kept2.foldl_fst fun acc x kept => ?_) sent
    split
    · rename_i read
      exact (kept.readRange.of_snd read).sendBlock
    · rename_i read
      exact (kept.readRange.of_snd read).endReturn
  split
  · exact kept3
  split
  rename_i s4 ended
  have kept4 : s4.KeptFrom o := kept3.sendTokenSeq.of_snd ended
  exact kept4.beside

theorem State.KeptFrom.returndone : NextKept o (execReturndone s) := by
  unfold execReturndone
  split
  · exact kept
  rename_i t s1 taken
  have kept1 : s1.KeptFrom o := kept.takeBuddy taken
  split
  · exact kept1.noticeFrom
  extract_lets head ext
  split
  rename_i st s2 read
  have kept2 : s2.KeptFrom o := kept1.readState.of_snd read
  extract_lets digest
  split
  · exact State.KeptFrom.beginRows kept2.beside
  · exact State.KeptFrom.startFatal kept2.beside

theorem State.KeptFrom.pairForStart {h row restart restore} : (s.pairForStart h row restart restore).KeptFrom o := by
  unfold State.pairForStart
  split
  · exact kept.startFatal
  split
  · exact kept.startFatal
  split
  · exact kept.startFatal.ite kept.beginRows
  split
  · exact kept.startFatal
  · exact kept.beginPairing

theorem State.KeptFrom.loadHeader {h act d} :
    { s with job := { s.job with hdr := h, active := act }, sbd := { s.sbd with planDigest := d } }.KeptFrom o := kept.beside

theorem State.KeptFrom.loadRoutes {j t} :
    { s with job := { s.job with loaderr := j }, kuf := { s.kuf with route := t } }.KeptFrom o := kept.beside

theorem State.KeptFrom.setRoutes {t} : { s with kuf := { s.kuf with route := t } }.KeptFrom o := kept.beside

theorem State.KeptFrom.runChecks {restart} : (s.runChecks restart).KeptFrom o := by
  unfold State.runChecks
  split
  · exact kept.loadFail
  extract_lets h act _ _ s1
  have kept1 : s1.KeptFrom o := kept.loadHeader
  clear_value s1
  split
  · exact kept1.loadRoutes.startFatal
  extract_lets s2
  have kept2 : s2.KeptFrom o := kept1.setRoutes.identityRequests
  split
  · exact kept2.pairForStart
  · exact kept2.pairForStart

theorem State.KeptFrom.startPlan : s.startPlan.KeptFrom o := kept.beside.clearPlan.ite kept.beside.clearPlan.runChecks

theorem State.KeptFrom.restartPlan {restore} : (s.restartPlan restore).KeptFrom o := by
  unfold State.restartPlan
  extract_lets _ s1
  have kept1 : s1.KeptFrom o := kept.beside.clearPlan
  split
  · exact kept1.beside
  · exact kept1.runChecks

theorem State.KeptFrom.setPairing : s.setPairing.KeptFrom o := by
  unfold State.setPairing
  split
  · exact kept
  split
  · exact kept
  split
  · exact kept.noticeFrom
  · exact kept.beginPairing

theorem State.KeptFrom.abortPlan : s.abortPlan.KeptFrom o := kept.forEach fun _ _ kept => kept.fatal

theorem State.KeptFrom.layoutInitDone : s.layoutInitDone.KeptFrom o := by
  dsimp only [State.layoutInitDone]
  split
  · exact kept
  split
  · split
    · exact kept.beside.runChecks
    refine State.KeptFrom.runChecks ?_
    exact kept.beside
  · exact kept.beside

/-! ### Power and heat -/

theorem State.KeptFrom.decideCode {i} : (s.decideCode i).KeptFrom o := kept.beside

theorem State.KeptFrom.eventEnergy : s.eventEnergy.2.KeptFrom o := kept.foldl_snd fun _ _ kept => kept.beside.count

theorem State.KeptFrom.stripEnergy {i} : (s.stripEnergy i).2.KeptFrom o := kept.foldl_snd fun _ _ kept => kept.beside.count

theorem State.KeptFrom.energyInterval : s.energyInterval.KeptFrom o := by
  unfold State.energyInterval
  split
  rename_i e1 s1 first
  have kept1 : s1.KeptFrom o := kept.eventEnergy.of_snd first
  split
  rename_i e2 s2 second
  have kept2 : s2.KeptFrom o := by
    refine State.KeptFrom.of_snd (kept1.foldl_snd fun acc i kept => ?_) second
    exact kept.stripEnergy
  exact kept2.beside

theorem State.KeptFrom.packageStep {d} : (s.packageStep d).KeptFrom o := by
  dsimp only [State.packageStep]
  split
  · exact kept.beside
  · exact kept.beside.ite kept.beside

theorem State.KeptFrom.setLevel : s.setLevel.KeptFrom o := kept.beside.beside

theorem State.KeptFrom.checkUnmet {w} : (s.checkUnmet w).KeptFrom o := by
  unfold State.checkUnmet
  split
  · exact kept.beside
  · exact kept.beside.noticeFrom.ite kept.beside

theorem State.KeptFrom.readTemps {r} : (s.readTemps r).KeptFrom o := kept.forEach fun _ _ kept => kept.modStrip

theorem State.KeptFrom.powerControlPeriod {r} : NextKept o (execPowerControlPeriod r s) := by
  unfold execPowerControlPeriod
  extract_lets w hist win win16 _ s1 tgt s2 s3 s4
  split
  · exact kept
  split
  · exact kept.readTemps.ite kept
  have kept1 : s1.KeptFrom o := kept.beside
  have kept2 : s2.KeptFrom o := kept1.forEach fun _ _ kept => kept.modStrip
  have kept3 : s3.KeptFrom o := (kept2.forEach fun _ _ kept => kept.packageStep).setLevel
  have kept4 : s4.KeptFrom o := kept3.forEach fun _ _ kept => kept.decideCode.modStrip.rowAdd.ite kept.decideCode.modStrip
  exact kept4.checkUnmet.energyInterval

theorem State.KeptFrom.modelDeviationCheck : NextKept o (execModelDeviationCheck s) := by
  dsimp only [execModelDeviationCheck]
  split
  · exact kept
  split
  · split
    · exact kept.beside.noticeFrom
    · exact kept.beside
  split
  · exact kept.beside.noticeFrom
  · exact kept.beside

theorem State.KeptFrom.countStrip {i ev n} : (s.countStrip i ev n).KeptFrom o := kept.forEach fun _ _ kept => kept.count

theorem State.KeptFrom.frequencyChangeStart {i} : NextKept o (execFrequencyChangeStart i s) := by
  dsimp only [execFrequencyChangeStart]
  split
  · exact kept
  · exact kept.modStrip.countStrip

theorem State.KeptFrom.railSlewDone {d} : NextKept o (execRailSlewDone d s) := by
  unfold execRailSlewDone
  split
  · exact kept
  · exact kept.beside.forEach fun _ _ kept => kept.modStrip

theorem State.KeptFrom.stripRestart {i} : NextKept o (execStripRestart i s) := by
  dsimp only [execStripRestart]
  split
  · exact kept
  split
  · exact kept
  · exact kept.modStrip.traceDie

theorem State.KeptFrom.supplyDroop {i cycles} : NextKept o (execSupplyDroop i cycles s) := by
  unfold execSupplyDroop
  split
  · exact kept
  · exact kept.rowAdd.countStrip

theorem State.KeptFrom.coreRailLow {d} : NextKept o (execCoreRailLow d s) := by
  unfold execCoreRailLow
  split
  · exact kept
  · exact kept.raise

theorem State.KeptFrom.thermalTrip {i tenths} : NextKept o (execThermalTrip i tenths s) := by
  unfold execThermalTrip
  split
  · exact kept
  split
  · exact kept.beside.modStrip
  · exact kept.beside.modStrip.raise

theorem State.KeptFrom.envelopeReading {millivolts} : NextKept o (execEnvelopeReading millivolts s) := by
  dsimp only [execEnvelopeReading]
  split
  · exact kept.beside
  split
  · exact kept.beside
  · exact kept

theorem State.KeptFrom.envelopeInvalidTimeout : NextKept o (execEnvelopeInvalidTimeout s) := by
  unfold execEnvelopeInvalidTimeout
  split
  · exact kept
  · exact kept.beside.noticeFrom

theorem State.KeptFrom.tillingIntensityStep {p} : NextKept o (execTillingIntensityStep p s) := by
  dsimp only [execTillingIntensityStep]
  split
  · exact kept
  · exact kept.modPlot

theorem State.KeptFrom.sowingSlot {i} : NextKept o (execSowingSlot i s) := kept.forEach fun _ _ kept => kept.modSeq

theorem State.KeptFrom.feedIdChange {v} : NextKept o (execFeedIdChange v s) := by
  dsimp only [execFeedIdChange]
  split
  · exact kept.beside.notice
  · exact kept.beside

/-! ### Values of registers -/

theorem State.KeptFrom.takeValue {r} : (s.takeValue r).2.KeptFrom o := by
  unfold State.takeValue
  extract_lets s1
  have kept1 : s1.KeptFrom o := by
    unfold s1
    split
    · exact kept.settle
    · exact kept
  split
  · split
    rename_i v s2 drawn
    exact kept1.free.of_snd drawn
  · exact kept1

theorem State.KeptFrom.clearReg {r} : (s.clearReg r).KeptFrom o := by
  unfold State.clearReg
  split
  · exact kept.beside
  · exact kept.beside
  · exact kept.modKport
  · exact kept.modKport
  · exact kept.modKport
  · exact kept.modKport
  · exact kept.beside
  · exact kept.beside
  · exact kept.beside
  · exact kept.beside
  · exact kept.beside
  · exact kept.modPci
  · exact kept.modDie
  · exact kept.modDie
  · exact kept.modUnit
  · exact kept.modTrace
  · exact kept.modPlot
  · exact kept.modPlot
  · exact kept.modPlot
  · exact kept.modPlot
  · exact kept

theorem State.KeptFrom.storeReg {r v} : (s.storeReg r v).KeptFrom o := by
  cases r
  case cntsel | cnttag => exact kept.settle.beside
  case irqen h | win h _ | msix h _ => cases h <;> exact kept.beside
  all_goals exact kept.beside

/-! ### Start-up, flash and resets -/

theorem State.KeptFrom.storeCfg {t v} : (s.storeCfg t v).KeptFrom o := by
  unfold State.storeCfg
  split
  · exact kept.beside
  · exact kept.beside
  · exact kept.forEach fun _ _ kept => kept.modKport
  · exact kept.storeReg
  · exact kept.storeReg
  · exact kept

theorem State.KeptFrom.defaulted {off v} : (s.defaulted off v).KeptFrom o := kept.notice

theorem State.KeptFrom.cfgNotices {off bad} : (s.cfgNotices off bad).KeptFrom o := by
  unfold State.cfgNotices
  split
  · exact kept.forEach fun _ _ kept => kept.defaulted
  · exact (kept.forEach fun _ _ kept => kept.defaulted).beside

omit kept in
theorem State.KeptFrom.loadCfgWord {x : List W32 × State} {i} (kept : x.2.KeptFrom o) : (State.loadCfgWord x i).2.KeptFrom o :=
  kept.storeCfg.cfgNotices

omit kept in
theorem State.KeptFrom.loadTimingWord {x : List W32 × State} {i} (kept : x.2.KeptFrom o) :
    (State.loadTimingWord x i).2.KeptFrom o := by
  unfold State.loadTimingWord
  extract_lets
  refine State.KeptFrom.cfgNotices ?_
  split
  · exact kept.beside
  · exact kept

theorem State.KeptFrom.checkSeedLayout : s.checkSeedLayout.KeptFrom o := by
  unfold State.checkSeedLayout
  split
  · exact kept
  · exact kept.beside.cfgNotices

theorem State.KeptFrom.loadConfig : s.loadConfig.KeptFrom o := by
  unfold State.loadConfig
  split
  rename_i ws1 s1 control
  have kept1 : s1.KeptFrom o := (kept.foldl_snd fun _ _ kept => kept.loadCfgWord).of_snd control
  split
  rename_i ws2 s2 timing
  have kept2 : s2.KeptFrom o := (kept1.foldl_snd fun _ _ kept => kept.loadTimingWord).of_snd timing
  exact kept2.checkSeedLayout.beside

omit kept in
theorem State.KeptFrom.loadCurve {x : List Byte × State} {d} (kept : x.2.KeptFrom o) : (loadCurve x d).2.KeptFrom o := by
  unfold Machine.loadCurve
  extract_lets base step
  split
  rename_i b s1 loaded
  have kept1 : s1.KeptFrom o := by
    refine State.KeptFrom.of_snd (State.KeptFrom.foldl_snd (s := x.2) (b := x.1) kept fun y j kept => ?_) loaded
    exact kept.forEach fun _ _ kept => kept.defaulted
  split
  · exact kept1
  · exact kept1.defaulted

omit kept in
theorem State.KeptFrom.loadCalField {x :
    List Byte × State} {f} (kept : x.2.KeptFrom o) : (loadCalField x f).2.KeptFrom o := by
  unfold Machine.loadCalField
  split
  split
  · exact kept
  · exact kept.defaulted

theorem State.KeptFrom.loadCalib : s.loadCalib.KeptFrom o := by
  unfold State.loadCalib
  extract_lets b _ s1
  split
  · split
    rename_i b1 s2 curves
    have kept2 : s2.KeptFrom o := (kept.foldl_snd fun _ _ kept => kept.loadCurve).of_snd curves
    split
    rename_i b2 s3 fields
    have kept3 : s3.KeptFrom o := (kept2.foldl_snd fun _ _ kept => kept.loadCalField).of_snd fields
    exact kept3.beside
  · have kept1 : s1.KeptFrom o := kept.beside
    exact kept1.raiseLead

theorem State.KeptFrom.cutFlash : s.cutFlash.KeptFrom o := by
  unfold State.cutFlash
  split
  · exact kept
  rename_i f _
  extract_lets _ s1
  have kept1 : s1.KeptFrom o := kept.beside
  refine kept1.ite ?_
  rcases drawn : s1.free with ⟨v, s2⟩
  have kept2 : s2.KeptFrom o := kept1.free.of_snd drawn
  exact kept2.ite kept2.beside

theorem State.KeptFrom.cutErase : s.cutErase.KeptFrom o := by
  unfold State.cutErase
  split
  · exact kept
  split
  rename_i s1 e1
  have kept1 : s1.KeptFrom o := kept.free.of_snd e1
  exact (kept1.forEach fun _ _ kept => kept.bbWrite).beside

theorem State.KeptFrom.rebooted : s.rebooted.KeptFrom o := kept.beside

theorem State.KeptFrom.moduleReset : s.moduleReset.KeptFrom o := kept.rebooted.ite kept

theorem State.KeptFrom.portReset {h} : (s.portReset h).KeptFrom o := kept.modPci

theorem State.KeptFrom.moduleResetStep : NextKept o (execModuleReset s) := kept.moduleReset

theorem State.KeptFrom.perstBoth : NextKept o (execPerstBoth s) := kept.beside.moduleReset

theorem State.KeptFrom.perstOne {h high} : NextKept o (execPerstOne h high s) := kept.beside.ite kept.beside.portReset

theorem State.KeptFrom.powerFail : s.powerFail.KeptFrom o := kept.ite kept.raiseLead

theorem State.KeptFrom.pwrFailN {high} : NextKept o (execPwrFailN high s) := by
  dsimp only [execPwrFailN]
  split
  · exact kept.beside
  split
  · exact kept.beside.powerFail
  split
  · exact kept.beside.rebooted.ite kept.beside
  · exact kept.beside.rebooted.ite kept.beside

theorem State.KeptFrom.supplyFailureThreshold : NextKept o (execSupplyFailureThreshold s) :=
  kept.beside.ite kept.beside.powerFail

theorem State.KeptFrom.holdUpEnd : NextKept o (execHoldUpEnd s) := by
  unfold execHoldUpEnd
  split
  · exact kept
  · exact kept.abandonFlush.cutErase.cutFlash.portReset.portReset.beside

theorem State.KeptFrom.supplyRise : NextKept o (execSupplyRise s) := by
  unfold execSupplyRise
  split
  · exact kept
  · exact kept.beside.rebooted.ite kept.beside

theorem State.KeptFrom.toStep {n} : (s.toStep n).KeptFrom o := kept.beside

theorem State.KeptFrom.loadNextseq : s.loadNextseq.KeptFrom o := by
  unfold State.loadNextseq
  split
  · exact kept.beside
  · exact kept.beside.beside

theorem State.KeptFrom.powerStrips : s.powerStrips.KeptFrom o := kept.beside

theorem State.KeptFrom.initMemory : s.initMemory.KeptFrom o := kept.beside

theorem State.KeptFrom.initSlices : s.initSlices.KeptFrom o :=
  (kept.forEach fun _ _ kept => kept.clearSlice).forEach fun _ _ kept => kept.modKport

theorem State.KeptFrom.setPwr {p} : { s with pwr := p }.KeptFrom o := kept.beside

theorem State.KeptFrom.becomeReady : s.becomeReady.KeptFrom o := by
  unfold State.becomeReady
  extract_lets s1 f _ s2 v
  have kept1 : s1.KeptFrom o := kept.forEach fun _ _ kept => kept.decideCode
  have kept2 : s2.KeptFrom o := kept1.setPwr
  exact kept2.setPwr.setSbd

theorem State.KeptFrom.stepEnds : s.stepEnds.KeptFrom o := by
  unfold State.stepEnds
  split
  · exact kept.toStep
  · exact kept.beside.toStep
  · exact kept.toStep
  · exact kept.toStep
  · exact (kept.sbd (by rw [Sbd.readImage_fuses, Sbd.readImage_fuses])).toStep
  · exact kept.toStep.ite kept
  · exact kept.loadNextseq.toStep
  · exact kept.loadConfig.loadCalib.toStep
  · exact kept.powerStrips.toStep.ite kept
  · exact kept.toStep
  · exact kept.initMemory.toStep
  · exact kept.initSlices.toStep
  · exact kept.becomeReady
  · exact kept

theorem State.KeptFrom.startupStepDone : NextKept o (execStartupStepDone s) := kept.stepEnds.ite kept

theorem State.KeptFrom.startupStepOverrun : NextKept o (execStartupStepOverrun s) := by
  dsimp only [execStartupStepOverrun]
  split
  · exact kept
  split
  · exact kept.beside
  · exact kept.raiseLead

theorem State.KeptFrom.thermTripRelease : NextKept o (execThermTripRelease s) := by
  unfold execThermTripRelease
  split
  · exact kept.beside
  · exact kept

theorem State.KeptFrom.recover {reason} : (s.recover reason).KeptFrom o := kept.beside.setSbd

theorem State.KeptFrom.halfArbitration {timeout} : NextKept o (execHalfArbitration timeout s) := by
  unfold execHalfArbitration
  split
  · exact kept
  split
  · exact kept.recover
  have latched (h : Half) : { s with sbd := s.sbd.latch h }.KeptFrom o := kept.sbd (Sbd.latch_fuses ..)
  split
  · exact latched _
  · exact (latched _).ite kept
  · exact (latched _).ite kept
  · exact kept.recover

theorem State.KeptFrom.changeLead {h} : (s.changeLead h).KeptFrom o := kept.raise.beside

theorem State.KeptFrom.watchdogExpiry {h} : NextKept o (execWatchdogExpiry h s) := by
  unfold execWatchdogExpiry
  split
  · exact kept
  extract_lets x s1
  have fuses : x.fuses = s.sbd.fuses := Sbd.readImage_fuses ..
  clear_value x
  have read : s1.KeptFrom o := kept.beside fuses
  split
  · split
    · exact read
    split
    · exact read.changeLead
    · exact read.beside
  · exact kept.beside ((Sbd.setCopy_fuses ..).trans fuses)
  · exact read

theorem State.KeptFrom.leadChange : NextKept o (execLeadChange s) := by
  unfold execLeadChange
  split
  · exact kept.changeLead.ite kept
  · exact kept

theorem State.KeptFrom.flashEnds {result} : (s.flashEnds result).KeptFrom o := kept.beside

theorem State.KeptFrom.flashStore {f fl ok} : (s.flashStore f fl ok).KeptFrom o := by
  unfold State.flashStore
  split
  · exact State.KeptFrom.flashEnds kept.beside
  · exact kept.beside.cutFlash.flashEnds

theorem State.KeptFrom.pushDone {h program ok} : (s.pushDone h program ok).KeptFrom o := by
  unfold State.pushDone
  extract_lets f _ s1 half
  split
  · exact kept.beside.recover
  have kept1 : s1.KeptFrom o := by
    unfold s1
    split
    · exact kept.flashStore
    · exact kept.beside
  refine State.KeptFrom.setSbd (kept1.beside ?_)
  exact (Sbd.setClaim_fuses ..).trans (Sbd.setCopy_fuses ..)

theorem State.KeptFrom.flashOperationDone {ok} : NextKept o (execFlashOperationDone ok s) := by
  unfold execFlashOperationDone
  split
  · exact kept
  split
  · exact kept
  split
  · split
    · exact kept.flashEnds
    extract_lets len
    generalize imageValid _ _ _ = valid
    split
    · exact kept.flashEnds
    split
    · exact kept.flashEnds
    · exact kept.flashStore
  · split
    · exact kept.flashEnds
    generalize calibInRange _ = inRange
    split
    · exact kept.flashEnds
    · exact kept.flashStore
  · split
    · exact kept.flashEnds
    · exact kept.engineWrite.flashEnds
  · exact kept.pushDone

/-! ### Register writes -/

theorem State.KeptFrom.writePlanctl {v} : SomeKept o (s.writePlanctl v) := by
  unfold State.writePlanctl
  split
  · exact trivial
  · exact (kept.abortPlan.ite kept).startPlan.ite (kept.abortPlan.ite kept)

theorem State.KeptFrom.writeJobctl {v} : SomeKept o (s.writeJobctl v) := by
  dsimp only [State.writeJobctl]
  split
  · exact trivial
  split
  · exact trivial
  · exact (kept.storeReg.haltNow.ite kept.storeReg).resumeJob.ite (kept.storeReg.haltNow.ite kept.storeReg)

theorem State.KeptFrom.writeRestart {v} : SomeKept o (s.writeRestart v) := by
  unfold State.writeRestart
  split
  · exact kept.storeReg
  split
  · exact kept.restartPlan
  · exact trivial

theorem State.KeptFrom.writeBuddyctl {v} : SomeKept o (s.writeBuddyctl v) := by
  unfold State.writeBuddyctl
  extract_lets _ _ _ _ s1 s2
  split
  · exact trivial
  split
  · exact trivial
  have kept1 : s1.KeptFrom o := kept.storeReg
  have kept2 : s2.KeptFrom o := kept1.setPairing.ite kept1
  exact kept2.beginReturn.ite kept2

theorem State.KeptFrom.writeFbres {v} : SomeKept o (s.writeFbres v) := by
  dsimp only [State.writeFbres]
  split
  · split
    · exact trivial
    · exact kept.storeReg.beside.notice
  split
  · exact trivial
  · exact kept.storeReg.beside.notice

theorem State.KeptFrom.applyLayout : s.applyLayout.KeptFrom o := by
  unfold State.applyLayout
  split
  · exact kept.beside.notice
  · exact kept.beside

theorem State.KeptFrom.writeLayout {v} : SomeKept o (s.writeLayout v) := by
  unfold State.writeLayout
  split
  · exact trivial
  · exact kept.storeReg.applyLayout.ite kept.storeReg

theorem State.KeptFrom.writeSlicemode {d v} : SomeKept o (s.writeSlicemode d v) := by
  unfold State.writeSlicemode
  split
  · exact trivial
  · exact kept.modDie

theorem State.KeptFrom.writeDumpctl {v} : SomeKept o (s.writeDumpctl v) := by
  unfold State.writeDumpctl
  split
  · exact trivial
  · exact (kept.beside.ite kept).dump.ite (kept.beside.ite kept)

theorem State.KeptFrom.writeNode {v} : SomeKept o (s.writeNode v) := by
  dsimp only [State.writeNode]
  split
  · exact trivial
  split
  · exact kept.storeReg
  · exact kept.storeReg.forEach fun _ _ kept => kept.retrain.ite kept

theorem State.KeptFrom.restoreRoutes {k} : (s.restoreRoutes k).KeptFrom o := kept.beside

theorem State.KeptFrom.enablePort {k on} : (s.enablePort k on).KeptFrom o := by
  dsimp only [State.enablePort]
  split
  · exact kept
  split
  · exact kept.modKport
  · exact (kept.switchRoutes.ite kept).modKport

theorem State.KeptFrom.writePortctl {k v} : SomeKept o (s.writePortctl k v) := by
  dsimp only [State.writePortctl]
  split
  · exact trivial
  · exact (kept.restoreRoutes.ite kept).enablePort

theorem State.KeptFrom.freeHist {f} : (s.freeHist f).KeptFrom o := kept.beside

theorem State.KeptFrom.writeEvrctl {v} : SomeKept o (s.writeEvrctl v) := by
  unfold State.writeEvrctl
  extract_lets s1 s2 s3 first
  split
  · exact trivial
  have kept1 : s1.KeptFrom o := kept.storeReg
  have kept2 : s2.KeptFrom o := kept1.freeHist.ite kept1
  have kept3 : s3.KeptFrom o := kept2.triggerFlush.ite kept2
  exact kept3.setErase.ite kept3

theorem State.KeptFrom.writeFlashctl {v} : SomeKept o (s.writeFlashctl v) := by
  unfold State.writeFlashctl
  split
  · exact trivial
  · exact kept.storeReg.beside

theorem State.KeptFrom.writeRecov {h v} : SomeKept o (s.writeRecov h v) := by
  unfold State.writeRecov
  split
  · exact trivial
  · exact kept.storeReg.beside.setSbd.ite kept.storeReg

theorem State.KeptFrom.writeCntctl {v} : (s.writeCntctl v).KeptFrom o := by
  unfold State.writeCntctl
  extract_lets z s1 s2 _ s3
  have kept1 : s1.KeptFrom o := kept.forEach fun _ _ kept => kept.settle
  have kept2 : s2.KeptFrom o := kept1.mapPlots.ite kept1
  have kept3 : s3.KeptFrom o := kept2.beside.ite kept2
  exact kept3.storeReg

theorem State.KeptFrom.writeTrigall {v} : (s.writeTrigall v).KeptFrom o :=
  (kept.storeReg.forEach fun _ _ kept => kept.traceTrigger).ite kept.storeReg

theorem State.KeptFrom.writeTrcctl {d v} : SomeKept o (s.writeTrcctl d v) := by
  dsimp only [State.writeTrcctl]
  split
  · exact trivial
  · exact kept.modTrace.engineWrite.ite kept.modTrace

theorem State.KeptFrom.writeWatch {d n v} : (s.writeWatch d n v).KeptFrom o := by
  dsimp only [State.writeWatch]
  split
  · split
    · exact kept.storeReg.modDbgWatch.modUnit.modUnit
    · exact kept.storeReg.modDbgWatch.modUnit
  · exact kept.storeReg.modUnit.ite kept.storeReg

theorem State.KeptFrom.stopreq {p har} : (s.stopreq p har).KeptFrom o := by
  unfold State.stopreq
  split
  · exact kept
  exact State.KeptFrom.requestStop kept.modPlot

theorem State.KeptFrom.writePctl {p v} : SomeKept o (s.writePctl p v) := by
  dsimp only [State.writePctl]
  split
  · exact trivial
  split
  · exact kept.ite kept.requestStop
  split
  · exact kept
  split
  · exact kept.resumePlot
  · exact trivial

theorem State.KeptFrom.movePsaddr {p} : (s.movePsaddr p).KeptFrom o := kept.modPlot

theorem State.KeptFrom.writePsdata {p v} : SomeKept o (s.writePsdata p v) := by
  unfold State.writePsdata
  split
  · exact trivial
  · exact kept.psWrite.movePsaddr

theorem State.KeptFrom.writeReg {h r v} : SomeKept o (s.writeReg h r v) := by
  unfold State.writeReg
  split
  · exact trivial
  split
  · split
    · exact trivial
    · exact kept.storeReg
  · exact kept.writePlanctl
  · exact kept.writeJobctl
  · exact kept.writeRestart
  · exact kept.writeBuddyctl
  · split
    · exact trivial
    · exact kept.storeReg
  · exact kept.writeFbres
  · exact kept.writeLayout
  · exact kept.writeSlicemode
  · exact kept.writeDumpctl
  · split
    · exact trivial
    · exact kept.storeReg
  · exact kept.writeNode
  · exact kept.writePortctl
  · exact kept.writeEvrctl
  · split
    · exact kept.storeReg.freeHist
    · exact trivial
  · exact kept.writeFlashctl
  · exact kept.writeRecov
  · exact kept.moduleReset.ite kept
  · exact kept.storeReg.modPci
  · exact kept.writeCntctl
  · exact kept.writeTrigall
  · exact kept.writeTrcctl
  · exact kept.writeWatch
  · exact kept.stopreq.ite kept
  · exact kept.stopreq.ite kept
  · exact kept.writePctl
  · exact kept.writePsdata
  · exact kept.modPlot
  · exact kept.storeReg

/-! ### The host ports -/

theorem State.KeptFrom.ruleBreak : s.ruleBreak.KeptFrom o := kept.beside

theorem State.KeptFrom.pairMiss : s.pairMiss.KeptFrom o := kept.beside

theorem State.KeptFrom.dataHostWrite : s.dataHostWrite.KeptFrom o := kept.beside

theorem State.KeptFrom.spoil {h off width} : (s.spoil h off width).KeptFrom o := kept.modPci

theorem State.KeptFrom.writePair {h off x v} : (s.writePair h off x v).KeptFrom o := by
  unfold State.writePair
  extract_lets base was s1 s2
  have kept1 : s1.KeptFrom o := kept.modPci.modPci
  have kept2 : s2.KeptFrom o := kept1.modPci
  clear_value was
  split
  · exact kept2.pairMiss.ite kept2
  split
  · split
    · exact SomeKept.getD kept1.writeReg kept1.ruleBreak
    · exact kept1.pairMiss
  · exact kept1.pairMiss

theorem State.KeptFrom.writeWord {h off v} : (s.writeWord h off v).KeptFrom o := by
  unfold State.writeWord
  split
  · exact kept.spoil.dataHostWrite
  split
  · exact kept.spoil.ruleBreak
  split
  · exact kept.ruleBreak
  split
  · exact kept.spoil
  · exact kept.spoil
  · exact kept.writePair
  · exact SomeKept.getD kept.writeReg kept.ruleBreak
  · exact SomeKept.getD kept.writeReg kept.ruleBreak

theorem State.KeptFrom.writeToken {h off width v} : (s.writeToken h off width v).KeptFrom o := by
  dsimp only [State.writeToken]
  split
  · exact kept.ruleBreak
  · exact kept.beside.ite kept.modPci

theorem State.KeptFrom.busWrite {h off width v} : (s.busWrite h off width v).KeptFrom o := by
  unfold State.busWrite
  split
  · exact kept.writeToken
  split
  · exact kept.spoil.dataHostWrite
  split
  · exact kept.writeWord.writeWord
  · exact kept.spoil.ruleBreak.ite kept.writeWord

theorem State.KeptFrom.afterRead {h r} : (s.afterRead h r).KeptFrom o := by
  unfold State.afterRead
  split
  · exact kept.modDie
  · exact kept.modPci
  · exact kept.movePsaddr.ite kept
  · exact kept

theorem State.KeptFrom.readWord {h off} : (s.readWord h off).2.KeptFrom o := by
  dsimp only [State.readWord]
  split
  · exact kept.spoil.ruleBreak
  split
  · exact kept.spoil.ruleBreak
  split
  · exact kept.spoil.ruleBreak
  split
  · exact kept.spoil
  · exact (kept.spoil.takeValue.clearReg.ite kept.spoil.takeValue).afterRead

theorem State.KeptFrom.answer {h data ur ep} : (s.answer h data ur ep).KeptFrom o := kept.modPci

theorem State.KeptFrom.busRead {h off width} : (s.busRead h off width).KeptFrom o := by
  dsimp only [State.busRead]
  split
  · exact kept.spoil.ruleBreak.answer
  · exact kept.readWord.readWord.answer.ite kept.readWord.answer

theorem State.KeptFrom.addUnacked {h} : (s.addUnacked h).KeptFrom o := by
  unfold State.addUnacked
  split
  · exact kept.beside
  · exact kept.beside

theorem State.KeptFrom.memStore {h a data} : (s.memStore h a data).KeptFrom o := kept.writeRange.addUnacked.ite kept.ruleBreak

theorem State.KeptFrom.memWrite {h off data} : (s.memWrite h off data).KeptFrom o := by
  unfold State.memWrite
  split
  · exact kept.memStore
  · exact kept.ruleBreak

theorem State.KeptFrom.noteBar2 {h b} : (s.noteBar2 h b).KeptFrom o := kept.ite kept.modPci

theorem State.KeptFrom.memRead {h off len} : (s.memRead h off len).KeptFrom o := by
  unfold State.memRead
  split
  · exact kept.ruleBreak.answer
  split
  · exact kept.ruleBreak.answer
  split
  · rename_i s1 e1
    have kept1 : s1.KeptFrom o := kept.readRange.of_snd e1
    exact kept1.answer
  rename_i s2 e2
  have kept2 : s2.KeptFrom o := kept.readRange.of_snd e2
  exact kept2.noteBar2.answer

theorem State.KeptFrom.perform {h r} : (s.perform h r).KeptFrom o := by
  unfold State.perform
  split
  · exact kept.busWrite
  · exact kept.busRead
  · exact kept.memWrite
  · exact kept.memRead
  · exact kept.memStore

omit kept in
theorem State.KeptFrom.drainPort {h n} {s : State} (kept : s.KeptFrom o) : (State.drainPort h n s).KeptFrom o := by
  induction n generalizing s with
  | zero => exact kept
  | succ n ih =>
    unfold State.drainPort
    split
    · exact kept
    split
    · exact kept
    · exact ih kept.modPci.perform

theorem State.KeptFrom.drain : s.drain.KeptFrom o := kept.drainPort.drainPort

theorem State.KeptFrom.request {h q} : (s.request h q).KeptFrom o := by
  dsimp only [State.request]
  split
  · exact kept
  split
  · exact kept.ite kept.answer
  split
  · exact kept.modPci.ite kept.modPci.answer
  · exact kept.drainPort.modPci.ite kept.drainPort.perform

theorem State.KeptFrom.registerWrite {h off width v} : NextKept o (execRegisterWrite h off width v s) := kept.request

theorem State.KeptFrom.registerRead {h off width} : NextKept o (execRegisterRead h off width s) := kept.request

theorem State.KeptFrom.tokenWrite {h off width v} : NextKept o (execTokenWrite h off width v s) := kept.request

theorem State.KeptFrom.bar2Read {h off len} : NextKept o (execBar2Read h off len s) := kept.request

theorem State.KeptFrom.bar2Write {h off data} : NextKept o (execBar2Write h off data s) := kept.request

theorem State.KeptFrom.layoutInitDoneStep : NextKept o (execLayoutInitDone s) := kept.layoutInitDone.drain

theorem State.KeptFrom.sliceModeChangeDone {d} : NextKept o (execSliceModeChangeDone d s) := kept.sliceModeDone.drain

theorem State.KeptFrom.pairWrite {h off v} : (s.pairWrite h off v).KeptFrom o := kept.request.request

theorem State.KeptFrom.writeBoth {h off v} : NextKept o (writeBoth h off v s) := kept.pairWrite

theorem State.KeptFrom.start {h} : NextKept o (execStart h s) := kept.writeBoth

theorem State.KeptFrom.abort {h} : NextKept o (execAbort h s) := kept.writeBoth

theorem State.KeptFrom.haltnow {h} : NextKept o (execHaltnow h s) := kept.writeBoth

theorem State.KeptFrom.resume {h} : NextKept o (execResume h s) := kept.writeBoth

theorem State.KeptFrom.haltat {h} : NextKept o (execHaltat h s) := kept.writeBoth

theorem State.KeptFrom.haltnext {h} : NextKept o (execHaltnext h s) := kept.writeBoth

theorem State.KeptFrom.go {h restore} : NextKept o (execGo h restore s) := kept.writeBoth

theorem State.KeptFrom.set {h} : NextKept o (execSet h s) := kept.writeBoth

theorem State.KeptFrom.return_ {h owner target} : NextKept o (execReturn h owner target s) := kept.writeBoth

theorem State.KeptFrom.harFbresWrite {h extra} : NextKept o (execHarFbresWrite h extra s) := kept.writeBoth

theorem State.KeptFrom.apply {h v} : NextKept o (execApply h v s) := kept.writeBoth

theorem State.KeptFrom.bstSlicemodeWrite {h d modes} : NextKept o (execBstSlicemodeWrite h d modes s) := kept.writeBoth

theorem State.KeptFrom.handWrite {h d op queue} : NextKept o (handWrite h d op queue s) := kept.writeBoth

theorem State.KeptFrom.qread {h d queue} : NextKept o (execQread h d queue s) := kept.handWrite

theorem State.KeptFrom.qpush {h d queue} : NextKept o (execQpush h d queue s) := kept.handWrite

theorem State.KeptFrom.qpop {h d queue} : NextKept o (execQpop h d queue s) := kept.handWrite

theorem State.KeptFrom.qclear {h d queue} : NextKept o (execQclear h d queue s) := kept.handWrite

theorem State.KeptFrom.qrelease {h d queue} : NextKept o (execQrelease h d queue s) := kept.handWrite

theorem State.KeptFrom.req {h} : NextKept o (execReq h s) := kept.writeBoth

theorem State.KeptFrom.rearm {h} : NextKept o (execRearm h s) := kept.writeBoth

theorem State.KeptFrom.kufNodeWrite {h node} : NextKept o (execKufNodeWrite h node s) := kept.writeBoth

theorem State.KeptFrom.enable {h k on} : NextKept o (execEnable h k on s) := kept.writeBoth

theorem State.KeptFrom.restore {h k} : NextKept o (execRestore h k s) := kept.writeBoth

theorem State.KeptFrom.flush {h} : NextKept o (execFlush h s) := kept.writeBoth

theorem State.KeptFrom.clearhist {h} : NextKept o (execClearhist h s) := kept.writeBoth

theorem State.KeptFrom.bberase {h} : NextKept o (execBberase h s) := kept.writeBoth

theorem State.KeptFrom.evrQcfgWrite {h q v} : NextKept o (execEvrQcfgWrite h q v s) := kept.writeBoth

theorem State.KeptFrom.flashImageProgram {h} : NextKept o (execFlashImageProgram h s) := kept.writeBoth

theorem State.KeptFrom.calibrationWrite {h} : NextKept o (execCalibrationWrite h s) := kept.writeBoth

theorem State.KeptFrom.calibrationRead {h} : NextKept o (execCalibrationRead h s) := kept.writeBoth

theorem State.KeptFrom.sbdRecovGo {h program} : NextKept o (execSbdRecovGo h program s) := kept.writeBoth

theorem State.KeptFrom.reset {h} : NextKept o (execReset h s) := kept.writeBoth

theorem State.KeptFrom.cntctlClear {h v} : NextKept o (execCntctlClear h v s) := kept.writeBoth

theorem State.KeptFrom.fire {h spread} : NextKept o (execFire h spread s) := kept.writeBoth

theorem State.KeptFrom.arm {h d v} : NextKept o (execArm h d v s) := kept.writeBoth

theorem State.KeptFrom.reg {h d n count queue} : NextKept o (execReg h d n count queue s) := kept.writeBoth

theorem State.KeptFrom.wdraw {h d n} : NextKept o (execWdraw h d n s) := kept.writeBoth

theorem State.KeptFrom.stopreqHar {h p} : NextKept o (execStopreqHar h p s) := kept.writeBoth

theorem State.KeptFrom.stopreqDrl {h p} : NextKept o (execStopreqDrl h p s) := kept.writeBoth

theorem State.KeptFrom.stop {h p} : NextKept o (execStop h p s) := kept.writeBoth

theorem State.KeptFrom.step {h p} : NextKept o (execStep h p s) := kept.writeBoth

theorem State.KeptFrom.run {h p} : NextKept o (execRun h p s) := kept.writeBoth

theorem State.KeptFrom.dbgPsdataRead {h p} : NextKept o (execDbgPsdataRead h p s) := kept.request

theorem State.KeptFrom.dbgPsdataWrite {h p v} : NextKept o (execDbgPsdataWrite h p v s) := kept.request

theorem State.KeptFrom.memErrlogRead {h d} : NextKept o (execMemErrlogRead h d s) := kept.request

theorem State.KeptFrom.pciBar2errRead {h blk} : NextKept o (execPciBar2errRead h blk s) := kept.request

theorem State.KeptFrom.msixMessage {h v} : NextKept o (execMsixMessage h v s) := by
  dsimp only [execMsixMessage]
  split
  · exact kept
  split
  · exact kept.modPci
  · exact kept.modPci

theorem State.KeptFrom.configurationRequest {h r} : NextKept o (execConfigurationRequest h r s) := by
  unfold execConfigurationRequest
  split
  · exact kept
  split
  · exact kept.modPci
  split
  · exact kept.answer
  split
  rename_i s1 e1
  have kept1 : s1.KeptFrom o := kept.free.of_snd e1
  exact kept1.answer

theorem State.KeptFrom.linkUp {h speed width flit} : NextKept o (execLinkUp h speed width flit s) := by
  dsimp only [execLinkUp]
  split
  · exact kept
  · exact kept.modPci

theorem State.KeptFrom.surpriseLinkDown {h} : NextKept o (execSurpriseLinkDown h s) := kept.modPci

/-! ### Management messages -/

theorem State.KeptFrom.sendMctp {h b} : (s.sendMctp h b).KeptFrom o := kept.modPci

theorem State.KeptFrom.getHealth {h seq} : NextKept o (execGetHealth h seq s) := by
  unfold execGetHealth
  split
  · exact kept
  · exact kept.sendMctp

theorem State.KeptFrom.readBb {h seq off} : NextKept o (execReadBb h seq off s) := by
  unfold execReadBb
  split
  · exact kept
  split
  · exact kept.sendMctp
  · exact kept.sendMctp

theorem State.KeptFrom.resetModule {h seq} : NextKept o (execResetModule h seq s) := by
  unfold execResetModule
  split
  · exact kept
  split
  · exact kept.sendMctp
  · exact kept.modPci.sendMctp

theorem State.KeptFrom.fuseKey {h seq slot digest} : NextKept o (execFuseKey h seq slot digest s) := by
  dsimp only [execFuseKey]
  split
  · exact kept
  split
  · exact kept.sendMctp
  split
  · exact kept.sendMctp
  split
  · exact kept.sendMctp
  next inRange unfused =>
    have below : slot.toNat < 4 := by
      simp only [Bool.or_eq_true, decide_eq_true_eq, not_or, Nat.not_lt] at inRange
      omega
    have fused : (s.sbd.keys.get ⟨slot.toNat, below⟩).fused ≠ true := by
      rwa [← Sbd.key_eq_get]
    exact (kept.setKey (i := ⟨slot.toNat, below⟩) (fun on => absurd on fused) (.inl rfl)).sendMctp

theorem State.KeptFrom.disableKey {h seq slot} : NextKept o (execDisableKey h seq slot s) := by
  dsimp only [execDisableKey]
  split
  · exact kept
  split
  · exact kept.sendMctp
  split
  · exact kept.sendMctp
  split
  · exact kept.free.sendMctp
  split
  · exact kept.sendMctp
  next inRange isOn several =>
    obtain ⟨i, named⟩ : ∃ i : Fin 4, i.val = slot.toNat := ⟨⟨slot.toNat, by omega⟩, rfl⟩
    rw [← named] at isOn ⊢
    rw [Sbd.key_eq_get] at isOn ⊢
    have on : (s.sbd.keys.get i).enabled = true := by simpa using isOn
    obtain ⟨j, other, others⟩ : ∃ j, j ≠ i ∧ (s.sbd.keys.get j).enabled ≠ false := by
      simpa [enabledSlots_le_one_iff _ i on] using several
    exact (kept.setKey (k := { s.sbd.keys.get i with enabled := false }) (fun fused => ⟨fused, rfl, fun _ => rfl⟩)
      (.inr ⟨j, other, by simpa using others⟩)).sendMctp

theorem State.KeptFrom.setEndpointId {h op eid} : NextKept o (execSetEndpointId h op eid s) := by
  unfold execSetEndpointId
  split
  · exact kept
  split
  · exact kept.sendMctp
  · exact (kept.ite kept.modPci).sendMctp

theorem State.KeptFrom.getEndpointId {h} : NextKept o (execGetEndpointId h s) := by
  unfold execGetEndpointId
  split
  · exact kept
  · exact kept.sendMctp

theorem State.KeptFrom.getEndpointUuid {h} : NextKept o (execGetEndpointUuid h s) := by
  unfold execGetEndpointUuid
  split
  · exact kept
  · exact kept.sendMctp

theorem State.KeptFrom.getMctpVersionSupport {h msgType} : NextKept o (execGetMctpVersionSupport h msgType s) := by
  unfold execGetMctpVersionSupport
  split
  · exact kept
  split
  · exact kept.sendMctp
  split
  · split
    rename_i s1 e1
    have kept1 : s1.KeptFrom o := kept.free.of_snd e1
    exact kept1.sendMctp
  · exact kept.sendMctp

theorem State.KeptFrom.getMessageTypeSupport {h} : NextKept o (execGetMessageTypeSupport h s) := by
  unfold execGetMessageTypeSupport
  split
  · exact kept
  · exact kept.sendMctp

theorem State.KeptFrom.getVendorMessageSupport {h selector} :
    NextKept o (execGetVendorMessageSupport h selector s) := by
  unfold execGetVendorMessageSupport
  split
  · exact kept
  split
  · exact kept.sendMctp
  split
  rename_i s1 e1
  have kept1 : s1.KeptFrom o := kept.free.of_snd e1
  exact kept1.sendMctp

theorem State.KeptFrom.sendSpdm {h b} : (s.sendSpdm h b).KeptFrom o := kept.sendMctp

theorem State.KeptFrom.spdmError {h code} : (s.spdmError h code).KeptFrom o := kept.sendSpdm

theorem State.KeptFrom.unsupportedRequest {h isSpdm code} : NextKept o (execUnsupportedRequest h isSpdm code s) := by
  dsimp only [execUnsupportedRequest]
  split
  · split
    · exact kept
    · exact kept.sendSpdm
  split
  · exact kept
  · exact kept.sendMctp

theorem State.KeptFrom.getVersion {h} : NextKept o (execGetVersion h s) := by
  unfold execGetVersion
  split
  · exact kept
  · exact kept.modPci.sendSpdm

theorem State.KeptFrom.getCapabilities {h request} : NextKept o (execGetCapabilities h request s) := by
  unfold execGetCapabilities
  split
  · exact kept
  split
  · exact kept.spdmError
  split
  rename_i s1 e1
  have kept1 : s1.KeptFrom o := kept.free.of_snd e1
  exact kept1.modPci.sendSpdm

theorem State.KeptFrom.negotiateAlgorithms {h request} : NextKept o (execNegotiateAlgorithms h request s) := by
  unfold execNegotiateAlgorithms
  split
  · exact kept
  split
  · exact kept.spdmError
  · exact kept.modPci.sendSpdm

theorem State.KeptFrom.getDigests {h} : NextKept o (execGetDigests h s) := by
  unfold execGetDigests
  split
  · exact kept
  split
  · exact kept.spdmError
  · exact kept.modPci.sendSpdm

theorem State.KeptFrom.getCertificate {h slot offset length} :
    NextKept o (execGetCertificate h slot offset length s) := by
  dsimp only [execGetCertificate]
  split
  · exact kept
  split
  · exact kept.spdmError
  split
  · exact kept.spdmError
  · exact kept.modPci.sendSpdm

theorem State.KeptFrom.challenge {h slot hashType nonce} : NextKept o (execChallenge h slot hashType nonce s) := by
  unfold execChallenge
  split
  · exact kept
  split
  · exact kept.spdmError
  split
  · exact kept.spdmError
  split
  rename_i s1 e1
  have kept1 : s1.KeptFrom o := kept.free.of_snd e1
  split
  rename_i s2 e2
  have kept2 : s2.KeptFrom o := kept1.free.of_snd e2
  exact kept2.modPci.sendSpdm

theorem State.KeptFrom.getMeasurements {h signed operation nonce slot} :
    NextKept o (execGetMeasurements h signed operation nonce slot s) := by
  dsimp only [execGetMeasurements]
  split
  · exact kept
  split
  · exact kept.spdmError
  split
  · exact kept.spdmError
  · exact kept.free.modPci.sendSpdm

/-! ### The sideband -/

theorem State.KeptFrom.setdasa {address} : NextKept o (execSetdasa address s) := by
  unfold execSetdasa
  split
  · exact kept
  · exact kept.beside

theorem State.KeptFrom.sidebandPointerWrite {data} : NextKept o (execSidebandPointerWrite data s) := by
  unfold execSidebandPointerWrite
  split
  · split
    · exact kept.beside
    · exact kept
  · exact kept

theorem State.KeptFrom.sidebandWordRead : NextKept o (execSidebandWordRead s) := by
  unfold execSidebandWordRead
  split
  · exact kept
  · exact kept.beside

theorem State.KeptFrom.sbSclStuckTimeout : NextKept o (execSbSclStuckTimeout s) := by
  unfold execSbSclStuckTimeout
  split
  · exact kept
  · exact kept.beside

/-! ### A step -/

/-- Whatever the instruction, the step answers a state that keeps what is fused. -/
theorem exec_kept (i : Instr) : NextKept o (exec i s) :=
  match i with
  | .nop _ => kept.nop
  | .pass _ => kept.pass
  | .stream _ => kept.stream
  | .dma _ => kept.dma
  | .wait _ => kept.wait
  | .signal _ => kept.signal
  | .fence _ => kept.fence
  | .check _ => kept.check
  | .vote _ => kept.vote
  | .rclear _ => kept.rclear
  | .rread _ => kept.rread
  | .rsave _ => kept.rsave
  | .radd _ => kept.radd
  | .rcombine _ => kept.rcombine
  | .resumep _ => kept.resumep
  | .resumes _ => kept.resumes
  | .brflt _ => kept.brflt
  | .jump _ => kept.jump
  | .endrow _ => kept.endrow
  | .endplan _ => kept.endplan
  | .mark _ => kept.mark
  | .passEntry _ => kept.passEntry
  | .groupCommit _ => kept.groupCommit
  | .tileWriteoutDone _ _ => kept.tileWriteoutDone
  | .tileReductionDone _ => kept.tileReductionDone
  | .passStop _ => kept.passStop
  | .operandParityError _ _ => kept.operandParityError
  | .passReentry _ => kept.passReentry
  | .reductionParityError _ => kept.reductionParityError
  | .checkCompare _ => kept.checkCompare
  | .heldAccessRelease _ _ => kept.heldAccessRelease
  | .streamStart _ => kept.streamStart
  | .streamEnd _ => kept.streamEnd
  | .streamStop _ _ => kept.streamStop
  | .drillParityError _ _ => kept.drillParityError
  | .tillingParityError _ => kept.tillingParityError
  | .tillingIntensityStep _ => kept.tillingIntensityStep
  | .combineDelivery _ => kept.combineDelivery
  | .fallbackAllocation => kept.fallbackAllocation
  | .send _ => kept.send
  | .recvadd _ => kept.recvadd
  | .recvset _ => kept.recvset
  | .transferDone _ _ => kept.transferDone
  | .trailingToken _ _ => kept.trailingToken
  | .homeAccess _ _ _ => kept.homeAccess
  | .writeAck _ => kept.writeAck
  | .ringTransfer _ _ _ => kept.ringTransfer
  | .scrubRead _ _ => kept.scrubRead
  | .mr4Read _ _ => kept.mr4Read
  | .packageSensorReading _ _ => kept.packageSensorReading
  | .refreshStepFall _ => kept.refreshStepFall
  | .packageSensorTimeout _ => kept.packageSensorTimeout
  | .layoutInitDone => kept.layoutInitDoneStep
  | .sliceModeChangeDone _ => kept.sliceModeChangeDone
  | .tokenArrival _ => kept.tokenArrival
  | .remoteTokenArrival _ => kept.remoteTokenArrival
  | .announcedWriteAck => kept.announcedWriteAck
  | .syncCycle _ => kept.syncCycle
  | .watchExpiry _ _ => kept.watchExpiry
  | .earlyTokenExpiry _ _ => kept.earlyTokenExpiry
  | .dumpWritten => kept.dumpWritten
  | .enable _ _ _ => kept.enable
  | .portTrainingStateDone _ => kept.portTrainingStateDone
  | .portStateBoundExceeded _ => kept.portStateBoundExceeded
  | .codewordLockLost _ => kept.codewordLockLost
  | .retraining _ => kept.retraining
  | .portDeclaredDown _ => kept.portDeclaredDown
  | .flitSend _ => kept.flitSend
  | .flitReceive _ _ _ _ => kept.flitReceive
  | .replayRequest _ => kept.replayRequest
  | .identityFlit _ => kept.identityFlit
  | .identityAnswerTimeout _ => kept.identityAnswerTimeout
  | .downFlit _ => kept.downFlit
  | .dataWrite _ => kept.dataWrite
  | .token _ => kept.token
  | .collectiveStep _ => kept.collectiveStep
  | .openMsg _ => kept.openMsg
  | .grant _ => kept.grant
  | .ack _ => kept.ack
  | .refuse _ => kept.refuse
  | .ackSend _ _ => kept.ackSend
  | .messageResend _ _ _ => kept.messageResend
  | .openResend _ _ => kept.openResend
  | .rowCompletion => kept.rowCompletion
  | .stepUp => kept.stepUp
  | .advance => kept.advanceStep
  | .haltToken => kept.haltToken
  | .jobAbort => kept.jobAbort
  | .stepTimeout => kept.stepTimeout
  | .sowingSlot _ => kept.sowingSlot
  | .buddyCopy => kept.buddyCopy
  | .buddyCopyHeader => kept.buddyCopyHeader
  | .feedquery => kept.feedquery
  | .feedreply => kept.feedreply
  | .feedCheckTimeout => kept.feedCheckTimeout
  | .returndone => kept.returndone
  | .returnProgress => kept.returnProgress
  | .errorRecord _ => kept.errorRecord
  | .pendingError _ => kept.pendingError
  | .moduleFatal => kept.moduleFatal
  | .flushDone => kept.flushDone
  | .flushPathError => kept.flushPathError
  | .blackBoxEraseStep => kept.blackBoxEraseStep
  | .powerControlPeriod _ => kept.powerControlPeriod
  | .modelDeviationCheck => kept.modelDeviationCheck
  | .frequencyChangeStart _ => kept.frequencyChangeStart
  | .railSlewDone _ => kept.railSlewDone
  | .stripRestart _ => kept.stripRestart
  | .supplyDroop _ _ => kept.supplyDroop
  | .coreRailLow _ => kept.coreRailLow
  | .thermalTrip _ _ => kept.thermalTrip
  | .envelopeReading _ => kept.envelopeReading
  | .envelopeInvalidTimeout => kept.envelopeInvalidTimeout
  | .feedIdChange _ => kept.feedIdChange
  | .pwrFailN _ => kept.pwrFailN
  | .supplyFailureThreshold => kept.supplyFailureThreshold
  | .holdUpEnd => kept.holdUpEnd
  | .supplyRise => kept.supplyRise
  | .perstBoth => kept.perstBoth
  | .perstOne _ _ => kept.perstOne
  | .moduleReset => kept.moduleResetStep
  | .startupStepDone => kept.startupStepDone
  | .startupStepOverrun => kept.startupStepOverrun
  | .halfArbitration _ => kept.halfArbitration
  | .thermTripRelease => kept.thermTripRelease
  | .watchdogExpiry _ => kept.watchdogExpiry
  | .leadChange => kept.leadChange
  | .flashOperationDone _ => kept.flashOperationDone
  | .registerWrite _ _ _ _ => kept.registerWrite
  | .stopreqHar _ _ => kept.stopreqHar
  | .stopreqDrl _ _ => kept.stopreqDrl
  | .stop _ _ => kept.stop
  | .step _ _ => kept.step
  | .run _ _ => kept.run
  | .plotStopComplete _ => kept.plotStopComplete
  | .start _ => kept.start
  | .abort _ => kept.abort
  | .harFbresWrite _ _ => kept.harFbresWrite
  | .apply _ _ => kept.apply
  | .bstSlicemodeWrite _ _ _ => kept.bstSlicemodeWrite
  | .qread _ _ _ => kept.qread
  | .qpush _ _ _ => kept.qpush
  | .qpop _ _ _ => kept.qpop
  | .qclear _ _ _ => kept.qclear
  | .qrelease _ _ _ => kept.qrelease
  | .req _ => kept.req
  | .rearm _ => kept.rearm
  | .kufNodeWrite _ _ => kept.kufNodeWrite
  | .restore _ _ => kept.restore
  | .haltnow _ => kept.haltnow
  | .resume _ => kept.resume
  | .haltat _ => kept.haltat
  | .haltnext _ => kept.haltnext
  | .go _ _ => kept.go
  | .set _ => kept.set
  | .return_ _ _ _ => kept.return_
  | .flush _ => kept.flush
  | .clearhist _ => kept.clearhist
  | .bberase _ => kept.bberase
  | .evrQcfgWrite _ _ _ => kept.evrQcfgWrite
  | .flashImageProgram _ => kept.flashImageProgram
  | .calibrationWrite _ => kept.calibrationWrite
  | .calibrationRead _ => kept.calibrationRead
  | .sbdRecovGo _ _ => kept.sbdRecovGo
  | .reset _ => kept.reset
  | .tokenWrite _ _ _ _ => kept.tokenWrite
  | .bar2Read _ _ _ => kept.bar2Read
  | .bar2Write _ _ _ => kept.bar2Write
  | .memErrlogRead _ _ => kept.memErrlogRead
  | .pciBar2errRead _ _ => kept.pciBar2errRead
  | .msixMessage _ _ => kept.msixMessage
  | .cntctlClear _ _ => kept.cntctlClear
  | .fire _ _ => kept.fire
  | .arm _ _ _ => kept.arm
  | .reg _ _ _ _ _ => kept.reg
  | .wdraw _ _ _ => kept.wdraw
  | .dbgPsdataRead _ _ => kept.dbgPsdataRead
  | .dbgPsdataWrite _ _ _ => kept.dbgPsdataWrite
  | .getHealth _ _ => kept.getHealth
  | .readBb _ _ _ => kept.readBb
  | .resetModule _ _ => kept.resetModule
  | .fuseKey _ _ _ _ => kept.fuseKey
  | .disableKey _ _ _ => kept.disableKey
  | .setEndpointId _ _ _ => kept.setEndpointId
  | .getEndpointId _ => kept.getEndpointId
  | .getEndpointUuid _ => kept.getEndpointUuid
  | .getMctpVersionSupport _ _ => kept.getMctpVersionSupport
  | .getMessageTypeSupport _ => kept.getMessageTypeSupport
  | .getVendorMessageSupport _ _ => kept.getVendorMessageSupport
  | .unsupportedRequest _ _ _ => kept.unsupportedRequest
  | .getVersion _ => kept.getVersion
  | .getCapabilities _ _ => kept.getCapabilities
  | .negotiateAlgorithms _ _ => kept.negotiateAlgorithms
  | .getDigests _ => kept.getDigests
  | .getCertificate _ _ _ _ => kept.getCertificate
  | .challenge _ _ _ _ => kept.challenge
  | .getMeasurements _ _ _ _ _ => kept.getMeasurements
  | .setdasa _ => kept.setdasa
  | .sidebandPointerWrite _ => kept.sidebandPointerWrite
  | .sidebandWordRead => kept.sidebandWordRead
  | .sbSclStuckTimeout => kept.sbSclStuckTimeout
  | .registerRead _ _ _ => kept.registerRead
  | .configurationRequest _ _ => kept.configurationRequest
  | .linkUp _ _ _ _ => kept.linkUp
  | .surpriseLinkDown _ => kept.surpriseLinkDown

end

/-- A step takes the front command off the queue and keeps what is fused; on an empty queue it leaves all as it is. -/
theorem step_keepsFuses (s : State) : ∃ t, step s = .next t ∧ FusesKept s t ∧ t.pending = s.pending.tail := by
  unfold step
  split
  next empty => exact ⟨s, rfl, (State.KeptFrom.refl s).fuses, by rw [empty]; rfl⟩
  next c rest front =>
    obtain ⟨t, run, kept⟩ := (exec_kept (State.KeptFrom.refl { s with pending := rest }) c).exists_next
    exact ⟨t, run, fusesKept_trans (t := { s with pending := rest }) (fusesKept_of_fuses rfl) kept.fuses, by rw [kept.pending, front]; rfl⟩

end Sys2Proof.Machine

namespace Sys2Proof.StartUpAndSeedbed

open Sys2Proof.Machine

/-- Settles O58: an instruction changes the fuses by one key slot at most, which stays fused as it was while one slot stays enabled. -/
theorem everyStepKeepsTheFuses : Obligations.EveryStepKeepsTheFuses := step_keepsFuses

end Sys2Proof.StartUpAndSeedbed
end

section
/-! The queue of commands, the reset of one host port (R379) and the check of the energy model (R344). -/

namespace Sys2Proof.Machine

open Sys2Proof.Claim

theorem step_of_pending {s : State} {c : Instr} {rest : List Instr} (front : s.pending = c :: rest) :
    step s = exec c { s with pending := rest } := by
  rw [step, front]

/-! ### PERST_ONE (R379) -/

/-- The level of a port's PERST pin. -/
def Pins.withPerst (p : Pins) (h : HostPort) (high : Bool) : Pins :=
  { p with perstA := if h = .a then high else p.perstA, perstB := if h = .b then high else p.perstB }

theorem execPerstOne_eq (s : State) (h : HostPort) (high : Bool) : execPerstOne h high s =
    .next (if high then { s with pins := s.pins.withPerst h high } else { s with pins := s.pins.withPerst h high }.portReset h) := by
  cases h <;> rfl

/-- A port at its reset values, which has yet to perform what it had received (R379, R405, R413). -/
def Pci.atReset (p : Pci) : Pci :=
  { Pci.reset with tokens := p.tokens, stalled := p.stalled.filterMap (HeldReq.atReset p.wins) }

theorem State.portReset_pci (s : State) (h : HostPort) : (s.portReset h).pci h = (s.pci h).atReset := s.modPci_pci h _

theorem State.portReset_pci_ne (s : State) {h k : HostPort} (ne : k ≠ h) : (s.portReset h).pci k = s.pci k :=
  s.modPci_pci_ne h k _ ne.symm

/-! ### MODEL_DEVIATION_CHECK (R344) -/

/-- PWR_MODEL shows the two averages, and the sums of the next second begin. -/
def Pwr.compared (p : Pwr) (m w : Nat) : Pwr :=
  { p with modelw := BitVec.ofNat 16 m, sensew := BitVec.ofNat 16 w, modelSum := 0, sensorSum := 0, periods := 0 }

/-- The notice of a deviation: it shows the two averages (R344). -/
def State.deviationNotice (s : State) (m w : Nat) : ErrRep :=
  s.mkErr 0x0901 .notice srcPower (m % 2 ^ 16 * 2 ^ 16 + w % 2 ^ 16) [7]

theorem execModelDeviationCheck_compares {s : State} {m w : Nat} (awake : s.evr.fallow = false) (second : 100000 ≤ s.pwr.periods)
    (model : m = s.pwr.modelSum / (s.pwr.periods * 40000000)) (sensor : w = s.pwr.sensorSum / s.pwr.periods) :
    execModelDeviationCheck s = .next ({ s with pwr := s.pwr.compared m w }.raiseAll s.lead
      (if bits s.pwr.cfg 23 16 * w < 100 * (max m w - min m w) then [s.deviationNotice m w] else [])) := by
  have apart : (if m < w then w - m else m - w) = max m w - min m w := by
    split <;> omega
  simp only [execModelDeviationCheck, awake, Nat.not_lt.2 second, ← model, ← sensor, apart, decide_false, Bool.or_self,
    Bool.false_eq_true, if_false]
  split
  · rfl
  · rw [State.raiseAll_nil]
    rfl

end Sys2Proof.Machine

namespace Sys2Proof.HostAttachment

open Sys2Proof.Machine

/-- Settles O1: the queue's front is the command that a step runs. -/
theorem stepRunsFrontCommand : Obligations.StepRunsFrontCommand := fun _ _ _ => step_of_pending

end Sys2Proof.HostAttachment

namespace Sys2Proof.StartUpAndSeedbed

open Sys2Proof.Machine

/-- Settles O50: the event is a change of the pin, and a reset of that one port where the pin is low. -/
theorem onePerstResetsOnlyItsPort : Obligations.OnePerstResetsOnlyItsPort := by
  intro s h high
  refine ⟨_, execPerstOne_eq s h high, ?_⟩
  cases high with
  | true =>
    exact ⟨rfl, nofun, fun _ => by cases h <;> rfl, fun k _ => by cases k <;> rfl, rfl⟩
  | false =>
    have port : ({ s with pins := s.pins.withPerst h false }.portReset h).pci h = (s.pci h).atReset := by
      rw [State.portReset_pci]
      cases h <;> rfl
    refine ⟨?_, fun _ => ?_, nofun, fun k ne => ?_, ?_⟩
    · cases h <;> rfl
    · rw [if_neg Bool.false_ne_true, port]
      exact ⟨rfl, rfl, rfl, rfl, rfl, rfl, rfl, rfl, rfl, rfl, rfl, rfl, rfl, rfl⟩
    · rw [if_neg Bool.false_ne_true, State.portReset_pci_ne _ ne]
      cases k <;> rfl
    · cases h <;> rfl

end Sys2Proof.StartUpAndSeedbed

namespace Sys2Proof.ClocksAndPower

open Sys2Proof.Machine Sys2Proof.Claim

/-- Settles O49: the comparison changes PWR_MODEL and begins the sums anew, and registers the notice where the averages differ. -/
theorem modelDeviationIsNoted : Obligations.ModelDeviationIsNoted := by
  intro s m w awake second model sensor
  refine ⟨_, execModelDeviationCheck_compares awake second model sensor, ?_, fun near => ?_, fun apart => ?_, rfl, ?_⟩
  · rw [State.raiseAll_eq]
    rfl
  · rw [if_neg (Nat.not_lt.2 near), State.raiseAll_nil]
  · rw [if_pos apart]
    exact State.raiseAll_reports (u := { s with pwr := s.pwr.compared m w }) rfl s.lead _
  · rw [State.raiseAll_eq]

end Sys2Proof.ClocksAndPower
end

section
/-! What a byte of a sparse store reads after a block of bytes has been written: the black box and the flash (R372, R383). -/

namespace Sys2Proof.Machine

theorem cellGet_append_right (d : Byte) {l : List Host.Cell} (r : List Host.Cell) {b : Nat} (out : ∀ x ∈ l, x.1 ≠ b) :
    cellGet d (l ++ r) b = cellGet d r b := by
  induction l with
  | nil => rfl
  | cons x l ih =>
    rw [List.cons_append, cellGet, if_neg (out x List.mem_cons_self)]
    exact ih fun y mem => out y (List.mem_cons_of_mem x mem)

theorem cellGet_append_left (d : Byte) (l : List Host.Cell) {r : List Host.Cell} {b : Nat} (out : ∀ x ∈ r, x.1 ≠ b) :
    cellGet d (l ++ r) b = cellGet d l b := by
  induction l with
  | nil => simpa [cellGet] using cellGet_append_right d [] out
  | cons x l ih => simp only [List.cons_append, cellGet, ih]

theorem cellGet_cellsOf (d : Byte) (a : Nat) (bs : List Byte) (b : Nat) :
    cellGet d (cellsOf d a bs) b = if a ≤ b ∧ b < a + bs.length then bs.getD (b - a) d else d := by
  induction bs generalizing a with
  | nil => simp [cellsOf, cellGet]
  | cons v r ih =>
    have first : cellGet d (cellsOf d a (v :: r)) b = if b = a then v else cellGet d (cellsOf d (a + 1) r) b := by
      rw [cellsOf]
      split
      next blank =>
        subst blank
        by_cases e : b = a
        · rw [if_pos e, ih, if_neg (by omega)]
        · rw [if_neg e]
      · simp only [cellGet, eq_comm]
    rw [first, ih, List.length_cons]
    by_cases e : b = a
    · simp [e]
    · rw [if_neg e]
      by_cases inside : a + 1 ≤ b ∧ b < a + 1 + r.length
      · rw [if_pos inside, if_pos (by omega), show b - a = b - (a + 1) + 1 by omega, List.getD_cons_succ]
      · rw [if_neg inside, if_neg (by omega)]

theorem cellGet_cellsBlit (d : Byte) (m : List Host.Cell) (a : Nat) (bs : List Byte) (b : Nat) :
    cellGet d (cellsBlit d m a bs) b = if a ≤ b ∧ b < a + bs.length then bs.getD (b - a) d else cellGet d m b := by
  have below : ∀ x ∈ m.filter fun x => decide (x.1 < a), x.1 < a := by
    intro x mem
    simpa using (List.mem_filter.1 mem).2
  have above : ∀ x ∈ m.filter fun x => decide (a + bs.length ≤ x.1), a + bs.length ≤ x.1 := by
    intro x mem
    simpa using (List.mem_filter.1 mem).2
  have within := cellsOf_mem d a bs
  unfold cellsBlit
  by_cases low : b < a
  · rw [if_neg (by omega), cellGet_append_left d _ fun x mem => by have := above x mem; omega,
      cellGet_append_left d _ fun x mem => by have := within x mem; omega]
    simpa [low] using cellGet_filter d m (fun x => decide (x < a)) b
  rw [List.append_assoc, cellGet_append_right d _ fun x mem => by have := below x mem; omega]
  by_cases inside : b < a + bs.length
  · rw [cellGet_append_left d _ fun x mem => by have := above x mem; omega, cellGet_cellsOf]
    simp [show a ≤ b by omega, inside]
  · rw [if_neg (by omega), cellGet_append_right d _ fun x mem => by have := within x mem; omega]
    simpa [show a + bs.length ≤ b by omega] using cellGet_filter d m (fun x => decide (a + bs.length ≤ x)) b

/-! ### The black box (R372, R377) -/

theorem State.bbWrite_get (s : State) (off : Nat) (bs : List Byte) (b : Nat) :
    cellGet 0 (s.bbWrite off bs).evr.blackbox b =
      if off ≤ b ∧ b < off + bs.length then bs.getD (b - off) 0 else cellGet 0 s.evr.blackbox b :=
  cellGet_cellsBlit 0 _ off bs b

theorem State.bbWrite_zeros_get (s : State) (off n b : Nat) :
    cellGet 0 (s.bbWrite off (zeros n)).evr.blackbox b = if off ≤ b ∧ b < off + n then 0 else cellGet 0 s.evr.blackbox b := by
  rw [State.bbWrite_get, zeros, List.length_replicate]
  exact if_congr Iff.rfl (List.getElem?_getD_replicate_default_eq ..) rfl

/-- The same run of zeros at several places. -/
theorem State.bbWrites_zeros (s : State) (l : List Nat) (off : Nat → Nat) (n : Nat) : ∃ bb,
    (s.forEach l fun s k => s.bbWrite (off k) (zeros n)) = { s with evr := { s.evr with blackbox := bb } } ∧
      ∀ b, cellGet 0 bb b = if ∃ k ∈ l, off k ≤ b ∧ b < off k + n then 0 else cellGet 0 s.evr.blackbox b := by
  induction l generalizing s with
  | nil => exact ⟨_, rfl, by simp⟩
  | cons k l ih =>
    obtain ⟨bb, written, bytes⟩ := ih (s.bbWrite (off k) (zeros n))
    refine ⟨bb, written, fun b => ?_⟩
    rw [bytes, State.bbWrite_zeros_get]
    by_cases later : ∃ j ∈ l, off j ≤ b ∧ b < off j + n
    · simp [later]
    · simp [later]

end Sys2Proof.Machine
end

section
/-! Flushes to the black box and its erase, and the statement about them (R362, R363, R371, R373, R377). -/

namespace Sys2Proof.Machine

open Sys2Proof.Claim

/-! ### FLUSH_DONE (R371, R373) -/

theorem State.applyStaged_none {s : State} (staged : s.evr.staged = []) : s.applyStaged = s := by
  have same : { s with evr := { s.evr with staged := [] } } = s := by rw [← staged]
  rw [State.applyStaged, staged, same]
  rfl

/-- The superblock that ends a flush (R373). -/
def State.flushSuper (s : State) (f : Flush) : List Byte :=
  superBytes (s.evr.nextseq + 1) (if f.trigger = .fallow then fallowEntry false f.tcode f.row else superEntry s.evr.blackbox)

/-- The black box holds the flush: images, header and superblock have been written in this order. -/
def State.flushWritten (s : State) (f : Flush) : State :=
  ((s.bbWrite (slotOffset (s.evr.nextseq.toNat % 7) + 0x1000) (f.bufA.image ++ f.bufB.image)).bbWrite
    (slotOffset (s.evr.nextseq.toNat % 7)) (s.slotHeader f s.evr.nextseq)).bbWrite (s.evr.nextseq.toNat % 2 * 0x8000)
    (s.flushSuper f)

/-- The flush has ended with black box `bb`: the next one takes the next sequence number, and the errors that waited leave handling. -/
def State.flushEnded (s : State) (bb : List Host.Cell) : State :=
  { s with
    evr := { s.evr with flushing := none, nextseq := s.evr.nextseq + 1, blackbox := bb, halfA := s.evr.halfA.flushed,
                        halfB := s.evr.halfB.flushed }
    pciA := s.pciA.irqEvent 1 s.evr.fallow
    pciB := s.pciB.irqEvent 1 s.evr.fallow }

theorem execFlushDone_ends {s : State} {f : Flush} (flushing : s.evr.flushing = some f) (staged : s.evr.staged = [])
    (unerased : s.evr.erase = none) :
    execFlushDone s = .next (s.flushEnded (s.flushWritten f).evr.blackbox).startFollow := by
  obtain ⟨bb, written⟩ : ∃ bb, s.flushWritten f = { s with evr := { s.evr with blackbox := bb } } := ⟨_, rfl⟩
  have unstaged := State.applyStaged_none (s := State.irqEvent { s with evr := { s.evr with
    blackbox := bb, flushing := none, nextseq := s.evr.nextseq + 1 } } 1) staged
  have ended : (((State.irqEvent { s with evr := { s.evr with blackbox := bb, flushing := none, nextseq := s.evr.nextseq + 1 } }
      1).modHalf .a RecHalf.flushed).modHalf .b RecHalf.flushed) = s.flushEnded bb := rfl
  have erase : (s.flushEnded bb).evr.erase = none := unerased
  simp only [execFlushDone, flushing]
  rw [← State.flushSuper, ← State.flushWritten, written]
  simp only [unstaged, ended, erase]

theorem State.startFollow_none {s : State} (follow : s.evr.follow = none) : s.startFollow = s := by
  rw [State.startFollow, follow]

/-- A further flush changes the recorder's halves, FOLLOW and the flush in progress. -/
theorem State.startFollow_keeps (s : State) :
    { s.startFollow.evr with halfA := s.evr.halfA, halfB := s.evr.halfB, follow := s.evr.follow, flushing := s.evr.flushing } =
      s.evr ∧ { s.startFollow with evr := s.evr } = s := by
  unfold State.startFollow
  split
  · exact ⟨rfl, rfl⟩
  · exact ⟨rfl, rfl⟩

theorem State.startFollow_some {s : State} {g : FlushTrigger} {sev : Severity} {code : BitVec 16}
    (follow : s.evr.follow = some (g, sev, code)) : s.startFollow.evr.follow = none ∧
      (s.startFollow.evr.flushing.map fun x => (x.trigger, x.tsev, x.tcode, x.row)) = some (g, sev, code, s.job.row) := by
  rw [State.startFollow, follow]
  exact ⟨rfl, rfl⟩

theorem State.flushWritten_get (s : State) (f : Flush) (b : Nat) : cellGet 0 (s.flushWritten f).evr.blackbox b =
    let super := s.flushSuper f
    let k := slotOffset (s.evr.nextseq.toNat % 7)
    let head := s.slotHeader f s.evr.nextseq
    if s.evr.nextseq.toNat % 2 * 0x8000 ≤ b ∧ b < s.evr.nextseq.toNat % 2 * 0x8000 + super.length
      then super.getD (b - s.evr.nextseq.toNat % 2 * 0x8000) 0
    else if k ≤ b ∧ b < k + head.length then head.getD (b - k) 0
    else if k + 0x1000 ≤ b ∧ b < k + 0x1000 + (f.bufA.image ++ f.bufB.image).length
      then (f.bufA.image ++ f.bufB.image).getD (b - (k + 0x1000)) 0
    else cellGet 0 s.evr.blackbox b := by
  rw [State.flushWritten, State.bbWrite_get, State.bbWrite_get, State.bbWrite_get]

/-! ### A record outside a flush (R366-R368) -/

theorem State.irqEvent_sbd (s : State) (v : Fin 4) : (s.irqEvent v).sbd = s.sbd := rfl

theorem State.applyChange_record_sbd {s : State} {h : Half} {e : EvRec} {r : RecHalf} (place : (s.half h).place e = some r) :
    (s.applyChange (.record h e)).sbd = s.sbd := by
  have traced (x : TraceRec) (trig : State → DieIx → Bool) :
      ((s.modHalf h fun _ => r).forEach allDies fun u d => u.traceOn d x (trig u d)).sbd = s.sbd := by
    refine (State.forEach_keeps State.sbd _ _ _ fun u d => ?_).trans (s.modHalf_sbd h _)
    obtain ⟨-, -, -, -, -, -, -, -, sbd, -⟩ := (State.core_eq _ _).1 (u.traceOn_core d x (trig u d))
    exact sbd
  simp only [State.applyChange, Staged.half, RecHalf.change, place]
  split
  · exact traced ..
  · exact (State.irqEvent_sbd _ 0).trans (traced ..)

theorem State.change_unflushed {s : State} (idle : s.evr.flushing = none) (c : Staged) : s.change c = s.applyChange c := by
  rw [State.change, idle]
  rfl

/-- A half has given out its next sequence number (R366). -/
def State.numbered (s : State) (h : Half) : State := s.modHalf h fun x => { x with rseq := x.rseq + 1 }

theorem State.numbered_flushing (s : State) (h : Half) : (s.numbered h).evr.flushing = s.evr.flushing :=
  (congrArg Evr.flushing (s.modHalf_evr h _) :)

/-- While no flush runs, an error that does not repeat the newest record makes one of its own, fallow or not. -/
theorem State.record_unflushed {s : State} {h : Half} {e : ErrRep} (idle : s.evr.flushing = none) (staged : s.evr.staged = [])
    (fresh : makesRecord (s.half h) e) : ∃ t, s.record h e = (some (s.half h).rseq, t) ∧ t.sbd = s.sbd ∧
      BufferIs s t h { s.half h with ring := (s.half h).ring ++ [recordOf (s.half h) e], rseq := (s.half h).rseq + 1 } := by
  obtain ⟨room, differs⟩ := fresh
  have place : ((s.numbered h).half h).place (recordOf (s.half h) e) =
      some { s.half h with ring := (s.half h).ring ++ [recordOf (s.half h) e], rseq := (s.half h).rseq + 1 } := by
    rw [State.numbered, State.modHalf_half]
    exact RecHalf.place_room (r := { s.half h with rseq := (s.half h).rseq + 1 }) room _
  refine ⟨(s.numbered h).applyChange (.record h (recordOf (s.half h) e)), ?_,
    (State.applyChange_record_sbd place).trans (s.modHalf_sbd h _),
    (s.bufferIs_modHalf h _).trans (State.applyChange_record place)⟩
  have own : s.record h e = s.freshRecord h (recordOf (s.half h) e) := by
    simp only [State.record, State.ahead_unstaged staged]
    split
    next n newest => exact if_neg (by simpa [recordOf] using differs n newest)
    · rfl
  rw [own, ← State.change_unflushed ((s.numbered_flushing h).trans idle)]
  simp only [State.freshRecord, State.ahead_unstaged staged, RecHalf.place_room room, idle, Option.isSome_some,
    Option.isNone_none, Bool.true_or, Bool.and_true, if_true]
  rfl

/-! ### FLUSH_PATH_ERROR (R362, R363) -/

/-- A flush has been given up, with a black box that holds a part of it (R373). -/
def State.flushLost (s : State) (n : Nat) (bb : List Host.Cell) : State :=
  { s with freeCtr := n, evr := { s.evr with blackbox := bb, flushing := none } }

theorem State.abandonFlush_lost {s : State} {f : Flush} (flushing : s.evr.flushing = some f) :
    ∃ bb, s.abandonFlush = s.flushLost (s.freeCtr + 1) bb :=
  ⟨_, by rw [State.abandonFlush, flushing]; rfl⟩

/-- The module has fallen without a flush (R363). -/
def State.fallen (s : State) (n : Nat) (bb : List Host.Cell) : State := (s.flushLost n bb).stopped.setSbd .fallow

theorem State.enterFallow_flushing {s : State} {f : Flush} (flushing : s.evr.flushing = some f) (staged : s.evr.staged = [])
    (noneA : s.evr.halfA.pending = []) (noneB : s.evr.halfB.pending = []) :
    ∃ bb, s.enterFallow = s.fallen (s.freeCtr + 1) bb := by
  obtain ⟨bb, lost⟩ := State.abandonFlush_lost flushing
  have pendingA : (s.flushLost (s.freeCtr + 1) bb).stopped.recordPending .a = (s.flushLost (s.freeCtr + 1) bb).stopped :=
    State.recordPending_none noneA
  have pendingB : (s.flushLost (s.freeCtr + 1) bb).stopped.recordPending .b = (s.flushLost (s.freeCtr + 1) bb).stopped :=
    State.recordPending_none noneB
  have unstaged : (s.flushLost (s.freeCtr + 1) bb).applyStaged = s.flushLost (s.freeCtr + 1) bb := State.applyStaged_none staged
  refine ⟨bb, ?_⟩
  simp only [State.enterFallow, lost, unstaged]
  exact congrArg (State.setSbd · .fallow) ((congrArg (State.recordPending · .b) pendingA).trans pendingB)

theorem State.fallen_evr (s : State) (n : Nat) (bb : List Host.Cell) : (s.fallen n bb).evr =
    { s.evr with blackbox := bb, flushing := none, follow := none, fatalDue := none, fallow := true } := by
  rw [State.fallen, State.setSbd_eq]
  rfl

theorem State.fallen_half (s : State) (n : Nat) (bb : List Host.Cell) (g : Half) : (s.fallen n bb).half g = s.half g := by
  cases g <;> simp only [State.half, State.fallen_evr]

theorem State.fallen_sbd (s : State) (n : Nat) (bb : List Host.Cell) : (s.fallen n bb).sbd = { s.sbd with state := .fallow } := by
  rw [State.fallen, State.setSbd_eq]
  rfl

theorem State.fallen_lead (s : State) (n : Nat) (bb : List Host.Cell) : (s.fallen n bb).lead = s.lead := by
  rw [State.lead, State.fallen_sbd, State.lead]

theorem State.fallen_job (s : State) (n : Nat) (bb : List Host.Cell) : (s.fallen n bb).job = { s.job with abortDue := none } := by
  rw [State.fallen, State.setSbd_eq]
  rfl

theorem State.fallen_plot (s : State) (n : Nat) (bb : List Host.Cell) (p : PlotIx) :
    (s.fallen n bb).plot p = (s.plot p).stopFatal := by
  rw [State.fallen, State.setSbd_eq]
  exact (s.flushLost n bb).stopped_plot p

/-- The error of a flush that cannot be written (R362). -/
def State.flushError (s : State) : ErrRep := s.mkErr 0x0801 .moduleFatal srcService 0 []

/-- FLUSHFAIL is set, no erase goes on, and half `h` has the error of record `n` in handling. -/
def State.flushFailed (s : State) (h : Half) (n : W32) (bb : List Host.Cell) : State :=
  let t := s.modHalf h fun r => { r with handling := some { code := 0x0801, sev := .moduleFatal, rseq := some n, follow := false } }
  { t with evr := { t.evr with flushfail := true, erase := none, blackbox := bb } }

theorem State.flushFailed_half (s : State) (h : Half) (n : W32) (bb : List Host.Cell) (g : Half) :
    (s.flushFailed h n bb).half g =
      (s.modHalf h fun r => { r with handling := some { code := 0x0801, sev := .moduleFatal, rseq := some n, follow := false } }).half g := by
  cases g <;> rfl

/-- The recorder but for its buffers after a failed flush. -/
theorem State.flushFailed_evr (s : State) (h : Half) (n : W32) (bb : List Host.Cell) :
    { (s.flushFailed h n bb).evr with halfA := s.evr.halfA, halfB := s.evr.halfB } =
      { s.evr with flushfail := true, erase := none, blackbox := bb } := by
  cases h <;> rfl

theorem State.flushFailed_elsewhere (s : State) (h : Half) (n : W32) (bb : List Host.Cell) :
    { s.flushFailed h n bb with evr := s.evr } = s := by
  cases h <;> rfl

theorem execFlushPathError_falls {s : State} {f : Flush} (flushing : s.evr.flushing = some f) (staged : s.evr.staged = [])
    (live : s.evr.fallow = false) (noneA : s.evr.halfA.pending = []) (noneB : s.evr.halfB.pending = [])
    (fresh : makesRecord (s.half s.lead) s.flushError) :
    ∃ n bb bb' t, execFlushPathError s = .next (t.flushFailed s.lead (s.half s.lead).rseq bb') ∧
      t.sbd = (s.fallen n bb).sbd ∧ BufferIs (s.fallen n bb) t s.lead { s.half s.lead with
        ring := (s.half s.lead).ring ++ [recordOf (s.half s.lead) s.flushError], rseq := (s.half s.lead).rseq + 1 } := by
  obtain ⟨bb, fell⟩ : ∃ bb, State.enterFallow { s with freeCtr := s.freeCtr + 1 } = s.fallen (s.freeCtr + 1 + 1) bb :=
    State.enterFallow_flushing (s := { s with freeCtr := s.freeCtr + 1 }) flushing staged noneA noneB
  have half := State.fallen_half s (s.freeCtr + 1 + 1) bb s.lead
  have lead := State.fallen_lead s (s.freeCtr + 1 + 1) bb
  obtain ⟨t, record, sbd, buffer⟩ := State.record_unflushed (s := s.fallen (s.freeCtr + 1 + 1) bb) (h := s.lead) (e := s.flushError)
    (by rw [State.fallen_evr]) (by rw [State.fallen_evr]; exact staged) (by rwa [half])
  rw [half] at record buffer
  have error : { (s.fallen (s.freeCtr + 1 + 1) bb).mkErr 0x0801 .moduleFatal srcService 0 [] with need := 0 } = s.flushError := by
    rw [State.mkErr, State.fallen_job]
    rfl
  have leadT : t.lead = s.lead := by rw [State.lead, sbd, ← State.lead, lead]
  have runs : ∃ bb', execFlushPathError s = .next (t.flushFailed s.lead (s.half s.lead).rseq bb') := by
    simp only [execFlushPathError, State.free, flushing, live, Bool.false_eq_true, if_false, fell, lead, error, record]
    simp only [leadT]
    split
    · exact ⟨_, rfl⟩
    · exact ⟨t.evr.blackbox, by cases s.lead <;> rfl⟩
  obtain ⟨bb', run⟩ := runs
  exact ⟨_, bb, bb', t, run, sbd, buffer⟩

/-! ### BLACK_BOX_ERASE_STEP (R377) -/

theorem execBlackBoxEraseStep_headers {s : State} (headers : s.evr.erase = some .headers) : ∃ bb,
    execBlackBoxEraseStep s = .next { s with evr := { s.evr with blackbox := bb, erase := some .superblock } } ∧ ∀ b, cellGet 0 bb b =
      if b < 0x10000 ∨ ∃ k ∈ List.range 7, slotOffset k ≤ b ∧ b < slotOffset k + 0x1000 then 0 else cellGet 0 s.evr.blackbox b := by
  obtain ⟨bb, written, bytes⟩ := ((s.bbWrite 0 (zeros 0x8000)).bbWrite 0x8000 (zeros 0x8000)).bbWrites_zeros (List.range 7) slotOffset 0x1000
  refine ⟨bb, ?_, fun b => ?_⟩
  · rw [execBlackBoxEraseStep, headers]
    exact congrArg (fun t : State => Host.Outcome.next { t with evr := { t.evr with erase := some EraseStep.superblock } }) written
  rw [bytes, State.bbWrite_zeros_get, State.bbWrite_zeros_get]
  by_cases slot : ∃ k ∈ List.range 7, slotOffset k ≤ b ∧ b < slotOffset k + 0x1000
  · rw [if_pos slot, if_pos (Or.inr slot)]
  rw [if_neg slot]
  by_cases low : b < 0x10000
  · rw [if_pos (Or.inl low : b < 0x10000 ∨ _)]
    by_cases half : b < 0x8000
    · rw [if_neg (by omega), if_pos (by omega)]
    · rw [if_pos (by omega)]
  · rw [if_neg (not_or.2 ⟨low, slot⟩), if_neg (by omega), if_neg (by omega)]

theorem execBlackBoxEraseStep_superblock {s : State} (super : s.evr.erase = some .superblock) (live : s.evr.fallow = false) :
    execBlackBoxEraseStep s = .next { s with evr := { s.evr with
      blackbox := (s.bbWrite 0 (superBytes 0 [0, 0, 0])).evr.blackbox, erase := some .slots, nextseq := 0 } } := by
  rw [execBlackBoxEraseStep, super]
  exact if_neg (Bool.eq_false_iff.1 live)

theorem execBlackBoxEraseStep_slots {s : State} (slots : s.evr.erase = some .slots) (follow : s.evr.follow = none) : ∃ bb,
    execBlackBoxEraseStep s = .next { s with evr := { s.evr with blackbox := bb, erase := none } } ∧ ∀ b, cellGet 0 bb b =
      if ∃ k ∈ List.range 7, slotOffset k + 0x1000 ≤ b ∧ b < slotOffset k + 0x81000 then 0 else cellGet 0 s.evr.blackbox b := by
  obtain ⟨bb, written, bytes⟩ := s.bbWrites_zeros (List.range 7) (fun k => slotOffset k + 0x1000) 0x80000
  refine ⟨bb, ?_, by simpa only [Nat.add_assoc, Nat.reduceAdd] using bytes⟩
  simp only [execBlackBoxEraseStep, slots, written]
  exact congrArg Host.Outcome.next (State.startFollow_none follow)

end Sys2Proof.Machine

namespace Sys2Proof.ErrorsAndRecorder

open Sys2Proof.Machine Sys2Proof.Claim

/-- Settles O47: a flush is three writes of the black box before the recorder goes on, a failed one falls without a flush, and each
step of an erase is a run of writes. -/
theorem flushesReachTheBlackBox : Obligations.FlushesReachTheBlackBox := by
  refine fun s => ⟨?done, ?fails, fun headers => ?headers, fun super live => ?superblock, fun slots follow => ?slots⟩
  case done =>
    rintro f k head super flushing staged unerased rfl rfl rfl
    obtain ⟨evr, rest⟩ := (s.flushEnded (s.flushWritten f).evr.blackbox).startFollow_keeps
    refine ⟨_, execFlushDone_ends flushing staged unerased, ?nextseq, ?staged, ?erase, fun b => ?bytes, fun none => ?ends,
      fun g sev code some => ?follows, ?beside⟩
    case nextseq => exact congrArg Evr.nextseq evr
    case staged => exact (congrArg Evr.staged evr).trans staged
    case erase => exact (congrArg Evr.erase evr).trans unerased
    case bytes => exact (congrArg (fun e => cellGet 0 e.blackbox b) evr).trans (s.flushWritten_get f b)
    case ends =>
      rw [State.startFollow_none (s := s.flushEnded _) none]
      exact ⟨rfl, rfl, rfl⟩
    case follows => exact State.startFollow_some (s := s.flushEnded _) some
    case beside =>
      exact ⟨(congrArg State.plots rest :), (congrArg State.mem rest :), (congrArg State.job rest :), (congrArg State.rcv rest :),
        (congrArg State.sync rest :)⟩
  case fails =>
    intro f flushing staged live noneA noneB fresh
    obtain ⟨n, bb, bb', t, run, sbd, buffer⟩ := execFlushPathError_falls flushing staged live noneA noneB fresh
    obtain ⟨plots, -, job, -⟩ := State.besideRecorder_eq buffer.beside
    have evr := t.flushFailed_evr s.lead (s.half s.lead).rseq bb'
    have rest := t.flushFailed_elsewhere s.lead (s.half s.lead).rseq bb'
    have recorder := buffer.evr
    rw [State.fallen_evr] at recorder
    refine ⟨_, run, ?_, ?_, ?_, ?_, ?_, ?_, ?_, ?_, ?_, fun g ne => ?_, fun p => ?_⟩
    · exact (congrArg Evr.fallow evr).trans (congrArg Evr.fallow recorder :)
    · exact (congrArg Evr.flushing evr).trans (congrArg Evr.flushing recorder :)
    · exact congrArg Evr.flushfail evr
    · exact congrArg Evr.erase evr
    · exact (congrArg Evr.follow evr).trans (congrArg Evr.follow recorder :)
    · exact (congrArg (·.sbd.state) rest).trans ((congrArg Sbd.state sbd).trans (by rw [State.fallen_sbd]))
    · exact (congrArg State.job rest).trans (job.trans (s.fallen_job n bb))
    · exact (congrArg Evr.nextseq evr).trans (congrArg Evr.nextseq recorder :)
    · rw [State.flushFailed_half, State.modHalf_half, buffer.half]
      rfl
    · rw [State.flushFailed_half, State.modHalf_half_ne _ _ _ _ ne.symm, buffer.other g ne, State.fallen_half]
    · have stopped := (State.plot_of_plots ((congrArg State.plots rest :).trans plots) p).trans (s.fallen_plot n bb p)
      exact stopped ▸ ⟨rfl, rfl, rfl, rfl⟩
  case headers =>
    obtain ⟨bb, run, bytes⟩ := execBlackBoxEraseStep_headers headers
    exact ⟨_, run, rfl, bytes, rfl⟩
  case superblock =>
    exact ⟨_, execBlackBoxEraseStep_superblock super live, rfl, rfl, fun b => by
      simpa using s.bbWrite_get 0 (superBytes 0 [0, 0, 0]) b, rfl⟩
  case slots =>
    obtain ⟨bb, run, bytes⟩ := execBlackBoxEraseStep_slots slots follow
    exact ⟨_, run, rfl, bytes, rfl⟩

end Sys2Proof.ErrorsAndRecorder
end

section
/-! Writes of the recorder's, the seedbed's and the debug units' registers through the port of the control host: their words, and what
an accepted one does (R371, R374, R376, R377, R394, R398, R431, R434, R435, R442). -/

namespace Sys2Proof.Machine

open Sys2Proof.Claim

/-! ### Fields of words -/

theorem bits_lt (v : W32) (hi lo : Nat) : bits v hi lo < 2 ^ (hi + 1 - lo) := Nat.mod_lt _ (by positivity)

theorem rsv_ok {v : W32} {hi lo : Nat} (zero : bits v hi lo = 0) : (rsv hi lo).ok v = true := by simp [Field.ok, rsv, zero]

theorem anyF_ok (v : W32) (hi lo dflt : Nat) : (anyF hi lo dflt).ok v = true := by
  simp only [Field.ok, anyF, Nat.zero_le, decide_true, Bool.true_and]
  exact decide_eq_true (Nat.le_sub_one_of_lt (bits_lt v hi lo))

theorem rng_ok {v : W32} {hi lo mn mx : Nat} (dflt : Nat) (least : mn ≤ bits v hi lo) (most : bits v hi lo ≤ mx) :
    (rng hi lo mn mx dflt).ok v = true := by simp [Field.ok, rng, least, most]

/-- A word of a register other than PWR_CAP is accepted when each of its fields is. -/
theorem Reg.wordOk_of_fields {r : Reg} {v : W32} (ne : r ≠ .pwrcap) (ok : ∀ f ∈ r.fields, f.ok v = true) : r.wordOk v = true := by
  simpa [Reg.wordOk, ne] using ok

theorem bits_or (v m : W32) (hi lo : Nat) : bits (v ||| m) hi lo = bits v hi lo ||| bits m hi lo := by
  simp only [bits, BitVec.toNat_or, Nat.shiftRight_or_distrib, Nat.or_mod_two_pow]

/-- Setting bits above a field leaves the field. -/
theorem bits_or_outside {m : W32} (v : W32) {hi lo : Nat} (out : bits m hi lo = 0) : bits (v ||| m) hi lo = bits v hi lo := by
  rw [bits_or, out, Nat.or_zero]

theorem bit_or (v m : W32) (k : Nat) : bit (v ||| m) k = (bit v k || bit m k) := BitVec.getLsbD_or

/-! ### EVR_CTL (R371, R374, R377) -/

/-- A word of EVR_CTL with FLUSH, CLEARHIST, BBERASE and QEN. -/
structure EvrctlWord (v : W32) (flush clear erase : Bool) (qen : BitVec 8) : Prop where
  ok : Reg.wordOk .evrctl v = true
  flush : bit v 31 = flush
  clear : bit v 30 = clear
  erase : bit v 29 = erase
  qen : BitVec.ofNat 8 v.toNat = qen

theorem EvrctlWord.of_fields {n : Nat} (flush clear erase : Bool) (qen : BitVec 8)
    (e : n = b2n flush * 2 ^ 31 + b2n clear * 2 ^ 30 + b2n erase * 2 ^ 29 + qen.toNat) :
    EvrctlWord (w32 n) flush clear erase qen := by
  have hq := qen.isLt
  have hf := b2n_le_one flush
  have hc := b2n_le_one clear
  have he := b2n_le_one erase
  have small : n < 2 ^ 32 := by omega
  constructor
  · refine Reg.wordOk_of_fields nofun fun f mem => ?_
    obtain rfl | rfl : f = rsv 28 8 ∨ f = anyF 7 0 0x13 := by simpa [Reg.fields] using mem
    · exact rsv_ok (by rw [bits_w32 _ _ small]; omega)
    · exact anyF_ok ..
  · rw [bit_w32 _ small]
    exact (decide_eq_decide.2 (by omega)).trans (decide_b2n flush)
  · rw [bit_w32 _ small]
    exact (decide_eq_decide.2 (by omega)).trans (decide_b2n clear)
  · rw [bit_w32 _ small]
    exact (decide_eq_decide.2 (by omega)).trans (decide_b2n erase)
  · refine BitVec.eq_of_toNat_eq ?_
    rw [w32_toNat small, BitVec.toNat_ofNat]
    omega

/-- The state with an erase that begins: after the flush in progress, or with the headers (R377). -/
def State.beginErase (s : State) : State :=
  if s.evr.erase.isNone then
    { s with evr := { s.evr with erase := some (if s.evr.flushing.isSome then .waitFlush else .headers) } }
  else s

theorem State.freeHist_eq (s : State) (f : Hist → Bool) : s.freeHist f = { s with evr := { s.evr with
    halfA := { s.evr.halfA with hist := (s.half .a).hist.map fun x => match x with
      | some h => if f h then none else some h
      | none => none }
    halfB := { s.evr.halfB with hist := (s.half .b).hist.map fun x => match x with
      | some h => if f h then none else some h
      | none => none } } } := rfl

section
variable {s : State} {h : HostPort}

theorem Serves.exec_evrctl (sv : Serves s h) {v : W32} {flush clear erase : Bool} (w : EvrctlWord v flush clear erase s.evr.qen) :
    writeBoth h 0x70000 v s = .next ((if erase && !s.planIdle then none else
      let s1 := if clear then s.freeHist fun _ => true else s
      let s2 := if flush then s1.triggerFlush .write .notice 0 else s1
      some (if erase then s2.beginErase else s2)).getD (ruleBroken s)) := by
  obtain ⟨ok, rfl, rfl, rfl, qen⟩ := w
  have stored : s.storeReg .evrctl v = s := by
    show ({ s with evr := { s.evr with qen := BitVec.ofNat 8 v.toNat } } : State) = s
    rw [qen]
  have written : s.writeReg h .evrctl v = s.writeEvrctl v := by rw [State.writeReg, ok]; rfl
  refine sv.writeBoth_at pairAt_evrctl (written.trans ?_)
  simp only [State.writeEvrctl, stored, State.beginErase]
  cases bit v 29 <;> rfl

theorem Serves.exec_flush (sv : Serves s h) : exec (.flush h) s = .next (s.triggerFlush .write .notice 0) :=
  sv.exec_evrctl (.of_fields true false false s.evr.qen (by simp [b2n]))

theorem Serves.exec_clearhist (sv : Serves s h) : exec (.clearhist h) s = .next (s.freeHist fun _ => true) :=
  sv.exec_evrctl (.of_fields false true false s.evr.qen (by simp [b2n]))

theorem Serves.exec_bberase (sv : Serves s h) :
    exec (.bberase h) s = .next (if s.planIdle then s.beginErase else ruleBroken s) := by
  refine (sv.exec_evrctl (.of_fields false false true s.evr.qen (by simp [b2n]))).trans ?_
  cases s.planIdle <;> rfl

/-! ### EVR_QCFG (R376) -/

theorem Serves.exec_qcfg (sv : Serves s h) {q : Fin 8} {v : W32} (kind : bits v 31 30 ≤ 2) (width : 1 ≤ bits v 24 12)
    (idle : s.planIdle = true) :
    exec (.evrQcfgWrite h q v) s = .next ((s.storeReg (.qcfg q) v).freeHist fun x => x.quant = q) := by
  have ok : Reg.wordOk (.qcfg q) v = true := by
    refine Reg.wordOk_of_fields nofun fun f mem => ?_
    have least := bits_lt v 24 12
    obtain rfl | rfl | rfl | rfl : f = rng 31 30 0 2 0 ∨ f = anyF 29 25 0 ∨ f = rng 24 12 1 8191 1 ∨ f = anyF 11 0 0 := by
      simpa [Reg.fields] using mem
    · exact rng_ok 0 (Nat.zero_le _) kind
    · exact anyF_ok ..
    · exact rng_ok 1 width (by omega)
    · exact anyF_ok ..
  exact sv.writeBoth_at (pairAt_qcfg q) (x := some _) (by rw [State.writeReg, ok]; exact if_pos idle)

theorem Serves.exec_qcfg_refused (sv : Serves s h) (q : Fin 8) (v : W32) (runs : s.planIdle = false) :
    exec (.evrQcfgWrite h q v) s = .next (ruleBroken s) := by
  refine sv.writeBoth_at (pairAt_qcfg q) (x := none) ?_
  unfold State.writeReg
  split
  · rfl
  · exact if_neg (by simp [runs])

/-! ### SBD_FLASHCTL (R394, R398) -/

/-- The operation that an OP of SBD_FLASHCTL begins. -/
def flashOpOf (op a : Nat) : FlashOp :=
  match op with
  | 1 => .image a
  | 2 => .calWrite a
  | _ => .calRead a

theorem State.writeFlashctl_eq (s : State) (v : W32) : s.writeFlashctl v =
    if !s.planIdle || s.sbd.busy.isSome then none
    else some (flashing s (BitVec.ofNat 4 (bits v 31 28)) (flashOpOf (bits v 31 28) s.sbd.flashaddr.toNat)) := rfl

theorem Serves.exec_flashctl (sv : Serves s h) {v : W32} (ok : Reg.wordOk .flashctl v = true) :
    writeBoth h 0x80030 v s = .next (if !s.planIdle || s.sbd.busy.isSome then ruleBroken s else
      flashing s (BitVec.ofNat 4 (bits v 31 28)) (flashOpOf (bits v 31 28) s.sbd.flashaddr.toNat)) := by
  have written : s.writeReg h .flashctl v = s.writeFlashctl v := by rw [State.writeReg, ok]; rfl
  refine (sv.writeBoth_at pairAt_flashctl (written.trans (s.writeFlashctl_eq v))).trans (congrArg _ ?_)
  split <;> rfl

theorem Serves.exec_flashImageProgram (sv : Serves s h) : exec (.flashImageProgram h) s = .next
    (if !s.planIdle || s.sbd.busy.isSome then ruleBroken s else flashing s 1 (.image s.sbd.flashaddr.toNat)) :=
  sv.exec_flashctl (v := 0x10000000) (by decide)

theorem Serves.exec_calibrationWrite (sv : Serves s h) : exec (.calibrationWrite h) s = .next
    (if !s.planIdle || s.sbd.busy.isSome then ruleBroken s else flashing s 2 (.calWrite s.sbd.flashaddr.toNat)) :=
  sv.exec_flashctl (v := 0x20000000) (by decide)

theorem Serves.exec_calibrationRead (sv : Serves s h) : exec (.calibrationRead h) s = .next
    (if !s.planIdle || s.sbd.busy.isSome then ruleBroken s else flashing s 3 (.calRead s.sbd.flashaddr.toNat)) :=
  sv.exec_flashctl (v := 0x30000000) (by decide)

end

end Sys2Proof.Machine
end

section
/-! Writes of the debug units' registers through the port of the control host: counters, traces and watches (R431, R434, R435, R442). -/

namespace Sys2Proof.Machine

open Sys2Proof.Claim

/-! ### DBG_CNTCTL (R428, R431, R446) -/

/-- The plot with its counters cleared. -/
def Plot.cleared (q : Plot) : Plot := { q with counters := q.counters.map fun c => { c with value := 0 } }

/-- A change of counters' values is undone by clearing them. -/
theorem Plot.cleared_mapIdx (q : Plot) {f : Nat → Counter → Counter} (same : ∀ i c, { f i c with value := 0 } = { c with value := 0 }) :
    ({ q with counters := q.counters.mapIdx f } : Plot).cleared = q.cleared := by
  simp only [Plot.cleared, Plot.mk.injEq, true_and]
  refine Vector.ext fun i small => ?_
  simpa using same i q.counters[i]

theorem State.modPlot_map_same (s : State) (p : PlotIx) {f g : Plot → Plot} (same : ∀ q, g (f q) = g q) :
    (s.modPlot p f).plots.map g = s.plots.map g := by
  refine Vector.ext fun i small => ?_
  simp only [Vector.getElem_map, State.modPlot, State.setPlot, Vector.getElem_set]
  split
  next e => subst e; exact same _
  next => rfl

/-- Settling the timing counters of a plot changes only counters' values. -/
theorem State.settle_cleared (s : State) (p : PlotIx) : (s.settle p).plots.map Plot.cleared = s.plots.map Plot.cleared := by
  unfold State.settle
  split
  case isTrue =>
    refine State.forEach_keeps (fun u : State => u.plots.map Plot.cleared) s (List.range 8) _ fun u n => ?_
    dsimp only
    split
    case isTrue =>
      refine State.modPlot_map_same _ p fun q => Plot.cleared_mapIdx q fun i c => ?_
      split <;> rfl
    case isFalse => rfl
  case isFalse => rfl

/-- What settling the timing counters leaves as it is: memory, the recorder and the debug registers. -/
theorem State.settle_beside (s : State) (p : PlotIx) :
    (s.settle p).mem = s.mem ∧ (s.settle p).evr = s.evr ∧ (s.settle p).dbg = s.dbg := by
  unfold State.settle
  split
  case isTrue =>
    have kept := State.forEach_keeps (fun u : State => (u.mem, u.evr, u.dbg)) s (List.range 8)
    simp only [Prod.mk.injEq] at kept
    refine kept _ fun u n => ?_
    dsimp only
    split
    case isTrue => exact ⟨rfl, rfl, rfl⟩
    case isFalse => exact ⟨rfl, rfl, rfl⟩
  case isFalse => exact ⟨rfl, rfl, rfl⟩

/-- The state with every plot's timing counters settled. -/
def State.settled (s : State) : State := s.forEach allPlots fun s p => s.settle p

theorem State.settled_cleared (s : State) : s.settled.plots.map Plot.cleared = s.plots.map Plot.cleared :=
  State.forEach_keeps (fun u : State => u.plots.map Plot.cleared) s allPlots _ fun u p => u.settle_cleared p

theorem State.settled_beside (s : State) :
    s.settled.mem = s.mem ∧ s.settled.evr = s.evr ∧ s.settled.dbg = s.dbg ∧ s.settled.job = s.job ∧ s.settled.sync = s.sync := by
  obtain ⟨-, sync, -, job, -⟩ := (State.core_eq _ _).1 (s.forEach_core allPlots _ fun u p => u.settle_core p)
  have kept := State.forEach_keeps (fun u : State => (u.mem, u.evr, u.dbg)) s allPlots (fun s p => s.settle p) fun u p => by
    obtain ⟨mem, evr, dbg⟩ := u.settle_beside p
    simp only [mem, evr, dbg]
  obtain ⟨mem, evr, dbg⟩ : s.settled.mem = s.mem ∧ s.settled.evr = s.evr ∧ s.settled.dbg = s.dbg := by
    simpa only [State.settled, Prod.mk.injEq] using kept
  exact ⟨mem, evr, dbg, job, sync⟩

/-- A word with CLEAR clears every counter and is stored; snapshots begin with the next row. -/
theorem State.writeCntctl_clears {s : State} {v : W32} (clear : bit v 29 = true) : s.writeCntctl v =
    { s.settled with
      plots := s.plots.map Plot.cleared
      job := if bit v 30 && !s.dbg.snap then { s.job with snapRow := some (s.job.row + 1) } else s.job
      dbg := { s.dbg with count := bit v 31, snap := bit v 30, rows := BitVec.ofNat 16 v.toNat } } := by
  obtain ⟨-, -, dbg, job, -⟩ := s.settled_beside
  have round : (s.forEach allPlots fun s p => s.settle p) = s.settled := rfl
  have plots := s.settled_cleared
  unfold State.writeCntctl
  rw [round]
  generalize s.settled = u at dbg job plots ⊢
  rw [clear, ← plots, ← dbg, ← job]
  dsimp only [State.storeReg]
  rw [if_pos rfl]
  cases bit v 30 && !u.dbg.snap <;> rfl

section
variable {s : State} {h : HostPort}

theorem Serves.exec_cntctlClear (sv : Serves s h) {v : W32} (reserved : bits v 28 16 = 0) (rows : 1 ≤ bits v 15 0) :
    exec (.cntctlClear h v) s = .next { s.settled with
      plots := s.plots.map Plot.cleared
      job := if bit v 30 && !s.dbg.snap then { s.job with snapRow := some (s.job.row + 1) } else s.job
      dbg := { s.dbg with count := bit v 31, snap := bit v 30, rows := BitVec.ofNat 16 v.toNat } } := by
  have ok : Reg.wordOk .cntctl (v ||| 0x20000000) = true := by
    refine Reg.wordOk_of_fields nofun fun f mem => ?_
    have most := bits_lt v 15 0
    obtain rfl | rfl : f = rsv 28 16 ∨ f = rng 15 0 1 65535 1 := by simpa [Reg.fields] using mem
    · exact rsv_ok ((bits_or_outside v (by decide)).trans reserved)
    · have same : bits (v ||| 0x20000000) 15 0 = bits v 15 0 := bits_or_outside v (by decide)
      exact rng_ok 1 (by omega) (by omega)
  have count : bit (v ||| 0x20000000) 31 = bit v 31 := (bit_or ..).trans (Bool.or_false _)
  have snap : bit (v ||| 0x20000000) 30 = bit v 30 := (bit_or ..).trans (Bool.or_false _)
  have clear : bit (v ||| 0x20000000) 29 = true := (bit_or ..).trans (Bool.or_true _)
  have low : BitVec.ofNat 16 (v ||| 0x20000000).toNat = BitVec.ofNat 16 v.toNat := by simp
  have written : s.writeReg h .cntctl (v ||| 0x20000000) = some (s.writeCntctl (v ||| 0x20000000)) := by
    rw [State.writeReg, ok]; rfl
  refine (sv.writeBoth_at pairAt_cntctl written).trans (congrArg _ ?_)
  rw [Option.getD_some, State.writeCntctl_clears clear, count, snap, low]

end

/-! ### DBG_TRIGALL (R435) -/

/-- The trace unit has its trigger: it is no longer armed. -/
structure TraceDie.Triggered (t : TraceDie) : Prop where
  valid : t.trigvalid = true
  arm : t.arm = false
  state : t.state ≠ .armed

theorem State.modTrace_triggered {s : State} {d : DieIx} (done : (s.trace d).Triggered) {f : TraceDie → TraceDie}
    (keeps : ∀ t : TraceDie, t.Triggered → (f t).Triggered) : ((s.modTrace d f).trace d).Triggered := by
  rw [State.modTrace_trace]
  exact keeps _ done

theorem State.withMem_trace (s : State) (m : Mem) (e : DieIx) : ({ s with mem := m } : State).trace e = s.trace e := rfl

/-- A record leaves other dies' trace units as they are. -/
theorem State.traceStore_trace_ne (s : State) {d e : DieIx} (ne : d ≠ e) (slot : Nat) (r : TraceRec) :
    (s.traceStore d slot r).trace e = s.trace e := by
  unfold State.traceStore
  dsimp only
  split
  case isTrue => exact s.withMem_trace _ e
  case isFalse => exact s.modTrace_trace_ne d e _ ne

theorem State.tracePlace_trace_ne (s : State) {d e : DieIx} (ne : d ≠ e) (r : TraceRec) :
    (s.tracePlace d r).trace e = s.trace e :=
  (State.modTrace_trace_ne _ d e _ ne).trans (s.traceStore_trace_ne ne ..)

theorem State.traceWrite_trace_ne (s : State) {d e : DieIx} (ne : d ≠ e) (r : TraceRec) :
    (s.traceWrite d r).trace e = s.trace e := by
  have dropped (u : State) (f : TraceDie → TraceDie) (x : TraceRec) : ((u.tracePlace d x).modTrace d f).trace e = u.trace e :=
    (State.modTrace_trace_ne _ d e f ne).trans (u.tracePlace_trace_ne ne x)
  unfold State.traceWrite
  dsimp only
  split
  · exact s.modTrace_trace_ne d e _ ne
  split
  · rfl
  split
  · exact s.modTrace_trace_ne d e _ ne
  split
  · exact s.tracePlace_trace_ne ne r
  · split
    · exact (State.modTrace_trace_ne _ d e _ ne).trans (dropped ..)
    · exact (State.tracePlace_trace_ne _ ne r).trans (dropped ..)

theorem State.traceTrigger_trace_ne (s : State) {d e : DieIx} (ne : d ≠ e) (r : TraceRec) :
    (s.traceTrigger d r).trace e = s.trace e := by
  have one (u : State) (f : TraceDie → TraceDie) : (u.modTrace d f).trace e = u.trace e := u.modTrace_trace_ne d e f ne
  unfold State.traceTrigger
  dsimp only
  split
  · rfl
  refine (one ..).trans ?_
  split
  · refine (State.traceWrite_trace_ne _ ne _).trans ((one ..).trans ?_)
    split
    · exact s.withMem_trace _ e
    · exact one ..
  · refine (one ..).trans ?_
    split
    · exact s.withMem_trace _ e
    · exact one ..

/-- A record of a trace unit that has its trigger leaves it so. -/
theorem State.traceStore_triggered {s : State} {d : DieIx} (done : (s.trace d).Triggered) (slot : Nat) (r : TraceRec) :
    ((s.traceStore d slot r).trace d).Triggered := by
  unfold State.traceStore
  dsimp only
  split
  case isTrue => rw [State.withMem_trace]; exact done
  case isFalse => exact State.modTrace_triggered done fun t ⟨valid, arm, state⟩ => ⟨valid, arm, state⟩

theorem State.tracePlace_triggered {s : State} {d : DieIx} (done : (s.trace d).Triggered) (r : TraceRec) :
    ((s.tracePlace d r).trace d).Triggered := by
  refine State.modTrace_triggered (State.traceStore_triggered done ..) fun t ⟨valid, arm, state⟩ => ?_
  constructor
  case valid => grind
  case arm => grind
  case state => grind

theorem State.traceWrite_triggered {s : State} {d : DieIx} (done : (s.trace d).Triggered) (r : TraceRec) :
    ((s.traceWrite d r).trace d).Triggered := by
  have beside {u : State} (has : (u.trace d).Triggered) {f : TraceDie → TraceDie}
      (same : ∀ t : TraceDie, (f t).trigvalid = t.trigvalid ∧ (f t).arm = t.arm ∧ (f t).state = t.state) :
      ((u.modTrace d f).trace d).Triggered :=
    State.modTrace_triggered has fun t ⟨valid, arm, state⟩ => by
      obtain ⟨valid', arm', state'⟩ := same t
      exact ⟨valid'.trans valid, arm'.trans arm, state' ▸ state⟩
  unfold State.traceWrite
  dsimp only
  split
  · exact beside done fun _ => ⟨rfl, rfl, rfl⟩
  split
  · exact done
  split
  · exact beside done fun _ => ⟨rfl, rfl, rfl⟩
  split
  · exact State.tracePlace_triggered done r
  · have noted := beside (State.tracePlace_triggered done
      (s.traceRec 0x0B 0x3FF (Pos.none s.job.row) (s.trace d).dropped 0)) (f := fun t => { t with dropped := 0 }) fun _ => ⟨rfl, rfl, rfl⟩
    split
    · exact beside noted fun _ => ⟨rfl, rfl, rfl⟩
    · exact State.tracePlace_triggered noted r

/-- A trace unit that is off, has its trigger or is not enabled takes no other. -/
theorem State.traceTrigger_idle {s : State} {d : DieIx} (r : TraceRec)
    (idle : (s.trace d).en = false ∨ (s.trace d).trigvalid = true) : s.traceTrigger d r = s := by
  refine if_pos ?_
  obtain off | valid := idle
  · simp [off]
  · simp [valid]

/-- The first trigger of an armed trace unit. -/
theorem State.traceTrigger_triggered {s : State} {d : DieIx} (r : TraceRec) (en : (s.trace d).en = true)
    (first : (s.trace d).trigvalid = false) (armed : (s.trace d).state = .armed) : ((s.traceTrigger d r).trace d).Triggered := by
  unfold State.traceTrigger
  dsimp only
  rw [if_neg (by simp [en, first, armed])]
  have marked (u : State) : ((u.modTrace d fun t => { t with
      trigvalid := true, arm := false, state := if t.state = .armed then .triggered else t.state }).trace d).Triggered := by
    rw [State.modTrace_trace]
    refine ⟨rfl, rfl, ?_⟩
    dsimp only
    split <;> simp_all
  refine State.modTrace_triggered ?_ fun t ⟨valid, arm, state⟩ => ?_
  · split
    · exact State.traceWrite_triggered (marked _) _
    · exact marked _
  · split
    · split
      · exact ⟨valid, arm, nofun⟩
      · exact ⟨valid, arm, state⟩
    · exact ⟨valid, arm, state⟩

section
variable {s : State} {d : DieIx} {rec : State → TraceRec}

/-- Triggers of every die leave the trace unit of a die that is not enabled. -/
theorem State.triggers_idle (off : (s.trace d).en = false) (l : List DieIx) :
    (s.forEach l fun s e => s.traceTrigger e (rec s)).trace d = s.trace d := by
  refine List.foldlRecOn (motive := fun t : State => t.trace d = s.trace d) l _ rfl fun t same e _ => ?_
  by_cases eq : e = d
  · subst eq
    have idle : (t.trace e).en = false := by rw [same]; exact off
    rw [State.traceTrigger_idle _ (.inl idle)]
    exact same
  · rw [t.traceTrigger_trace_ne eq]
    exact same

theorem State.triggers_keep (done : (s.trace d).Triggered) (l : List DieIx) :
    ((s.forEach l fun s e => s.traceTrigger e (rec s)).trace d).Triggered := by
  refine List.foldlRecOn (motive := fun t : State => (t.trace d).Triggered) l _ done fun t done e _ => ?_
  by_cases eq : e = d
  · subst eq
    rw [State.traceTrigger_idle _ (.inr done.valid)]
    exact done
  · rw [t.traceTrigger_trace_ne eq]
    exact done

/-- Triggers of every die trigger an armed one. -/
theorem State.triggers_armed {l : List DieIx} (mem : d ∈ l) (en : (s.trace d).en = true) (first : (s.trace d).trigvalid = false)
    (armed : (s.trace d).state = .armed) : ((s.forEach l fun s e => s.traceTrigger e (rec s)).trace d).Triggered := by
  induction l generalizing s with
  | nil => exact nomatch mem
  | cons e l ih =>
    by_cases eq : e = d
    · subst eq
      exact State.triggers_keep (State.traceTrigger_triggered _ en first armed) l
    · have same := s.traceTrigger_trace_ne eq (rec s)
      exact ih ((List.mem_cons.1 mem).resolve_left (Ne.symm eq)) (by rw [same]; exact en) (by rw [same]; exact first)
        (by rw [same]; exact armed)

theorem State.triggers_beside {t : State} {l : List DieIx} (all : t = s.forEach l fun s e => s.traceTrigger e (rec s)) :
    t.plots = s.plots ∧ t.evr = s.evr ∧ t.job = s.job ∧ t.dbg.spread = s.dbg.spread := by
  subst all
  have core := s.forEach_core l (fun s e => s.traceTrigger e (rec s)) fun u e => u.traceTrigger_core e _
  obtain ⟨-, -, -, job, -⟩ := (State.core_eq _ _).1 core
  have rest := State.forEach_keeps State.dbgRest s l (fun s e => s.traceTrigger e (rec s)) fun u e => u.traceTrigger_dbgRest e _
  exact ⟨State.forEach_keeps State.plots s l _ fun u e => u.traceTrigger_plots e _,
    State.forEach_keeps State.evr s l _ fun u e => u.traceTrigger_evr e _, job, (congrArg Dbg.spread rest :)⟩

end

/-- The record of a FIRE (R435). -/
def State.fireRec (s : State) : TraceRec := s.traceRec 0x0C 0x3FF (Pos.none s.job.row) 1 0

/-- The state in which every enabled die has been triggered (R435). -/
def State.fired (s : State) : State := s.forEach allDies fun s d => s.traceTrigger d s.fireRec

theorem State.fired_idle {s : State} {d : DieIx} (off : (s.trace d).en = false) : s.fired.trace d = s.trace d :=
  State.triggers_idle (rec := State.fireRec) off allDies

theorem State.fired_armed {s : State} {d : DieIx} (en : (s.trace d).en = true) (first : (s.trace d).trigvalid = false)
    (armed : (s.trace d).state = .armed) : (s.fired.trace d).Triggered :=
  State.triggers_armed (rec := State.fireRec) (List.mem_finRange d) en first armed

theorem State.fired_beside (s : State) :
    s.fired.plots = s.plots ∧ s.fired.evr = s.evr ∧ s.fired.job = s.job ∧ s.fired.dbg.spread = s.dbg.spread :=
  State.triggers_beside (rec := State.fireRec) (l := allDies) rfl

section
variable {s : State} {h : HostPort}

theorem Serves.exec_fire (sv : Serves s h) (b : Bool) :
    exec (.fire h b) s = .next ({ s with dbg := { s.dbg with spread := b } } : State).fired := by
  have ok : Reg.wordOk .trigall (w32 (1 + 2 * b2n b)) = true := by revert b; decide
  have fire : bit (w32 (1 + 2 * b2n b)) 0 = true := by revert b; decide
  have spread : bit (w32 (1 + 2 * b2n b)) 1 = b := by revert b; decide
  have written : s.writeReg h .trigall (w32 (1 + 2 * b2n b)) = some (s.writeTrigall (w32 (1 + 2 * b2n b))) := by
    rw [State.writeReg, ok]; rfl
  have fires : s.writeTrigall (w32 (1 + 2 * b2n b)) = ({ s with dbg := { s.dbg with spread := b } } : State).fired := by
    unfold State.writeTrigall
    rw [fire, State.storeReg, spread]
    exact if_pos rfl
  exact (sv.writeBoth_at pairAt_trigall written).trans (congrArg Host.Outcome.next fires)

/-! ### DBG_TRCCTL (R434) -/

theorem Serves.exec_arm (sv : Serves s h) (d : DieIx) {v : W32} (spill : bit v 23 = false) (mode : bits v 29 28 ≤ 2)
    (pos : 1 ≤ bits v 27 24) (slice : bits v 22 19 ≤ 11) (reserved : bits v 18 0 = 0) :
    exec (.arm h d v) s = .next (s.modTrace d fun t => { t with
      en := true, mode := BitVec.ofNat 2 (bits v 29 28), pos := BitVec.ofNat 4 (bits v 27 24), spill := false
      slice := BitVec.ofNat 4 (bits v 22 19), arm := true, state := .armed, wrapped := false, trigvalid := false, wridx := 0, left := 0
      full := 0, throttled := 0, tseq := 0, dropped := 0, ring := [], trigrec := none }) := by
  have field {hi lo : Nat} (out : bits 0xC0000000 hi lo = 0) : bits (v ||| 0xC0000000) hi lo = bits v hi lo := bits_or_outside v out
  have modeF : bits (v ||| 0xC0000000) 29 28 = bits v 29 28 := field (by decide)
  have posF : bits (v ||| 0xC0000000) 27 24 = bits v 27 24 := field (by decide)
  have sliceF : bits (v ||| 0xC0000000) 22 19 = bits v 22 19 := field (by decide)
  have reservedF : bits (v ||| 0xC0000000) 18 0 = bits v 18 0 := field (by decide)
  have en : bit (v ||| 0xC0000000) 31 = true := (bit_or ..).trans (Bool.or_true _)
  have arm : bit (v ||| 0xC0000000) 30 = true := (bit_or ..).trans (Bool.or_true _)
  have spillF : bit (v ||| 0xC0000000) 23 = false := (bit_or ..).trans ((Bool.or_false _).trans spill)
  have ok : Reg.wordOk (.trcctl d) (v ||| 0xC0000000) = true := by
    refine Reg.wordOk_of_fields nofun fun f mem => ?_
    have most := bits_lt v 27 24
    obtain rfl | rfl | rfl | rfl : f = rng 29 28 0 2 0 ∨ f = rng 27 24 1 15 8 ∨ f = rng 22 19 0 11 0 ∨ f = rsv 18 0 := by
      simpa [Reg.fields] using mem
    · exact rng_ok 0 (Nat.zero_le _) (modeF ▸ mode)
    · exact rng_ok 8 (posF ▸ pos) (by omega)
    · exact rng_ok 0 (Nat.zero_le _) (sliceF ▸ slice)
    · exact rsv_ok (reservedF.trans reserved)
  have written : s.writeReg h (.trcctl d) (v ||| 0xC0000000) = s.writeTrcctl d (v ||| 0xC0000000) := by
    rw [State.writeReg, ok]; rfl
  refine (sv.writeBoth_at (pairAt_trcctl d) (written.trans rfl)).trans (congrArg _ ?_)
  simp only [State.writeTrcctl, spillF, en, arm, modeF, posF, sliceF, Bool.false_and, Bool.and_false, Bool.and_true,
    Bool.false_eq_true, if_true, if_false, Option.getD_some]

/-! ### DBG_WATCHn (R442) -/

/-- A word of DBG_WATCHn with REG, WDRAW, N and QUEUE. -/
structure WatchWord (v : W32) (reg wdraw : Bool) (n : BitVec 7) (queue : BitVec 12) : Prop where
  ok : ∀ d i, Reg.wordOk (.dbgwatch d i) v = true
  reg : bit v 31 = reg
  wdraw : bit v 30 = wdraw
  n : bits v 18 12 = n.toNat
  queue : bits v 11 0 = queue.toNat

theorem WatchWord.of_fields {k : Nat} (reg wdraw : Bool) {n : BitVec 7} (queue : BitVec 12) (least : 1 ≤ n.toNat)
    (most : n.toNat ≤ 64) (e : k = b2n reg * 2 ^ 31 + b2n wdraw * 2 ^ 30 + n.toNat * 2 ^ 12 + queue.toNat) :
    WatchWord (w32 k) reg wdraw n queue := by
  have hq := queue.isLt
  have hr := b2n_le_one reg
  have hw := b2n_le_one wdraw
  have small : k < 2 ^ 32 := by omega
  have count : bits (w32 k) 18 12 = n.toNat := by rw [bits_w32 _ _ small]; omega
  refine ⟨fun d i => Reg.wordOk_of_fields nofun fun f mem => ?_, ?_, ?_, count, ?_⟩
  · obtain rfl | rfl : f = rsv 29 19 ∨ f = rng 18 12 1 64 1 := by simpa [Reg.fields] using mem
    · exact rsv_ok (by rw [bits_w32 _ _ small]; omega)
    · exact rng_ok 1 (count ▸ least) (count ▸ most)
  · rw [bit_w32 _ small]
    exact (decide_eq_decide.2 (by omega)).trans (decide_b2n reg)
  · rw [bit_w32 _ small]
    exact (decide_eq_decide.2 (by omega)).trans (decide_b2n wdraw)
  · rw [bits_w32 _ _ small]; omega

/-- The debugger's watch n of die d. -/
def State.dbgWatch (s : State) (d : DieIx) (n : Fin 4) : DbgWatch := (s.dbg.watches.get d).get n

theorem State.modDbgWatch_get (s : State) (d : DieIx) (n : Fin 4) (f : DbgWatch → DbgWatch) :
    (s.modDbgWatch d n f).dbgWatch d n = f (s.dbgWatch d n) := by
  simp [State.dbgWatch, State.modDbgWatch, Vector.get_eq_getElem]

theorem State.modDbgWatch_self {s : State} {d : DieIx} {n : Fin 4} {f : DbgWatch → DbgWatch}
    (same : f (s.dbgWatch d n) = s.dbgWatch d n) : s.modDbgWatch d n f = s := by
  unfold State.dbgWatch at same
  simp only [State.modDbgWatch, same]
  simp [Vector.get_eq_getElem]

/-- The watch that a debugger's registration places at its sync unit. -/
def State.newDbgWatch (s : State) (n : Fin 4) (count queue : Nat) : Watch :=
  { slot := 0, kind := .debugger, plot := 0, dbg := n, object := BitVec.ofNat 12 queue, n := count, consume := 0, elapsed := 0,
    timeout := s.smod.defaultus.toNat, pos := Pos.none s.job.row }

theorem Serves.exec_watch (sv : Serves s h) (d : DieIx) (n : Fin 4) {v : W32} {reg wdraw : Bool} {c : BitVec 7} {q : BitVec 12}
    (w : WatchWord v reg wdraw c q) : writeBoth h (watchOff d n) v s = .next (s.writeWatch d n v) :=
  sv.writeBoth_at (pairAt_dbgwatch d n) (x := some _) (by rw [State.writeReg, w.ok]; rfl)

theorem Serves.exec_reg (sv : Serves s h) (d : DieIx) (n : Fin 4) {c : BitVec 7} (q : BitVec 12) (least : 1 ≤ c.toNat)
    (most : c.toNat ≤ 64) (unused : (s.dbgWatch d n).reg = false) :
    exec (.reg h d n c q) s = .next (((s.modDbgWatch d n fun w => { w with n := c, queue := q }).modDbgWatch d n fun w =>
      { w with reg := true, outcome := .none }).modUnit d fun u => { u with regs := u.regs ++ [s.newDbgWatch n c.toNat q.toNat] }) := by
  have w : WatchWord (w32 (2 ^ 31 + c.toNat * 2 ^ 12 + q.toNat)) true false c q := .of_fields true false q least most (by simp [b2n])
  refine (sv.exec_watch d n w).trans (congrArg _ ?_)
  rw [State.dbgWatch] at unused
  simp only [State.writeWatch, State.storeReg, w.reg, w.wdraw, w.n, w.queue, unused, BitVec.ofNat_toNat, BitVec.setWidth_eq,
    Bool.not_false, Bool.and_self, if_true, Bool.false_and, Bool.false_eq_true, if_false, State.newDbgWatch]

theorem Serves.exec_wdraw (sv : Serves s h) (d : DieIx) (n : Fin 4) (least : 1 ≤ (s.dbgWatch d n).n.toNat)
    (most : (s.dbgWatch d n).n.toNat ≤ 64) :
    exec (.wdraw h d n) s = .next (if (s.dbgWatch d n).reg then s.modUnit d fun u => { u with dbgWithdraws := u.dbgWithdraws ++ [n] }
      else s) := by
  have w : WatchWord (w32 (2 ^ 30 + (s.dbgWatch d n).n.toNat * 2 ^ 12 + (s.dbgWatch d n).queue.toNat)) false true
      (s.dbgWatch d n).n (s.dbgWatch d n).queue := .of_fields false true _ least most (by simp [b2n])
  have stored : s.storeReg (.dbgwatch d n) (w32 (2 ^ 30 + (s.dbgWatch d n).n.toNat * 2 ^ 12 + (s.dbgWatch d n).queue.toNat)) = s := by
    rw [State.storeReg]
    exact State.modDbgWatch_self (by rw [w.n, w.queue, BitVec.ofNat_toNat, BitVec.ofNat_toNat, BitVec.setWidth_eq, BitVec.setWidth_eq])
  refine (sv.exec_watch d n w).trans (congrArg _ ?_)
  simp only [State.writeWatch, stored, w.reg, w.wdraw, Bool.false_and, Bool.false_eq_true, if_false, Bool.true_and]
  rfl

end

end Sys2Proof.Machine
end

section
/-! SBD_RECOV in recovery mode, and the ends of flash operations (R393, R394, R398, R401). -/

namespace Sys2Proof.Machine

open Sys2Proof.Claim

/-! ### A port that takes writes in recovery mode (R381, R392) -/

section
variable {s : State} {h : HostPort}

/-- The two words of an RWP register, written through a linked port that may write them, are one write of it (R13, R15). -/
theorem Linked.pairWrite_at (l : Linked s h) (own : s.isDataHost h = false) {off : Nat} {r : Reg} (p : PairAt off r)
    (may : s.mayWrite h off = true) (may' : s.mayWrite h (off + 4) = true) (v : W32) :
    s.pairWrite h off v = (s.writeReg h r v).getD s.ruleBreak := by
  obtain ⟨place, place', aligned, ⟨module, module'⟩, ⟨noToken, noToken'⟩, inside⟩ := p
  have key : regKeyAt off = some r.key := by simp [regKeyAt, place]
  have key' : regKeyAt (off + 4) = some r.key := by simp [regKeyAt, place']
  have first : s.request h (.regWrite off 4 (v.zeroExtend 64)) = s.modPci h fun p => { p with pairs := [(off, v, false)] } := by
    rw [State.request_regWrite s h off 4 _ l.up l.d0 l.rails l.idle (by omega), State.busWrite_word s h off v noToken aligned own]
    simp only [State.writeWord, own, Bool.and_false, Bool.false_eq_true, if_false, may, Bool.not_true, place, State.writePair, l.pairs]
    simp [State.modPci_modPci, Pci.spoilWord, key]
    refine State.modPci_congr _ _ _ _ ?_
    simp [l.pairs]
  unfold State.pairWrite
  rw [first]
  obtain ⟨u, hu⟩ : ∃ u, u = s.modPci h fun p => { p with pairs := [(off, v, false)] } := ⟨_, rfl⟩
  have port : u.pci h = { s.pci h with pairs := [(off, v, false)] } := by rw [hu]; exact State.modPci_pci ..
  have own' : u.isDataHost h = false := by rw [hu]; simpa [State.isDataHost] using own
  have mayU : u.mayWrite h (off + 4) = true := by rw [hu]; simpa [State.mayWrite, State.recwin] using may'
  have back : ((u.modPci h fun p => { p with pairs := p.pairs.filter fun y => y.1 ≠ off }).modPci h fun p =>
      p.spoilWord (off + 4)) = s := by
    rw [hu, State.modPci_modPci, State.modPci_modPci]
    refine State.modPci_self _ _ _ ?_
    have none := l.pairs
    generalize s.pci h = q at none ⊢
    cases q
    simp only at none
    simp [Pci.spoilWord, key', none]
  rw [← hu, State.request_regWrite u h (off + 4) 4 _ (by rw [port]; exact l.up) (by rw [port]; exact l.d0)
    (by rw [hu]; simpa using l.rails) (by rw [port]; exact l.idle) (by omega), State.busWrite_word u h (off + 4) _ noToken' (by omega) own']
  simp only [State.writeWord, own', Bool.and_false, Bool.false_eq_true, if_false, mayU, Bool.not_true, place', State.writePair, if_true,
    Nat.add_sub_cancel]
  simp only [ne_eq, decide_not] at back
  simp [port, back]

theorem pairAt_recov : PairAt 0x80050 .recov := ⟨by decide, by decide, by decide, by decide, by decide, by decide⟩

theorem State.mayWrite_recovery (live : s.evr.fallow = false) (mode : s.sbd.state = .recovery) {off : Nat}
    (word : recoveryWord off = true) : s.mayWrite h off = true := by
  simp [State.mayWrite, live, mode, State.recwin, word]

end

theorem Pci.irqEvent_keeps (p : Pci) (v : Fin 4) (fallow : Bool) :
    (p.irqEvent v fallow).stalled = p.stalled ∧ (p.irqEvent v fallow).wins = p.wins := by
  unfold Pci.irqEvent
  dsimp only
  split
  · exact ⟨rfl, rfl⟩
  split
  · exact ⟨rfl, rfl⟩
  · exact ⟨rfl, rfl⟩

theorem State.setSbd_pci (s : State) (st : SbdState) (h : HostPort) :
    ((s.setSbd st).pci h).stalled = (s.pci h).stalled ∧ ((s.setSbd st).pci h).wins = (s.pci h).wins := by
  unfold State.setSbd
  dsimp only
  split
  · cases h <;> exact ⟨rfl, rfl⟩
  · cases h
    · exact s.pciA.irqEvent_keeps 3 s.evr.fallow
    · exact s.pciB.irqEvent_keeps 3 s.evr.fallow

/-- SBD_STATUS.STATE takes a value, after a change of the start-up state. -/
theorem State.setSbd_taken (s : State) (st : SbdState) (f : Sbd → Sbd) :
    StateTaken s (({ s with sbd := f s.sbd } : State).setSbd st) st f := by
  have taken := State.setSbd_eq { s with sbd := f s.sbd } st
  refine ⟨(congrArg State.sbd taken :), fun h => State.setSbd_pci { s with sbd := f s.sbd } st h, ?_⟩
  rw [taken]

theorem State.setSbd_elsewhere (s : State) (st : SbdState) :
    { s.setSbd st with sbd := s.sbd, pciA := s.pciA, pciB := s.pciB } = s := by
  rw [State.setSbd_eq]

theorem State.setSbd_sbd (s : State) (st : SbdState) : (s.setSbd st).sbd = { s.sbd with state := st } := by rw [State.setSbd_eq]

/-- GO has the pushed image checked (R393). -/
theorem Linked.exec_sbdRecovGo {s : State} {h : HostPort} (l : Linked s h) (own : s.isDataHost h = false)
    (mode : s.sbd.state = .recovery) (live : s.evr.fallow = false) (b : Bool) :
    exec (.sbdRecovGo h b) s = .next (({ s with sbd := { s.sbd with program := b, busy := some (.pushed h b) } } : State).setSbd .checking) := by
  have ok : Reg.wordOk .recov (w32 (1 + 2 * b2n b)) = true := by revert b; decide
  have go : bit (w32 (1 + 2 * b2n b)) 0 = true := by revert b; decide
  have program : bit (w32 (1 + 2 * b2n b)) 1 = b := by revert b; decide
  have written : s.writeReg h .recov (w32 (1 + 2 * b2n b)) = some (({ s with sbd := { s.sbd with
      program := b, busy := some (.pushed h b) } } : State).setSbd .checking) := by
    rw [State.writeReg, ok]
    show s.writeRecov h _ = _
    simp only [State.writeRecov, mode, go, State.storeReg, program]
    rfl
  have pair := l.pairWrite_at own pairAt_recov (State.mayWrite_recovery live mode (by decide))
    (State.mayWrite_recovery live mode (by decide)) (w32 (1 + 2 * b2n b))
  exact congrArg Host.Outcome.next (pair.trans (congrArg (·.getD s.ruleBreak) written))

/-! ### FLASH_OPERATION_DONE (R393, R394, R398, R401) -/

theorem cellsGet_length (d : Byte) (m : List Host.Cell) (a n : Nat) : (cellsGet d m a n).length = n := by simp [cellsGet]

theorem cellsGet_getD (d : Byte) (m : List Host.Cell) (a : Nat) {n i : Nat} (small : i < n) (x : Byte) :
    (cellsGet d m a n).getD i x = cellGet d m (a + i) := by
  simp [cellsGet, small]

section
variable {s : State} {ok : Bool}

theorem exec_flashOperationDone_image (on : s.pwr.railsOn = true) {a : Nat} (busy : s.sbd.busy = some (.image a)) :
    exec (.flashOperationDone ok) s = .next (if !s.rangeGuarded a 0x1000 then flashed s 5
      else if (imageValid s.sbd.order s.sbd.keys (s.sourceBytes (.image a))).isNone then flashed s 2
      else if !s.rangeGuarded a (wordAt (s.sourceBytes (.image a) 0x0C 4) 0).toNat then flashed s 5
      else s.flashStore (.image a) (programImage s.sbd.flash (s.imageBytes (.image a))) ok) := by
  show execFlashOperationDone ok s = _
  simp only [execFlashOperationDone, busy, on, Bool.not_true, Bool.false_eq_true, if_false]
  split
  · rfl
  split
  · rfl
  split
  · rfl
  · rfl

theorem exec_flashOperationDone_calWrite (on : s.pwr.railsOn = true) {a : Nat} (busy : s.sbd.busy = some (.calWrite a)) :
    exec (.flashOperationDone ok) s = .next (if !s.rangeGuarded a 0x10000 then flashed s 5
      else if !calibInRange (s.sourceBytes (.calWrite a) 0 0x10000) then flashed s 3
      else s.flashStore (.calWrite a) (cellsBlit 0xFF s.sbd.flash 0x1000000 (s.calibBytes (.calWrite a))) ok) := by
  show execFlashOperationDone ok s = _
  simp only [execFlashOperationDone, busy, on, Bool.not_true, Bool.false_eq_true, if_false]
  split
  · rfl
  split
  · rfl
  · rfl

theorem exec_flashOperationDone_calRead (on : s.pwr.railsOn = true) {a : Nat} (busy : s.sbd.busy = some (.calRead a)) :
    exec (.flashOperationDone ok) s = .next (if !s.rangeGuarded a 0x10000 then s.flashEnds 5
      else (s.engineWrite a (s.sbd.flashBytes 0x1000000 0x10000)).flashEnds 1) := by
  show execFlashOperationDone ok s = _
  simp only [execFlashOperationDone, busy, on, Bool.not_true, Bool.false_eq_true, if_false]
  split
  · rfl
  · rfl

theorem exec_flashOperationDone_pushed (on : s.pwr.railsOn = true) {h : HostPort} {b : Bool} (busy : s.sbd.busy = some (.pushed h b)) :
    exec (.flashOperationDone ok) s = .next (s.pushDone h b ok) := by
  show execFlashOperationDone ok s = _
  simp only [execFlashOperationDone, busy, on, Bool.not_true, Bool.false_eq_true, if_false]

end

/-- The flash has been written. -/
theorem State.flashStore_ok (s : State) (f : FlashOp) (fl : List Host.Cell) :
    s.flashStore f fl true = flashed { s with sbd := { s.sbd with flash := fl } } 1 := rfl

theorem State.flashEnds_done (s : State) : s.flashEnds 1 = flashed s 1 := rfl

/-- What the flash reads after an image has been programmed. -/
theorem State.programImage_get (s : State) (a b : Nat) :
    cellGet 0xFF (programImage s.sbd.flash (s.imageBytes (.image a))) b =
      if b < (wordAt (s.sourceBytes (.image a) 0x0C 4) 0).toNat then cellGet 0 s.mem.cells (a + b) else cellGet 0xFF s.sbd.flash b := by
  unfold programImage State.imageBytes
  dsimp only
  generalize (wordAt (s.sourceBytes (.image a) 0x0C 4) 0).toNat = n
  have length : (s.sourceBytes (.image a) 0 n).length = n := cellsGet_length ..
  rw [cellGet_cellsBlit, length, Nat.zero_add, Nat.sub_zero]
  by_cases inside : b < n
  · rw [if_pos ⟨Nat.zero_le b, inside⟩, if_pos inside]
    exact cellsGet_getD 0 s.mem.cells _ inside _
  · rw [if_neg (mt And.right inside), if_neg inside]

theorem patch_length {bs v : List Byte} {off : Nat} (inside : off + v.length ≤ bs.length) : (patch bs off v).length = bs.length := by
  simp only [patch, List.length_append, List.length_take, List.length_drop]
  omega

theorem State.calibBytes_length (s : State) (f : FlashOp) : (s.calibBytes f).length = 0x10000 := by
  have source : (s.sourceBytes f 0 0x10000).length = 0x10000 := cellsGet_length ..
  unfold State.calibBytes
  generalize s.sourceBytes f 0 0x10000 = b at source ⊢
  have once : ∀ k : Nat, (patch b 4 (bytesOfNat 4 k)).length = 0x10000 := fun k =>
    (patch_length (by rw [bytesOfNat_length, source]; decide)).trans source
  have twice : ∀ k j : Nat, (patch (patch b 4 (bytesOfNat 4 k)) 8 (bytesOfNat 4 j)).length = 0x10000 := fun k j =>
    (patch_length (by rw [bytesOfNat_length, once]; decide)).trans (once k)
  simp only [List.length_append, List.length_take, twice, bytesOfWords_length, List.length_cons, List.length_nil]
  decide

/-- What the flash reads after a calibration table has been programmed. -/
theorem State.programCalib_get (s : State) (f : FlashOp) (b : Nat) :
    cellGet 0xFF (cellsBlit 0xFF s.sbd.flash 0x1000000 (s.calibBytes f)) b =
      if 0x1000000 ≤ b ∧ b < 0x1010000 then (s.calibBytes f).getD (b - 0x1000000) 0 else cellGet 0xFF s.sbd.flash b := by
  have length := s.calibBytes_length f
  rw [cellGet_cellsBlit, length]
  by_cases inside : 0x1000000 ≤ b ∧ b < 0x1010000
  · rw [if_pos inside, if_pos inside]
    have small : b - 0x1000000 < (s.calibBytes f).length := by omega
    rw [List.getD_eq_getElem _ _ small, List.getD_eq_getElem _ _ small]
  · rw [if_neg inside, if_neg inside]

/-- The table of the flash reaches device memory. -/
theorem State.readCalib_holds {s : State} (form : Memory.wf s.mem.cells = true) (a : Nat) :
    Holds s (flashed (s.engineWrite a (s.sbd.flashBytes 0x1000000 0x10000)) 1) a 0x10000
      (fun i => cellGet 0xFF s.sbd.flash (0x1000000 + i)) := by
  have length : (s.sbd.flashBytes 0x1000000 0x10000).length = 0x10000 := cellsGet_length ..
  have byte (i : Nat) (small : i < 0x10000) :
      (s.sbd.flashBytes 0x1000000 0x10000).getD i 0 = cellGet 0xFF s.sbd.flash (0x1000000 + i) :=
    cellsGet_getD 0xFF s.sbd.flash _ small _
  generalize s.sbd.flashBytes 0x1000000 0x10000 = v at length byte ⊢
  have read (b : Nat) := cellGet_cellsPut 0 s.mem.cells a b v form
  refine ⟨fun b low high => ?_, fun b out => ?_⟩
  · exact (read b).trans ((if_pos ⟨low, by omega⟩).trans (byte _ (by omega)))
  · exact (read b).trans (if_neg (by omega))

/-- A pushed image that does not verify. -/
theorem State.pushDone_bad {s : State} {g : HostPort} {b : Bool} (bad : imageValid s.sbd.order s.sbd.keys (s.sourceBytes (.pushed g b)) = none)
    (ok : Bool) : s.pushDone g b ok = ({ s with sbd := { s.sbd with busy := none } } : State).recover 3 := by
  unfold State.pushDone
  dsimp only
  rw [bad]

theorem State.recover_eq (s : State) (n : Nat) :
    s.recover n = ({ s with sbd := { s.sbd with recreason := BitVec.ofNat 4 n } } : State).setSbd .recovery := rfl

/-- A pushed image that verifies and is not programmed is claimed by the half of its port. -/
theorem State.pushDone_good {s : State} {g : HostPort} {x : W32 × BitVec 384}
    (good : imageValid s.sbd.order s.sbd.keys (s.sourceBytes (.pushed g false)) = some x) (ok : Bool) :
    s.pushDone g false ok = ({ s with sbd := { (({ s.sbd with busy := none } : Sbd).setCopy (halfOfPort g) (some x)).setClaim
      (halfOfPort g) x.1 with pushed := some g } } : State).setSbd .starting := by
  unfold State.pushDone
  dsimp only
  rw [good]
  rfl

theorem Sbd.claimed (x : Sbd) (h : Half) (c : W32 × BitVec 384) :
    ((x.setCopy h (some c)).setClaim h c.1).copy h = some c ∧ ((x.setCopy h (some c)).setClaim h c.1).claim h = some c.1 := by
  cases h <;> exact ⟨rfl, if_pos rfl⟩

theorem Sbd.started_claims (x : Sbd) (p : Option HostPort) (st : SbdState) (h : Half) :
    ({ x with pushed := p, state := st } : Sbd).copy h = x.copy h ∧ ({ x with pushed := p, state := st } : Sbd).claim h = x.claim h := by
  cases h <;> exact ⟨rfl, rfl⟩

theorem Sbd.claimed_keeps (x : Sbd) (h : Half) (c : W32 × BitVec 384) :
    ((x.setCopy h (some c)).setClaim h c.1).busy = x.busy ∧ ((x.setCopy h (some c)).setClaim h c.1).flash = x.flash := by
  cases h <;> exact ⟨rfl, rfl⟩

end Sys2Proof.Machine
end

section
/-! The commands of the recorder, the seedbed and the debug units, gathered (R371, R374, R376, R377, R393, R394, R398, R401, R431, R434,
R435, R442). -/

namespace Sys2Proof.Machine

open Sys2Proof.Claim

section
variable {s : State} {h : HostPort}

/-! ### The recorder (R371, R374, R376, R377) -/

theorem Serves.flush_starts (sv : Serves s h) (free : s.evr.flushing = none) (unerased : s.evr.erase = none) :
    exec (.flush h) s = .next (s.startFlush .write .notice 0) := by
  rw [sv.exec_flush, State.triggerFlush, sv.live, free, unerased]
  rfl

theorem Serves.flush_follows (sv : Serves s h) (busy : s.evr.flushing.isSome = true ∨ s.evr.erase.isSome = true) :
    exec (.flush h) s = .next { s with evr := { s.evr with follow := some (s.evr.follow.getD (.write, .notice, 0)) } } := by
  have on : (s.evr.flushing.isSome || s.evr.erase.isSome) = true := by simpa using busy
  rw [sv.exec_flush, State.triggerFlush, sv.live, on]
  rfl

theorem Serves.bberase_begins (sv : Serves s h) (idle : s.planIdle = true) (unerased : s.evr.erase = none) :
    exec (.bberase h) s = .next { s with evr := { s.evr with
      erase := some (if s.evr.flushing.isSome = true then .waitFlush else .headers) } } := by
  rw [sv.exec_bberase, idle, if_pos rfl, State.beginErase, unerased]
  rfl

theorem Serves.bberase_refused (sv : Serves s h) (runs : s.planIdle = false) : exec (.bberase h) s = .next (ruleBroken s) := by
  rw [sv.exec_bberase, runs]
  rfl

theorem State.freeHist_freed (s : State) (f : Fin 8 → Bool) :
    (s.freeHist fun x => f x.quant) = { s with evr := { s.evr with halfA := freed s.evr.halfA f, halfB := freed s.evr.halfB f } } := rfl

/-! ### The debug units (R431, R435, R442) -/

theorem Serves.cntctlClear_clears (sv : Serves s h) (v : W32) (reserved : bits v 28 16 = 0) (rows : 1 ≤ bits v 15 0) :
    ∃ t, exec (.cntctlClear h v) s = .next t ∧
      (∀ p, t.plot p = { s.plot p with counters := (s.plot p).counters.map fun c => { c with value := 0 } }) ∧
      t.dbg = { s.dbg with count := bit v 31, snap := bit v 30, rows := BitVec.ofNat 16 v.toNat } ∧
      (t.job.snapRow = if bit v 30 = true ∧ s.dbg.snap = false then some (s.job.row + 1) else s.job.snapRow) ∧ t.mem = s.mem ∧
      t.evr = s.evr ∧ t.sync = s.sync := by
  obtain ⟨mem, evr, -, -, sync⟩ := s.settled_beside
  have done := sv.exec_cntctlClear reserved rows
  generalize s.settled = u at mem evr sync done
  refine ⟨_, done, fun p => ?_, rfl, ?_, mem, evr, sync⟩
  · simp [State.plot, Plot.cleared, Vector.get_eq_getElem]
  · dsimp only
    cases bit v 30 <;> cases s.dbg.snap <;> rfl

theorem Serves.fire_triggers (sv : Serves s h) (b : Bool) : ∃ t, exec (.fire h b) s = .next t ∧ t.dbg.spread = b ∧
    (∀ d, (s.trace d).en = true → (s.trace d).trigvalid = false → (s.trace d).state = .armed → (s.trace d).mode ≠ 2 →
      (t.trace d).trigvalid = true ∧ (t.trace d).arm = false ∧ (t.trace d).state ≠ .armed) ∧
    (∀ d, (s.trace d).en = false → t.trace d = s.trace d) ∧ t.plots = s.plots ∧ t.evr = s.evr ∧ t.job = s.job := by
  have done := sv.exec_fire b
  obtain ⟨plots, evr, job, spread⟩ := State.fired_beside { s with dbg := { s.dbg with spread := b } }
  have idle (d : DieIx) := State.fired_idle (s := { s with dbg := { s.dbg with spread := b } }) (d := d)
  have fires (d : DieIx) := State.fired_armed (s := { s with dbg := { s.dbg with spread := b } }) (d := d)
  generalize State.fired _ = u at done plots evr job spread idle fires
  refine ⟨u, done, spread, fun d en first armed _ => ?_, idle, plots, evr, job⟩
  obtain ⟨valid, arm, state⟩ := fires d en first armed
  exact ⟨valid, arm, state⟩

theorem Serves.reg_registers (sv : Serves s h) (d : DieIx) (n : Fin 4) (c : BitVec 7) (q : BitVec 12) (least : 1 ≤ c.toNat)
    (most : c.toNat ≤ 64) (unused : ((s.dbg.watches.get d).get n).reg = false) : ∃ t, exec (.reg h d n c q) s = .next t ∧
      (t.dbg.watches.get d).get n = { (s.dbg.watches.get d).get n with reg := true, outcome := .none, n := c, queue := q } ∧
      (∃ w, (t.unit d).regs = (s.unit d).regs ++ [w] ∧ w.kind = .debugger ∧ w.dbg = n ∧ w.object = q ∧ w.n = c.toNat ∧
        w.consume = 0 ∧ w.timeout = s.smod.defaultus.toNat) ∧
      OnlyUnit s t d ∧ t.plots = s.plots ∧ t.evr = s.evr ∧ t.mem = s.mem := by
  have done := sv.exec_reg d n q least most unused
  obtain ⟨u, hu⟩ : ∃ u, u = (s.modDbgWatch d n fun w => { w with n := c, queue := q }).modDbgWatch d n fun w =>
    { w with reg := true, outcome := .none } := ⟨_, rfl⟩
  have watch : u.dbgWatch d n = { s.dbgWatch d n with reg := true, outcome := .none, n := c, queue := q } := by
    rw [hu, State.modDbgWatch_get, State.modDbgWatch_get]
  have beside : u.sync = s.sync ∧ u.plots = s.plots ∧ u.evr = s.evr ∧ u.mem = s.mem := by
    rw [hu]
    exact ⟨rfl, rfl, rfl, rfl⟩
  rw [← hu] at done
  obtain ⟨sync, plots, evr, mem⟩ := beside
  have unit (e : DieIx) : u.unit e = s.unit e := congrArg (·.get e) sync
  refine ⟨_, done, watch, ⟨s.newDbgWatch n c.toNat q.toNat, ?_, rfl, rfl, ?_, rfl, rfl, rfl⟩, fun e ne => ?_, plots, evr, mem⟩
  · rw [State.modUnit_unit, unit]
  · simp [State.newDbgWatch]
  · exact (State.modUnit_unit_ne _ d e _ ne.symm).trans (unit e)

end

/-! ### The ends of flash operations (R393, R394, R398, R401) -/

section
variable {s : State} {ok : Bool}

theorem flashDone_image (on : s.pwr.railsOn = true) {a n : Nat} (busy : s.sbd.busy = some (.image a))
    (length : n = (wordAt (s.sourceBytes (.image a) 0x0C 4) 0).toNat) :
    (s.rangeGuarded a 0x1000 = false → exec (.flashOperationDone ok) s = .next (flashed s 5)) ∧
    (s.rangeGuarded a 0x1000 = true → imageValid s.sbd.order s.sbd.keys (s.sourceBytes (.image a)) = none →
      exec (.flashOperationDone ok) s = .next (flashed s 2)) ∧
    (s.rangeGuarded a 0x1000 = true → (imageValid s.sbd.order s.sbd.keys (s.sourceBytes (.image a))).isSome = true →
      (s.rangeGuarded a n = false → exec (.flashOperationDone ok) s = .next (flashed s 5)) ∧
      (s.rangeGuarded a n = true → ok = true → ∃ t, exec (.flashOperationDone ok) s = .next t ∧
        (∀ b, cellGet 0xFF t.sbd.flash b = if b < n then cellGet 0 s.mem.cells (a + b) else cellGet 0xFF s.sbd.flash b) ∧
        t = flashed { s with sbd := { s.sbd with flash := t.sbd.flash } } 1)) := by
  subst length
  rw [exec_flashOperationDone_image on busy]
  refine ⟨fun off => ?_, fun guarded bad => ?_, fun guarded good => ?_⟩
  · rw [off]; rfl
  · rw [guarded, bad]; rfl
  · have valid : (imageValid s.sbd.order s.sbd.keys (s.sourceBytes (.image a))).isNone = false := by
      rw [← Option.not_isSome, good]; rfl
    rw [guarded, valid]
    refine ⟨fun off => ?_, fun inside done => ?_⟩
    · rw [off]; rfl
    · subst done
      refine ⟨s.flashStore (.image a) (programImage s.sbd.flash (s.imageBytes (.image a))) true, by rw [inside]; rfl, ?_, rfl⟩
      exact s.programImage_get a

theorem flashDone_calWrite (on : s.pwr.railsOn = true) {a : Nat} (busy : s.sbd.busy = some (.calWrite a)) :
    (s.rangeGuarded a 0x10000 = false → exec (.flashOperationDone ok) s = .next (flashed s 5)) ∧
    (s.rangeGuarded a 0x10000 = true → calibInRange (s.memBytes a 0x10000) = false →
      exec (.flashOperationDone ok) s = .next (flashed s 3)) ∧
    (s.rangeGuarded a 0x10000 = true → calibInRange (s.memBytes a 0x10000) = true → ok = true →
      ∃ t, exec (.flashOperationDone ok) s = .next t ∧
        (∀ b, cellGet 0xFF t.sbd.flash b = if 0x1000000 ≤ b ∧ b < 0x1010000 then (s.calibBytes (.calWrite a)).getD (b - 0x1000000) 0
          else cellGet 0xFF s.sbd.flash b) ∧ t = flashed { s with sbd := { s.sbd with flash := t.sbd.flash } } 1) := by
  have source : s.sourceBytes (.calWrite a) 0 0x10000 = s.memBytes a 0x10000 := congrArg (s.memBytes · 0x10000) (Nat.add_zero a)
  rw [exec_flashOperationDone_calWrite on busy, source]
  refine ⟨fun off => ?_, fun guarded bad => ?_, fun guarded good done => ?_⟩
  · rw [off]; rfl
  · rw [guarded, bad]; rfl
  · subst done
    have read := s.programCalib_get (.calWrite a)
    generalize cellsBlit 0xFF s.sbd.flash 0x1000000 (s.calibBytes (.calWrite a)) = fl at read ⊢
    exact ⟨s.flashStore (.calWrite a) fl true, by rw [guarded, good]; rfl, read, rfl⟩

/-- The end of a read whose bytes `v` memory holds afterwards. -/
theorem flashDone_read {a : Nat} {v : List Byte} {r : Nat → Byte}
    (done : exec (.flashOperationDone ok) s = .next (if !s.rangeGuarded a 0x10000 then s.flashEnds 5 else (s.engineWrite a v).flashEnds 1))
    (holds : Memory.wf s.mem.cells = true → Holds s (flashed (s.engineWrite a v) 1) a 0x10000 r) :
    (s.rangeGuarded a 0x10000 = false → exec (.flashOperationDone ok) s = .next (flashed s 5)) ∧
    (s.rangeGuarded a 0x10000 = true → Memory.wf s.mem.cells = true → ∃ t, exec (.flashOperationDone ok) s = .next t ∧
      Holds s t a 0x10000 r ∧ { t with mem := s.mem } = flashed s 1) := by
  rw [done]
  refine ⟨fun off => ?_, fun guarded form => ?_⟩
  · rw [off]; rfl
  · refine ⟨flashed (s.engineWrite a v) 1, ?_, holds form, rfl⟩
    rw [guarded]; rfl

theorem flashDone_calRead (on : s.pwr.railsOn = true) {a : Nat} (busy : s.sbd.busy = some (.calRead a)) :
    (s.rangeGuarded a 0x10000 = false → exec (.flashOperationDone ok) s = .next (flashed s 5)) ∧
    (s.rangeGuarded a 0x10000 = true → Memory.wf s.mem.cells = true → ∃ t, exec (.flashOperationDone ok) s = .next t ∧
      Holds s t a 0x10000 (fun i => cellGet 0xFF s.sbd.flash (0x1000000 + i)) ∧ { t with mem := s.mem } = flashed s 1) :=
  flashDone_read (exec_flashOperationDone_calRead on busy) fun form => State.readCalib_holds form a

theorem flashDone_pushed (on : s.pwr.railsOn = true) {g : HostPort} {b : Bool} (busy : s.sbd.busy = some (.pushed g b)) :
    (imageValid s.sbd.order s.sbd.keys (s.sourceBytes (.pushed g b)) = none → ∃ t, exec (.flashOperationDone ok) s = .next t ∧
      StateTaken s t .recovery fun x => { x with busy := none, recreason := 3 }) ∧
    (∀ x, imageValid s.sbd.order s.sbd.keys (s.sourceBytes (.pushed g b)) = some x → b = false →
      ∃ t, exec (.flashOperationDone ok) s = .next t ∧ t.sbd.state = .starting ∧ t.sbd.pushed = some g ∧
        t.sbd.copy (halfOfPort g) = some x ∧ t.sbd.claim (halfOfPort g) = some x.1 ∧ t.sbd.busy = none ∧
        t.sbd.flash = s.sbd.flash ∧ { t with sbd := s.sbd, pciA := s.pciA, pciB := s.pciB } = s) := by
  rw [exec_flashOperationDone_pushed on busy]
  refine ⟨fun bad => ⟨_, rfl, ?_⟩, fun x good plain => ⟨_, rfl, ?_⟩⟩
  · rw [State.pushDone_bad bad, State.recover_eq]
    exact s.setSbd_taken .recovery fun x => { x with busy := none, recreason := 3 }
  · subst plain
    obtain ⟨copy, claim⟩ := Sbd.claimed { s.sbd with busy := none } (halfOfPort g) x
    obtain ⟨free, flash⟩ := Sbd.claimed_keeps { s.sbd with busy := none } (halfOfPort g) x
    rw [State.pushDone_good good]
    generalize (({ s.sbd with busy := none } : Sbd).setCopy (halfOfPort g) (some x)).setClaim (halfOfPort g) x.1 = y at copy claim free flash ⊢
    obtain ⟨keptCopy, keptClaim⟩ := y.started_claims (some g) .starting (halfOfPort g)
    obtain ⟨sbd, -, rest⟩ := s.setSbd_taken .starting fun _ => { y with pushed := some g }
    refine ⟨(congrArg Sbd.state sbd :), (congrArg Sbd.pushed sbd :), ?_, ?_, (congrArg Sbd.busy sbd :).trans free,
      (congrArg Sbd.flash sbd :).trans flash, rest⟩
    · rw [sbd]; exact keptCopy.trans copy
    · rw [sbd]; exact keptClaim.trans claim

end

end Sys2Proof.Machine

namespace Sys2Proof.StartUpAndSeedbed

open Sys2Proof.Machine Sys2Proof.Claim

/-- Settles O56: what each command's register write does at the port of the control host, and each flash operation's end. -/
theorem recorderSeedbedAndDebugCommands : Obligations.RecorderSeedbedAndDebugCommands := by
  unfold Obligations.RecorderSeedbedAndDebugCommands
  refine fun s h => ⟨fun sv => ⟨?flush, ?follow, ?clearhist, ?bberase, ?bberaseRefused, ?qcfg, ?qcfgRefused, ?flash, ?flashRefused,
    ?cntctl, ?fire, ?arm, ?reg, ?wdraw, ?wdrawNone⟩, ?recovGo, fun on ok => ⟨?image, ?calWrite, ?calRead, ?pushed⟩⟩
  case flush => exact fun free unerased => ⟨_, sv.flush_starts free unerased, rfl, rfl, rfl⟩
  case follow => exact sv.flush_follows
  case clearhist => exact sv.exec_clearhist.trans (congrArg _ (s.freeHist_freed fun _ => true))
  case bberase => exact sv.bberase_begins
  case bberaseRefused => exact sv.bberase_refused
  case qcfg =>
    exact fun q v kind width idle =>
      (sv.exec_qcfg kind width idle).trans (congrArg _ ((s.storeReg (.qcfg q) v).freeHist_freed fun x => x = q))
  case qcfgRefused => exact sv.exec_qcfg_refused
  case flash =>
    intro idle free
    rw [sv.exec_flashImageProgram, sv.exec_calibrationWrite, sv.exec_calibrationRead, idle, free]
    exact ⟨rfl, rfl, rfl⟩
  case flashRefused =>
    intro busy
    have refused : (!s.planIdle || s.sbd.busy.isSome) = true := by simpa using busy
    rw [sv.exec_flashImageProgram, sv.exec_calibrationWrite, sv.exec_calibrationRead, refused]
    exact ⟨rfl, rfl, rfl⟩
  case cntctl => exact sv.cntctlClear_clears
  case fire => exact sv.fire_triggers
  case arm => exact fun d v => sv.exec_arm d
  case reg => exact sv.reg_registers
  case wdraw =>
    exact fun d n reg least most => (sv.exec_wdraw d n least most).trans (congrArg _ (if_pos reg))
  case wdrawNone =>
    exact fun d n unused least most => (sv.exec_wdraw d n least most).trans (congrArg _ (if_neg (by rw [State.dbgWatch, unused]; exact nofun)))
  case recovGo =>
    exact fun l own mode live b => ⟨_, l.exec_sbdRecovGo (Bool.eq_false_iff.2 (by simpa using own)) mode live b, s.setSbd_taken .checking fun x =>
      { x with program := b, busy := some (.pushed h b) }⟩
  case image =>
    rintro a n f busy rfl length
    exact flashDone_image on busy length
  case calWrite =>
    rintro a f busy rfl
    exact flashDone_calWrite on busy
  case calRead => exact fun a busy => flashDone_calRead on busy
  case pushed =>
    rintro g b f busy rfl -
    exact flashDone_pushed on busy

end Sys2Proof.StartUpAndSeedbed
end

section
/-! The rules of the power controller's state: strips, rails, and what an event of the supply, of a strip or of the pins changes
(R325, R333, R336, R339, R341, R454, R455). -/

namespace Sys2Proof.Machine

open Sys2Proof.Claim

/-! ### Strips -/

/-- The state with other strips. -/
def State.withStrips (s : State) (v : Vector Strip 80) : State := { s with pwr := { s.pwr with strips := v } }

theorem State.withStrips_self (s : State) : s.withStrips s.pwr.strips = s := rfl

/-- A step of each item of a list changes one strip; no two items have the same. -/
theorem State.forEach_strips {α : Type} {f : State → α → State} {at_ : α → StripIx} {g : α → Strip → Strip} {l : List α} {s : State}
    (step : ∀ t x, t.sbd = s.sbd → f t x = t.modStrip (at_ x) (g x)) (once : (l.map at_).Nodup) :
    ∃ v, s.forEach l f = s.withStrips v ∧ (∀ x ∈ l, v.get (at_ x) = g x (s.strip (at_ x))) ∧
      ∀ i, i ∉ l.map at_ → v.get i = s.strip i := by
  induction l generalizing s with
  | nil => exact ⟨s.pwr.strips, rfl, nofun, fun _ _ => rfl⟩
  | cons x l ih =>
    obtain ⟨notIn, once⟩ := List.nodup_cons.1 once
    have first := step s x rfl
    obtain ⟨v, all, inside, outside⟩ := ih (s := s.modStrip (at_ x) (g x)) (fun t y same => step t y same) once
    refine ⟨v, (congrArg (fun u : State => u.forEach l f) first).trans all, fun y mem => ?_, fun i out => ?_⟩
    · by_cases e : at_ y = at_ x
      · obtain rfl | later := List.mem_cons.1 mem
        · exact (outside _ notIn).trans (s.modStrip_strip ..)
        · exact absurd (e ▸ List.mem_map_of_mem later) notIn
      · have later : y ∈ l := (List.mem_cons.1 mem).resolve_left fun eq => e (congrArg at_ eq)
        exact (inside y later).trans (congrArg (g y) (s.modStrip_strip_ne _ _ _ (Ne.symm e)))
    · obtain ⟨ne, out⟩ : i ≠ at_ x ∧ i ∉ l.map at_ := by simpa [not_or] using out
      exact (outside i out).trans (s.modStrip_strip_ne _ _ _ ne.symm)

theorem mem_stripsOf {d : DieIx} {i : StripIx} : i ∈ stripsOf d ↔ dieOfStrip i = d := by
  simp [stripsOf, allStrips]

theorem stripsOf_nodup (d : DieIx) : (stripsOf d).Nodup := (List.nodup_finRange 80).filter _

/-! ### Counts (R343, R428) -/

/-- Only plots' counters and the recorder have changed. -/
structure CountsOnly (s t : State) : Prop where
  plots : PlotsKept s t
  rest : { t with plots := s.plots, evr := s.evr } = s

theorem countsOnly_refl (s : State) : CountsOnly s s := ⟨s.plotsKept_refl, rfl⟩

theorem countsOnly_trans {s t u : State} (h : CountsOnly s t) (g : CountsOnly t u) : CountsOnly s u :=
  ⟨State.plotsKept_trans h.plots g.plots,
    (congrArg (fun x : State => { x with plots := s.plots, evr := s.evr }) g.rest).trans h.rest⟩

theorem State.count_countsOnly (s : State) (p : PlotIx) (pos : Pos) (ev n : Nat) : CountsOnly s (s.count p pos ev n) := by
  refine ⟨s.countCh_plotsKept p pos none ev n, ?_⟩
  unfold State.count State.countCh
  split
  · rfl
  · rfl

/-- A count at each plot of a strip. -/
theorem State.countStrip_countsOnly (s : State) (i : StripIx) (ev n : Nat) : CountsOnly s (s.countStrip i ev n) := by
  unfold State.countStrip State.forEach
  refine List.foldlRecOn (motive := fun t => CountsOnly s t) (List.range 8) _ (countsOnly_refl s) fun t kept k _ => ?_
  exact countsOnly_trans kept (t.count_countsOnly ..)

theorem State.countStrip_evr (s : State) (i : StripIx) (ev n : Nat) : (s.countStrip i ev n).evr = s.evr :=
  State.forEach_keeps State.evr s (List.range 8) _ fun u _ => (u.countCh_rest ..).2

/-! ### Frequency changes (R333, R334) -/

/-- The code that a rail must carry: the highest of the die's, at the least the floor. -/
theorem State.railTarget_eq {s : State} {d : DieIx} {f : Nat} (most : ∀ i, dieOfStrip i = d → (s.strip i).railCode ≤ f)
    (some_ : ∃ i, dieOfStrip i = d ∧ (s.strip i).railCode = f) (floor : 32 ≤ f) :
    s.railTarget d = voltageOf (s.sbd.calib.curves.get d) f := by
  have least (l : List StripIx) (m : Nat) : m ≤ l.foldl (fun m i => Nat.max m (s.strip i).railCode) m ∧
      ∀ i ∈ l, (s.strip i).railCode ≤ l.foldl (fun m i => Nat.max m (s.strip i).railCode) m := by
    induction l generalizing m with
    | nil => exact ⟨le_rfl, nofun⟩
    | cons i l ih =>
      obtain ⟨start, each⟩ := ih (Nat.max m (s.strip i).railCode)
      refine ⟨(Nat.le_max_left ..).trans start, fun j mem => ?_⟩
      obtain rfl | later := List.mem_cons.1 mem
      · exact (Nat.le_max_right ..).trans start
      · exact each j later
  have bound : (stripsOf d).foldl (fun m i => Nat.max m (s.strip i).railCode) 32 ≤ f :=
    List.foldlRecOn (motive := fun m => m ≤ f) _ _ floor fun m small i mem => Nat.max_le.2 ⟨small, most i (mem_stripsOf.1 mem)⟩
  obtain ⟨i, die, code⟩ := some_
  have reached := (least (stripsOf d) 32).2 i (mem_stripsOf.2 die)
  have same : (stripsOf d).foldl (fun m i => Nat.max m (s.strip i).railCode) 32 = f := by omega
  rw [State.railTarget, same]

theorem execRailSlewDone_on {s : State} (awake : s.evr.fallow = false) (on : s.pwr.railsOn = true) (d : DieIx) :
    execRailSlewDone d s = .next (({ s with pwr := { s.pwr with
      rails := s.pwr.rails.set d.val (BitVec.ofNat 8 (s.railTarget d)) } } : State).forEach (stripsOf d) fun s i =>
        s.modStrip i fun x => if x.changing.isSome then { x with stopped := true } else x) := by
  simp only [execRailSlewDone, awake, on, Bool.not_true, Bool.or_self, Bool.false_eq_true, if_false]

theorem execFrequencyChangeStart_begins {s : State} {i : StripIx} (awake : s.evr.fallow = false) (on : s.pwr.railsOn = true)
    (differs : (s.strip i).decided ≠ (s.strip i).eff) (free : (s.strip i).changing = none) (late : 2 ≤ (s.strip i).changeAge) :
    execFrequencyChangeStart i s = .next ((s.modStrip i fun x => { x with
      changing := some x.decided, stopped := !(decide ((s.strip i).eff.toNat < (s.strip i).decided.toNat) &&
        decide ((s.pwr.rails.get (dieOfStrip i)).toNat < voltageOf (s.sbd.calib.curves.get (dieOfStrip i)) (s.strip i).decided.toNat))
      changeAge := 0 }).countStrip i 0x10 1) := by
  have notSoon : decide ((s.strip i).changeAge < 2) = false := decide_eq_false (by omega)
  simp only [execFrequencyChangeStart, awake, on, free, notSoon, decide_eq_false differs, Bool.false_and, Option.isSome_none,
    Bool.not_true, Bool.or_self, Bool.false_eq_true, if_false]

theorem execStripRestart_runs {s : State} {i : StripIx} {n : BitVec 7} (awake : s.evr.fallow = false)
    (changing : (s.strip i).changing = some n) (stopped : (s.strip i).stopped = true) :
    execStripRestart i s = .next ((s.modStrip i fun x => { x with eff := n, changing := none, stopped := false }).traceDie
      (dieOfStrip i) 0x08 i.val ((s.strip i).eff.toNat * 256 + n.toNat)) := by
  simp only [execStripRestart, changing, stopped, awake, Bool.not_true, Bool.or_self, Bool.false_eq_true, if_false]

/-! ### Droops and trips (R325, R339) -/

theorem execSupplyDroop_counts {s : State} {i : StripIx} (awake : s.evr.fallow = false) (runs : (s.strip i).stopped = false) (n : Nat) :
    execSupplyDroop i n s = .next ((s.rowAdd 2 i.val n).countStrip i 0x0E n) := by
  simp only [execSupplyDroop, awake, runs, Bool.or_self, Bool.false_eq_true, if_false]

theorem execCoreRailLow_raises {s : State} (awake : s.evr.fallow = false) (d : DieIx) :
    execCoreRailLow d s = .next (s.raiseAll (halfOfDie d) [s.mkErr 0x0701 .moduleFatal srcPower d.val []]) := by
  simp only [execCoreRailLow, awake, Bool.false_eq_true, if_false]
  rfl

/-- Every strip is stopped, its change abandoned; one shows the temperature of its trip. -/
def State.tripped (s : State) (i : StripIx) (T : Int) : State :=
  ({ s with
      pwr := { s.pwr with strips := s.pwr.strips.map fun x => { x with stopped := true, changing := none } }
      pins := { s.pins with thermTripN := false } } : State).modStrip i fun x => { x with temp := T }

theorem State.tripped_strip (s : State) (i : StripIx) (T : Int) (j : StripIx) : (s.tripped i T).strip j =
    { s.strip j with stopped := true, changing := none, temp := if j = i then T else (s.strip j).temp } := by
  unfold State.tripped
  by_cases e : j = i
  · subst e
    rw [State.modStrip_strip]
    simp [State.strip, Vector.get_eq_getElem]
  · rw [State.modStrip_strip_ne _ _ _ _ (Ne.symm e)]
    simp [State.strip, Vector.get_eq_getElem, e]

theorem execThermalTrip_trips {s : State} (awake : s.evr.fallow = false) {T : Int} (hot : 1150 ≤ T) (i : StripIx) :
    execThermalTrip i T s = .next ((s.tripped i T).raiseAll (halfOfDie (dieOfStrip i))
      [s.mkErr 0x0702 .moduleFatal srcPower i.val [(T % 2 ^ 16).toNat]]) := by
  simp only [execThermalTrip, if_neg (Int.not_lt.2 hot), awake, Bool.false_eq_true, if_false]
  rfl

/-! ### POWER_ENVELOPE and FEED_ID (R336, R454, R455) -/

theorem foldl_max_le {l : List Nat} {m k : Nat} (start : m ≤ k) (each : ∀ x ∈ l, x ≤ k) : l.foldl Nat.max m ≤ k :=
  List.foldlRecOn (motive := fun a => a ≤ k) l Nat.max start fun _ small x mem => Nat.max_le.2 ⟨small, each x mem⟩

theorem le_foldl_min {l : List Nat} {m k : Nat} (start : k ≤ m) (each : ∀ x ∈ l, k ≤ x) : k ≤ l.foldl Nat.min m :=
  List.foldlRecOn (motive := fun a => k ≤ a) l Nat.min start fun _ small x mem => Nat.le_min.2 ⟨small, each x mem⟩

theorem execEnvelopeReading_eq {l ws : List Nat} (latest : (l.drop (l.length - 16)).map envWatts = ws) (s : State) :
    execEnvelopeReading l s = .next (
      if !ws.all (fun w => decide (600 ≤ w) && decide (w ≤ 3000)) then { s with pwr := { s.pwr with envvalid := false } }
      else if ws.length = 16 && decide (ws.foldl Nat.max 0 ≤ ws.foldl Nat.min 3001 + 25) then
        { s with pwr := { s.pwr with env := some (BitVec.ofNat 12 (mean ws)), envvalid := true, envfail := false } }
      else s) := by
  subst latest
  unfold execEnvelopeReading
  dsimp only
  split
  · rfl
  split
  · rfl
  · rfl

theorem latest_of_sixteen {l : List Nat} (sixteen : l.length = 16) : (l.drop (l.length - 16)).map envWatts = l.map envWatts := by
  rw [sixteen]
  rfl

/-- Sixteen valid samples within 25 W of one another pass the filter. -/
theorem execEnvelopeReading_passes {l : List Nat} (sixteen : l.length = 16) (s : State) (valid : ∀ x ∈ l, 600 ≤ envWatts x ∧ envWatts x ≤ 3000)
    (near : ∀ x ∈ l, ∀ y ∈ l, envWatts x ≤ envWatts y + 25) : execEnvelopeReading l s = .next { s with pwr := { s.pwr with
      env := some (BitVec.ofNat 12 ((l.map envWatts).sum / 16)), envvalid := true, envfail := false } } := by
  have allValid : (l.map envWatts).all (fun w => decide (600 ≤ w) && decide (w ≤ 3000)) = true := by simpa using valid
  have below : ∀ x ∈ l, envWatts x ≤ (l.map envWatts).foldl Nat.min 3001 + 25 := fun x mem =>
    Nat.sub_le_iff_le_add.1 (le_foldl_min (by have := (valid x mem).2; omega) fun w inside => by
      obtain ⟨y, mem', rfl⟩ := List.mem_map.1 inside
      exact Nat.sub_le_iff_le_add.2 (near x mem y mem'))
  have within : (l.map envWatts).foldl Nat.max 0 ≤ (l.map envWatts).foldl Nat.min 3001 + 25 :=
    foldl_max_le (Nat.zero_le _) fun w inside => by
      obtain ⟨x, mem, rfl⟩ := List.mem_map.1 inside
      exact below x mem
  have passes : (decide ((l.map envWatts).length = 16) &&
      decide ((l.map envWatts).foldl Nat.max 0 ≤ (l.map envWatts).foldl Nat.min 3001 + 25)) = true := by
    rw [decide_eq_true within, List.length_map, decide_eq_true sixteen]
    rfl
  rw [execEnvelopeReading_eq (latest_of_sixteen sixteen), allValid, if_neg (by simp), if_pos passes, mean, List.length_map, sixteen]
  rfl

theorem execEnvelopeReading_invalid {l : List Nat} (sixteen : l.length = 16) (s : State) {x : Nat} (mem : x ∈ l)
    (bad : envWatts x < 600 ∨ 3000 < envWatts x) :
    execEnvelopeReading l s = .next { s with pwr := { s.pwr with envvalid := false } } := by
  have notAll : (l.map envWatts).all (fun w => decide (600 ≤ w) && decide (w ≤ 3000)) = false :=
    List.all_eq_false.2 ⟨envWatts x, List.mem_map_of_mem mem, by simp only [Bool.and_eq_true, decide_eq_true_eq]; omega⟩
  rw [execEnvelopeReading_eq (latest_of_sixteen sixteen), notAll]
  rfl

theorem execEnvelopeInvalidTimeout_defaults {s : State} (awake : s.evr.fallow = false) (invalid : s.pwr.envvalid = false)
    (first : s.pwr.envfail = false) (used : bit s.pwr.cfg 31 = true) :
    execEnvelopeInvalidTimeout s = .next (({ s with pwr := { s.pwr with envfail := true } } : State).raiseAll s.lead
      [s.mkErr 0x0901 .notice srcPower 0 [6]]) := by
  simp only [execEnvelopeInvalidTimeout, awake, invalid, first, used, Bool.not_true, Bool.or_self, Bool.false_eq_true, if_false]
  rfl

theorem execFeedIdChange_keeps {s : State} (awake : s.evr.fallow = false) (v : BitVec 4) :
    execFeedIdChange v s = .next (({ s with pins := { s.pins with feedid := v, feedKept := true } } : State).raiseAll s.lead
      (if s.rcv.pairing.isSome = true ∧ v ≠ s.pins.feedid then
        [s.mkErr 0x0901 .notice srcService 0 [9, s.pins.feedid.toNat * 16 + v.toNat]] else [])) := by
  have cond : (s.rcv.pairing.isSome && decide (v ≠ s.pins.feedid) && !s.evr.fallow) = true ↔
      s.rcv.pairing.isSome = true ∧ v ≠ s.pins.feedid := by simp [awake]
  unfold execFeedIdChange
  dsimp only
  by_cases changed : s.rcv.pairing.isSome = true ∧ v ≠ s.pins.feedid
  · rw [if_pos (cond.2 changed), if_pos changed]
    rfl
  · rw [if_neg (mt cond.1 changed), if_neg changed, State.raiseAll_nil]

/-! ### SOWING_SLOT (R341) -/

/-- A change of the eight plots of a strip. -/
theorem State.forEach_plotsOfStrip (s : State) (i : StripIx) (f : Seq → Seq) (again : ∀ q, f (f q) = f q) :
    let t := s.forEach (List.range 8) fun s n => s.modSeq (Fin.ofNat 640 (8 * i.val + n)) f
    (∀ p, t.plot p = if stripOfPlot p = i then { s.plot p with seq := f (s.plot p).seq } else s.plot p) ∧ { t with plots := s.plots } = s := by
  have each (l : List Nat) : ∀ u : State, let t := u.forEach l fun s n => s.modSeq (Fin.ofNat 640 (8 * i.val + n)) f
      (∀ p, t.plot p = if ∃ n ∈ l, Fin.ofNat 640 (8 * i.val + n) = p then { u.plot p with seq := f (u.plot p).seq } else u.plot p) ∧
        { t with plots := u.plots } = u := by
    induction l with
    | nil => exact fun u => ⟨fun p => (if_neg (by simp)).symm, rfl⟩
    | cons n l ih =>
      intro u
      obtain ⟨plots, rest⟩ := ih (u.modSeq (Fin.ofNat 640 (8 * i.val + n)) f)
      refine ⟨fun p => (plots p).trans ?_, (congrArg (fun x : State => { x with plots := u.plots }) rest)⟩
      by_cases e : Fin.ofNat 640 (8 * i.val + n) = p
      · subst e
        have here : ∃ k ∈ n :: l, Fin.ofNat 640 (8 * i.val + k) = Fin.ofNat 640 (8 * i.val + n) := ⟨n, List.mem_cons_self, rfl⟩
        rw [State.modSeq_plot, if_pos here]
        split
        · simp only [again]
        · rfl
      · rw [State.modSeq_plot_ne _ _ _ _ e]
        exact if_congr ⟨fun ⟨k, mem, eq⟩ => ⟨k, List.mem_cons_of_mem n mem, eq⟩, fun ⟨k, mem, eq⟩ =>
          ⟨k, (List.mem_cons.1 mem).resolve_left fun same => e (same ▸ eq), eq⟩⟩ rfl rfl
  obtain ⟨plots, rest⟩ := each (List.range 8) s
  refine ⟨fun p => (plots p).trans (if_congr ?_ rfl rfl), rest⟩
  constructor
  · rintro ⟨n, mem, rfl⟩
    have small := List.mem_range.1 mem
    have := i.isLt
    refine Fin.ext ?_
    simp only [stripOfPlot, Fin.ofNat]
    omega
  · rintro rfl
    refine ⟨p.val % 8, List.mem_range.2 (Nat.mod_lt _ (by decide)), Fin.ext ?_⟩
    simp only [stripOfPlot, Fin.ofNat]
    omega

end Sys2Proof.Machine
end

section
/-! The period of the power controller, stage by stage: the averages, the thermal levels, the package levels, L, the decisions of the
strips and the energy model (R332, R335-R338, R342, R343). -/

namespace Sys2Proof.Machine

open Sys2Proof.Claim

/-! ### The averages of the input power (R335) -/

theorem mean_of_pos {l : List Nat} (some_ : 0 < l.length) : mean l = l.sum / l.length := by
  show l.sum / max l.length 1 = _
  rw [Nat.max_eq_left some_]

/-- The state after a reading of the input sensor. -/
def State.sensed (s : State) (w : Nat) : State :=
  let hist := (w :: s.pwr.history).take 100000
  let win16 := BitVec.ofNat 16 (mean (hist.take 100))
  { s with pwr := { s.pwr with
      history := hist, win := win16, sust := BitVec.ofNat 16 (mean hist), maxwin := if s.pwr.maxwin < win16 then win16 else s.pwr.maxwin,
      sensorSum := s.pwr.sensorSum + w, periods := s.pwr.periods + 1 } }

/-! ### The strips' thermal levels (R337) -/

/-- The state after the strips' temperatures have been read. -/
def State.thermals (s : State) (tgt : Nat) (r : List (Nat × Int)) : State :=
  s.forEach r fun s x =>
    s.modStrip (Fin.ofNat 80 x.1) fun y => y.thermalStep tgt (x.2 + s.sbd.calib.toff.get (Fin.ofNat 80 x.1))

theorem Strip.thermalStep_keeps (x : Strip) (tgt : Nat) (T : Int) :
    (x.thermalStep tgt T).eff = x.eff ∧ (x.thermalStep tgt T).changing = x.changing := by
  unfold Strip.thermalStep
  dsimp only
  split
  · exact ⟨rfl, rfl⟩
  split
  · exact ⟨rfl, rfl⟩
  · exact ⟨rfl, rfl⟩

theorem Strip.thermalStep_thermal (s : State) (i : StripIx) (T : Int) :
    thermalAfter s i T ((s.strip i).thermalStep (bits s.pwr.cfg 30 24) T) := by
  unfold thermalAfter Strip.thermalStep
  simp only [Bool.and_eq_true, decide_eq_true_eq, and_assoc]
  split
  · exact ⟨rfl, rfl⟩
  split
  · exact ⟨rfl, rfl⟩
  · exact ⟨rfl, rfl⟩

theorem State.thermals_eq {s : State} {r : List (Nat × Int)} (tgt : Nat) (small : ∀ x ∈ r, x.1 < 80) (once : (r.map (·.1)).Nodup) :
    ∃ v, s.thermals tgt r = s.withStrips v ∧
      (∀ (i : StripIx) T, (i.val, T) ∈ r → v.get i = (s.strip i).thermalStep tgt (T + s.sbd.calib.toff.get i)) ∧
      ∀ i : StripIx, (∀ T, (i.val, T) ∉ r) → v.get i = s.strip i := by
  have index (i : StripIx) : Fin.ofNat 80 i.val = i := Fin.ext (Nat.mod_eq_of_lt i.isLt)
  have distinct : (r.map fun x => (Fin.ofNat 80 x.1 : StripIx)).Nodup := by
    refine List.Nodup.of_map (fun i : StripIx => i.val) ?_
    rw [List.map_map]
    refine (List.map_congr_left fun x mem => ?_) ▸ once
    exact (Nat.mod_eq_of_lt (small x mem)).symm
  obtain ⟨v, all, inside, outside⟩ := State.forEach_strips (s := s) (l := r) (at_ := fun x => Fin.ofNat 80 x.1)
    (g := fun x y => y.thermalStep tgt (x.2 + s.sbd.calib.toff.get (Fin.ofNat 80 x.1)))
    (f := fun s x => s.modStrip (Fin.ofNat 80 x.1) fun y => y.thermalStep tgt (x.2 + s.sbd.calib.toff.get (Fin.ofNat 80 x.1)))
    (fun t x same => by rw [same]) distinct
  refine ⟨v, all, fun i T mem => ?_, fun i absent => outside i fun found => ?_⟩
  · have at_i := inside (i.val, T) mem
    rw [index] at at_i
    exact at_i
  · obtain ⟨⟨j, T⟩, mem, eq⟩ := List.mem_map.1 found
    have val : i.val = j := (congrArg Fin.val eq.symm).trans (Nat.mod_eq_of_lt (small _ mem))
    exact absent T (val ▸ mem)

/-! ### The dies' package levels (R338) -/

/-- The readings of a die's packages. -/
def State.packageTemps (s : State) (d : DieIx) : List (Option Int) :=
  (List.range 3).map fun i => (s.pkg (Fin.ofNat 24 (3 * d.val + i))).reading

/-- A package level and its age after a period, of packages that are hot or cool. -/
def levelAfter (hot cool : Bool) (lv : BitVec 7) (age : Nat) : BitVec 7 × Nat :=
  if hot && decide (100 ≤ age) && decide (17 < lv.toNat) then (lv - 1, 0)
  else if cool && decide (1000 ≤ age) && decide (lv.toNat < 120) then (lv + 1, 0)
  else (lv, age)

/-- A die has a hot package. -/
def State.packageHot (s : State) (d : DieIx) : Bool :=
  (s.packageTemps d).any fun t => match t with | some t => decide (1050 ≤ t) | none => false

/-- A die's packages are all read, and cool. -/
def State.packageCool (s : State) (d : DieIx) : Bool :=
  (s.packageTemps d).all fun t => match t with | some t => decide (t ≤ 1020) | none => false

/-- A die's package level and its age after a period. -/
def State.packageAfter (s : State) (d : DieIx) : BitVec 7 × Nat :=
  levelAfter (s.packageHot d) (s.packageCool d) (s.pwr.pkglevel.get d) (s.pwr.pkgAge.get d + 1)

/-- The state with other package levels and ages. -/
def State.withPackages (s : State) (lv : Vector (BitVec 7) 8) (ag : Vector Nat 8) : State :=
  { s with pwr := { s.pwr with pkglevel := lv, pkgAge := ag } }

theorem levelAfter_put {α : Type} (put : BitVec 7 → Nat → α) (hot cool : Bool) (lv : BitVec 7) (age : Nat) :
    (if hot && decide (100 ≤ age) && decide (17 < lv.toNat) then put (lv - 1) 0
      else if cool && decide (1000 ≤ age) && decide (lv.toNat < 120) then put (lv + 1) 0
      else put lv age) = put (levelAfter hot cool lv age).1 (levelAfter hot cool lv age).2 := by
  unfold levelAfter
  split
  · rfl
  split
  · rfl
  · rfl

theorem State.packageStep_eq (s : State) (d : DieIx) : s.packageStep d =
    s.withPackages (s.pwr.pkglevel.set d.val (s.packageAfter d).1) (s.pwr.pkgAge.set d.val (s.packageAfter d).2) :=
  levelAfter_put (fun lv age => s.withPackages (s.pwr.pkglevel.set d.val lv) (s.pwr.pkgAge.set d.val age)) (s.packageHot d)
    (s.packageCool d) (s.pwr.pkglevel.get d) (s.pwr.pkgAge.get d + 1)

theorem State.packageAfter_congr {s : State} {d : DieIx} {lv : Vector (BitVec 7) 8} {ag : Vector Nat 8}
    (level : lv.get d = s.pwr.pkglevel.get d) (age : ag.get d = s.pwr.pkgAge.get d) :
    (s.withPackages lv ag).packageAfter d = s.packageAfter d := by
  have levels : (s.withPackages lv ag).pwr.pkglevel.get d = s.pwr.pkglevel.get d := level
  have ages : (s.withPackages lv ag).pwr.pkgAge.get d = s.pwr.pkgAge.get d := age
  rw [State.packageAfter, levels, ages]
  rfl

theorem vector_get_set {α : Type} {n : Nat} (v : Vector α n) (d e : Fin n) (x : α) :
    (v.set d.val x).get e = if d = e then x else v.get e := by
  simp [Vector.get_eq_getElem, Vector.getElem_set, Fin.ext_iff]

theorem State.forEach_packageStep {l : List DieIx} (once : l.Nodup) (s : State) : ∃ lv ag,
    (s.forEach l fun s d => s.packageStep d) = s.withPackages lv ag ∧ (∀ d ∈ l, lv.get d = (s.packageAfter d).1) ∧
      ∀ d, d ∉ l → lv.get d = s.pwr.pkglevel.get d ∧ ag.get d = s.pwr.pkgAge.get d := by
  induction l generalizing s with
  | nil => exact ⟨s.pwr.pkglevel, s.pwr.pkgAge, rfl, nofun, fun _ _ => ⟨rfl, rfl⟩⟩
  | cons a l ih =>
    obtain ⟨notIn, once⟩ := List.nodup_cons.1 once
    have levels (d : DieIx) := vector_get_set s.pwr.pkglevel a d (s.packageAfter a).1
    have ages (d : DieIx) := vector_get_set s.pwr.pkgAge a d (s.packageAfter a).2
    obtain ⟨lv, ag, all, inside, outside⟩ := ih once (s.packageStep a)
    rw [State.packageStep_eq] at all inside outside
    refine ⟨lv, ag, (congrArg (fun u : State => u.forEach l fun s d => s.packageStep d) (s.packageStep_eq a)).trans all,
      fun d mem => ?_, fun d out => ?_⟩
    · by_cases e : a = d
      · subst e
        exact (outside a notIn).1.trans ((levels a).trans (if_pos rfl))
      · refine (inside d ((List.mem_cons.1 mem).resolve_left (Ne.symm e))).trans (congrArg Prod.fst (State.packageAfter_congr ?_ ?_))
        · exact (levels d).trans (if_neg e)
        · exact (ages d).trans (if_neg e)
    · obtain ⟨ne, out⟩ : d ≠ a ∧ d ∉ l := by simpa using out
      obtain ⟨level, age⟩ := outside d out
      exact ⟨level.trans ((levels d).trans (if_neg ne.symm)), age.trans ((ages d).trans (if_neg ne.symm))⟩

/-- The state after a period of every die's package level. -/
def State.packages (s : State) : State := s.forEach allDies fun s d => s.packageStep d

theorem State.packages_eq (s : State) : ∃ lv ag, s.packages = s.withPackages lv ag ∧ ∀ d, lv.get d = (s.packageAfter d).1 := by
  obtain ⟨lv, ag, all, inside, -⟩ := State.forEach_packageStep (List.nodup_finRange 8) s
  exact ⟨lv, ag, all, fun d => inside d (List.mem_finRange d)⟩

theorem State.mem_packageTemps (s : State) (d : DieIx) (x : Option Int) :
    x ∈ s.packageTemps d ↔ ∃ k : PkgIx, dieOfPkg k = d ∧ (s.pkg k).reading = x := by
  simp only [State.packageTemps, List.mem_map, List.mem_range]
  constructor
  · rintro ⟨i, small, rfl⟩
    have := d.isLt
    refine ⟨_, Fin.ext ?_, rfl⟩
    simp only [dieOfPkg, Fin.ofNat]
    omega
  · rintro ⟨k, rfl, rfl⟩
    have := k.isLt
    refine ⟨k.val % 3, Nat.mod_lt _ (by decide), congrArg (fun j => (s.pkg j).reading) (Fin.ext ?_)⟩
    simp only [dieOfPkg, Fin.ofNat]
    omega

theorem State.packagesHot (s : State) (d : DieIx) :
    s.packageHot d = true ↔
      ∃ T, packageOf s d T ∧ 1050 ≤ T := by
  rw [State.packageHot, List.any_eq_true]
  constructor
  · rintro ⟨_ | T, mem, hot⟩
    · exact nomatch hot
    · exact ⟨T, (s.mem_packageTemps d _).1 mem, of_decide_eq_true hot⟩
  · rintro ⟨T, reading, hot⟩
    exact ⟨some T, (s.mem_packageTemps d _).2 reading, decide_eq_true hot⟩

theorem State.packagesCool (s : State) (d : DieIx) :
    s.packageCool d = true ↔
      ∀ k, dieOfPkg k = d → ∃ T, (s.pkg k).reading = some T ∧ T ≤ 1020 := by
  rw [State.packageCool, List.all_eq_true]
  constructor
  · intro cool k die
    have at_k := cool _ ((s.mem_packageTemps d _).2 ⟨k, die, rfl⟩)
    revert at_k
    cases (s.pkg k).reading with
    | none => exact nofun
    | some T => exact fun at_k => ⟨T, rfl, of_decide_eq_true at_k⟩
  · intro cool x mem
    obtain ⟨k, die, rfl⟩ := (s.mem_packageTemps d x).1 mem
    obtain ⟨T, reading, small⟩ := cool k die
    rw [reading]
    exact decide_eq_true small

theorem State.packageAfter_hot {s : State} {d : DieIx} (hot : ∃ T, packageOf s d T ∧ 1050 ≤ T) (age : 100 ≤ s.pwr.pkgAge.get d + 1)
    (above : 17 < (s.pwr.pkglevel.get d).toNat) : (s.packageAfter d).1 = s.pwr.pkglevel.get d - 1 := by
  rw [State.packageAfter, levelAfter, (s.packagesHot d).2 hot, decide_eq_true age, decide_eq_true above]
  rfl

theorem State.packageAfter_cool {s : State} {d : DieIx} (cool : ∀ k, dieOfPkg k = d → ∃ T, (s.pkg k).reading = some T ∧ T ≤ 1020)
    (age : 1000 ≤ s.pwr.pkgAge.get d + 1) (below : (s.pwr.pkglevel.get d).toNat < 120) :
    (s.packageAfter d).1 = s.pwr.pkglevel.get d + 1 := by
  have notHot : s.packageHot d = false := by
    refine Bool.eq_false_iff.2 fun hot => ?_
    obtain ⟨T, ⟨k, die, reading⟩, high⟩ := (s.packagesHot d).1 hot
    obtain ⟨T', reading', low⟩ := cool k die
    obtain rfl : T = T' := Option.some.inj (reading.symm.trans reading')
    omega
  rw [State.packageAfter, levelAfter, notHot, (s.packagesCool d).2 cool, decide_eq_true age, decide_eq_true below]
  rfl

theorem State.packageAfter_between {s : State} {d : DieIx} (between : ∀ T, packageOf s d T → 1020 < T ∧ T < 1050)
    (some_ : ∃ T, packageOf s d T) : (s.packageAfter d).1 = s.pwr.pkglevel.get d := by
  have notHot : s.packageHot d = false := by
    refine Bool.eq_false_iff.2 fun hot => ?_
    obtain ⟨T, reading, high⟩ := (s.packagesHot d).1 hot
    have := (between T reading).2
    omega
  have notCool : s.packageCool d = false := by
    refine Bool.eq_false_iff.2 fun cool => ?_
    obtain ⟨T, k, die, reading⟩ := some_
    obtain ⟨T', reading', low⟩ := (s.packagesCool d).1 cool k die
    obtain rfl : T = T' := Option.some.inj (reading.symm.trans reading')
    have := (between T ⟨k, die, reading⟩).1
    omega
  rw [State.packageAfter, levelAfter, notHot, notCool]
  rfl

/-! ### The decisions of the strips (R332, R334) -/

/-- The limits on a strip's code, from its own registers, the controller's and the job's. -/
def limitsOf (i : StripIx) (x : Strip) (p : Pwr) (j : Job) : List (Nat × Nat) :=
  let env := match p.budget with
    | some e => decide (e < bits p.cap 27 16) || decide (e < bits p.cap 11 0)
    | none => false
  [((if p.tmode then x.freq else p.tfreq).toNat, 0), (x.capfreq.toNat, 1),
    (if p.level.toNat = 32 then p.powerDuty.toNat + 16 else p.level.toNat, if env then 3 else 2),
    (x.thermal.toNat, 4), ((p.pkglevel.get (dieOfStrip i)).toNat, 5)]
    ++ (if j.slowNow && j.complete then [(32, 6)] else [])

theorem State.limits_eq (s : State) (i : StripIx) : s.limits i = limitsOf i (s.strip i) s.pwr s.job := rfl

theorem lowestLimit_least {l : List (Nat × Nat)} : ∀ y ∈ l, (lowestLimit l).1 ≤ y.1 := by
  induction l using lowestLimit.induct with
  | case1 => exact nofun
  | case2 x =>
    intro y mem
    obtain rfl := List.mem_singleton.1 mem
    rw [lowestLimit]
  | case3 x y r lower ih =>
    rw [lowestLimit, if_pos lower]
    intro z mem
    obtain rfl | mem := List.mem_cons.1 mem
    · exact (ih y List.mem_cons_self).trans lower.le
    · exact ih z mem
  | case4 x y r higher ih =>
    rw [lowestLimit, if_neg higher]
    intro z mem
    obtain rfl | mem := List.mem_cons.1 mem
    · exact ih z List.mem_cons_self
    obtain rfl | mem := List.mem_cons.1 mem
    · exact (ih x List.mem_cons_self).trans (Nat.not_lt.1 higher)
    · exact ih z (List.mem_cons_of_mem x mem)

theorem lowestLimit_mem {l : List (Nat × Nat)} (some_ : l ≠ []) : lowestLimit l ∈ l := by
  induction l using lowestLimit.induct with
  | case1 => exact absurd rfl some_
  | case2 x =>
    rw [lowestLimit]
    exact List.mem_singleton.2 rfl
  | case3 x y r lower ih =>
    rw [lowestLimit, if_pos lower]
    exact List.mem_cons_of_mem x (ih nofun)
  | case4 x y r higher ih =>
    rw [lowestLimit, if_neg higher]
    obtain e | mem := List.mem_cons.1 (ih nofun)
    · rw [e]; exact List.mem_cons_self
    · exact List.mem_cons_of_mem x (List.mem_cons_of_mem y mem)

/-- A strip whose code and duty have been decided from its lowest limit. -/
def Strip.decidedBy (x : Strip) (m : Nat × Nat) : Strip :=
  { x with decided := BitVec.ofNat 7 (Nat.max m.1 32), duty := BitVec.ofNat 5 (dutyOf m.1), limit := BitVec.ofNat 3 m.2
           changeAge := x.changeAge + 1 }

/-- A decision leaves the limits as they are. -/
theorem limitsOf_decidedBy (i : StripIx) (x : Strip) (p : Pwr) (j : Job) (m : Nat × Nat) :
    limitsOf i (x.decidedBy m) p j = limitsOf i x p j := rfl

/-- The decision of one strip. -/
def State.decideStep (s : State) (i : StripIx) : State :=
  let s' := (s.decideCode i).modStrip i fun x => { x with changeAge := x.changeAge + 1 }
  if (s'.strip i).eff.toNat < s'.targetCode i then s'.rowAdd 3 i.val 10 else s'

/-- The state with other strips and another recorder. -/
def State.steered (s : State) (v : Vector Strip 80) (e : Evr) : State := { s with pwr := { s.pwr with strips := v }, evr := e }

theorem State.decideStep_eq (s : State) (i : StripIx) : ∃ e,
    s.decideStep i = s.steered (s.pwr.strips.set i.val ((s.strip i).decidedBy (lowestLimit (s.limits i)))) e := by
  have decided : ((s.decideCode i).modStrip i fun x => { x with changeAge := x.changeAge + 1 }) =
      s.steered (s.pwr.strips.set i.val ((s.strip i).decidedBy (lowestLimit (s.limits i)))) s.evr := by
    have once : (s.decideCode i).strip i = { s.strip i with
        decided := BitVec.ofNat 7 (Nat.max (lowestLimit (s.limits i)).1 32)
        duty := BitVec.ofNat 5 (dutyOf (lowestLimit (s.limits i)).1), limit := BitVec.ofNat 3 (lowestLimit (s.limits i)).2 } :=
      s.modStrip_strip ..
    rw [State.modStrip, once]
    unfold State.decideCode State.modStrip State.steered Strip.decidedBy
    simp
  unfold State.decideStep
  rw [decided]
  dsimp only
  split
  · exact ⟨_, rfl⟩
  · exact ⟨_, rfl⟩

theorem State.forEach_decideStep {l : List StripIx} (once : l.Nodup) (s : State) : ∃ v e,
    s.forEach l State.decideStep = s.steered v e ∧ (∀ i ∈ l, v.get i = (s.strip i).decidedBy (lowestLimit (s.limits i))) ∧
      ∀ i, i ∉ l → v.get i = s.strip i := by
  induction l generalizing s with
  | nil => exact ⟨s.pwr.strips, s.evr, rfl, nofun, fun _ _ => rfl⟩
  | cons a l ih =>
    obtain ⟨notIn, once⟩ := List.nodup_cons.1 once
    obtain ⟨e1, first⟩ := s.decideStep_eq a
    have strips (i : StripIx) := vector_get_set s.pwr.strips a i ((s.strip a).decidedBy (lowestLimit (s.limits a)))
    generalize s.pwr.strips.set a.val ((s.strip a).decidedBy (lowestLimit (s.limits a))) = v1 at first strips
    obtain ⟨v, e, all, inside, outside⟩ := ih once (s.steered v1 e1)
    refine ⟨v, e, (congrArg (fun u : State => u.forEach l State.decideStep) first).trans all, fun i mem => ?_, fun i out => ?_⟩
    · by_cases eq : a = i
      · subst eq
        exact (outside a notIn).trans ((strips a).trans (if_pos rfl))
      · have same : (s.steered v1 e1).strip i = s.strip i := (strips i).trans (if_neg eq)
        have limits : (s.steered v1 e1).limits i = s.limits i := by
          rw [State.limits_eq, same]
          rfl
        rw [inside i ((List.mem_cons.1 mem).resolve_left (Ne.symm eq)), same, limits]
    · obtain ⟨ne, out⟩ : i ≠ a ∧ i ∉ l := by simpa using out
      exact (outside i out).trans ((strips i).trans (if_neg ne.symm))

/-- The state after the decisions of all strips. -/
def State.decisions (s : State) : State := s.forEach allStrips State.decideStep

theorem State.decisions_eq (s : State) : ∃ v e, s.decisions = s.steered v e ∧
    ∀ i, v.get i = (s.strip i).decidedBy (lowestLimit (s.limits i)) := by
  obtain ⟨v, e, all, inside, -⟩ := State.forEach_decideStep (List.nodup_finRange 80) s
  exact ⟨v, e, all, fun i => inside i (List.mem_finRange i)⟩

/-! ### The envelope and the energy model (R336, R342, R343) -/

theorem State.checkUnmet_eq (s : State) (w : Nat) : ∃ b e, s.checkUnmet w = { s with pwr := { s.pwr with envunmet := b }, evr := e } := by
  unfold State.checkUnmet
  split
  · exact ⟨false, s.evr, rfl⟩
  · dsimp only
    split
    · refine ⟨_, (State.noticeFrom _ srcPower 0x06 _ []).evr, State.raiseAll_eq _ _ _⟩
    · exact ⟨_, s.evr, rfl⟩

theorem State.attribute_countsOnly (s : State) (p : PlotIx) (layer oper : Id16) (e : Nat) : CountsOnly s (s.attribute p layer oper e) := by
  unfold State.attribute
  refine countsOnly_trans ?_ (State.count_countsOnly ..)
  exact ⟨State.plotsKept_of_eq rfl, rfl⟩

theorem State.eventEnergy_countsOnly (s : State) : CountsOnly s s.eventEnergy.2 := by
  unfold State.eventEnergy
  exact List.foldlRecOn (motive := fun x : Nat × State => CountsOnly s x.2) _ _ (countsOnly_refl s) fun x kept a _ =>
    countsOnly_trans kept (x.2.attribute_countsOnly ..)

theorem State.stripEnergy_countsOnly (s : State) (i : StripIx) : CountsOnly s (s.stripEnergy i).2 := by
  unfold State.stripEnergy
  exact List.foldlRecOn (motive := fun x : Nat × State => CountsOnly s x.2) _ _ (countsOnly_refl s) fun x kept n _ =>
    countsOnly_trans kept (x.2.attribute_countsOnly ..)

/-- The energy model counts at the plots and in the recorder, and takes the interval's events. -/
theorem State.energyInterval_eq (s : State) : ∃ m, PlotsKept s s.energyInterval ∧
    { s.energyInterval with plots := s.plots, evr := s.evr } = { s with pwr := { s.pwr with events := [], modelSum := m } } := by
  have events := s.eventEnergy_countsOnly
  unfold State.energyInterval
  split
  next e1 s1 first =>
  rw [first] at events
  split
  next e2 s2 second =>
  have strips : CountsOnly s1 s2 := (congrArg (fun x : Nat × State => CountsOnly s1 x.2) second).mp <|
    List.foldlRecOn (motive := fun x : Nat × State => CountsOnly s1 x.2) _ _ (countsOnly_refl s1) fun x kept i _ =>
      countsOnly_trans kept (x.2.stripEnergy_countsOnly i)
  obtain ⟨plots, rest⟩ := countsOnly_trans events strips
  refine ⟨s.pwr.modelSum + e1 + e2 + s.sbd.calib.input (4000000 * s.sbd.calib.pfix),
    State.plotsKept_trans plots (State.plotsKept_of_eq rfl), ?_⟩
  have pwr : s2.pwr = s.pwr := (congrArg State.pwr rest :)
  rw [pwr]
  exact congrArg (fun u : State => { u with pwr := { s.pwr with
    events := [], modelSum := s.pwr.modelSum + e1 + e2 + s.sbd.calib.input (4000000 * s.sbd.calib.pfix) } }) rest

/-! ### L (R332, log entry 1) -/

/-- The state with another L, and the free values that it took. -/
def State.withLevel (s : State) (level : BitVec 7) (duty : BitVec 5) (peak sustained : Bool) (free : Nat) : State :=
  { s with pwr := { s.pwr with level := level, powerDuty := duty, peaklim := peak, sustlim := sustained }, freeCtr := free }

theorem State.setLevel_eq (s : State) : ∃ level duty peak sustained free, s.setLevel = s.withLevel level duty peak sustained free ∧
    32 ≤ level.toNat ∧ level.toNat ≤ 120 ∧ 1 ≤ duty.toNat ∧ duty.toNat ≤ 16 := by
  refine ⟨_, _, _, _, _, rfl, ?_, ?_, ?_, ?_⟩
  · rw [BitVec.toNat_ofNat]; omega
  · rw [BitVec.toNat_ofNat]; omega
  · rw [BitVec.toNat_ofNat]; split <;> omega
  · rw [BitVec.toNat_ofNat]; split <;> omega

/-! ### The period -/

/-- A period of the controller after the reading of the input sensor; `y` are the strips as their sensors have left them. -/
structure Controlled (s t : State) (y : Vector Strip 80) : Prop where
  plots : PlotsKept s t
  rest : { t with plots := s.plots, evr := s.evr, pwr := s.pwr, freeCtr := s.freeCtr } = s
  averages : t.pwr.history = s.pwr.history ∧ t.pwr.sust = s.pwr.sust ∧ t.pwr.win = s.pwr.win ∧ t.pwr.maxwin = s.pwr.maxwin
  level : 32 ≤ t.pwr.level.toNat ∧ t.pwr.level.toNat ≤ 120 ∧ 1 ≤ t.pwr.powerDuty.toNat ∧ t.pwr.powerDuty.toNat ≤ 16
  packages : ∀ d, t.pwr.pkglevel.get d = (s.packageAfter d).1
  strips : ∀ i, t.strip i = (y.get i).decidedBy (lowestLimit (t.limits i))
  rails : t.pwr.rails = s.pwr.rails

/-- The state after the stages that follow the reading of the strips. -/
def State.controls (s : State) (w : Nat) : State := (((s.packages.setLevel).decisions).checkUnmet w).energyInterval

theorem execPowerControlPeriod_runs {s : State} (awake : s.evr.fallow = false) (on : s.pwr.railsOn = true)
    (ready : s.sbd.state = .ready) (r : PowerReadings) : execPowerControlPeriod r s =
      .next (((s.sensed (s.sbd.calib.sensor r.inputW)).thermals (bits s.pwr.cfg 30 24) r.strips).controls (s.sbd.calib.sensor r.inputW)) := by
  unfold execPowerControlPeriod
  rw [awake, on, if_neg (show ¬(false || !true) = true by decide), if_neg (not_not.2 ready)]
  rfl

theorem State.controls_controlled (s : State) (w : Nat) (y : Vector Strip 80) : Controlled s ((s.withStrips y).controls w) y := by
  unfold State.controls
  obtain ⟨lv, ag, packages, levels⟩ := (s.withStrips y).packages_eq
  rw [packages]
  obtain ⟨level, duty, peak, sustained, free, set, range⟩ := ((s.withStrips y).withPackages lv ag).setLevel_eq
  rw [set]
  obtain ⟨v, e, decided, strips⟩ := (((s.withStrips y).withPackages lv ag).withLevel level duty peak sustained free).decisions_eq
  rw [decided]
  obtain ⟨b, e', checked⟩ := ((((s.withStrips y).withPackages lv ag).withLevel level duty peak sustained free).steered v e).checkUnmet_eq w
  rw [checked]
  obtain ⟨m, plots, rest⟩ := State.energyInterval_eq { (((s.withStrips y).withPackages lv ag).withLevel level duty peak
    sustained free).steered v e with
      pwr := { ((((s.withStrips y).withPackages lv ag).withLevel level duty peak sustained free).steered v e).pwr with
        envunmet := b }, evr := e' }
  generalize State.energyInterval _ = t at plots rest
  have pwr := congrArg State.pwr rest
  have job : t.job = s.job := (congrArg State.job rest :)
  dsimp only at pwr
  refine ⟨?_, ?_, ?_, ?_, fun d => ?_, fun i => ?_, ?_⟩
  · refine State.plotsKept_trans ?_ plots
    exact State.plotsKept_of_eq rfl
  · exact congrArg (fun u : State => { u with plots := s.plots, evr := s.evr, pwr := s.pwr, freeCtr := s.freeCtr }) rest
  · rw [pwr]; exact ⟨rfl, rfl, rfl, rfl⟩
  · rw [pwr]; exact range
  · rw [pwr]; exact levels d
  · have strip : t.strip i = v.get i := by rw [State.strip, pwr]; rfl
    have limits : t.limits i = (((s.withStrips y).withPackages lv ag).withLevel level duty peak sustained free).limits i := by
      rw [State.limits_eq, strip, strips, job, pwr]
      rfl
    rw [limits, strip, strips]
    rfl
  · rw [pwr]; rfl

end Sys2Proof.Machine
end

section
/-! The power controller's period and the events of power and clocks, gathered (R325, R331-R341, R352, R454, R455). -/

namespace Sys2Proof.Machine

open Sys2Proof.Claim

/-! ### The period (R332, R335-R338) -/

theorem State.limits_ne_nil (s : State) (i : StripIx) : s.limits i ≠ [] := List.cons_ne_nil _ _

/-- A reading of the input sensor: the averages over 1 ms and 1 s, and the highest of the former. -/
structure Averaged (s t : State) (hist : List Nat) : Prop where
  history : t.pwr.history = hist
  sust : t.pwr.sust = BitVec.ofNat 16 (hist.sum / hist.length)
  win : t.pwr.win = BitVec.ofNat 16 ((hist.take 100).sum / (hist.take 100).length)
  maxwin : t.pwr.maxwin = if s.pwr.maxwin < t.pwr.win then t.pwr.win else s.pwr.maxwin

theorem State.sensed_averaged (s : State) (w : Nat) : Averaged s (s.sensed w) ((w :: s.pwr.history).take 100000) := by
  have some_ (n : Nat) : 0 < ((w :: s.pwr.history).take (n + 1)).length := by simp
  have hundred : ((w :: s.pwr.history).take 100000).take 100 = (w :: s.pwr.history).take 100 := by rw [List.take_take]; rfl
  refine ⟨rfl, congrArg (BitVec.ofNat 16) (mean_of_pos (some_ 99999)), congrArg (BitVec.ofNat 16) (mean_of_pos ?_), rfl⟩
  rw [hundred]
  exact some_ 99

theorem Averaged.controlled {s u t : State} {hist : List Nat} {y : Vector Strip 80} (averaged : Averaged s u hist)
    (controlled : Controlled u t y) : Averaged s t hist := by
  obtain ⟨history, sust, win, maxwin⟩ := controlled.averages
  exact ⟨history.trans averaged.history, sust.trans averaged.sust, win.trans averaged.win, by rw [maxwin, win]; exact averaged.maxwin⟩

/-- Each strip has the code and the duty of the lowest of its limits. -/
theorem Controlled.decides {u t : State} {y : Vector Strip 80} (controlled : Controlled u t y) (i : StripIx) :
    ∃ l, (∀ z ∈ t.limits i, l ≤ z.1) ∧ (∃ z ∈ t.limits i, z.1 = l ∧ (t.strip i).limit = BitVec.ofNat 3 z.2) ∧
      (t.strip i).decided = BitVec.ofNat 7 (Nat.max l 32) ∧ (t.strip i).duty = BitVec.ofNat 5 (if l < 32 then l - 16 else 16) ∧
      (t.strip i).eff = (y.get i).eff ∧ (t.strip i).changing = (y.get i).changing := by
  have strip := controlled.strips i
  have mem := lowestLimit_mem (t.limits_ne_nil i)
  have least := lowestLimit_least (l := t.limits i)
  generalize lowestLimit (t.limits i) = m at strip mem least
  rw [strip]
  exact ⟨m.1, least, ⟨m, mem, rfl, rfl⟩, rfl, rfl, rfl, rfl⟩

/-- A period of the controller: the averages, the strips as read, and the stages that follow. -/
theorem powerControlPeriod_controls {s : State} (awake : s.evr.fallow = false) (on : s.pwr.railsOn = true)
    (ready : s.sbd.state = .ready) {r : PowerReadings} (small : ∀ x ∈ r.strips, x.1 < 80) (once : (r.strips.map (·.1)).Nodup) :
    ∃ u t y, exec (.powerControlPeriod r) s = .next t ∧ { u with pwr := s.pwr } = s ∧
      Averaged s u ((s.sbd.calib.sensor r.inputW :: s.pwr.history).take 100000) ∧
      (∀ d, u.packageAfter d = s.packageAfter d) ∧ u.pwr.rails = s.pwr.rails ∧ Controlled u t y ∧
      (∀ (i : StripIx) T, (i.val, T) ∈ r.strips → y.get i =
        (s.strip i).thermalStep (bits s.pwr.cfg 30 24) (T + s.sbd.calib.toff.get i)) ∧
      ∀ i : StripIx, (∀ T, (i.val, T) ∉ r.strips) → y.get i = s.strip i := by
  obtain ⟨y, read, inside, outside⟩ := State.thermals_eq (s := s.sensed (s.sbd.calib.sensor r.inputW)) (bits s.pwr.cfg 30 24) small once
  refine ⟨s.sensed (s.sbd.calib.sensor r.inputW), _, y, execPowerControlPeriod_runs awake on ready r, rfl,
    s.sensed_averaged (s.sbd.calib.sensor r.inputW), fun _ => rfl, rfl, ?_, inside, outside⟩
  rw [read]
  exact State.controls_controlled _ _ y

theorem powerControlPeriod_clause {s : State} (awake : s.evr.fallow = false) (on : s.pwr.railsOn = true) (r : PowerReadings) (w : Nat)
    (hist : List Nat) (ready : s.sbd.state = .ready) (small : ∀ x ∈ r.strips, x.1 < 80) (once : (r.strips.map (·.1)).Nodup)
    (reading : w = s.sbd.calib.sensor r.inputW) (history : hist = (w :: s.pwr.history).take 100000) :
    ∃ t, exec (.powerControlPeriod r) s = .next t ∧ t.pwr.history = hist ∧ t.pwr.sust = BitVec.ofNat 16 (hist.sum / hist.length) ∧
      t.pwr.win = BitVec.ofNat 16 ((hist.take 100).sum / (hist.take 100).length) ∧
      t.pwr.maxwin = (if s.pwr.maxwin < t.pwr.win then t.pwr.win else s.pwr.maxwin) ∧
      32 ≤ t.pwr.level.toNat ∧ t.pwr.level.toNat ≤ 120 ∧ 1 ≤ t.pwr.powerDuty.toNat ∧ t.pwr.powerDuty.toNat ≤ 16 ∧
      (∀ (i : StripIx) T, (i.val, T) ∈ r.strips → thermalAfter s i (T + s.sbd.calib.toff.get i) (t.strip i)) ∧
      (∀ i : StripIx, (∀ T, (i.val, T) ∉ r.strips) → (t.strip i).temp = (s.strip i).temp ∧ (t.strip i).thermal = (s.strip i).thermal) ∧
      (∀ d, (∃ T, packageOf s d T ∧ 1050 ≤ T) → 100 ≤ s.pwr.pkgAge.get d + 1 → 17 < (s.pwr.pkglevel.get d).toNat →
        t.pwr.pkglevel.get d = s.pwr.pkglevel.get d - 1) ∧
      (∀ d, (∀ k, dieOfPkg k = d → ∃ T, (s.pkg k).reading = some T ∧ T ≤ 1020) → 1000 ≤ s.pwr.pkgAge.get d + 1 →
        (s.pwr.pkglevel.get d).toNat < 120 → t.pwr.pkglevel.get d = s.pwr.pkglevel.get d + 1) ∧
      (∀ d, (∀ T, packageOf s d T → 1020 < T ∧ T < 1050) → (∃ T, packageOf s d T) → t.pwr.pkglevel.get d = s.pwr.pkglevel.get d) ∧
      (∀ i, ∃ l, (∀ y ∈ t.limits i, l ≤ y.1) ∧ (∃ y ∈ t.limits i, y.1 = l ∧ (t.strip i).limit = BitVec.ofNat 3 y.2) ∧
        (t.strip i).decided = BitVec.ofNat 7 (Nat.max l 32) ∧ (t.strip i).duty = BitVec.ofNat 5 (if l < 32 then l - 16 else 16) ∧
        (t.strip i).eff = (s.strip i).eff ∧ (t.strip i).changing = (s.strip i).changing) ∧
      OnlyCounted s t ∧ t.mem = s.mem ∧ t.sync = s.sync ∧ t.job = s.job ∧ t.kuf = s.kuf ∧ t.rcv = s.rcv ∧ t.pwr.rails = s.pwr.rails := by
  subst reading
  obtain ⟨u, t, y, done, beside, averaged, packages, rails, controlled, inside, outside⟩ :=
    powerControlPeriod_controls awake on ready small once
  rw [← history] at averaged
  obtain ⟨hist', sust, win, maxwin⟩ := averaged.controlled controlled
  obtain ⟨least, most, low, high⟩ := controlled.level
  have level (d : DieIx) : t.pwr.pkglevel.get d = (s.packageAfter d).1 :=
    (controlled.packages d).trans (congrArg Prod.fst (packages d))
  have kept (i : StripIx) : (y.get i).eff = (s.strip i).eff ∧ (y.get i).changing = (s.strip i).changing := by
    by_cases read : ∃ T, (i.val, T) ∈ r.strips
    · obtain ⟨T, mem⟩ := read
      rw [inside i T mem]
      exact Strip.thermalStep_keeps ..
    · rw [outside i (not_exists.1 read)]
      exact ⟨rfl, rfl⟩
  have plots : u.plots = s.plots := (congrArg State.plots beside :)
  have rest := controlled.rest
  refine ⟨t, done, hist', sust, win, maxwin, least, most, low, high, fun i T mem => ?_, fun i absent => ?_, fun d hot age above => ?_,
    fun d cool age below => ?_, fun d between some_ => ?_, fun i => ?_, ?_, ?_, ?_, ?_, ?_, ?_, controlled.rails.trans rails⟩
  · rw [controlled.strips, inside i T mem]
    exact Strip.thermalStep_thermal s i _
  · rw [controlled.strips, outside i absent]
    exact ⟨rfl, rfl⟩
  · exact (level d).trans (State.packageAfter_hot hot age above)
  · exact (level d).trans (State.packageAfter_cool cool age below)
  · exact (level d).trans (State.packageAfter_between between some_)
  · obtain ⟨l, below, reached, decided, duty, eff, changing⟩ := controlled.decides i
    exact ⟨l, below, reached, decided, duty, eff.trans (kept i).1, changing.trans (kept i).2⟩
  · exact (State.plotsKept_trans (State.plotsKept_of_eq plots) controlled.plots).plot
  · exact (congrArg State.mem rest :).trans (congrArg State.mem beside :)
  · exact (congrArg State.sync rest :).trans (congrArg State.sync beside :)
  · exact (congrArg State.job rest :).trans (congrArg State.job beside :)
  · exact (congrArg State.kuf rest :).trans (congrArg State.kuf beside :)
  · exact (congrArg State.rcv rest :).trans (congrArg State.rcv beside :)

/-! ### Frequency changes (R333, R334) -/

theorem frequencyChangeStart_clause {s : State} (awake : s.evr.fallow = false) (on : s.pwr.railsOn = true) (i : StripIx)
    (differs : (s.strip i).decided ≠ (s.strip i).eff) (free : (s.strip i).changing = none) (late : 2 ≤ (s.strip i).changeAge) :
    ∃ t, exec (.frequencyChangeStart i) s = .next t ∧ (t.strip i).changing = some (s.strip i).decided ∧ (t.strip i).changeAge = 0 ∧
      ((t.strip i).stopped = true ↔ (s.strip i).decided.toNat ≤ (s.strip i).eff.toNat ∨
        voltageOf (s.sbd.calib.curves.get (dieOfStrip i)) (s.strip i).decided.toNat ≤ (s.pwr.rails.get (dieOfStrip i)).toNat) ∧
      (t.strip i).eff = (s.strip i).eff ∧ OnlyStrip s t i ∧ OnlyCounted s t ∧ t.mem = s.mem ∧ t.sync = s.sync ∧ t.job = s.job ∧
      t.evr = s.evr := by
  have done := execFrequencyChangeStart_begins awake on differs free late
  obtain ⟨f, change⟩ : ∃ f, f = fun x : Strip => { x with
      changing := some x.decided, stopped := !(decide ((s.strip i).eff.toNat < (s.strip i).decided.toNat) &&
        decide ((s.pwr.rails.get (dieOfStrip i)).toNat < voltageOf (s.sbd.calib.curves.get (dieOfStrip i)) (s.strip i).decided.toNat))
      changeAge := 0 } := ⟨_, rfl⟩
  rw [← change] at done
  obtain ⟨plots, rest⟩ := (s.modStrip i f).countStrip_countsOnly i 0x10 1
  have evr := (s.modStrip i f).countStrip_evr i 0x10 1
  have pwr : ((s.modStrip i f).countStrip i 0x10 1).pwr = (s.modStrip i f).pwr := (congrArg State.pwr rest :)
  have mem : ((s.modStrip i f).countStrip i 0x10 1).mem = s.mem := (congrArg State.mem rest :)
  have sync : ((s.modStrip i f).countStrip i 0x10 1).sync = s.sync := (congrArg State.sync rest :)
  have job : ((s.modStrip i f).countStrip i 0x10 1).job = s.job := (congrArg State.job rest :)
  generalize (s.modStrip i f).countStrip i 0x10 1 = t at done plots evr pwr mem sync job
  have strips (j : StripIx) : t.strip j = (s.modStrip i f).strip j := congrArg (fun p : Pwr => p.strips.get j) pwr
  have here : t.strip i = f (s.strip i) := (strips i).trans (s.modStrip_strip i f)
  rw [change] at here
  refine ⟨t, done, ?_, ?_, ?_, ?_, fun j ne => (strips j).trans (s.modStrip_strip_ne i j f ne.symm), plots.plot, mem, sync, job, evr⟩
  · rw [here]
  · rw [here]
  · rw [here]
    simp only [Bool.not_eq_true', Bool.and_eq_false_iff, decide_eq_false_iff_not, Nat.not_lt]
  · rw [here]

theorem railSlewDone_clause {s : State} (awake : s.evr.fallow = false) (on : s.pwr.railsOn = true) (d : DieIx) (f : Nat)
    (most : ∀ i, dieOfStrip i = d → (s.strip i).railCode ≤ f) (some_ : ∃ i, dieOfStrip i = d ∧ (s.strip i).railCode = f)
    (floor : 32 ≤ f) :
    ∃ t, exec (.railSlewDone d) s = .next t ∧ t.pwr.rails.get d = BitVec.ofNat 8 (voltageOf (s.sbd.calib.curves.get d) f) ∧
      (∀ e, e ≠ d → t.pwr.rails.get e = s.pwr.rails.get e) ∧
      (∀ i, t.strip i = if dieOfStrip i = d ∧ (s.strip i).changing.isSome = true then { s.strip i with stopped := true } else s.strip i) ∧
      { t with pwr := s.pwr } = s := by
  have done := execRailSlewDone_on awake on d
  rw [State.railTarget_eq most some_ floor] at done
  have rails (e : DieIx) := vector_get_set s.pwr.rails d e (BitVec.ofNat 8 (voltageOf (s.sbd.calib.curves.get d) f))
  generalize s.pwr.rails.set d.val (BitVec.ofNat 8 (voltageOf (s.sbd.calib.curves.get d) f)) = v at done rails
  obtain ⟨y, all, inside, outside⟩ := State.forEach_strips (s := { s with pwr := { s.pwr with rails := v } }) (l := stripsOf d)
    (at_ := id) (g := fun _ x => if x.changing.isSome then { x with stopped := true } else x) (fun _ _ _ => rfl)
    (by rw [List.map_id]; exact stripsOf_nodup d)
  refine ⟨_, done.trans (congrArg Host.Outcome.next all), ?_, fun e ne => ?_, fun i => ?_, rfl⟩
  · exact (rails d).trans (if_pos rfl)
  · exact (rails e).trans (if_neg ne.symm)
  · by_cases die : dieOfStrip i = d
    · refine (inside i (mem_stripsOf.2 die)).trans ?_
      simp only [die, true_and]
      rfl
    · refine (outside i ?_).trans (if_neg fun both => die both.1).symm
      rw [List.map_id]
      exact mt mem_stripsOf.1 die

theorem stripRestart_clause {s : State} (awake : s.evr.fallow = false) (i : StripIx) (n : BitVec 7)
    (changing : (s.strip i).changing = some n) (stopped : (s.strip i).stopped = true) :
    ∃ t, exec (.stripRestart i) s = .next t ∧ t.strip i = { s.strip i with eff := n, changing := none, stopped := false } ∧
      OnlyStrip s t i ∧ t.plots = s.plots ∧ t.sync = s.sync ∧ t.job = s.job ∧ t.evr = s.evr ∧ t.kuf = s.kuf := by
  refine ⟨_, execStripRestart_runs awake changing stopped, ?_⟩
  obtain ⟨u, hu⟩ : ∃ u, u = s.modStrip i fun x => { x with eff := n, changing := none, stopped := false } := ⟨_, rfl⟩
  rw [← hu]
  obtain ⟨-, sync, -, job, -, -, kuf, pwr, -⟩ := (State.core_eq _ _).1 <|
    u.traceOn_core (dieOfStrip i) (u.traceRec 0x08 0x3FF (Pos.none u.job.row) i.val ((s.strip i).eff.toNat * 256 + n.toNat)) false
  have strips (j : StripIx) : (u.traceDie (dieOfStrip i) 0x08 i.val ((s.strip i).eff.toNat * 256 + n.toNat)).strip j = u.strip j :=
    congrArg (fun p : Pwr => p.strips.get j) pwr
  refine ⟨(strips i).trans ?_, fun j ne => (strips j).trans ?_, (u.traceDie_plots ..).trans ?_, sync.trans ?_, job.trans ?_,
    (u.traceDie_evr ..).trans ?_, kuf.trans ?_⟩
  · rw [hu]; exact s.modStrip_strip ..
  · rw [hu]; exact s.modStrip_strip_ne _ _ _ ne.symm
  · rw [hu]; rfl
  · rw [hu]; rfl
  · rw [hu]; rfl
  · rw [hu]; rfl
  · rw [hu]; rfl

theorem supplyDroop_clause {s : State} (awake : s.evr.fallow = false) (i : StripIx) (n : Nat) (runs : (s.strip i).stopped = false) :
    ∃ t, exec (.supplyDroop i n) s = .next t ∧ OnlyCounted s t ∧ { t with plots := s.plots, evr := s.evr } = s := by
  obtain ⟨plots, rest⟩ := (s.rowAdd 2 i.val n).countStrip_countsOnly i 0x0E n
  refine ⟨_, execSupplyDroop_counts awake runs n, plots.plot, ?_⟩
  exact congrArg (fun u : State => { u with evr := s.evr }) rest

end Sys2Proof.Machine

namespace Sys2Proof.ClocksAndPower

open Sys2Proof.Machine Sys2Proof.Claim

/-- Settles O48: the stages of the control period, then each event by the equation of its instruction. -/
theorem powerIsControlledAndItsEventsFollowed : Obligations.PowerIsControlledAndItsEventsFollowed := by
  unfold Obligations.PowerIsControlledAndItsEventsFollowed
  refine ⟨fun s awake on => ⟨powerControlPeriod_clause awake on, frequencyChangeStart_clause awake on, railSlewDone_clause awake on,
    stripRestart_clause awake, supplyDroop_clause awake⟩, fun s awake => ⟨?railLow, ?trip, ?passes, ?invalid, ?timeout, ?feed, ?sowing⟩⟩
  case railLow =>
    intro d
    refine ⟨_, execCoreRailLow_raises awake d, State.raiseAll_reports (u := s) rfl _ _, ?_⟩
    rw [State.raiseAll_eq]
  case trip =>
    intro i T hot
    refine ⟨_, execThermalTrip_trips awake hot i, ?_, fun j => ?_, State.raiseAll_reports (u := s.tripped i T) rfl _ _, ?_⟩
    · rw [State.raiseAll_eq]; rfl
    · rw [State.raiseAll_eq]; exact s.tripped_strip i T j
    · rw [State.raiseAll_eq]; rfl
  case passes => exact fun l sixteen valid near => execEnvelopeReading_passes sixteen s valid near
  case invalid => exact fun l x sixteen mem bad => execEnvelopeReading_invalid sixteen s mem bad
  case timeout =>
    intro invalid first used
    refine ⟨_, execEnvelopeInvalidTimeout_defaults awake invalid first used, ?_, ?_,
      State.raiseAll_reports (u := { s with pwr := { s.pwr with envfail := true } }) rfl _ _, ?_⟩
    · rw [State.raiseAll_eq]
    · rw [State.raiseAll_eq, Pwr.budget, if_neg (by simp [used])]
      rfl
    · rw [State.raiseAll_eq]
  case feed =>
    intro v
    refine ⟨_, execFeedIdChange_keeps awake v, ?_,
      State.raiseAll_reports (u := { s with pins := { s.pins with feedid := v, feedKept := true } }) rfl _ _, ?_⟩
    · rw [State.raiseAll_eq]
    · rw [State.raiseAll_eq]
  case sowing =>
    intro i
    obtain ⟨plots, rest⟩ := s.forEach_plotsOfStrip i (fun q => { q with sowing := false }) fun _ => rfl
    exact ⟨_, rfl, plots, rest⟩

end Sys2Proof.ClocksAndPower
end

section
/-! What the endpoint of a port answers to each management command, and what the sideband target does (R420-R422, R453, R459). -/

namespace Sys2Proof.Machine

open Sys2Proof.Claim

/-! ### Answers -/

theorem byte_toNat (b : Byte) : byte b.toNat = b := BitVec.eq_of_toNat_eq (by simp [byte])

theorem State.hasEid_of {s : State} {h : HostPort} (up : s.serves h = true) (eid : (s.pci h).eid ≠ 0) : s.hasEid h = true := by
  simpa [State.hasEid, up] using eid

/-! ### MCTP control (R420) -/

section
variable {s : State} {h : HostPort}

theorem exec_setEndpointId_sets (up : s.serves h = true) {op : BitVec 2} {eid : Byte} (set : op = 0 ∨ op = 1) (zero : eid ≠ 0)
    (broadcast : eid ≠ 0xFF) :
    exec (.setEndpointId h op eid) s = .next (told (s.modPci h fun p => { p with eid := eid }) h (control 1 0 [0, eid, 0])) := by
  have notReset : op ≠ 2 := by obtain rfl | rfl := set <;> decide
  have notForce : op ≠ 3 := by obtain rfl | rfl := set <;> decide
  show execSetEndpointId h op eid s = _
  simp only [execSetEndpointId, up, notReset, notForce, zero, broadcast, decide_false, Bool.or_self, Bool.and_false, Bool.not_true,
    Bool.false_eq_true, if_false, State.modPci_pci]
  rfl

theorem exec_setEndpointId_refuses (up : s.serves h = true) {op : BitVec 2} {eid : Byte}
    (bad : op = 2 ∨ ((op = 0 ∨ op = 1) ∧ (eid = 0 ∨ eid = 0xFF))) :
    exec (.setEndpointId h op eid) s = .next (told s h (control 1 2 [])) := by
  have cond : (decide (op = 2) || (decide (op ≠ 3) && (decide (eid = 0) || decide (eid = 0xFF)))) = true := by
    obtain rfl | ⟨sets, noEid⟩ := bad
    · rfl
    · have notForce : op ≠ 3 := by obtain rfl | rfl := sets <;> decide
      have bad : (decide (eid = 0) || decide (eid = 0xFF)) = true := by simpa using noEid
      rw [bad, decide_eq_true notForce, Bool.and_true, Bool.or_true]
  show execSetEndpointId h op eid s = _
  unfold execSetEndpointId
  rw [up, if_neg (by decide), if_pos cond]
  rfl

theorem exec_getEndpointId (up : s.serves h = true) :
    exec (.getEndpointId h) s = .next (told s h (control 2 0 [(s.pci h).eid, 0, 0])) := by
  show execGetEndpointId h s = _
  rw [execGetEndpointId, up]
  rfl

variable (e : s.hasEid h = true)
include e

theorem exec_getEndpointUuid :
    exec (.getEndpointUuid h) s = .next (told s h ([0, 3, 0] ++ bytesOfNat 16 Config.endpointUuid.toNat)) := by
  show execGetEndpointUuid h s = _
  rw [execGetEndpointUuid, e]
  rfl

theorem exec_getMctpVersionSupport_base {x : Byte} (base : x = 0xFF ∨ x = 0) :
    exec (.getMctpVersionSupport h x) s = .next (told s h [0, 4, 0, 1, 0xF1, 0xF3, 0xFF, 0]) := by
  have cond : (decide (x = 0xFF) || decide (x = 0)) = true := by simpa using base
  show execGetMctpVersionSupport h x s = _
  rw [execGetMctpVersionSupport, e, cond]
  rfl

theorem exec_getMctpVersionSupport_free {x : Byte} (other : x = 5 ∨ x = 0x7E) :
    exec (.getMctpVersionSupport h x) s =
      .next { told s h ([0, 4, 0, 1] ++ bytesOfNat 4 (Config.freeNat s.freeCtr)) with freeCtr := s.freeCtr + 1 } := by
  have notBase : (decide (x = 0xFF) || decide (x = 0)) = false := by obtain rfl | rfl := other <;> decide
  have cond : (decide (x = 5) || decide (x = 0x7E)) = true := by simpa using other
  show execGetMctpVersionSupport h x s = _
  rw [execGetMctpVersionSupport, e, notBase, cond]
  cases h <;> rfl

theorem exec_getMctpVersionSupport_none {x : Byte} (all : x ≠ 0xFF) (base : x ≠ 0) (spdm_ : x ≠ 5) (vendor : x ≠ 0x7E) :
    exec (.getMctpVersionSupport h x) s = .next (told s h [0, 4, 0x80]) := by
  show execGetMctpVersionSupport h x s = _
  rw [execGetMctpVersionSupport, e, decide_eq_false all, decide_eq_false base, decide_eq_false spdm_, decide_eq_false vendor]
  rfl

theorem exec_getMessageTypeSupport : exec (.getMessageTypeSupport h) s = .next (told s h [0, 5, 0, 2, 5, 0x7E]) := by
  show execGetMessageTypeSupport h s = _
  rw [execGetMessageTypeSupport, e]
  rfl

theorem exec_getVendorMessageSupport_first : exec (.getVendorMessageSupport h 0) s =
    .next { told s h ([0, 6, 0, 0xFF, 0, 0x1F, 0x7D] ++ bytesOfNat 2 (Config.freeNat s.freeCtr)) with freeCtr := s.freeCtr + 1 } := by
  show execGetVendorMessageSupport h 0 s = _
  rw [execGetVendorMessageSupport, e]
  cases h <;> rfl

theorem exec_getVendorMessageSupport_none {x : Byte} (other : x ≠ 0) :
    exec (.getVendorMessageSupport h x) s = .next (told s h [0, 6, 2]) := by
  show execGetVendorMessageSupport h x s = _
  rw [execGetVendorMessageSupport, e, if_neg (by decide), if_pos other]
  rfl

theorem exec_unsupportedRequest_control {c : Byte} (unknown : c = 0 ∨ 6 < c.toNat) :
    exec (.unsupportedRequest h false c) s = .next (told s h [0, c, 5]) := by
  have out : c ∉ ([1, 2, 3, 4, 5, 6] : List Byte) := by
    simp only [List.mem_cons, List.not_mem_nil, or_false]
    rintro (rfl | rfl | rfl | rfl | rfl | rfl) <;> exact absurd unknown (by decide)
  show execUnsupportedRequest h false c s = _
  simp only [execUnsupportedRequest, e, Bool.false_eq_true, if_false, decide_eq_false out, Bool.not_true, Bool.or_self, control, byte_toNat]
  rfl

/-! ### Niholt management commands (R421, R422) -/

theorem exec_getHealth (q : Byte) : exec (.getHealth h q) s = .next (told s h ([0x7E, 0x1F, 0x7D, 0x81, q, 0] ++
    bytesOfWords [s.sbd.status, s.planstat, s.evrstatus, s.pwr.input, w32 s.kuf.node.toNat])) := by
  show execGetHealth h q s = _
  rw [execGetHealth, e]
  rfl

theorem exec_readBb (q : Byte) {off : W32} (aligned : off.toNat % 32 = 0) (inside : off.toNat < 0x400000) :
    exec (.readBb h q off) s = .next (told s h ([0x7E, 0x1F, 0x7D, 0x82, q, 0] ++ cellsGet 0 s.evr.blackbox off.toNat 32)) := by
  show execReadBb h q off s = _
  unfold execReadBb
  rw [e, if_neg (by decide), if_neg (by simp [aligned, inside])]
  rfl

theorem exec_readBb_refuses (q : Byte) {off : W32} (bad : off.toNat % 32 ≠ 0 ∨ 0x400000 ≤ off.toNat) :
    exec (.readBb h q off) s = .next (told s h [0x7E, 0x1F, 0x7D, 0x82, q, 2]) := by
  show execReadBb h q off s = _
  unfold execReadBb
  rw [e, if_neg (by decide), if_pos (by simpa using bad)]
  rfl

theorem exec_resetModule (q : Byte) (role : s.isControl h = true ∨ s.recwin = true) : exec (.resetModule h q) s =
    .next (told (s.modPci h fun p => { p with resetDue := true }) h [0x7E, 0x1F, 0x7D, 0x83, q, 0]) := by
  have ok : s.roleOk h = true := by simpa [State.roleOk] using role
  show execResetModule h q s = _
  rw [execResetModule, e, ok]
  rfl

theorem exec_resetModule_refuses (q : Byte) (other : s.isControl h = false) (closed : s.recwin = false) :
    exec (.resetModule h q) s = .next (told s h [0x7E, 0x1F, 0x7D, 0x83, q, 1]) := by
  have no : s.roleOk h = false := by rw [State.roleOk, other, closed]; rfl
  show execResetModule h q s = _
  rw [execResetModule, e, no]
  rfl

theorem exec_fuseKey_refused (q i : Byte) (d : List Byte) (may : s.mayFuse h = false) :
    exec (.fuseKey h q i d) s = .next (told s h [0x7E, 0x1F, 0x7D, 0x84, q, 1]) := by
  show execFuseKey h q i d s = _
  rw [execFuseKey, e, may]
  rfl

theorem exec_disableKey_refused (q i : Byte) (may : s.mayFuse h = false) :
    exec (.disableKey h q i) s = .next (told s h [0x7E, 0x1F, 0x7D, 0x85, q, 1]) := by
  show execDisableKey h q i s = _
  rw [execDisableKey, e, may]
  rfl

variable (may : s.mayFuse h = true)
include may

theorem exec_fuseKey_invalid (q : Byte) {i : Byte} {d : List Byte} (bad : i = 0 ∨ 3 < i.toNat ∨ d.length ≠ 48) :
    exec (.fuseKey h q i d) s = .next (told s h [0x7E, 0x1F, 0x7D, 0x84, q, 2]) := by
  have zero : i = 0 ↔ i.toNat = 0 := ⟨fun z => z ▸ rfl, fun z => BitVec.eq_of_toNat_eq z⟩
  have cond : (decide (i.toNat = 0) || decide (3 < i.toNat) || decide (d.length ≠ 48)) = true := by
    rw [zero] at bad
    simpa only [Bool.or_eq_true, decide_eq_true_eq, or_assoc] using bad
  show execFuseKey h q i d s = _
  unfold execFuseKey
  rw [e, may, if_neg (by decide), if_neg (by decide), if_pos cond]
  rfl

theorem exec_fuseKey (q : Byte) {i : Byte} {d : List Byte} {k : Fin 4} (slot : i.toNat = k.val) (ne : k ≠ 0) (digest : d.length = 48) :
    exec (.fuseKey h q i d) s = .next (if (s.sbd.keys.get k).fused then told s h [0x7E, 0x1F, 0x7D, 0x84, q, 3]
      else told (s.setKey k.val { fused := true, enabled := true, digest := BitVec.ofNat 384 (natOfBytes d) }) h
        [0x7E, 0x1F, 0x7D, 0x84, q, 0]) := by
  have zero : k.val ≠ 0 := fun z => ne (Fin.ext z)
  have small : ¬3 < k.val := by omega
  have cond : ¬(decide (k.val = 0) || decide (3 < k.val) || decide (d.length ≠ 48)) = true := by simp [zero, small, digest]
  show execFuseKey h q i d s = _
  unfold execFuseKey
  rw [e, may, if_neg (by decide), if_neg (by decide), slot, if_neg cond, Sbd.key_eq_get]
  split
  · rfl
  · rfl

theorem exec_disableKey_invalid (q : Byte) {i : Byte} (bad : 3 < i.toNat) :
    exec (.disableKey h q i) s = .next (told s h [0x7E, 0x1F, 0x7D, 0x85, q, 2]) := by
  show execDisableKey h q i s = _
  unfold execDisableKey
  rw [e, may, if_neg (by decide), if_neg (by decide), if_pos bad]
  rfl

theorem exec_disableKey_off (q : Byte) {i : Byte} {k : Fin 4} (slot : i.toNat = k.val) (off : (s.sbd.keys.get k).enabled = false) :
    ∃ c, (c = 0 ∨ c = 2) ∧ exec (.disableKey h q i) s =
      .next { told s h [0x7E, 0x1F, 0x7D, 0x85, q, c] with freeCtr := s.freeCtr + 1 } := by
  refine ⟨byte (Config.freeNat s.freeCtr % 2 * 2), ?_, ?_⟩
  · obtain zero | one : Config.freeNat s.freeCtr % 2 = 0 ∨ Config.freeNat s.freeCtr % 2 = 1 := by omega
    · rw [zero]; exact .inl rfl
    · rw [one]; exact .inr rfl
  · have small : ¬3 < k.val := by omega
    show execDisableKey h q i s = _
    unfold execDisableKey
    rw [e, may, if_neg (by decide), if_neg (by decide), slot, if_neg small, Sbd.key_eq_get, off]
    cases h <;> rfl

theorem exec_disableKey_last (q : Byte) {i : Byte} {k : Fin 4} (slot : i.toNat = k.val) (on : (s.sbd.keys.get k).enabled = true)
    (others : ∀ j, j ≠ k → (s.sbd.keys.get j).enabled = false) :
    exec (.disableKey h q i) s = .next (told s h [0x7E, 0x1F, 0x7D, 0x85, q, 4]) := by
  have small : ¬3 < k.val := by omega
  show execDisableKey h q i s = _
  unfold execDisableKey
  rw [e, may, if_neg (by decide), if_neg (by decide), slot, if_neg small, Sbd.key_eq_get, on, if_neg (by decide),
    if_pos ((enabledSlots_le_one_iff _ k on).2 others)]
  rfl

theorem exec_disableKey (q : Byte) {i : Byte} {k : Fin 4} (slot : i.toNat = k.val) (on : (s.sbd.keys.get k).enabled = true)
    (another : ∃ j, j ≠ k ∧ (s.sbd.keys.get j).enabled = true) :
    exec (.disableKey h q i) s = .next (told (s.setKey k.val { s.sbd.keys.get k with enabled := false }) h
      [0x7E, 0x1F, 0x7D, 0x85, q, 0]) := by
  have small : ¬3 < k.val := by omega
  have several : ¬(s.sbd.keys.toList.filter fun y => y.enabled).length ≤ 1 := fun last => by
    obtain ⟨j, ne, enabled⟩ := another
    exact absurd ((enabledSlots_le_one_iff _ k on).1 last j ne) (by rw [enabled]; decide)
  show execDisableKey h q i s = _
  unfold execDisableKey
  rw [e, may, if_neg (by decide), if_neg (by decide), slot, if_neg small, Sbd.key_eq_get, on, if_neg (by decide), if_neg several]
  rfl

end

/-- A key slot below 4 takes new contents. -/
theorem State.setKey_eq (s : State) (k : Fin 4) (x : KeySlot) :
    s.setKey k.val x = { s with sbd := { s.sbd with keys := s.sbd.keys.set k.val x } } := by
  have same : s.sbd.keys.setIfInBounds k.val x = s.sbd.keys.set k.val x :=
    Vector.ext fun i small => by rw [Vector.getElem_setIfInBounds, Vector.getElem_set]
  rw [State.setKey, same]

/-! ### The sideband target (R453, R459) -/

section
variable {s : State} (on : s.sidebandServes = true)
include on

theorem exec_setdasa (a : BitVec 7) : exec (.setdasa a) s =
    .next (if s.pins.sbAddr.isSome then s else { s with pins := { s.pins with sbAddr := some a } }) := by
  show execSetdasa a s = _
  rw [execSetdasa, on]
  cases s.pins.sbAddr.isSome <;> rfl

theorem exec_sidebandPointerWrite (b : Byte) : exec (.sidebandPointerWrite [b]) s =
    .next (if b.toNat % 4 = 0 then { s with pins := { s.pins with sbPtr := b.toNat } } else s) := by
  show execSidebandPointerWrite [b] s = _
  by_cases aligned : b.toNat % 4 = 0
  · simp only [execSidebandPointerWrite, on, aligned, decide_true, Bool.and_self, if_true]
  · simp only [execSidebandPointerWrite, on, aligned, decide_false, Bool.and_false, Bool.false_eq_true, if_false]

theorem exec_sidebandWordRead : exec .sidebandWordRead s = .next { s with pins := { s.pins with
    sbOut := s.sidebandWord s.pins.sbPtr, sbPtr := (s.pins.sbPtr + 4) % 256 } } := by
  show execSidebandWordRead s = _
  rw [execSidebandWordRead, on]
  rfl

theorem exec_sbSclStuckTimeout :
    exec .sbSclStuckTimeout s = .next { s with pins := { s.pins with sbAddr := none, sbPtr := 0, sbOut := 0 } } := by
  show execSbSclStuckTimeout s = _
  rw [execSbSclStuckTimeout, on]
  rfl

end

/-- A write of more or fewer bytes than one is ignored. -/
theorem exec_sidebandPointerWrite_ignored (s : State) {l : List Byte} (ne : l.length ≠ 1) : exec (.sidebandPointerWrite l) s = .next s := by
  show execSidebandPointerWrite l s = _
  unfold execSidebandPointerWrite
  split
  · exact absurd rfl ne
  · rfl

end Sys2Proof.Machine
end

section
/-! Attestation: what the endpoint of a port answers to each SPDM request, and what the connection keeps (R423-R425). -/

namespace Sys2Proof.Machine

open Sys2Proof.Claim

/-! ### An answer, and what the connection keeps of it -/

/-- The state after an SPDM answer of a port: `f` is what the connection keeps, `n` the free values that have been taken. -/
def State.talk (s : State) (h : HostPort) (f : Pci → Pci) (r : List Byte) (n : Nat) : State :=
  (({ s with freeCtr := n } : State).modPci h f).sendSpdm h r

theorem State.talk_pci (s : State) (h : HostPort) (f : Pci → Pci) (r : List Byte) (n : Nat) :
    (s.talk h f r n).pci h = { f (s.pci h) with mctp := 0x05 :: r } := by
  cases h <;> rfl

/-- A change of what SPDM keeps at a port. -/
def KeepsSpdm (f : Pci → Pci) : Prop :=
  ∀ p, f p = { p with spdm := (f p).spdm, transcript := (f p).transcript, certLog := (f p).certLog, measLog := (f p).measLog }

theorem State.talk_talked (s : State) (h : HostPort) {f : Pci → Pci} (keeps : KeepsSpdm f) (r : List Byte) (n : Nat) :
    Talked s (s.talk h f r n) h := by
  refine ⟨?_, fun k ne => ?_, ?_⟩
  · rw [State.talk_pci]
    exact congrArg (fun p : Pci => { p with mctp := 0x05 :: r }) (keeps (s.pci h))
  · unfold State.talk State.sendSpdm State.sendMctp
    rw [State.modPci_pci_ne _ _ _ _ ne.symm, State.modPci_pci_ne _ _ _ _ ne.symm]
    cases k <;> rfl
  · cases h <;> rfl

/-! ### The connection (R423) -/

section
variable {s : State} {h : HostPort} (e : s.hasEid h = true)
include e

theorem exec_getVersion : exec (.getVersion h) s = .next (toldSpdm (s.modPci h fun p => { p with
    spdm := 1, transcript := [0x10, 0x84, 0, 0, 0x10, 0x04, 0, 0, 0, 1, 0, 0x12], certLog := [], measLog := [] }) h
      [0x10, 0x04, 0, 0, 0, 1, 0, 0x12]) := by
  show execGetVersion h s = _
  rw [execGetVersion, e]
  rfl

theorem exec_unsupportedRequest_spdm {c : Byte} (unknown : c ∉ ([0x84, 0xE1, 0xE3, 0x81, 0x82, 0x83, 0xE0] : List Byte)) :
    exec (.unsupportedRequest h true c) s = .next (toldSpdm s h [0x12, 0x7F, 7, c]) := by
  show execUnsupportedRequest h true c s = _
  simp only [execUnsupportedRequest, e, if_true, decide_eq_false unknown, Bool.not_true, Bool.or_self, Bool.false_eq_true, if_false, spdm,
    byte_toNat]
  rfl

/-- The answer to GET_CAPABILITIES with a free value. -/
def capabilities (v : Nat) : List Byte := spdm 0x61 0 0 ([0, byte v, 0, 0, 0x16, 0, 0, 0] ++ bytesOfNat 8 (v / 256))

theorem exec_getCapabilities (q : List Byte) (begun : (s.pci h).spdm = 1) : exec (.getCapabilities h q) s =
    .next (s.talk h (fun p => { p with spdm := 2, transcript := p.transcript ++ q ++ capabilities (Config.freeNat s.freeCtr) })
      (capabilities (Config.freeNat s.freeCtr)) (s.freeCtr + 1)) := by
  show execGetCapabilities h q s = _
  unfold execGetCapabilities
  rw [e, if_neg (by decide), if_neg (not_not.2 begun)]
  rfl

/-- The answer to NEGOTIATE_ALGORITHMS. -/
def algorithms : List Byte := spdm 0x63 0 0 ([36, 0, 1, 0, 4, 0, 0, 0, 0x80, 0, 0, 0, 2, 0, 0, 0] ++ zeros 16)

theorem exec_negotiateAlgorithms (q : List Byte) (capable : (s.pci h).spdm = 2) : exec (.negotiateAlgorithms h q) s =
    .next (s.talk h (fun p => { p with spdm := 3, transcript := p.transcript ++ q ++ algorithms }) algorithms s.freeCtr) := by
  show execNegotiateAlgorithms h q s = _
  unfold execNegotiateAlgorithms
  rw [e, if_neg (by decide), if_neg (not_not.2 capable)]
  rfl

/-! ### Requests out of their order (R423) -/

theorem exec_getCapabilities_unexpected (q : List Byte) (ne : (s.pci h).spdm ≠ 1) :
    exec (.getCapabilities h q) s = .next (toldSpdm s h [0x12, 0x7F, 4, 0]) := by
  show execGetCapabilities h q s = _
  rw [execGetCapabilities, e, if_neg (by decide), if_pos ne]
  rfl

theorem exec_negotiateAlgorithms_unexpected (q : List Byte) (ne : (s.pci h).spdm ≠ 2) :
    exec (.negotiateAlgorithms h q) s = .next (toldSpdm s h [0x12, 0x7F, 4, 0]) := by
  show execNegotiateAlgorithms h q s = _
  rw [execNegotiateAlgorithms, e, if_neg (by decide), if_pos ne]
  rfl

theorem exec_getDigests_unexpected (ne : (s.pci h).spdm ≠ 3) :
    exec (.getDigests h) s = .next (toldSpdm s h [0x12, 0x7F, 4, 0]) := by
  show execGetDigests h s = _
  rw [execGetDigests, e, if_neg (by decide), if_pos ne]
  rfl

theorem exec_getCertificate_unexpected (i : Byte) (o n : BitVec 16) (ne : (s.pci h).spdm ≠ 3) :
    exec (.getCertificate h i o n) s = .next (toldSpdm s h [0x12, 0x7F, 4, 0]) := by
  show execGetCertificate h i o n s = _
  unfold execGetCertificate
  rw [e, if_neg (by decide), if_pos ne]
  rfl

theorem exec_challenge_unexpected (i k : Byte) (nonce : List Byte) (ne : (s.pci h).spdm ≠ 3) :
    exec (.challenge h i k nonce) s = .next (toldSpdm s h [0x12, 0x7F, 4, 0]) := by
  show execChallenge h i k nonce s = _
  rw [execChallenge, e, if_neg (by decide), if_pos ne]
  rfl

theorem exec_getMeasurements_unexpected (signed : Bool) (k : Byte) (nonce : List Byte) (i : Byte) (ne : (s.pci h).spdm ≠ 3) :
    exec (.getMeasurements h signed k nonce i) s = .next (toldSpdm s h [0x12, 0x7F, 4, 0]) := by
  show execGetMeasurements h signed k nonce i s = _
  unfold execGetMeasurements
  rw [e, if_neg (by decide), if_pos ne]
  rfl

/-! ### The identity chain (R424) -/

variable (agreed : (s.pci h).spdm = 3)
include agreed

theorem exec_getDigests : exec (.getDigests h) s = .next (s.talk h (fun p => { p with
    certLog := p.certLog ++ [0x12, 0x81, 0, 0] ++ spdm 0x01 0 1 (sha384 Config.identityChain) })
      (spdm 0x01 0 1 (sha384 Config.identityChain)) s.freeCtr) := by
  show execGetDigests h s = _
  unfold execGetDigests
  rw [e, if_neg (by decide), if_neg (not_not.2 agreed)]
  rfl

/-- The answer to GET_CERTIFICATE: a part of the chain from an offset, with its length and that of the rest. -/
def certificate (o : Nat) (part : List Byte) : List Byte :=
  spdm 0x02 0 0 (bytesOfNat 2 part.length ++ bytesOfNat 2 (Config.identityChain.length - o - part.length) ++ part)

theorem exec_getCertificate {o n : BitVec 16} (inside : o.toNat < Config.identityChain.length) :
    exec (.getCertificate h 0 o n) s = .next (s.talk h (fun p => { p with
      certLog := p.certLog ++ spdm 0x82 0 0 (bytesOfNat 2 o.toNat ++ bytesOfNat 2 n.toNat) ++
        certificate o.toNat ((Config.identityChain.drop o.toNat).take n.toNat) })
          (certificate o.toNat ((Config.identityChain.drop o.toNat).take n.toNat)) s.freeCtr) := by
  have valid : ¬(decide ((0 : Byte) ≠ 0) || decide (Config.identityChain.length ≤ o.toNat)) = true := by simpa using inside
  show execGetCertificate h 0 o n s = _
  unfold execGetCertificate
  rw [e, if_neg (by decide), if_neg (not_not.2 agreed), if_neg valid]
  rfl

theorem exec_getCertificate_invalid {i : Byte} {o : BitVec 16} (n : BitVec 16) (bad : i ≠ 0 ∨ Config.identityChain.length ≤ o.toNat) :
    exec (.getCertificate h i o n) s = .next (toldSpdm s h [0x12, 0x7F, 1, 0]) := by
  have invalid : (decide (i ≠ 0) || decide (Config.identityChain.length ≤ o.toNat)) = true := by simpa using bad
  show execGetCertificate h i o n s = _
  unfold execGetCertificate
  rw [e, if_neg (by decide), if_neg (not_not.2 agreed), if_pos invalid]
  rfl

/-! ### CHALLENGE (R423) -/

/-- The summary of the measurements that a CHALLENGE asks for; `w` is a free value. -/
def State.challengeSummary (s : State) (k : Byte) (w : Nat) : List Byte :=
  if k = 0 then [] else if k = 1 then bytesOfNat 48 w else sha384 s.measBlocks

/-- The answer to CHALLENGE before its signature. -/
def challengeAuth (v sum : List Byte) : List Byte := spdm 0x03 0 1 (sha384 Config.identityChain ++ v ++ sum ++ [0, 0])

/-- The signature of a CHALLENGE's answer. -/
def State.challengeSignature (s : State) (h : HostPort) (k : Byte) (nonce v sum : List Byte) : List Byte :=
  signature ((s.pci h).transcript ++ (s.pci h).certLog ++ spdm 0x83 0 k.toNat nonce ++ challengeAuth v sum) s.freeCtr

theorem exec_challenge {k : Byte} (nonce : List Byte) (kind : k = 0 ∨ k = 1 ∨ k = 0xFF) {v sum : List Byte}
    (hv : v = bytesOfNat 32 (Config.freeNat s.freeCtr)) (hsum : sum = s.challengeSummary k (Config.freeNat (s.freeCtr + 1))) :
    exec (.challenge h 0 k nonce) s = .next (s.talk h (fun p => { p with certLog := [] })
      (challengeAuth v sum ++ s.challengeSignature h k nonce v sum) (s.freeCtr + 1 + 1)) := by
  have valid : ¬(decide ((0 : Byte) ≠ 0) || !(decide (k = 0) || decide (k = 1) || decide (k = 0xFF))) = true := by
    obtain rfl | rfl | rfl := kind <;> decide
  subst hv hsum
  show execChallenge h 0 k nonce s = _
  unfold execChallenge
  rw [e, if_neg (by decide), if_neg (not_not.2 agreed), if_neg valid]
  rfl

theorem exec_challenge_invalid {i k : Byte} (nonce : List Byte) (bad : i ≠ 0 ∨ (k ≠ 0 ∧ k ≠ 1 ∧ k ≠ 0xFF)) :
    exec (.challenge h i k nonce) s = .next (toldSpdm s h [0x12, 0x7F, 1, 0]) := by
  have invalid : (decide (i ≠ 0) || !(decide (k = 0) || decide (k = 1) || decide (k = 0xFF))) = true := by
    obtain slot | ⟨zero, one, all⟩ := bad
    · rw [decide_eq_true slot, Bool.true_or]
    · rw [decide_eq_false zero, decide_eq_false one, decide_eq_false all]
      exact Bool.or_true _
  show execChallenge h i k nonce s = _
  unfold execChallenge
  rw [e, if_neg (by decide), if_neg (not_not.2 agreed), if_pos invalid]
  rfl

/-! ### GET_MEASUREMENTS (R425) -/

/-- The answer to GET_MEASUREMENTS before its signature. -/
def measurements (m : Nat × List Byte) (k : Nat) (v : List Byte) : List Byte :=
  spdm 0x60 (if k = 0 then 7 else 0) 0 ([byte m.1] ++ bytesOfNat 3 m.2.length ++ m.2 ++ v ++ [0, 0])

/-- The request of a GET_MEASUREMENTS. -/
def measurementsRequest (signed : Bool) (k : Nat) (nonce : List Byte) (i : Byte) : List Byte :=
  spdm 0xE0 (b2n signed) k (if signed then nonce ++ [i] else [])

/-- The signature of the measurements where it is asked for. -/
def State.measSignature (s : State) (h : HostPort) (signed : Bool) (log : List Byte) : List Byte :=
  if signed then signature ((s.pci h).transcript ++ log) s.freeCtr else []

theorem exec_getMeasurements {signed : Bool} {k : Byte} (nonce : List Byte) {i : Byte} (op : k.toNat ≤ 7 ∨ k = 0xFF)
    (slot : signed = false ∨ i = 0) {v r log : List Byte} (hv : v = bytesOfNat 32 (Config.freeNat s.freeCtr))
    (hr : r = measurements (measured s k.toNat) k.toNat v)
    (hlog : log = (s.pci h).measLog ++ measurementsRequest signed k.toNat nonce i ++ r) :
    exec (.getMeasurements h signed k nonce i) s = .next (s.talk h (fun p => { p with measLog := if signed then [] else log })
      (r ++ s.measSignature h signed log) (s.freeCtr + 1)) := by
  have valid : ¬((decide (7 < k.toNat) && decide (k.toNat ≠ 0xFF)) || (signed && decide (i ≠ 0))) = true := by
    have opOk : (decide (7 < k.toNat) && decide (k.toNat ≠ 0xFF)) = false := by
      obtain low | rfl := op
      · rw [decide_eq_false (Nat.not_lt.2 low), Bool.false_and]
      · rfl
    have slotOk : (signed && decide (i ≠ 0)) = false := by
      obtain rfl | rfl := slot
      · exact Bool.false_and _
      · exact Bool.and_false _
    rw [opOk, slotOk]
    decide
  have blocks : (if k.toNat = 0 then 0 else if k.toNat = 0xFF then 7 else 1) = (measured s k.toNat).1 ∧
      (if k.toNat = 0 then [] else if k.toNat = 0xFF then s.measBlocks else s.measBlock k.toNat) = (measured s k.toNat).2 := by
    unfold measured
    split
    · exact ⟨rfl, rfl⟩
    split
    · exact ⟨rfl, rfl⟩
    · exact ⟨rfl, rfl⟩
  subst hv hr hlog
  show execGetMeasurements h signed k nonce i s = _
  unfold execGetMeasurements
  rw [e, if_neg (by decide), if_neg (not_not.2 agreed), if_neg valid, blocks.1, blocks.2]
  rfl

theorem exec_getMeasurements_invalid {signed : Bool} {k : Byte} (nonce : List Byte) {i : Byte}
    (bad : (7 < k.toNat ∧ k ≠ 0xFF) ∨ (signed = true ∧ i ≠ 0)) :
    exec (.getMeasurements h signed k nonce i) s = .next (toldSpdm s h [0x12, 0x7F, 1, 0]) := by
  have invalid : ((decide (7 < k.toNat) && decide (k.toNat ≠ 0xFF)) || (signed && decide (i ≠ 0))) = true := by
    obtain ⟨high, ne⟩ | ⟨rfl, slot⟩ := bad
    · have val : k.toNat ≠ 0xFF := fun same => ne (BitVec.eq_of_toNat_eq same)
      rw [decide_eq_true high, decide_eq_true val]
      rfl
    · rw [decide_eq_true slot]
      exact Bool.or_true _
  show execGetMeasurements h signed k nonce i s = _
  unfold execGetMeasurements
  rw [e, if_neg (by decide), if_neg (not_not.2 agreed), if_pos invalid]
  rfl

end

end Sys2Proof.Machine

namespace Sys2Proof.HostAttachment

open Sys2Proof.Machine Sys2Proof.Claim

/-- Settles O57: each request's answer, by the equation of its instruction. -/
theorem managementAttestationAndSidebandAnswer : Obligations.ManagementAttestationAndSidebandAnswer := by
  unfold Obligations.ManagementAttestationAndSidebandAnswer
  refine ⟨fun s h => ⟨fun up => ⟨?_, ?_, exec_getEndpointId up, fun eid => ?management⟩, fun on step => ?sideband⟩,
    fun s h up eid => ?attestation⟩
  · exact fun op eid set zero broadcast => exec_setEndpointId_sets up set zero broadcast
  · exact fun op eid bad => exec_setEndpointId_refuses up bad
  case management =>
    have e := State.hasEid_of up eid
    refine ⟨exec_getHealth e, fun q off => exec_readBb e q, fun q off => exec_readBb_refuses e q, exec_resetModule e,
      exec_resetModule_refuses e, fun no => ⟨fun q i d => exec_fuseKey_refused e q i d no, fun q i => exec_disableKey_refused e q i no⟩,
      fun may => ⟨fun q i d => exec_fuseKey_invalid e may q, fun q i d k slot ne digest => ⟨fun fused => ?_, fun blank => ?_⟩,
        fun q i => exec_disableKey_invalid e may q, fun q i k slot => ⟨exec_disableKey_off e may q slot, exec_disableKey_last e may q slot,
          fun on another => ?_⟩⟩,
      exec_getEndpointUuid e, fun x => exec_getMctpVersionSupport_base e,
      fun x other => ⟨_, bytesOfNat_length .., exec_getMctpVersionSupport_free e other⟩,
      fun x => exec_getMctpVersionSupport_none e, exec_getMessageTypeSupport e,
      ⟨_, bytesOfNat_length .., exec_getVendorMessageSupport_first e⟩, fun x => exec_getVendorMessageSupport_none e,
      fun c => exec_unsupportedRequest_control e⟩
    · rw [exec_fuseKey e may q slot ne digest, if_pos fused]
    · rw [exec_fuseKey e may q slot ne digest, if_neg (by rw [blank]; decide), State.setKey_eq]
    · rw [exec_disableKey e may q slot on another, State.setKey_eq]
  case sideband =>
    have serves : s.sidebandServes = true := by simp [State.sidebandServes, on, step]
    refine ⟨fun a free => ?_, fun a b taken => ?_, fun b aligned => ?_, fun b odd => ?_, fun l => exec_sidebandPointerWrite_ignored s,
      exec_sidebandWordRead serves, exec_sbSclStuckTimeout serves⟩
    · rw [exec_setdasa serves, free]; rfl
    · rw [exec_setdasa serves, taken]; rfl
    · rw [exec_sidebandPointerWrite serves, if_pos aligned]
    · rw [exec_sidebandPointerWrite serves, if_neg odd]
  case attestation =>
    have e := State.hasEid_of up eid
    refine ⟨exec_getVersion e, fun q begun => ?capabilities, fun q capable => ?algorithms, fun agreed => ⟨?digests, ?certificate,
      fun i o n => exec_getCertificate_invalid e agreed n, ?challenge, fun i k nonce => exec_challenge_invalid e agreed nonce,
      ?measurements, fun signed k nonce i => exec_getMeasurements_invalid e agreed nonce⟩, ?order,
      fun c => exec_unsupportedRequest_spdm e⟩
    case capabilities =>
      refine ⟨_, byte (Config.freeNat s.freeCtr), bytesOfNat 8 (Config.freeNat s.freeCtr / 256), exec_getCapabilities e q begun,
        bytesOfNat_length .., ?_, ?_, ?_, s.talk_talked h (fun _ => rfl) _ _⟩
      · rw [State.talk_pci]
      · rw [State.talk_pci]; rfl
      · rw [State.talk_pci]; rfl
    case algorithms =>
      refine ⟨_, exec_negotiateAlgorithms e q capable, ?_, ?_, ?_, s.talk_talked h (fun _ => rfl) _ _⟩
      · rw [State.talk_pci]
      · rw [State.talk_pci]; rfl
      · rw [State.talk_pci]; rfl
    case digests =>
      refine ⟨_, exec_getDigests e agreed, ?_, ?_, ?_, s.talk_talked h (fun _ => rfl) _ _⟩
      · rw [State.talk_pci]
      · rw [State.talk_pci]; rfl
      · rw [State.talk_pci]
    case certificate =>
      intro o n part inside hpart
      subst hpart
      refine ⟨_, exec_getCertificate e agreed inside, ?_, ?_, s.talk_talked h (fun _ => rfl) _ _⟩
      · rw [State.talk_pci]; rfl
      · rw [State.talk_pci]
    case challenge =>
      intro k nonce kind
      refine ⟨_, bytesOfNat 32 (Config.freeNat s.freeCtr), s.challengeSummary k (Config.freeNat (s.freeCtr + 1)), _,
        exec_challenge e agreed nonce kind rfl rfl, bytesOfNat_length .., ?_, ?_, ?_, rfl, ?_, ?_, ?_, s.talk_talked h (fun _ => rfl) _ _⟩
      · rintro rfl; rfl
      · rintro rfl; exact bytesOfNat_length ..
      · rintro rfl; rfl
      · rw [State.talk_pci]; rfl
      · rw [State.talk_pci]
      · rw [State.talk_pci]
    case measurements =>
      intro signed k nonce i op slot
      obtain ⟨v, hv⟩ : ∃ v, v = bytesOfNat 32 (Config.freeNat s.freeCtr) := ⟨_, rfl⟩
      obtain ⟨r, hr⟩ : ∃ r, r = measurements (measured s k.toNat) k.toNat v := ⟨_, rfl⟩
      obtain ⟨log, hlog⟩ : ∃ log, log = (s.pci h).measLog ++ measurementsRequest signed k.toNat nonce i ++ r := ⟨_, rfl⟩
      refine ⟨_, v, s.measSignature h signed log, r, exec_getMeasurements e agreed nonce op slot hv hr hlog, ?_, ?_, ?_, ?_, ?_, ?_,
        s.talk_talked h (fun _ => rfl) _ _⟩
      · rw [hv]; exact bytesOfNat_length ..
      · have zero : k.toNat = 0 ↔ k = 0 := ⟨fun z => BitVec.eq_of_toNat_eq z, fun z => z ▸ rfl⟩
        rw [hr, measurements, if_congr zero rfl rfl]
      · rintro rfl
        rw [State.talk_pci]
        exact ⟨rfl, hlog⟩
      · rintro rfl
        rw [State.talk_pci]
        refine ⟨rfl, ?_⟩
        rw [State.measSignature, if_pos rfl, hlog, ← List.append_assoc, ← List.append_assoc]
        rfl
      · rw [State.talk_pci]; rfl
      · rw [State.talk_pci]
    case order =>
      rintro c (⟨ne, q, rfl⟩ | ⟨ne, q, rfl⟩ | ⟨ne, rfl | ⟨i, o, n, rfl⟩ | ⟨i, k, n, rfl⟩ | ⟨g, k, n, i, rfl⟩⟩)
      · exact exec_getCapabilities_unexpected e q ne
      · exact exec_negotiateAlgorithms_unexpected e q ne
      · exact exec_getDigests_unexpected e ne
      · exact exec_getCertificate_unexpected e i o n ne
      · exact exec_challenge_unexpected e i k n ne
      · exact exec_getMeasurements_unexpected e g k n i ne

end Sys2Proof.HostAttachment
end
